-- ==== Sys2Proof/Word.lean ====
section
/-! DEFINITION. The data units of the device (spec R7, R8) as types: nothing here computes. -/

namespace Sys2Proof

/-- The 48-bit scalar of R7 and R69; also a virtual address (R117) and a program counter (R35). -/
abbrev Word := BitVec 48

/-- The 64-bit xword of R7. -/
abbrev XWord := BitVec 64

/-- One byte of memory (R7). -/
abbrev Byte := BitVec 8

/-- One 128-byte tile row, lane 0 in the low bits (R83, R8). -/
abbrev Row := BitVec 1024

end Sys2Proof
end

