-- ==== Sys2Proof/Syntax.lean ====
section
/-! DEFINITION. The instructions and device events of the Skojor: one constructor for each row of the opcode table.
An encoded instruction carries its operand fields at the widths the table gives them (R226); a row with no encoding is a
step of the device itself (spec file 95) and carries what names the object it happens to. -/

namespace Sys2Proof
/-- One constructor per row of the opcode table: the encoded instructions, those that name no scalar register or unit last, then the
device events. -/
inductive Instr where
  /-- `jr` (R267). -/
  | jr (a : BitVec 5) (m : BitVec 1) (t : BitVec 3)
  /-- `callr` (R268). -/
  | callr (a : BitVec 5) (m : BitVec 1) (t : BitVec 3)
  /-- `yield` (R271). -/
  | yield (t : BitVec 3)
  /-- `go` (R273). -/
  | go (a : BitVec 5) (m : BitVec 1) (t : BitVec 3)
  /-- `park` (R272). -/
  | park (t : BitVec 3)
  /-- `exit` (R274). -/
  | exit (t : BitVec 3)
  /-- `loop` (R266). -/
  | loop (d : BitVec 5) (i : BitVec 12) (t : BitVec 3)
  /-- `add` (R258). -/
  | add (d : BitVec 5) (a : BitVec 5) (b : BitVec 5) (h : BitVec 1) (m : BitVec 2) (t : BitVec 3)
  /-- `sub` (R258). -/
  | sub (d : BitVec 5) (a : BitVec 5) (b : BitVec 5) (h : BitVec 1) (m : BitVec 2) (t : BitVec 3)
  /-- `and` (R258). -/
  | and (d : BitVec 5) (a : BitVec 5) (b : BitVec 5) (h : BitVec 1) (m : BitVec 2) (t : BitVec 3)
  /-- `or` (R258). -/
  | or (d : BitVec 5) (a : BitVec 5) (b : BitVec 5) (h : BitVec 1) (m : BitVec 2) (t : BitVec 3)
  /-- `xor` (R258). -/
  | xor (d : BitVec 5) (a : BitVec 5) (b : BitVec 5) (h : BitVec 1) (m : BitVec 2) (t : BitVec 3)
  /-- `andn` (R258). -/
  | andn (d : BitVec 5) (a : BitVec 5) (b : BitVec 5) (h : BitVec 1) (m : BitVec 2) (t : BitVec 3)
  /-- `shl` (R258). -/
  | shl (d : BitVec 5) (a : BitVec 5) (b : BitVec 5) (h : BitVec 1) (m : BitVec 2) (t : BitVec 3)
  /-- `shr` (R258). -/
  | shr (d : BitVec 5) (a : BitVec 5) (b : BitVec 5) (h : BitVec 1) (m : BitVec 2) (t : BitVec 3)
  /-- `sar` (R258). -/
  | sar (d : BitVec 5) (a : BitVec 5) (b : BitVec 5) (h : BitVec 1) (m : BitVec 2) (t : BitVec 3)
  /-- `mul` (R258). -/
  | mul (d : BitVec 5) (a : BitVec 5) (b : BitVec 5) (h : BitVec 1) (m : BitVec 2) (t : BitVec 3)
  /-- `mulh` (R258). -/
  | mulh (d : BitVec 5) (a : BitVec 5) (b : BitVec 5) (h : BitVec 1) (m : BitVec 2) (t : BitVec 3)
  /-- `mulhn` (R258). -/
  | mulhn (d : BitVec 5) (a : BitVec 5) (b : BitVec 5) (h : BitVec 1) (m : BitVec 2) (t : BitVec 3)
  /-- `div` (R258). -/
  | div (d : BitVec 5) (a : BitVec 5) (b : BitVec 5) (h : BitVec 1) (m : BitVec 2) (t : BitVec 3)
  /-- `divn` (R258). -/
  | divn (d : BitVec 5) (a : BitVec 5) (b : BitVec 5) (h : BitVec 1) (m : BitVec 2) (t : BitVec 3)
  /-- `rem` (R258). -/
  | rem (d : BitVec 5) (a : BitVec 5) (b : BitVec 5) (h : BitVec 1) (m : BitVec 2) (t : BitVec 3)
  /-- `remn` (R258). -/
  | remn (d : BitVec 5) (a : BitVec 5) (b : BitVec 5) (h : BitVec 1) (m : BitVec 2) (t : BitVec 3)
  /-- `min` (R258). -/
  | min (d : BitVec 5) (a : BitVec 5) (b : BitVec 5) (h : BitVec 1) (m : BitVec 2) (t : BitVec 3)
  /-- `max` (R258). -/
  | max (d : BitVec 5) (a : BitVec 5) (b : BitVec 5) (h : BitVec 1) (m : BitVec 2) (t : BitVec 3)
  /-- `minn` (R258). -/
  | minn (d : BitVec 5) (a : BitVec 5) (b : BitVec 5) (h : BitVec 1) (m : BitVec 2) (t : BitVec 3)
  /-- `maxn` (R258). -/
  | maxn (d : BitVec 5) (a : BitVec 5) (b : BitVec 5) (h : BitVec 1) (m : BitVec 2) (t : BitVec 3)
  /-- `clz` (R258). -/
  | clz (d : BitVec 5) (a : BitVec 5) (h : BitVec 1) (m : BitVec 1) (t : BitVec 3)
  /-- `ctz` (R258). -/
  | ctz (d : BitVec 5) (a : BitVec 5) (h : BitVec 1) (m : BitVec 1) (t : BitVec 3)
  /-- `popc` (R258). -/
  | popc (d : BitVec 5) (a : BitVec 5) (h : BitVec 1) (m : BitVec 1) (t : BitVec 3)
  /-- `addi` (R259). -/
  | addi (d : BitVec 5) (a : BitVec 5) (i : BitVec 12) (m : BitVec 1) (t : BitVec 3)
  /-- `andi` (R259). -/
  | andi (d : BitVec 5) (a : BitVec 5) (i : BitVec 12) (m : BitVec 1) (t : BitVec 3)
  /-- `ori` (R259). -/
  | ori (d : BitVec 5) (a : BitVec 5) (i : BitVec 12) (m : BitVec 1) (t : BitVec 3)
  /-- `xori` (R259). -/
  | xori (d : BitVec 5) (a : BitVec 5) (i : BitVec 12) (m : BitVec 1) (t : BitVec 3)
  /-- `shli` (R259). -/
  | shli (d : BitVec 5) (a : BitVec 5) (n : BitVec 6) (m : BitVec 1) (t : BitVec 3)
  /-- `shri` (R259). -/
  | shri (d : BitVec 5) (a : BitVec 5) (n : BitVec 6) (m : BitVec 1) (t : BitVec 3)
  /-- `sari` (R259). -/
  | sari (d : BitVec 5) (a : BitVec 5) (n : BitVec 6) (m : BitVec 1) (t : BitVec 3)
  /-- `li` (R259). -/
  | li (d : BitVec 5) (i : BitVec 18) (t : BitVec 3)
  /-- `lui` (R259). -/
  | lui (d : BitVec 5) (i : BitVec 18) (t : BitVec 3)
  /-- `cmp.eq` (R262). -/
  | cmpEq (p : BitVec 5) (a : BitVec 5) (b : BitVec 5) (m : BitVec 2) (t : BitVec 3)
  /-- `cmp.ne` (R262). -/
  | cmpNe (p : BitVec 5) (a : BitVec 5) (b : BitVec 5) (m : BitVec 2) (t : BitVec 3)
  /-- `cmp.lt` (R262). -/
  | cmpLt (p : BitVec 5) (a : BitVec 5) (b : BitVec 5) (m : BitVec 2) (t : BitVec 3)
  /-- `cmp.ge` (R262). -/
  | cmpGe (p : BitVec 5) (a : BitVec 5) (b : BitVec 5) (m : BitVec 2) (t : BitVec 3)
  /-- `cmp.ltn` (R262). -/
  | cmpLtn (p : BitVec 5) (a : BitVec 5) (b : BitVec 5) (m : BitVec 2) (t : BitVec 3)
  /-- `cmp.gen` (R262). -/
  | cmpGen (p : BitVec 5) (a : BitVec 5) (b : BitVec 5) (m : BitVec 2) (t : BitVec 3)
  /-- `cmp.tst` (R262). -/
  | cmpTst (p : BitVec 5) (a : BitVec 5) (b : BitVec 5) (m : BitVec 2) (t : BitVec 3)
  /-- `cmp.tstz` (R262). -/
  | cmpTstz (p : BitVec 5) (a : BitVec 5) (b : BitVec 5) (m : BitVec 2) (t : BitVec 3)
  /-- `cmpi.eq` (R262). -/
  | cmpiEq (p : BitVec 5) (a : BitVec 5) (i : BitVec 9) (m : BitVec 1) (t : BitVec 3)
  /-- `cmpi.ne` (R262). -/
  | cmpiNe (p : BitVec 5) (a : BitVec 5) (i : BitVec 9) (m : BitVec 1) (t : BitVec 3)
  /-- `cmpi.lt` (R262). -/
  | cmpiLt (p : BitVec 5) (a : BitVec 5) (i : BitVec 9) (m : BitVec 1) (t : BitVec 3)
  /-- `cmpi.ge` (R262). -/
  | cmpiGe (p : BitVec 5) (a : BitVec 5) (i : BitVec 9) (m : BitVec 1) (t : BitVec 3)
  /-- `cmpi.ltn` (R262). -/
  | cmpiLtn (p : BitVec 5) (a : BitVec 5) (i : BitVec 9) (m : BitVec 1) (t : BitVec 3)
  /-- `cmpi.gen` (R262). -/
  | cmpiGen (p : BitVec 5) (a : BitVec 5) (i : BitVec 9) (m : BitVec 1) (t : BitVec 3)
  /-- `sel` (R264). -/
  | sel (d : BitVec 5) (a : BitVec 5) (b : BitVec 5) (p : BitVec 4) (h : BitVec 1) (m : BitVec 2) (t : BitVec 3)
  /-- `seln` (R264). -/
  | seln (d : BitVec 5) (a : BitVec 5) (b : BitVec 5) (p : BitVec 4) (h : BitVec 1) (m : BitVec 2) (t : BitVec 3)
  /-- `lea.1` (R260). -/
  | lea1 (d : BitVec 5) (a : BitVec 5) (b : BitVec 5) (h : BitVec 1) (m : BitVec 2) (t : BitVec 3)
  /-- `lea.2` (R260). -/
  | lea2 (d : BitVec 5) (a : BitVec 5) (b : BitVec 5) (h : BitVec 1) (m : BitVec 2) (t : BitVec 3)
  /-- `lea.4` (R260). -/
  | lea4 (d : BitVec 5) (a : BitVec 5) (b : BitVec 5) (h : BitVec 1) (m : BitVec 2) (t : BitVec 3)
  /-- `lea.8` (R260). -/
  | lea8 (d : BitVec 5) (a : BitVec 5) (b : BitVec 5) (h : BitVec 1) (m : BitVec 2) (t : BitVec 3)
  /-- `bfx` (R261). -/
  | bfx (d : BitVec 5) (a : BitVec 5) (b : BitVec 5) (h : BitVec 1) (m : BitVec 2) (t : BitVec 3)
  /-- `bfxs` (R261). -/
  | bfxs (d : BitVec 5) (a : BitVec 5) (b : BitVec 5) (h : BitVec 1) (m : BitVec 2) (t : BitVec 3)
  /-- `bfi` (R261). -/
  | bfi (d : BitVec 5) (a : BitVec 5) (b : BitVec 5) (h : BitVec 1) (m : BitVec 2) (t : BitVec 3)
  /-- `ld.s8` (R277). -/
  | ldS8 (d : BitVec 5) (a : BitVec 5) (o : BitVec 2) (s : BitVec 2) (w : BitVec 2) (f : BitVec 10)
  /-- `ld.n8` (R277). -/
  | ldN8 (d : BitVec 5) (a : BitVec 5) (o : BitVec 2) (s : BitVec 2) (w : BitVec 2) (f : BitVec 10)
  /-- `ld.s16` (R277). -/
  | ldS16 (d : BitVec 5) (a : BitVec 5) (o : BitVec 2) (s : BitVec 2) (w : BitVec 2) (f : BitVec 10)
  /-- `ld.n16` (R277). -/
  | ldN16 (d : BitVec 5) (a : BitVec 5) (o : BitVec 2) (s : BitVec 2) (w : BitVec 2) (f : BitVec 10)
  /-- `ld.s32` (R277). -/
  | ldS32 (d : BitVec 5) (a : BitVec 5) (o : BitVec 2) (s : BitVec 2) (w : BitVec 2) (f : BitVec 10)
  /-- `ld.n32` (R277). -/
  | ldN32 (d : BitVec 5) (a : BitVec 5) (o : BitVec 2) (s : BitVec 2) (w : BitVec 2) (f : BitVec 10)
  /-- `ldx` (R277). -/
  | ldx (d : BitVec 5) (a : BitVec 5) (o : BitVec 2) (s : BitVec 2) (w : BitVec 2) (f : BitVec 10)
  /-- `stb` (R277). -/
  | stb (d : BitVec 5) (a : BitVec 5) (o : BitVec 2) (s : BitVec 2) (w : BitVec 2) (f : BitVec 10)
  /-- `sth` (R277). -/
  | sth (d : BitVec 5) (a : BitVec 5) (o : BitVec 2) (s : BitVec 2) (w : BitVec 2) (f : BitVec 10)
  /-- `stw` (R277). -/
  | stw (d : BitVec 5) (a : BitVec 5) (o : BitVec 2) (s : BitVec 2) (w : BitVec 2) (f : BitVec 10)
  /-- `stx` (R277). -/
  | stx (d : BitVec 5) (a : BitVec 5) (o : BitVec 2) (s : BitVec 2) (w : BitVec 2) (f : BitVec 10)
  /-- `ld.f` (R279). -/
  | ldF (d : BitVec 5) (a : BitVec 5) (o : BitVec 2) (s : BitVec 2) (w : BitVec 2) (f : BitVec 9)
  /-- `ld.fe` (R279). -/
  | ldFe (d : BitVec 5) (a : BitVec 5) (o : BitVec 2) (s : BitVec 2) (w : BitVec 2) (f : BitVec 9)
  /-- `st.f` (R279). -/
  | stF (d : BitVec 5) (a : BitVec 5) (o : BitVec 2) (s : BitVec 2) (w : BitVec 2) (f : BitVec 9)
  /-- `st.ef` (R279). -/
  | stEf (d : BitVec 5) (a : BitVec 5) (o : BitVec 2) (s : BitVec 2) (w : BitVec 2) (f : BitVec 9)
  /-- `amo.add` (R280). -/
  | amoAdd (d : BitVec 5) (a : BitVec 5) (b : BitVec 5) (o : BitVec 2) (s : BitVec 2) (w : BitVec 2)
  /-- `amo.and` (R280). -/
  | amoAnd (d : BitVec 5) (a : BitVec 5) (b : BitVec 5) (o : BitVec 2) (s : BitVec 2) (w : BitVec 2)
  /-- `amo.or` (R280). -/
  | amoOr (d : BitVec 5) (a : BitVec 5) (b : BitVec 5) (o : BitVec 2) (s : BitVec 2) (w : BitVec 2)
  /-- `amo.xor` (R280). -/
  | amoXor (d : BitVec 5) (a : BitVec 5) (b : BitVec 5) (o : BitVec 2) (s : BitVec 2) (w : BitVec 2)
  /-- `amo.min` (R280). -/
  | amoMin (d : BitVec 5) (a : BitVec 5) (b : BitVec 5) (o : BitVec 2) (s : BitVec 2) (w : BitVec 2)
  /-- `amo.max` (R280). -/
  | amoMax (d : BitVec 5) (a : BitVec 5) (b : BitVec 5) (o : BitVec 2) (s : BitVec 2) (w : BitVec 2)
  /-- `amo.minn` (R280). -/
  | amoMinn (d : BitVec 5) (a : BitVec 5) (b : BitVec 5) (o : BitVec 2) (s : BitVec 2) (w : BitVec 2)
  /-- `amo.maxn` (R280). -/
  | amoMaxn (d : BitVec 5) (a : BitVec 5) (b : BitVec 5) (o : BitVec 2) (s : BitVec 2) (w : BitVec 2)
  /-- `amo.swap` (R280). -/
  | amoSwap (d : BitVec 5) (a : BitVec 5) (b : BitVec 5) (o : BitVec 2) (s : BitVec 2) (w : BitVec 2)
  /-- `amo.cas` (R280). -/
  | amoCas (d : BitVec 5) (a : BitVec 5) (b : BitVec 5) (o : BitVec 2) (s : BitVec 2) (w : BitVec 2)
  /-- `waita` (R282). -/
  | waita (a : BitVec 5) (b : BitVec 5) (w : BitVec 2)
  /-- `cb.init` (R284). -/
  | cbInit (a : BitVec 5) (b : BitVec 5) (w : BitVec 2)
  /-- `cb.arr` (R284). -/
  | cbArr (a : BitVec 5) (w : BitVec 2)
  /-- `cb.exp` (R284). -/
  | cbExp (a : BitVec 5) (b : BitVec 5) (w : BitVec 2)
  /-- `cb.wait` (R284). -/
  | cbWait (a : BitVec 5) (w : BitVec 2)
  /-- `cb.test` (R284). -/
  | cbTest (d : BitVec 5) (a : BitVec 5) (w : BitVec 2)
  /-- `cpy` (R286). -/
  | cpy (a : BitVec 5) (o : BitVec 2) (s : BitVec 2) (w : BitVec 2)
  /-- `cpy.q` (R289). -/
  | cpyQ (d : BitVec 5) (s : BitVec 2) (w : BitVec 2)
  /-- `ldx.m` (R278). -/
  | ldxM (d : BitVec 5) (a : BitVec 5) (o : BitVec 2) (s : BitVec 2) (w : BitVec 2)
  /-- `stx.m` (R278). -/
  | stxM (d : BitVec 5) (a : BitVec 5) (o : BitVec 2) (s : BitVec 2) (w : BitVec 2)
  /-- `lnch` (R291). -/
  | lnch (a : BitVec 5) (b : BitVec 5) (o : BitVec 2) (s : BitVec 2) (w : BitVec 2)
  /-- `grank` (R293). -/
  | grank (d : BitVec 5) (b : BitVec 5) (s : BitVec 2) (w : BitVec 2)
  /-- `gsize` (R293). -/
  | gsize (d : BitVec 5) (b : BitVec 5) (s : BitVec 2) (w : BitVec 2)
  /-- `task` (R294). -/
  | task (a : BitVec 5) (s : BitVec 2) (w : BitVec 2)
  /-- `inq` (R295). -/
  | inq (d : BitVec 5) (s : BitVec 2) (w : BitVec 2)
  /-- `spal` (R290). -/
  | spal (d : BitVec 5) (a : BitVec 5) (h : BitVec 1) (m : BitVec 1) (t : BitVec 3)
  /-- `spfree` (R290). -/
  | spfree (a : BitVec 5) (m : BitVec 1) (t : BitVec 3)
  /-- `spsz` (R290). -/
  | spsz (d : BitVec 5) (a : BitVec 5) (h : BitVec 1) (m : BitVec 1) (t : BitVec 3)
  /-- `vadd` (R301). -/
  | vadd (d : BitVec 6) (a : BitVec 6) (b : BitVec 6) (t : BitVec 3)
  /-- `vsub` (R301). -/
  | vsub (d : BitVec 6) (a : BitVec 6) (b : BitVec 6) (t : BitVec 3)
  /-- `vmul` (R301). -/
  | vmul (d : BitVec 6) (a : BitVec 6) (b : BitVec 6) (t : BitVec 3)
  /-- `vfma` (R301). -/
  | vfma (d : BitVec 6) (a : BitVec 6) (b : BitVec 6) (t : BitVec 3)
  /-- `vfms` (R301). -/
  | vfms (d : BitVec 6) (a : BitVec 6) (b : BitVec 6) (t : BitVec 3)
  /-- `vmin` (R301). -/
  | vmin (d : BitVec 6) (a : BitVec 6) (b : BitVec 6) (t : BitVec 3)
  /-- `vmax` (R301). -/
  | vmax (d : BitVec 6) (a : BitVec 6) (b : BitVec 6) (t : BitVec 3)
  /-- `vabs` (R301). -/
  | vabs (d : BitVec 6) (a : BitVec 6) (t : BitVec 3)
  /-- `vneg` (R301). -/
  | vneg (d : BitVec 6) (a : BitVec 6) (t : BitVec 3)
  /-- `vdiv` (R301). -/
  | vdiv (d : BitVec 6) (a : BitVec 6) (b : BitVec 6) (t : BitVec 3)
  /-- `vsqrt` (R301). -/
  | vsqrt (d : BitVec 6) (a : BitVec 6) (t : BitVec 3)
  /-- `viadd` (R302). -/
  | viadd (d : BitVec 6) (a : BitVec 6) (b : BitVec 6) (t : BitVec 3)
  /-- `visub` (R302). -/
  | visub (d : BitVec 6) (a : BitVec 6) (b : BitVec 6) (t : BitVec 3)
  /-- `viadds` (R302). -/
  | viadds (d : BitVec 6) (a : BitVec 6) (b : BitVec 6) (t : BitVec 3)
  /-- `visubs` (R302). -/
  | visubs (d : BitVec 6) (a : BitVec 6) (b : BitVec 6) (t : BitVec 3)
  /-- `viaddn` (R302). -/
  | viaddn (d : BitVec 6) (a : BitVec 6) (b : BitVec 6) (t : BitVec 3)
  /-- `visubn` (R302). -/
  | visubn (d : BitVec 6) (a : BitVec 6) (b : BitVec 6) (t : BitVec 3)
  /-- `vimul` (R302). -/
  | vimul (d : BitVec 6) (a : BitVec 6) (b : BitVec 6) (t : BitVec 3)
  /-- `vimulh` (R302). -/
  | vimulh (d : BitVec 6) (a : BitVec 6) (b : BitVec 6) (t : BitVec 3)
  /-- `vimac` (R302). -/
  | vimac (d : BitVec 6) (a : BitVec 6) (b : BitVec 6) (t : BitVec 3)
  /-- `vimin` (R302). -/
  | vimin (d : BitVec 6) (a : BitVec 6) (b : BitVec 6) (t : BitVec 3)
  /-- `vimax` (R302). -/
  | vimax (d : BitVec 6) (a : BitVec 6) (b : BitVec 6) (t : BitVec 3)
  /-- `viminn` (R302). -/
  | viminn (d : BitVec 6) (a : BitVec 6) (b : BitVec 6) (t : BitVec 3)
  /-- `vimaxn` (R302). -/
  | vimaxn (d : BitVec 6) (a : BitVec 6) (b : BitVec 6) (t : BitVec 3)
  /-- `vand` (R302). -/
  | vand (d : BitVec 6) (a : BitVec 6) (b : BitVec 6) (t : BitVec 3)
  /-- `vor` (R302). -/
  | vor (d : BitVec 6) (a : BitVec 6) (b : BitVec 6) (t : BitVec 3)
  /-- `vxor` (R302). -/
  | vxor (d : BitVec 6) (a : BitVec 6) (b : BitVec 6) (t : BitVec 3)
  /-- `vshl` (R302). -/
  | vshl (d : BitVec 6) (a : BitVec 6) (b : BitVec 6) (t : BitVec 3)
  /-- `vshr` (R302). -/
  | vshr (d : BitVec 6) (a : BitVec 6) (b : BitVec 6) (t : BitVec 3)
  /-- `vsar` (R302). -/
  | vsar (d : BitVec 6) (a : BitVec 6) (b : BitVec 6) (t : BitVec 3)
  /-- `vsel` (R302). -/
  | vsel (d : BitVec 6) (a : BitVec 6) (b : BitVec 6) (t : BitVec 3)
  /-- `vcmp.eq` (R303). -/
  | vcmpEq (a : BitVec 6) (b : BitVec 6) (t : BitVec 3)
  /-- `vcmp.ne` (R303). -/
  | vcmpNe (a : BitVec 6) (b : BitVec 6) (t : BitVec 3)
  /-- `vcmp.lt` (R303). -/
  | vcmpLt (a : BitVec 6) (b : BitVec 6) (t : BitVec 3)
  /-- `vcmp.le` (R303). -/
  | vcmpLe (a : BitVec 6) (b : BitVec 6) (t : BitVec 3)
  /-- `vcmp.un` (R303). -/
  | vcmpUn (a : BitVec 6) (b : BitVec 6) (t : BitVec 3)
  /-- `vicmp.eq` (R303). -/
  | vicmpEq (a : BitVec 6) (b : BitVec 6) (t : BitVec 3)
  /-- `vicmp.lt` (R303). -/
  | vicmpLt (a : BitVec 6) (b : BitVec 6) (t : BitVec 3)
  /-- `vicmp.ltn` (R303). -/
  | vicmpLtn (a : BitVec 6) (b : BitVec 6) (t : BitVec 3)
  /-- `vmsk` (R304). -/
  | vmsk (a : BitVec 6) (t : BitVec 3)
  /-- `vmskall` (R304). -/
  | vmskall (t : BitVec 3)
  /-- `vcvt.bf` (R306). -/
  | vcvtBf (d : BitVec 6) (a : BitVec 6) (t : BitVec 3)
  /-- `vcvt.f8` (R306). -/
  | vcvtF8 (d : BitVec 6) (a : BitVec 6) (t : BitVec 3)
  /-- `vcvt.kb8` (R307). -/
  | vcvtKb8 (d : BitVec 6) (a : BitVec 6) (b : BitVec 6) (t : BitVec 3)
  /-- `vcvt.kb4` (R307). -/
  | vcvtKb4 (d : BitVec 6) (a : BitVec 6) (b : BitVec 6) (t : BitVec 3)
  /-- `vcvt.f32` (R307). -/
  | vcvtF32 (d : BitVec 6) (a : BitVec 6) (b : BitVec 6) (t : BitVec 3)
  /-- `vcvt.int` (R306). -/
  | vcvtInt (d : BitVec 6) (a : BitVec 6) (t : BitVec 3)
  /-- `vcvt.flt` (R306). -/
  | vcvtFlt (d : BitVec 6) (a : BitVec 6) (t : BitVec 3)
  /-- `vnarrow` (R306). -/
  | vnarrow (d : BitVec 6) (a : BitVec 6) (t : BitVec 3)
  /-- `vnarrows` (R306). -/
  | vnarrows (d : BitVec 6) (a : BitVec 6) (t : BitVec 3)
  /-- `vcvt.mr` (R306). -/
  | vcvtMr (d : BitVec 6) (a : BitVec 6) (t : BitVec 3)
  /-- `vexp2` (R308). -/
  | vexp2 (d : BitVec 6) (a : BitVec 6) (t : BitVec 3)
  /-- `vlog2` (R308). -/
  | vlog2 (d : BitVec 6) (a : BitVec 6) (t : BitVec 3)
  /-- `vrcp` (R308). -/
  | vrcp (d : BitVec 6) (a : BitVec 6) (t : BitVec 3)
  /-- `vrsqrt` (R308). -/
  | vrsqrt (d : BitVec 6) (a : BitVec 6) (t : BitVec 3)
  /-- `vsin` (R308). -/
  | vsin (d : BitVec 6) (a : BitVec 6) (t : BitVec 3)
  /-- `vcos` (R308). -/
  | vcos (d : BitVec 6) (a : BitVec 6) (t : BitVec 3)
  /-- `vtanh` (R308). -/
  | vtanh (d : BitVec 6) (a : BitVec 6) (t : BitVec 3)
  /-- `vexp` (R308). -/
  | vexp (d : BitVec 6) (a : BitVec 6) (t : BitVec 3)
  /-- `vlse` (R308). -/
  | vlse (d : BitVec 6) (a : BitVec 6) (b : BitVec 6) (t : BitVec 3)
  /-- `vmadd` (R309). -/
  | vmadd (d : BitVec 6) (a : BitVec 6) (b : BitVec 6) (t : BitVec 3)
  /-- `vmsub` (R309). -/
  | vmsub (d : BitVec 6) (a : BitVec 6) (b : BitVec 6) (t : BitVec 3)
  /-- `vmmul` (R309). -/
  | vmmul (d : BitVec 6) (a : BitVec 6) (b : BitVec 6) (t : BitVec 3)
  /-- `vmmac` (R309). -/
  | vmmac (d : BitVec 6) (a : BitVec 6) (b : BitVec 6) (t : BitVec 3)
  /-- `vmneg` (R309). -/
  | vmneg (d : BitVec 6) (a : BitVec 6) (t : BitVec 3)
  /-- `mqset` (R310). -/
  | mqset (a : BitVec 5) (t : BitVec 3)
  /-- `bfly.ct` (R311). -/
  | bflyCt (d : BitVec 6) (a : BitVec 6) (b : BitVec 6) (t : BitVec 3)
  /-- `bfly.gs` (R311). -/
  | bflyGs (d : BitVec 6) (a : BitVec 6) (b : BitVec 6) (t : BitVec 3)
  /-- `vbst` (R312). -/
  | vbst (d : BitVec 6) (a : BitVec 6) (s : BitVec 6) (t : BitVec 3)
  /-- `vrev` (R312). -/
  | vrev (d : BitVec 6) (a : BitVec 6) (t : BitVec 3)
  /-- `vshuf` (R312). -/
  | vshuf (d : BitVec 6) (a : BitVec 6) (b : BitVec 6) (t : BitVec 3)
  /-- `vld` (R313). -/
  | vld (d : BitVec 6) (a : BitVec 5) (t : BitVec 3)
  /-- `vst` (R313). -/
  | vst (d : BitVec 6) (a : BitVec 5) (t : BitVec 3)
  /-- `strbind` (R315). -/
  | strbind (d : BitVec 6) (a : BitVec 5) (t : BitVec 3)
  /-- `strend` (R318). -/
  | strend (d : BitVec 6) (t : BitVec 3)
  /-- `vrsum` (R319). -/
  | vrsum (d : BitVec 5) (a : BitVec 6) (t : BitVec 3)
  /-- `vrmax` (R319). -/
  | vrmax (d : BitVec 5) (a : BitVec 6) (t : BitVec 3)
  /-- `vrmin` (R319). -/
  | vrmin (d : BitVec 5) (a : BitVec 6) (t : BitVec 3)
  /-- `vrprod` (R319). -/
  | vrprod (d : BitVec 5) (a : BitVec 6) (t : BitVec 3)
  /-- `vbcast` (R320). -/
  | vbcast (d : BitVec 6) (a : BitVec 5) (t : BitVec 3)
  /-- `vrand` (R322). -/
  | vrand (d : BitVec 6) (t : BitVec 3)
  /-- `vseed` (R322). -/
  | vseed (a : BitVec 5) (b : BitVec 5) (t : BitVec 3)
  /-- `ftile` (R323). -/
  | ftile (a : BitVec 5) (y : BitVec 6) (t : BitVec 3)
  /-- `ftrel` (R324). -/
  | ftrel (a : BitVec 5) (t : BitVec 3)
  /-- `vext` (R320). -/
  | vext (d : BitVec 5) (a : BitVec 6) (b : BitVec 5) (t : BitVec 3)
  /-- `vmov` (R320). -/
  | vmov (d : BitVec 6) (a : BitVec 6) (t : BitVec 3)
  /-- `tbind` (R331). -/
  | tbind (d : BitVec 3) (h : BitVec 3) (l : BitVec 3) (y : BitVec 3) (t : BitVec 3)
  /-- `tfree` (R331). -/
  | tfree (t : BitVec 3)
  /-- `tzero` (R332). -/
  | tzero (d : BitVec 3) (t : BitVec 3)
  /-- `tfill` (R333). -/
  | tfill (d : BitVec 3) (a : BitVec 5) (t : BitVec 3)
  /-- `tdrain` (R333). -/
  | tdrain (d : BitVec 3) (a : BitVec 5) (t : BitVec 3)
  /-- `rowact` (R335). -/
  | rowact (a : BitVec 5) (t : BitVec 3)
  /-- `rowpre` (R335). -/
  | rowpre (a : BitVec 5) (t : BitVec 3)
  /-- `tld` (R336). -/
  | tld (d : BitVec 3) (a : BitVec 5) (b : BitVec 5) (c : BitVec 5) (t : BitVec 3)
  /-- `bld` (R338). -/
  | bld (a : BitVec 5) (b : BitVec 5) (c : BitVec 5) (t : BitVec 3)
  /-- `mma` (R340). -/
  | mma (d : BitVec 3) (a : BitVec 5) (b : BitVec 5) (t : BitVec 3)
  /-- `mma.z` (R340). -/
  | mmaZ (d : BitVec 3) (a : BitVec 5) (b : BitVec 5) (t : BitVec 3)
  /-- `mma.m` (R340). -/
  | mmaM (d : BitVec 3) (a : BitVec 5) (b : BitVec 5) (t : BitVec 3)
  /-- `ck.ver` (R344). -/
  | ckVer (d : BitVec 3) (c : BitVec 5) (t : BitVec 3)
  /-- `ck.fix` (R345). -/
  | ckFix (d : BitVec 3) (t : BitVec 3)
  /-- `ck.rd` (R346). -/
  | ckRd (d : BitVec 3) (b : BitVec 5) (c : BitVec 5) (t : BitVec 3)
  /-- `ck.sig` (R346). -/
  | ckSig (d : BitVec 3) (c : BitVec 5) (t : BitVec 3)
  /-- `ck.verg` (R344). -/
  | ckVerg (a : BitVec 5) (c : BitVec 5) (t : BitVec 3)
  /-- `ck.fixg` (R345). -/
  | ckFixg (a : BitVec 5) (t : BitVec 3)
  /-- `ck.rdg` (R346). -/
  | ckRdg (a : BitVec 5) (b : BitVec 5) (c : BitVec 5) (t : BitVec 3)
  /-- `ck.sigg` (R346). -/
  | ckSigg (a : BitVec 5) (c : BitVec 5) (t : BitVec 3)
  /-- `tt.enq` (R347). -/
  | ttEnq (a : BitVec 5) (c : BitVec 5) (t : BitVec 3)
  /-- `leave` (R349). -/
  | leave (a : BitVec 5) (b : BitVec 5) (t : BitVec 3)
  /-- `leave.rel` (R349). -/
  | leaveRel (t : BitVec 3)
  /-- `lutld` (R325). -/
  | lutld (a : BitVec 5) (b : BitVec 5) (t : BitVec 3)
  /-- `fmtw` (R350). -/
  | fmtw (a : BitVec 5) (b : BitVec 5) (c : BitVec 5) (t : BitVec 3)
  /-- `mmag` (R343). -/
  | mmag (d : BitVec 3) (a : BitVec 5) (b : BitVec 5) (c : BitVec 5) (t : BitVec 3)
  /-- `mmag.z` (R343). -/
  | mmagZ (d : BitVec 3) (a : BitVec 5) (b : BitVec 5) (c : BitVec 5) (t : BitVec 3)
  /-- `kv.app` (R363). -/
  | kvApp (a : BitVec 5) (b : BitVec 5) (c : BitVec 5) (t : BitVec 3)
  /-- `kv.find` (R364). -/
  | kvFind (a : BitVec 5) (b : BitVec 5) (c : BitVec 5) (t : BitVec 3)
  /-- `kv.free` (R365). -/
  | kvFree (a : BitVec 5) (b : BitVec 5) (c : BitVec 5) (t : BitVec 3)
  /-- `kv.gath` (R370). -/
  | kvGath (a : BitVec 5) (b : BitVec 5) (t : BitVec 3)
  /-- `rb.sel` (R367). -/
  | rbSel (a : BitVec 5) (b : BitVec 5) (c : BitVec 5) (t : BitVec 3)
  /-- `rb.seln` (R367). -/
  | rbSeln (a : BitVec 5) (b : BitVec 5) (c : BitVec 5) (t : BitVec 3)
  /-- `emb.red` (R374). -/
  | embRed (a : BitVec 5) (c : BitVec 5) (t : BitVec 3)
  /-- `dp.plan` (R371). -/
  | dpPlan (a : BitVec 5) (b : BitVec 5) (c : BitVec 5) (t : BitVec 3)
  /-- `rpt` (R236). -/
  | rpt (L : BitVec 4) (C : BitVec 6) (D : BitVec 4) (A : BitVec 4) (B : BitVec 4) (t : BitVec 3)
  /-- `trap` (R399). -/
  | trap (i : BitVec 7) (t : BitVec 3)
  /-- `brk` (R399). -/
  | brk (i : BitVec 7) (t : BitVec 3)
  /-- `rte` (R392). -/
  | rte (t : BitVec 3)
  /-- `settle` (R388). -/
  | settle (d : BitVec 5) (a : BitVec 5) (t : BitVec 3)
  /-- `crd` (R400). -/
  | crd (d : BitVec 5) (i : BitVec 7) (t : BitVec 3)
  /-- `cwr` (R400). -/
  | cwr (a : BitVec 5) (i : BitVec 7) (t : BitVec 3)
  /-- `xrd` (R401). -/
  | xrd (d : BitVec 5) (a : BitVec 5) (i : BitVec 7) (t : BitVec 3)
  /-- `xwr` (R401). -/
  | xwr (d : BitVec 5) (a : BitVec 5) (i : BitVec 7) (t : BitVec 3)
  /-- `preempt` (R396). -/
  | preempt (d : BitVec 5) (a : BitVec 5) (t : BitVec 3)
  /-- `freeze` (R397). -/
  | freeze (a : BitVec 5) (t : BitVec 3)
  /-- `thaw` (R397). -/
  | thaw (a : BitVec 5) (t : BitVec 3)
  /-- `stinv` (R402). -/
  | stinv (d : BitVec 5) (a : BitVec 5) (t : BitVec 3)
  /-- `halt` (R403). -/
  | halt (t : BitVec 3)
  /-- `idle` (R403). -/
  | idle (t : BitVec 3)
  /-- `kill` (R404). -/
  | kill (a : BitVec 5) (t : BitVec 3)
  /-- `b` (R265). -/
  | b (p : BitVec 4) (o : BitVec 21)
  /-- `bn` (R265). -/
  | bn (p : BitVec 4) (o : BitVec 21)
  /-- `j` (R265). -/
  | j (o : BitVec 26)
  /-- `call` (R268). -/
  | call (o : BitVec 26)
  /-- `ret` (R269). -/
  | ret (t : BitVec 3)
  /-- `wpf` (R270). -/
  | wpf (t : BitVec 3)
  /-- `pand` (R263). -/
  | pand (d : BitVec 5) (a : BitVec 5) (b : BitVec 5) (t : BitVec 3)
  /-- `por` (R263). -/
  | por (d : BitVec 5) (a : BitVec 5) (b : BitVec 5) (t : BitVec 3)
  /-- `pxor` (R263). -/
  | pxor (d : BitVec 5) (a : BitVec 5) (b : BitVec 5) (t : BitVec 3)
  /-- `pandn` (R263). -/
  | pandn (d : BitVec 5) (a : BitVec 5) (b : BitVec 5) (t : BitVec 3)
  /-- `pnot` (R263). -/
  | pnot (d : BitVec 5) (a : BitVec 5) (t : BitVec 3)
  /-- `pset` (R263). -/
  | pset (d : BitVec 5) (t : BitVec 3)
  /-- `pclr` (R263). -/
  | pclr (d : BitVec 5) (t : BitVec 3)
  /-- `fence.acq` (R281). -/
  | fenceAcq (s : BitVec 2) (w : BitVec 2)
  /-- `fence.rel` (R281). -/
  | fenceRel (s : BitVec 2) (w : BitVec 2)
  /-- `fence.ar` (R281). -/
  | fenceAr (s : BitVec 2) (w : BitVec 2)
  /-- `fence.sc` (R281). -/
  | fenceSc (s : BitVec 2) (w : BitVec 2)
  /-- `wait` (R281). -/
  | wait (w : BitVec 2)
  /-- `nop` (R244). -/
  | nop (t : BitVec 3)
  /-- R380 Enters a trap at an instruction boundary, writing EPC, EPW, EVA, ECS and the trap frame and jumping to the vector. -/
  | trapEntry (core slot : Nat)
  /-- R292 A launch message arrives at a core's task inbox and is accepted or refused for want of room. -/
  | taskInboxAccept (k : Nat)
  /-- R420 The Medlar port forwards a held launch message to core 0's inbox when it has room. -/
  | launchMessageForward
  /-- R44 A launch unit with a free entry takes a launch message, checks the record and forms the allowed set or refuses the launch. -/
  | launchAcceptance (core : Nat)
  /-- R47 At each barrel turn the launch unit unfolds the next strand that placement can take. -/
  | unfolding (core : Nat)
  /-- R54 A placement packet reaches a core on its hint walk and is taken there or passed on. -/
  | placementPacket (k : Nat)
  /-- R54 The head of the fallback queue is dispatched to the next fitting allowed core, or waits. -/
  | roundRobinFallback (core : Nat)
  /-- R61 A migration packet arrives at its destination and enters the ring, overflow list, or is redirected or returned. -/
  | migrationPacketArrival (k : Nat)
  /-- R57 An idle, unreserved slot takes up the ring entry of highest effective priority. -/
  | takeUp (core slot : Nat)
  /-- R49 The core reads the work packet named by HANDLE and loads FMT, SCA and SCB into the slot's shadow registers. -/
  | shadowRegisterLoad (core slot : Nat)
  /-- R82 On take-up the core loads FPC, WLIM and MQB from the strand control block. -/
  | strandControlBlockLoad (core slot : Nat)
  /-- R89 Before the first modular instruction after take-up the core reloads and checks the lane moduli from MQB. -/
  | laneModulusReload (core slot : Nat)
  /-- R57 A strand that has held its slot for 2^18 cycles returns to the ring when a competing continuation waits. -/
  | quantumExpiry (core slot : Nat)
  /-- R65 Every 4,096 cycles the reduction tree sums sent and received counts and idle bits per launch and may declare it ended. -/
  | launchSweep
  /-- R66 Host software makes a spatial pre-emption or release request over a rectangle. -/
  | spatialPreemptionRequest (w : BitVec 32)
  /-- R395 The device drains a pre-empted strand's work and writes its continuation to its continuation-area slot. -/
  | preemptSave (core slot : Nat)
  /-- R148 A waiter that has waited longer than WLIM is returned to its ring with WAITLIM pending. -/
  | waitLimitExpiry (core n : Nat)
  /-- R272 A parked strand whose WLIM time has passed returns to its ring at P + 4 without a trap. -/
  | parkWake (core n : Nat)
  /-- R134 A load request message is performed by the vault agent and replied to. -/
  | load (k : Nat)
  /-- R134 A store request message is performed by the vault agent and acknowledged. -/
  | store (k : Nat)
  /-- R280 An atomic request message is performed as one read-write event at the vault agent. -/
  | atomic (k : Nat)
  /-- R279 A full/empty load message is served if the word is full, otherwise answered not served. -/
  | fullEmptyLoad (k : Nat)
  /-- R279 A full/empty store message writes and fills the word, serving waiters in arrival order, or is answered not served. -/
  | fullEmptyStore (k : Nat)
  /-- R146 A parked continuation arrives at the bank, is enlisted as a waiter and tested again. -/
  | parkedContinuation (k : Nat)
  /-- R153 A copy segment of at most 256 B is performed by the vault agent. -/
  | copySegment (k : Nat)
  /-- R374 The agent of the table vault performs an embedding-bag reduction request. -/
  | gatherReduce (k : Nat)
  /-- R361 The agent of the table vault performs one KV sub-operation as an indivisible step. -/
  | kvTableOperation (k : Nat)
  /-- R123 A remote scratchpad load message is served by the destination scratchpad. -/
  | scratchpadLoad (k : Nat)
  /-- R123 A remote scratchpad store message is performed and wakes waiters on the word. -/
  | scratchpadStore (k : Nat)
  /-- R151 An update of a completion barrier is performed as one read-modify-write and may complete a phase. -/
  | barrierUpdate (k : Nat)
  /-- R285 A remote cb.wait continuation arrives at the barrier's core, is checked and parked or returned. -/
  | waitOnAddress (k : Nat)
  /-- R134 A message with procedure code 0xB–0xF is refused with status 4. -/
  | unknownProcedure (k : Nat)
  /-- R135 A 16-byte reply arrives at the originator, delivering data or a failure status. -/
  | reply (k : Nat)
  /-- R126 A translation station accepts a global-address request, translates it and forwards it to its owner. -/
  | stationRequest (k : Nat)
  /-- R129 A station's four-level walk completes with a translation or a fault. -/
  | tableWalk (station n : Nat)
  /-- R131 A station receives an invalidation message, drops matching entries and walks and acknowledges. -/
  | stationInvalidation (k : Nat)
  /-- R136 A tagged request packet reaches the vault controller and is performed at the bank. -/
  | vaultControllerPacket (core n : Nat)
  /-- R140 A bank's refresh falls due each tREFI, closes its row and occupies the bank for tRFCpb. -/
  | refresh (core bank : Nat)
  /-- R141 A DRAM layer passes or falls below its refresh temperature limit and Quince enters or leaves hot mode. -/
  | hotMode (layer : Nat) (hot : Bool)
  /-- R142 Quince raises the DRAM-thermal throttle, slowing controllers and stopping tlds in progress with TLDTHERM. -/
  | dramThermalThrottle (cluster : Nat)
  /-- R156 Quince marks a bank, vertical bus or layer lost, after which accesses to it receive status 3. -/
  | lossOfMemory (kind core part : Nat)
  /-- R153 A 64 B chunk of a copy command lands and subtracts its bytes from the barrier's TX. -/
  | copyChunk (core n off : Nat)
  /-- R154 A copy command completes and writes its completion value, inverted on failure. -/
  | copyCompletion (core n : Nat)
  /-- R194 An engine operation writes C, checks its predicted checksums and signals its barrier. -/
  | mmaCompletion (core : Nat)
  /-- R343 A partial of a cooperative product arrives at the owner's engine and is held or added. -/
  | mmagPartial (k : Nat)
  /-- R210 The cluster scheduler admits the first ready task or leave request that fits its budgets and a free engine. -/
  | admission (cluster : Nat)
  /-- R213 A tile task's last write is performed and it arrives on SIG, or fails under R152. -/
  | tileTaskCompletion (core : Nat)
  /-- R413 An audit replay completes and its signature is compared with the original. -/
  | auditReplay (cluster : Nat)
  /-- R202 At each microsecond boundary budgets, operating-point changes and energy charges take effect. -/
  | controlInterval (measured : List Nat)
  /-- R216 At each boost-interval boundary clusters claim slots, permits are charged and boost steps change. -/
  | boostInterval
  /-- R218 At the end of each idle refill period a cluster gains one permit. -/
  | refillPeriod
  /-- R220 The 2 µs hold of a gated cluster ends and a latched request joins the in-rush queue. -/
  | holdEnd (cluster : Nat)
  /-- R220 The in-rush arbiter serves one cluster per 200 ns, which then runs. -/
  | inRushSlot
  /-- R25 A cluster's 20 ns rail switch completes and its cores issue again. -/
  | railSwitch (cluster : Nat)
  /-- R221 A core-die sensor of the cluster exceeds its limit, ending boost. -/
  | coreThrottle (cluster : Nat)
  /-- R221 A CORE reason still held after 16 µs puts the cluster into economy. -/
  | coreThrottleEconomy (cluster : Nat)
  /-- R221 The cluster's measured current exceeds IBUD, ending boost and stopping admission. -/
  | currThrottle (cluster : Nat)
  /-- R221 Device power over a control interval exceeds the cap, ending boost and scaling EBUD. -/
  | pcapThrottle (watts : Nat)
  /-- R221 A throttle reason stops being in force. -/
  | throttleClear (cluster reason : Nat)
  /-- R81 A quad bank not accessed for 4,096 cycles enters retention. -/
  | retention (core slot bank : Nat)
  /-- R78 Every live unmarked window-file row is refreshed once in every 1,024 cycles. -/
  | gainCellRefresh (core slot : Nat)
  /-- R79 A short-lived register reaches 2,048 cycles of age and its guarantee lapses. -/
  | shortLivedLapse (core slot reg : Nat)
  /-- R76 A window request of the operand prefetch queue completes 40 cycles after entry. -/
  | operandPrefetchCompletion (core slot : Nat)
  /-- R86 A pushed channel entry becomes readable in the neighbour's inbound channel. -/
  | channelEntryArrival (k : Nat)
  /-- R316 An input pattern's read-ahead load returns into its FIFO place. -/
  | streamPatternRead (core slot str : Nat)
  /-- R204 Writing 1 to CPWR.WAKE raises a wake request for the cluster. -/
  | cpwrWake (cluster : Nat)
  /-- R420 A 16 B write to MLPOST posts a launch message toward core 0, or is refused when 16 are held. -/
  | mlpost (msg : BitVec 128)
  /-- R411 A write of EIC with ARM = 1 arms an injected error at a vault granule or scratchpad word. -/
  | eicArm (core : Nat)
  /-- R12 A write to a register that has no row of its own updates its writable fields under their access codes. -/
  | registerWrite (addr : BitVec 44) (size : Nat) (value : BitVec 64)
  /-- R427 Quince command 1 copies the newest event-log entries to a buffer. -/
  | readEventLog
  /-- R429 Quince command 2 writes a signed attestation report after the nonce. -/
  | attest
  /-- R428 Quince command 3 verifies and stages a firmware image. -/
  | stageFirmware
  /-- R427 Quince command 4 sets the PCAP limit from the next control interval. -/
  | setPowerCap
  /-- R427 Quince command 5 restarts a halted core. -/
  | restartCore
  /-- R433 Quince command 6 with the key value performs a device reset. -/
  | resetDevice
  /-- R427 A mailbox command with an unknown code is refused with reason 1. -/
  | mailboxRefusal
  /-- R419 A posted write from the control node is performed and acknowledged in acceptance order. -/
  | hostWrite (addr : BitVec 44) (data : List (BitVec 8))
  /-- R418 A read from the control node is performed and its data returned. -/
  | hostRead (addr : BitVec 44) (n : Nat)
  /-- R422 The Medlar link loses training and host-space accesses receive status 4. -/
  | medlarLinkLoss
  /-- R422 The Medlar link retrains, UP returns to 1 and service resumes. -/
  | medlarRetrain
  /-- R423 A request arriving on a Sloe link is performed by the peer's vault agent under the owner map. -/
  | sloeRequest (link : Nat) (h0 h1 h2 h3 : BitVec 64) (payload : List (BitVec 8))
  /-- R425 A Sloe link loses training and its requests receive status 4. -/
  | sloeLinkLoss (link : Nat)
  /-- R425 A Sloe link retrains and service resumes. -/
  | sloeRetrain (link : Nat)
  /-- R431 After power is applied Quince raises supplies, programs the mesh, clears vaults, tests stack stores, resets registers and trains links. -/
  | bringUp (failed : Bool) (badStores : List Nat)
  /-- R433 Holding RSTN low for at least 10 µs performs a device reset. -/
  | rstn (ns : Nat)
  /-- R316 An output pattern writes the next pushed entry from its FIFO to its pattern address as a plain store. -/
  | streamPatternWrite (core slot str : Nat)
  /-- R370 A chunk of a kv.gath record lands at its destination and subtracts its bytes from TX of the barrier at CB. -/
  | gatherChunk (core n off : Nat)
  /-- R418 A Medlar or Sloe flit fails its CRC-32C check and is replayed, raising the link's REPLAY count. -/
  | flitReplay (link : Nat)
deriving DecidableEq, Repr

end Sys2Proof
end

