-- ==== Sys2Proof/Machine/Forms.lean ====
section
/-! DEFINITION. The operand forms: which fields of each instruction are scalar register codes, predicate indices or marks,
which values a field excludes, which unit and which privilege the instruction needs (R63, R69, R70, R228, R229, R233, R234,
R242 to R245, R257, R297, R329). -/

namespace Sys2Proof.Machine

/-- What R246 checks of a word before anything else. -/
structure Form where
  /-- The scalar register codes it names (R69). -/
  codes : List (BitVec 5)
  /-- The predicate indices it names (R228). -/
  preds : List (BitVec 5)
  /-- Mark bits with the code each one marks (R70, R233). -/
  marks : List (BitVec 1 × BitVec 5)
  /-- Whether every field holds a value that its own rule allows. -/
  ok    : Bool
  /-- The bit of the feature mask of the unit it needs (R20). -/
  unit  : Option Nat
  /-- Whether it is a form that takes PRIV when the program executes it (R244, R245). -/
  priv  : Bool
deriving DecidableEq, Repr

/-- The allocated control-register numbers of R245. -/
def cregOk (i : BitVec 7) : Bool :=
  i.toNat ≤ 9 || (16 ≤ i.toNat && i.toNat ≤ 21) || (24 ≤ i.toNat && i.toNat ≤ 27)

/-- The control registers that R245 marks PRW. -/
def cregPriv (i : BitVec 7) : Bool := i.toNat == 2 || 8 ≤ i.toNat && i.toNat != 9

/-- The operand form of each instruction. A device event has no word, so it has no legal form. -/
def formOf : Instr → Form
  | .jr a m _ => ⟨[a], [], [(m, a)], true, none, false⟩
  | .callr a m _ => ⟨[a], [], [(m, a)], true, none, false⟩
  | .yield _ => ⟨[], [], [], true, none, false⟩
  | .go a m _ => ⟨[a], [], [(m, a)], true, none, false⟩
  | .park _ => ⟨[], [], [], true, none, false⟩
  | .exit _ => ⟨[], [], [], true, none, false⟩
  | .loop d _ _ => ⟨[d], [], [], decide (d.toNat ≤ 7), none, false⟩
  | .add d a b h m _ => ⟨[d, a, b], [], [(h, d), (m.extractLsb' 1 1, a), (m.extractLsb' 0 1, b)], true, none, false⟩
  | .sub d a b h m _ => ⟨[d, a, b], [], [(h, d), (m.extractLsb' 1 1, a), (m.extractLsb' 0 1, b)], true, none, false⟩
  | .and d a b h m _ => ⟨[d, a, b], [], [(h, d), (m.extractLsb' 1 1, a), (m.extractLsb' 0 1, b)], true, none, false⟩
  | .or d a b h m _ => ⟨[d, a, b], [], [(h, d), (m.extractLsb' 1 1, a), (m.extractLsb' 0 1, b)], true, none, false⟩
  | .xor d a b h m _ => ⟨[d, a, b], [], [(h, d), (m.extractLsb' 1 1, a), (m.extractLsb' 0 1, b)], true, none, false⟩
  | .andn d a b h m _ => ⟨[d, a, b], [], [(h, d), (m.extractLsb' 1 1, a), (m.extractLsb' 0 1, b)], true, none, false⟩
  | .shl d a b h m _ => ⟨[d, a, b], [], [(h, d), (m.extractLsb' 1 1, a), (m.extractLsb' 0 1, b)], true, none, false⟩
  | .shr d a b h m _ => ⟨[d, a, b], [], [(h, d), (m.extractLsb' 1 1, a), (m.extractLsb' 0 1, b)], true, none, false⟩
  | .sar d a b h m _ => ⟨[d, a, b], [], [(h, d), (m.extractLsb' 1 1, a), (m.extractLsb' 0 1, b)], true, none, false⟩
  | .mul d a b h m _ => ⟨[d, a, b], [], [(h, d), (m.extractLsb' 1 1, a), (m.extractLsb' 0 1, b)], true, none, false⟩
  | .mulh d a b h m _ => ⟨[d, a, b], [], [(h, d), (m.extractLsb' 1 1, a), (m.extractLsb' 0 1, b)], true, none, false⟩
  | .mulhn d a b h m _ => ⟨[d, a, b], [], [(h, d), (m.extractLsb' 1 1, a), (m.extractLsb' 0 1, b)], true, none, false⟩
  | .div d a b h m _ => ⟨[d, a, b], [], [(h, d), (m.extractLsb' 1 1, a), (m.extractLsb' 0 1, b)], true, none, false⟩
  | .divn d a b h m _ => ⟨[d, a, b], [], [(h, d), (m.extractLsb' 1 1, a), (m.extractLsb' 0 1, b)], true, none, false⟩
  | .rem d a b h m _ => ⟨[d, a, b], [], [(h, d), (m.extractLsb' 1 1, a), (m.extractLsb' 0 1, b)], true, none, false⟩
  | .remn d a b h m _ => ⟨[d, a, b], [], [(h, d), (m.extractLsb' 1 1, a), (m.extractLsb' 0 1, b)], true, none, false⟩
  | .min d a b h m _ => ⟨[d, a, b], [], [(h, d), (m.extractLsb' 1 1, a), (m.extractLsb' 0 1, b)], true, none, false⟩
  | .max d a b h m _ => ⟨[d, a, b], [], [(h, d), (m.extractLsb' 1 1, a), (m.extractLsb' 0 1, b)], true, none, false⟩
  | .minn d a b h m _ => ⟨[d, a, b], [], [(h, d), (m.extractLsb' 1 1, a), (m.extractLsb' 0 1, b)], true, none, false⟩
  | .maxn d a b h m _ => ⟨[d, a, b], [], [(h, d), (m.extractLsb' 1 1, a), (m.extractLsb' 0 1, b)], true, none, false⟩
  | .clz d a h m _ => ⟨[d, a], [], [(h, d), (m, a)], true, none, false⟩
  | .ctz d a h m _ => ⟨[d, a], [], [(h, d), (m, a)], true, none, false⟩
  | .popc d a h m _ => ⟨[d, a], [], [(h, d), (m, a)], true, none, false⟩
  | .addi d a _ m _ => ⟨[d, a], [], [(m, a)], true, none, false⟩
  | .andi d a _ m _ => ⟨[d, a], [], [(m, a)], true, none, false⟩
  | .ori d a _ m _ => ⟨[d, a], [], [(m, a)], true, none, false⟩
  | .xori d a _ m _ => ⟨[d, a], [], [(m, a)], true, none, false⟩
  | .shli d a n m _ => ⟨[d, a], [], [(m, a)], decide (n.toNat ≤ 47), none, false⟩
  | .shri d a n m _ => ⟨[d, a], [], [(m, a)], decide (n.toNat ≤ 47), none, false⟩
  | .sari d a n m _ => ⟨[d, a], [], [(m, a)], decide (n.toNat ≤ 47), none, false⟩
  | .li d _ _ => ⟨[d], [], [], true, none, false⟩
  | .lui d _ _ => ⟨[d], [], [], decide (d.toNat ≤ 7), none, false⟩
  | .cmpEq p a b m _ => ⟨[a, b], [p], [(m.extractLsb' 1 1, a), (m.extractLsb' 0 1, b)], true, none, false⟩
  | .cmpNe p a b m _ => ⟨[a, b], [p], [(m.extractLsb' 1 1, a), (m.extractLsb' 0 1, b)], true, none, false⟩
  | .cmpLt p a b m _ => ⟨[a, b], [p], [(m.extractLsb' 1 1, a), (m.extractLsb' 0 1, b)], true, none, false⟩
  | .cmpGe p a b m _ => ⟨[a, b], [p], [(m.extractLsb' 1 1, a), (m.extractLsb' 0 1, b)], true, none, false⟩
  | .cmpLtn p a b m _ => ⟨[a, b], [p], [(m.extractLsb' 1 1, a), (m.extractLsb' 0 1, b)], true, none, false⟩
  | .cmpGen p a b m _ => ⟨[a, b], [p], [(m.extractLsb' 1 1, a), (m.extractLsb' 0 1, b)], true, none, false⟩
  | .cmpTst p a b m _ => ⟨[a, b], [p], [(m.extractLsb' 1 1, a), (m.extractLsb' 0 1, b)], true, none, false⟩
  | .cmpTstz p a b m _ => ⟨[a, b], [p], [(m.extractLsb' 1 1, a), (m.extractLsb' 0 1, b)], true, none, false⟩
  | .cmpiEq p a _ m _ => ⟨[a], [p], [(m, a)], true, none, false⟩
  | .cmpiNe p a _ m _ => ⟨[a], [p], [(m, a)], true, none, false⟩
  | .cmpiLt p a _ m _ => ⟨[a], [p], [(m, a)], true, none, false⟩
  | .cmpiGe p a _ m _ => ⟨[a], [p], [(m, a)], true, none, false⟩
  | .cmpiLtn p a _ m _ => ⟨[a], [p], [(m, a)], true, none, false⟩
  | .cmpiGen p a _ m _ => ⟨[a], [p], [(m, a)], true, none, false⟩
  | .sel d a b p h m _ => ⟨[d, a, b], [p.setWidth 5], [(h, d), (m.extractLsb' 1 1, a), (m.extractLsb' 0 1, b)], true, none, false⟩
  | .seln d a b p h m _ => ⟨[d, a, b], [p.setWidth 5], [(h, d), (m.extractLsb' 1 1, a), (m.extractLsb' 0 1, b)], true, none, false⟩
  | .lea1 d a b h m _ => ⟨[d, a, b], [], [(h, d), (m.extractLsb' 1 1, a), (m.extractLsb' 0 1, b)], true, none, false⟩
  | .lea2 d a b h m _ => ⟨[d, a, b], [], [(h, d), (m.extractLsb' 1 1, a), (m.extractLsb' 0 1, b)], true, none, false⟩
  | .lea4 d a b h m _ => ⟨[d, a, b], [], [(h, d), (m.extractLsb' 1 1, a), (m.extractLsb' 0 1, b)], true, none, false⟩
  | .lea8 d a b h m _ => ⟨[d, a, b], [], [(h, d), (m.extractLsb' 1 1, a), (m.extractLsb' 0 1, b)], true, none, false⟩
  | .bfx d a b h m _ => ⟨[d, a, b], [], [(h, d), (m.extractLsb' 1 1, a), (m.extractLsb' 0 1, b)], true, none, false⟩
  | .bfxs d a b h m _ => ⟨[d, a, b], [], [(h, d), (m.extractLsb' 1 1, a), (m.extractLsb' 0 1, b)], true, none, false⟩
  | .bfi d a b h m _ => ⟨[d, a, b], [], [(h, d), (m.extractLsb' 1 1, a), (m.extractLsb' 0 1, b)], decide (d.toNat ≤ 7), none, false⟩
  | .ldS8 d a o _ _ _ => ⟨[d, a], [], [], o != 2, none, false⟩
  | .ldN8 d a o _ _ _ => ⟨[d, a], [], [], o != 2, none, false⟩
  | .ldS16 d a o _ _ _ => ⟨[d, a], [], [], o != 2, none, false⟩
  | .ldN16 d a o _ _ _ => ⟨[d, a], [], [], o != 2, none, false⟩
  | .ldS32 d a o _ _ _ => ⟨[d, a], [], [], o != 2, none, false⟩
  | .ldN32 d a o _ _ _ => ⟨[d, a], [], [], o != 2, none, false⟩
  | .ldx d a o _ _ _ => ⟨[d, a], [], [], o != 2, none, false⟩
  | .stb d a o _ _ _ => ⟨[d, a], [], [], o != 1, none, false⟩
  | .sth d a o _ _ _ => ⟨[d, a], [], [], o != 1, none, false⟩
  | .stw d a o _ _ _ => ⟨[d, a], [], [], o != 1, none, false⟩
  | .stx d a o _ _ _ => ⟨[d, a], [], [], o != 1, none, false⟩
  | .ldF d a o _ _ _ => ⟨[d, a], [], [], o != 2, none, false⟩
  | .ldFe d a o _ _ _ => ⟨[d, a], [], [], o != 2, none, false⟩
  | .stF d a o _ _ _ => ⟨[d, a], [], [], o != 1, none, false⟩
  | .stEf d a o _ _ _ => ⟨[d, a], [], [], o != 1, none, false⟩
  | .amoAdd d a b _ _ _ => ⟨[d, a, b], [], [], true, none, false⟩
  | .amoAnd d a b _ _ _ => ⟨[d, a, b], [], [], true, none, false⟩
  | .amoOr d a b _ _ _ => ⟨[d, a, b], [], [], true, none, false⟩
  | .amoXor d a b _ _ _ => ⟨[d, a, b], [], [], true, none, false⟩
  | .amoMin d a b _ _ _ => ⟨[d, a, b], [], [], true, none, false⟩
  | .amoMax d a b _ _ _ => ⟨[d, a, b], [], [], true, none, false⟩
  | .amoMinn d a b _ _ _ => ⟨[d, a, b], [], [], true, none, false⟩
  | .amoMaxn d a b _ _ _ => ⟨[d, a, b], [], [], true, none, false⟩
  | .amoSwap d a b _ _ _ => ⟨[d, a, b], [], [], true, none, false⟩
  | .amoCas d a b _ _ _ => ⟨[d, a, b], [], [], decide (d.toNat ≤ 7), none, false⟩
  | .waita a b _ => ⟨[a, b], [], [], true, none, false⟩
  | .cbInit a b _ => ⟨[a, b], [], [], true, none, false⟩
  | .cbArr a _ => ⟨[a], [], [], true, none, false⟩
  | .cbExp a b _ => ⟨[a, b], [], [], true, none, false⟩
  | .cbWait a _ => ⟨[a], [], [], true, none, false⟩
  | .cbTest d a _ => ⟨[d, a], [], [], true, none, false⟩
  | .cpy a _ _ _ => ⟨[a], [], [], true, none, false⟩
  | .cpyQ d _ _ => ⟨[d], [], [], true, none, false⟩
  | .ldxM d a o _ _ => ⟨[d, a], [], [], o != 2, none, false⟩
  | .stxM d a o _ _ => ⟨[d, a], [], [], o != 1, none, false⟩
  | .lnch a b o _ _ => ⟨[a, b], [], [], o != 1 && o != 3, none, false⟩
  | .grank d b _ _ => ⟨[d, b], [], [], true, none, false⟩
  | .gsize d b _ _ => ⟨[d, b], [], [], true, none, false⟩
  | .task a _ _ => ⟨[a], [], [], true, none, false⟩
  | .inq d _ _ => ⟨[d], [], [], true, none, false⟩
  | .spal d a h m _ => ⟨[d, a], [], [(h, d), (m, a)], true, none, false⟩
  | .spfree a m _ => ⟨[a], [], [(m, a)], true, none, false⟩
  | .spsz d a h m _ => ⟨[d, a], [], [(h, d), (m, a)], true, none, false⟩
  | .vadd _ _ _ _ => ⟨[], [], [], true, none, false⟩
  | .vsub _ _ _ _ => ⟨[], [], [], true, none, false⟩
  | .vmul _ _ _ _ => ⟨[], [], [], true, none, false⟩
  | .vfma _ _ _ _ => ⟨[], [], [], true, none, false⟩
  | .vfms _ _ _ _ => ⟨[], [], [], true, none, false⟩
  | .vmin _ _ _ _ => ⟨[], [], [], true, none, false⟩
  | .vmax _ _ _ _ => ⟨[], [], [], true, none, false⟩
  | .vabs _ _ _ => ⟨[], [], [], true, none, false⟩
  | .vneg _ _ _ => ⟨[], [], [], true, none, false⟩
  | .vdiv _ _ _ _ => ⟨[], [], [], true, none, false⟩
  | .vsqrt _ _ _ => ⟨[], [], [], true, none, false⟩
  | .viadd _ _ _ _ => ⟨[], [], [], true, none, false⟩
  | .visub _ _ _ _ => ⟨[], [], [], true, none, false⟩
  | .viadds _ _ _ _ => ⟨[], [], [], true, none, false⟩
  | .visubs _ _ _ _ => ⟨[], [], [], true, none, false⟩
  | .viaddn _ _ _ _ => ⟨[], [], [], true, none, false⟩
  | .visubn _ _ _ _ => ⟨[], [], [], true, none, false⟩
  | .vimul _ _ _ _ => ⟨[], [], [], true, none, false⟩
  | .vimulh _ _ _ _ => ⟨[], [], [], true, none, false⟩
  | .vimac _ _ _ _ => ⟨[], [], [], true, none, false⟩
  | .vimin _ _ _ _ => ⟨[], [], [], true, none, false⟩
  | .vimax _ _ _ _ => ⟨[], [], [], true, none, false⟩
  | .viminn _ _ _ _ => ⟨[], [], [], true, none, false⟩
  | .vimaxn _ _ _ _ => ⟨[], [], [], true, none, false⟩
  | .vand _ _ _ _ => ⟨[], [], [], true, none, false⟩
  | .vor _ _ _ _ => ⟨[], [], [], true, none, false⟩
  | .vxor _ _ _ _ => ⟨[], [], [], true, none, false⟩
  | .vshl _ _ _ _ => ⟨[], [], [], true, none, false⟩
  | .vshr _ _ _ _ => ⟨[], [], [], true, none, false⟩
  | .vsar _ _ _ _ => ⟨[], [], [], true, none, false⟩
  | .vsel _ _ _ _ => ⟨[], [], [], true, none, false⟩
  | .vcmpEq _ _ _ => ⟨[], [], [], true, none, false⟩
  | .vcmpNe _ _ _ => ⟨[], [], [], true, none, false⟩
  | .vcmpLt _ _ _ => ⟨[], [], [], true, none, false⟩
  | .vcmpLe _ _ _ => ⟨[], [], [], true, none, false⟩
  | .vcmpUn _ _ _ => ⟨[], [], [], true, none, false⟩
  | .vicmpEq _ _ _ => ⟨[], [], [], true, none, false⟩
  | .vicmpLt _ _ _ => ⟨[], [], [], true, none, false⟩
  | .vicmpLtn _ _ _ => ⟨[], [], [], true, none, false⟩
  | .vmsk _ _ => ⟨[], [], [], true, none, false⟩
  | .vmskall _ => ⟨[], [], [], true, none, false⟩
  | .vcvtBf _ _ _ => ⟨[], [], [], true, none, false⟩
  | .vcvtF8 _ _ _ => ⟨[], [], [], true, none, false⟩
  | .vcvtKb8 _ _ _ _ => ⟨[], [], [], true, none, false⟩
  | .vcvtKb4 _ _ _ _ => ⟨[], [], [], true, none, false⟩
  | .vcvtF32 _ _ _ _ => ⟨[], [], [], true, none, false⟩
  | .vcvtInt _ _ _ => ⟨[], [], [], true, none, false⟩
  | .vcvtFlt _ _ _ => ⟨[], [], [], true, none, false⟩
  | .vnarrow _ _ _ => ⟨[], [], [], true, none, false⟩
  | .vnarrows _ _ _ => ⟨[], [], [], true, none, false⟩
  | .vcvtMr _ _ _ => ⟨[], [], [], true, some 0, false⟩
  | .vexp2 _ _ _ => ⟨[], [], [], true, some 1, false⟩
  | .vlog2 _ _ _ => ⟨[], [], [], true, some 1, false⟩
  | .vrcp _ _ _ => ⟨[], [], [], true, some 1, false⟩
  | .vrsqrt _ _ _ => ⟨[], [], [], true, some 1, false⟩
  | .vsin _ _ _ => ⟨[], [], [], true, some 1, false⟩
  | .vcos _ _ _ => ⟨[], [], [], true, some 1, false⟩
  | .vtanh _ _ _ => ⟨[], [], [], true, some 1, false⟩
  | .vexp _ _ _ => ⟨[], [], [], true, some 1, false⟩
  | .vlse _ _ _ _ => ⟨[], [], [], true, some 1, false⟩
  | .vmadd _ _ _ _ => ⟨[], [], [], true, some 0, false⟩
  | .vmsub _ _ _ _ => ⟨[], [], [], true, some 0, false⟩
  | .vmmul _ _ _ _ => ⟨[], [], [], true, some 0, false⟩
  | .vmmac _ _ _ _ => ⟨[], [], [], true, some 0, false⟩
  | .vmneg _ _ _ => ⟨[], [], [], true, some 0, false⟩
  | .mqset a _ => ⟨[a], [], [], true, some 0, false⟩
  | .bflyCt _ _ _ _ => ⟨[], [], [], true, some 0, false⟩
  | .bflyGs _ _ _ _ => ⟨[], [], [], true, some 0, false⟩
  | .vbst _ _ s _ => ⟨[], [], [], decide (s.toNat ≤ 6), none, false⟩
  | .vrev _ _ _ => ⟨[], [], [], true, none, false⟩
  | .vshuf _ _ _ _ => ⟨[], [], [], true, none, false⟩
  | .vld _ a _ => ⟨[a], [], [], true, none, false⟩
  | .vst _ a _ => ⟨[a], [], [], true, none, false⟩
  | .strbind _ a _ => ⟨[a], [], [], true, none, false⟩
  | .strend _ _ => ⟨[], [], [], true, none, false⟩
  | .vrsum d _ _ => ⟨[d], [], [], true, none, false⟩
  | .vrmax d _ _ => ⟨[d], [], [], true, none, false⟩
  | .vrmin d _ _ => ⟨[d], [], [], true, none, false⟩
  | .vrprod d _ _ => ⟨[d], [], [], true, none, false⟩
  | .vbcast _ a _ => ⟨[a], [], [], true, none, false⟩
  | .vrand _ _ => ⟨[], [], [], true, none, false⟩
  | .vseed a b _ => ⟨[a, b], [], [], true, none, false⟩
  | .ftile a y _ => ⟨[a], [], [], decide (y.toNat ≤ 5), none, false⟩
  | .ftrel a _ => ⟨[a], [], [], true, none, false⟩
  | .vext d _ b _ => ⟨[d, b], [], [], true, none, false⟩
  | .vmov _ _ _ => ⟨[], [], [], true, none, false⟩
  | .tbind d h l y _ => ⟨[], [], [], decide (l.toNat ≤ 5) && decide (y.toNat ≤ 5) && (d != h || l == y), none, false⟩
  | .tfree _ => ⟨[], [], [], true, none, false⟩
  | .tzero _ _ => ⟨[], [], [], true, none, false⟩
  | .tfill _ a _ => ⟨[a], [], [], true, some 2, false⟩
  | .tdrain _ a _ => ⟨[a], [], [], true, some 2, false⟩
  | .rowact a _ => ⟨[a], [], [], true, some 2, false⟩
  | .rowpre a _ => ⟨[a], [], [], true, some 2, false⟩
  | .tld d a b c _ => ⟨[a, b, c], [], [], decide (d.toNat ≤ 1), some 2, false⟩
  | .bld a b c _ => ⟨[a, b, c], [], [], true, some 2, false⟩
  | .mma _ a b _ => ⟨[a, b], [], [], true, some 2, false⟩
  | .mmaZ _ a b _ => ⟨[a, b], [], [], true, some 2, false⟩
  | .mmaM _ a b _ => ⟨[a, b], [], [], true, some 2, false⟩
  | .ckVer _ c _ => ⟨[c], [], [], true, none, false⟩
  | .ckFix _ _ => ⟨[], [], [], true, none, false⟩
  | .ckRd _ b c _ => ⟨[b, c], [], [], true, none, false⟩
  | .ckSig _ c _ => ⟨[c], [], [], true, none, false⟩
  | .ckVerg a c _ => ⟨[a, c], [], [], true, none, false⟩
  | .ckFixg a _ => ⟨[a], [], [], true, none, false⟩
  | .ckRdg a b c _ => ⟨[a, b, c], [], [], true, none, false⟩
  | .ckSigg a c _ => ⟨[a, c], [], [], true, none, false⟩
  | .ttEnq a c _ => ⟨[a, c], [], [], true, none, false⟩
  | .leave a b _ => ⟨[a, b], [], [], true, none, false⟩
  | .leaveRel _ => ⟨[], [], [], true, none, false⟩
  | .lutld a b _ => ⟨[a, b], [], [], true, none, false⟩
  | .fmtw a b c _ => ⟨[a, b, c], [], [], true, none, false⟩
  | .mmag _ a b c _ => ⟨[a, b, c], [], [], true, some 2, false⟩
  | .mmagZ _ a b c _ => ⟨[a, b, c], [], [], true, some 2, false⟩
  | .kvApp a b c _ => ⟨[a, b, c], [], [], true, none, false⟩
  | .kvFind a b c _ => ⟨[a, b, c], [], [], true, none, false⟩
  | .kvFree a b c _ => ⟨[a, b, c], [], [], true, none, false⟩
  | .kvGath a b _ => ⟨[a, b], [], [], true, none, false⟩
  | .rbSel a b c _ => ⟨[a, b, c], [], [], true, none, false⟩
  | .rbSeln a b c _ => ⟨[a, b, c], [], [], true, none, false⟩
  | .embRed a c _ => ⟨[a, c], [], [], true, none, false⟩
  | .dpPlan a b c _ => ⟨[a, b, c], [], [], true, none, false⟩
  | .rpt _ _ _ _ _ _ => ⟨[], [], [], true, none, false⟩
  | .trap _ _ => ⟨[], [], [], true, none, false⟩
  | .brk _ _ => ⟨[], [], [], true, none, false⟩
  | .rte _ => ⟨[], [], [], true, none, true⟩
  | .settle d a _ => ⟨[d, a], [], [], true, none, true⟩
  | .crd d i _ => ⟨[d], [], [], cregOk i, none, cregPriv i⟩
  | .cwr a i _ => ⟨[a], [], [], cregOk i, none, cregPriv i⟩
  | .xrd d a i _ => ⟨[d, a], [], [], decide (i.toNat ≤ 6), none, true⟩
  | .xwr d a i _ => ⟨[d, a], [], [], decide (i.toNat ≤ 5), none, true⟩
  | .preempt d a _ => ⟨[d, a], [], [], true, none, true⟩
  | .freeze a _ => ⟨[a], [], [], true, none, true⟩
  | .thaw a _ => ⟨[a], [], [], true, none, true⟩
  | .stinv d a _ => ⟨[d, a], [], [], true, none, true⟩
  | .halt _ => ⟨[], [], [], true, none, true⟩
  | .idle _ => ⟨[], [], [], true, none, true⟩
  | .kill a _ => ⟨[a], [], [], true, none, true⟩
  | .b p _ => ⟨[], [p.setWidth 5], [], true, none, false⟩
  | .bn p _ => ⟨[], [p.setWidth 5], [], true, none, false⟩
  | .j _ => ⟨[], [], [], true, none, false⟩
  | .call _ => ⟨[], [], [], true, none, false⟩
  | .ret _ => ⟨[], [], [], true, none, false⟩
  | .wpf _ => ⟨[], [], [], true, none, false⟩
  | .pand d a b _ => ⟨[], [d, a, b], [], true, none, false⟩
  | .por d a b _ => ⟨[], [d, a, b], [], true, none, false⟩
  | .pxor d a b _ => ⟨[], [d, a, b], [], true, none, false⟩
  | .pandn d a b _ => ⟨[], [d, a, b], [], true, none, false⟩
  | .pnot d a _ => ⟨[], [d, a], [], true, none, false⟩
  | .pset d _ => ⟨[], [d], [], true, none, false⟩
  | .pclr d _ => ⟨[], [d], [], true, none, false⟩
  | .fenceAcq _ _ => ⟨[], [], [], true, none, false⟩
  | .fenceRel _ _ => ⟨[], [], [], true, none, false⟩
  | .fenceAr _ _ => ⟨[], [], [], true, none, false⟩
  | .fenceSc _ _ => ⟨[], [], [], true, none, false⟩
  | .wait _ => ⟨[], [], [], true, none, false⟩
  | .nop _ => ⟨[], [], [], true, none, false⟩
  | _ => ⟨[], [], [], false, none, false⟩

/-- Every static ILLEGAL condition on the fields of a word (R227, R228, R229, R233, R234, R243, R245, R254): register codes
22 and 23, marks on a code outside 0 to 7, predicate indices of 12 or more, and the values a field's own rule excludes. -/
def legal (i : Instr) : Bool :=
  (formOf i).codes.all (fun c => c != 22 && c != 23) && (formOf i).preds.all (fun p => decide (p.toNat < 12)) &&
    (formOf i).marks.all (fun m => m.1 == 0 || decide (m.2.toNat < 8)) && (formOf i).ok

end Sys2Proof.Machine
end

