-- ==== Sys2Proof/WellFormed.lean ====
section
/-! DEFINITION. The well-formed instructions: those some word of R225 to R245 encodes. -/

namespace Sys2Proof

/-- No field holds a value that R227 makes ILLEGAL; device events have no word and are not well formed. -/
abbrev Instr.WellFormed (i : Instr) : Prop := Machine.legal i = true

end Sys2Proof
end

