-- ==== Sys2Proof/Decode.lean ====
section
/-! DEFINITION. The decoder, total on any bytes, and the encoder, both from the layouts and minor codes of R226 and R240 to
R244; after them the table's numbering of an instruction's bits. -/

namespace Sys2Proof

/-- Why a word is refused (R227): the all-zero word, an unallocated major, an unallocated minor, a nonzero reserved field,
or a field value that the field's rule excludes. -/
inductive Reject where
  | zeroWord | major | minor | reserved | excluded | short
deriving DecidableEq, Repr

/-- A field's value at the place of its lowest bit. -/
def fld {n : Nat} (lo : Nat) (v : BitVec n) : Nat := v.toNat * 2 ^ lo

/-- The sum of the parts of a word. -/
def total : List Nat → Nat
  | [] => 0
  | a :: r => a + total r

/-- A word from its fixed bits and the fields at their places. -/
def word (parts : List Nat) : BitVec 32 := BitVec.ofNat 32 (total parts)

/-- The word of an instruction (R226, R240 to R244); device events have none. -/
def encode : Instr → BitVec 32
  | .jr a m t => word [0x10000040, fld 16 a, fld 4 m, fld 0 t]
  | .callr a m t => word [0x10000080, fld 16 a, fld 4 m, fld 0 t]
  | .yield t => word [0x10000100, fld 0 t]
  | .go a m t => word [0x10000140, fld 16 a, fld 4 m, fld 0 t]
  | .park t => word [0x10000180, fld 0 t]
  | .exit t => word [0x100001c0, fld 0 t]
  | .loop d i t => word [0x14000000, fld 21 d, fld 4 i, fld 0 t]
  | .add d a b h m t => word [0x18000000, fld 21 d, fld 16 a, fld 11 b, fld 5 h, fld 3 m, fld 0 t]
  | .sub d a b h m t => word [0x18000040, fld 21 d, fld 16 a, fld 11 b, fld 5 h, fld 3 m, fld 0 t]
  | .and d a b h m t => word [0x18000080, fld 21 d, fld 16 a, fld 11 b, fld 5 h, fld 3 m, fld 0 t]
  | .or d a b h m t => word [0x180000c0, fld 21 d, fld 16 a, fld 11 b, fld 5 h, fld 3 m, fld 0 t]
  | .xor d a b h m t => word [0x18000100, fld 21 d, fld 16 a, fld 11 b, fld 5 h, fld 3 m, fld 0 t]
  | .andn d a b h m t => word [0x18000140, fld 21 d, fld 16 a, fld 11 b, fld 5 h, fld 3 m, fld 0 t]
  | .shl d a b h m t => word [0x18000180, fld 21 d, fld 16 a, fld 11 b, fld 5 h, fld 3 m, fld 0 t]
  | .shr d a b h m t => word [0x180001c0, fld 21 d, fld 16 a, fld 11 b, fld 5 h, fld 3 m, fld 0 t]
  | .sar d a b h m t => word [0x18000200, fld 21 d, fld 16 a, fld 11 b, fld 5 h, fld 3 m, fld 0 t]
  | .mul d a b h m t => word [0x18000240, fld 21 d, fld 16 a, fld 11 b, fld 5 h, fld 3 m, fld 0 t]
  | .mulh d a b h m t => word [0x18000280, fld 21 d, fld 16 a, fld 11 b, fld 5 h, fld 3 m, fld 0 t]
  | .mulhn d a b h m t => word [0x180002c0, fld 21 d, fld 16 a, fld 11 b, fld 5 h, fld 3 m, fld 0 t]
  | .div d a b h m t => word [0x18000300, fld 21 d, fld 16 a, fld 11 b, fld 5 h, fld 3 m, fld 0 t]
  | .divn d a b h m t => word [0x18000340, fld 21 d, fld 16 a, fld 11 b, fld 5 h, fld 3 m, fld 0 t]
  | .rem d a b h m t => word [0x18000380, fld 21 d, fld 16 a, fld 11 b, fld 5 h, fld 3 m, fld 0 t]
  | .remn d a b h m t => word [0x180003c0, fld 21 d, fld 16 a, fld 11 b, fld 5 h, fld 3 m, fld 0 t]
  | .min d a b h m t => word [0x18000400, fld 21 d, fld 16 a, fld 11 b, fld 5 h, fld 3 m, fld 0 t]
  | .max d a b h m t => word [0x18000440, fld 21 d, fld 16 a, fld 11 b, fld 5 h, fld 3 m, fld 0 t]
  | .minn d a b h m t => word [0x18000480, fld 21 d, fld 16 a, fld 11 b, fld 5 h, fld 3 m, fld 0 t]
  | .maxn d a b h m t => word [0x180004c0, fld 21 d, fld 16 a, fld 11 b, fld 5 h, fld 3 m, fld 0 t]
  | .clz d a h m t => word [0x18000500, fld 21 d, fld 16 a, fld 5 h, fld 4 m, fld 0 t]
  | .ctz d a h m t => word [0x18000540, fld 21 d, fld 16 a, fld 5 h, fld 4 m, fld 0 t]
  | .popc d a h m t => word [0x18000580, fld 21 d, fld 16 a, fld 5 h, fld 4 m, fld 0 t]
  | .addi d a i m t => word [0x1c000000, fld 21 d, fld 16 a, fld 4 i, fld 3 m, fld 0 t]
  | .andi d a i m t => word [0x20000000, fld 21 d, fld 16 a, fld 4 i, fld 3 m, fld 0 t]
  | .ori d a i m t => word [0x24000000, fld 21 d, fld 16 a, fld 4 i, fld 3 m, fld 0 t]
  | .xori d a i m t => word [0x28000000, fld 21 d, fld 16 a, fld 4 i, fld 3 m, fld 0 t]
  | .shli d a n m t => word [0x2c000000, fld 21 d, fld 16 a, fld 4 n, fld 3 m, fld 0 t]
  | .shri d a n m t => word [0x2c004000, fld 21 d, fld 16 a, fld 4 n, fld 3 m, fld 0 t]
  | .sari d a n m t => word [0x2c008000, fld 21 d, fld 16 a, fld 4 n, fld 3 m, fld 0 t]
  | .li d i t => word [0x30000000, fld 21 d, fld 3 i, fld 0 t]
  | .lui d i t => word [0x34000000, fld 21 d, fld 3 i, fld 0 t]
  | .cmpEq p a b m t => word [0x38000000, fld 21 p, fld 16 a, fld 11 b, fld 3 m, fld 0 t]
  | .cmpNe p a b m t => word [0x38000040, fld 21 p, fld 16 a, fld 11 b, fld 3 m, fld 0 t]
  | .cmpLt p a b m t => word [0x38000080, fld 21 p, fld 16 a, fld 11 b, fld 3 m, fld 0 t]
  | .cmpGe p a b m t => word [0x380000c0, fld 21 p, fld 16 a, fld 11 b, fld 3 m, fld 0 t]
  | .cmpLtn p a b m t => word [0x38000100, fld 21 p, fld 16 a, fld 11 b, fld 3 m, fld 0 t]
  | .cmpGen p a b m t => word [0x38000140, fld 21 p, fld 16 a, fld 11 b, fld 3 m, fld 0 t]
  | .cmpTst p a b m t => word [0x38000180, fld 21 p, fld 16 a, fld 11 b, fld 3 m, fld 0 t]
  | .cmpTstz p a b m t => word [0x380001c0, fld 21 p, fld 16 a, fld 11 b, fld 3 m, fld 0 t]
  | .cmpiEq p a i m t => word [0x3c000000, fld 21 p, fld 16 a, fld 4 i, fld 3 m, fld 0 t]
  | .cmpiNe p a i m t => word [0x3c002000, fld 21 p, fld 16 a, fld 4 i, fld 3 m, fld 0 t]
  | .cmpiLt p a i m t => word [0x3c004000, fld 21 p, fld 16 a, fld 4 i, fld 3 m, fld 0 t]
  | .cmpiGe p a i m t => word [0x3c006000, fld 21 p, fld 16 a, fld 4 i, fld 3 m, fld 0 t]
  | .cmpiLtn p a i m t => word [0x3c008000, fld 21 p, fld 16 a, fld 4 i, fld 3 m, fld 0 t]
  | .cmpiGen p a i m t => word [0x3c00a000, fld 21 p, fld 16 a, fld 4 i, fld 3 m, fld 0 t]
  | .sel d a b p h m t => word [0x44000000, fld 21 d, fld 16 a, fld 11 b, fld 6 p, fld 5 h, fld 3 m, fld 0 t]
  | .seln d a b p h m t => word [0x44000400, fld 21 d, fld 16 a, fld 11 b, fld 6 p, fld 5 h, fld 3 m, fld 0 t]
  | .lea1 d a b h m t => word [0x48000000, fld 21 d, fld 16 a, fld 11 b, fld 5 h, fld 3 m, fld 0 t]
  | .lea2 d a b h m t => word [0x48000040, fld 21 d, fld 16 a, fld 11 b, fld 5 h, fld 3 m, fld 0 t]
  | .lea4 d a b h m t => word [0x48000080, fld 21 d, fld 16 a, fld 11 b, fld 5 h, fld 3 m, fld 0 t]
  | .lea8 d a b h m t => word [0x480000c0, fld 21 d, fld 16 a, fld 11 b, fld 5 h, fld 3 m, fld 0 t]
  | .bfx d a b h m t => word [0x4c000000, fld 21 d, fld 16 a, fld 11 b, fld 5 h, fld 3 m, fld 0 t]
  | .bfxs d a b h m t => word [0x4c000040, fld 21 d, fld 16 a, fld 11 b, fld 5 h, fld 3 m, fld 0 t]
  | .bfi d a b h m t => word [0x4c000080, fld 21 d, fld 16 a, fld 11 b, fld 5 h, fld 3 m, fld 0 t]
  | .ldS8 d a o s w f => word [0x50000000, fld 21 d, fld 16 a, fld 14 o, fld 12 s, fld 10 w, fld 0 f]
  | .ldN8 d a o s w f => word [0x54000000, fld 21 d, fld 16 a, fld 14 o, fld 12 s, fld 10 w, fld 0 f]
  | .ldS16 d a o s w f => word [0x58000000, fld 21 d, fld 16 a, fld 14 o, fld 12 s, fld 10 w, fld 0 f]
  | .ldN16 d a o s w f => word [0x5c000000, fld 21 d, fld 16 a, fld 14 o, fld 12 s, fld 10 w, fld 0 f]
  | .ldS32 d a o s w f => word [0x60000000, fld 21 d, fld 16 a, fld 14 o, fld 12 s, fld 10 w, fld 0 f]
  | .ldN32 d a o s w f => word [0x64000000, fld 21 d, fld 16 a, fld 14 o, fld 12 s, fld 10 w, fld 0 f]
  | .ldx d a o s w f => word [0x68000000, fld 21 d, fld 16 a, fld 14 o, fld 12 s, fld 10 w, fld 0 f]
  | .stb d a o s w f => word [0x6c000000, fld 21 d, fld 16 a, fld 14 o, fld 12 s, fld 10 w, fld 0 f]
  | .sth d a o s w f => word [0x70000000, fld 21 d, fld 16 a, fld 14 o, fld 12 s, fld 10 w, fld 0 f]
  | .stw d a o s w f => word [0x74000000, fld 21 d, fld 16 a, fld 14 o, fld 12 s, fld 10 w, fld 0 f]
  | .stx d a o s w f => word [0x78000000, fld 21 d, fld 16 a, fld 14 o, fld 12 s, fld 10 w, fld 0 f]
  | .ldF d a o s w f => word [0x7c000000, fld 21 d, fld 16 a, fld 14 o, fld 12 s, fld 10 w, fld 0 f]
  | .ldFe d a o s w f => word [0x7c000200, fld 21 d, fld 16 a, fld 14 o, fld 12 s, fld 10 w, fld 0 f]
  | .stF d a o s w f => word [0x80000000, fld 21 d, fld 16 a, fld 14 o, fld 12 s, fld 10 w, fld 0 f]
  | .stEf d a o s w f => word [0x80000200, fld 21 d, fld 16 a, fld 14 o, fld 12 s, fld 10 w, fld 0 f]
  | .amoAdd d a b o s w => word [0x84000000, fld 21 d, fld 16 a, fld 11 b, fld 5 o, fld 3 s, fld 1 w]
  | .amoAnd d a b o s w => word [0x84000080, fld 21 d, fld 16 a, fld 11 b, fld 5 o, fld 3 s, fld 1 w]
  | .amoOr d a b o s w => word [0x84000100, fld 21 d, fld 16 a, fld 11 b, fld 5 o, fld 3 s, fld 1 w]
  | .amoXor d a b o s w => word [0x84000180, fld 21 d, fld 16 a, fld 11 b, fld 5 o, fld 3 s, fld 1 w]
  | .amoMin d a b o s w => word [0x84000200, fld 21 d, fld 16 a, fld 11 b, fld 5 o, fld 3 s, fld 1 w]
  | .amoMax d a b o s w => word [0x84000280, fld 21 d, fld 16 a, fld 11 b, fld 5 o, fld 3 s, fld 1 w]
  | .amoMinn d a b o s w => word [0x84000300, fld 21 d, fld 16 a, fld 11 b, fld 5 o, fld 3 s, fld 1 w]
  | .amoMaxn d a b o s w => word [0x84000380, fld 21 d, fld 16 a, fld 11 b, fld 5 o, fld 3 s, fld 1 w]
  | .amoSwap d a b o s w => word [0x84000400, fld 21 d, fld 16 a, fld 11 b, fld 5 o, fld 3 s, fld 1 w]
  | .amoCas d a b o s w => word [0x84000480, fld 21 d, fld 16 a, fld 11 b, fld 5 o, fld 3 s, fld 1 w]
  | .waita a b w => word [0x88000280, fld 16 a, fld 11 b, fld 1 w]
  | .cbInit a b w => word [0x8c000000, fld 16 a, fld 11 b, fld 1 w]
  | .cbArr a w => word [0x8c000080, fld 16 a, fld 1 w]
  | .cbExp a b w => word [0x8c000100, fld 16 a, fld 11 b, fld 1 w]
  | .cbWait a w => word [0x8c000180, fld 16 a, fld 1 w]
  | .cbTest d a w => word [0x8c000200, fld 21 d, fld 16 a, fld 1 w]
  | .cpy a o s w => word [0x90000000, fld 16 a, fld 5 o, fld 3 s, fld 1 w]
  | .cpyQ d s w => word [0x90000080, fld 21 d, fld 3 s, fld 1 w]
  | .ldxM d a o s w => word [0x94000000, fld 21 d, fld 16 a, fld 5 o, fld 3 s, fld 1 w]
  | .stxM d a o s w => word [0x94000080, fld 21 d, fld 16 a, fld 5 o, fld 3 s, fld 1 w]
  | .lnch a b o s w => word [0x98000000, fld 16 a, fld 11 b, fld 5 o, fld 3 s, fld 1 w]
  | .grank d b s w => word [0x98000080, fld 21 d, fld 11 b, fld 3 s, fld 1 w]
  | .gsize d b s w => word [0x98000100, fld 21 d, fld 11 b, fld 3 s, fld 1 w]
  | .task a s w => word [0x98000180, fld 16 a, fld 3 s, fld 1 w]
  | .inq d s w => word [0x98000200, fld 21 d, fld 3 s, fld 1 w]
  | .spal d a h m t => word [0x9c000000, fld 21 d, fld 16 a, fld 5 h, fld 4 m, fld 0 t]
  | .spfree a m t => word [0x9c000040, fld 16 a, fld 4 m, fld 0 t]
  | .spsz d a h m t => word [0x9c000080, fld 21 d, fld 16 a, fld 5 h, fld 4 m, fld 0 t]
  | .vadd d a b t => word [0xa0000000, fld 20 d, fld 14 a, fld 8 b, fld 0 t]
  | .vsub d a b t => word [0xa0000008, fld 20 d, fld 14 a, fld 8 b, fld 0 t]
  | .vmul d a b t => word [0xa0000010, fld 20 d, fld 14 a, fld 8 b, fld 0 t]
  | .vfma d a b t => word [0xa0000018, fld 20 d, fld 14 a, fld 8 b, fld 0 t]
  | .vfms d a b t => word [0xa0000020, fld 20 d, fld 14 a, fld 8 b, fld 0 t]
  | .vmin d a b t => word [0xa0000028, fld 20 d, fld 14 a, fld 8 b, fld 0 t]
  | .vmax d a b t => word [0xa0000030, fld 20 d, fld 14 a, fld 8 b, fld 0 t]
  | .vabs d a t => word [0xa0000038, fld 20 d, fld 14 a, fld 0 t]
  | .vneg d a t => word [0xa0000040, fld 20 d, fld 14 a, fld 0 t]
  | .vdiv d a b t => word [0xa0000048, fld 20 d, fld 14 a, fld 8 b, fld 0 t]
  | .vsqrt d a t => word [0xa0000050, fld 20 d, fld 14 a, fld 0 t]
  | .viadd d a b t => word [0xa4000000, fld 20 d, fld 14 a, fld 8 b, fld 0 t]
  | .visub d a b t => word [0xa4000008, fld 20 d, fld 14 a, fld 8 b, fld 0 t]
  | .viadds d a b t => word [0xa4000010, fld 20 d, fld 14 a, fld 8 b, fld 0 t]
  | .visubs d a b t => word [0xa4000018, fld 20 d, fld 14 a, fld 8 b, fld 0 t]
  | .viaddn d a b t => word [0xa4000020, fld 20 d, fld 14 a, fld 8 b, fld 0 t]
  | .visubn d a b t => word [0xa4000028, fld 20 d, fld 14 a, fld 8 b, fld 0 t]
  | .vimul d a b t => word [0xa4000030, fld 20 d, fld 14 a, fld 8 b, fld 0 t]
  | .vimulh d a b t => word [0xa4000038, fld 20 d, fld 14 a, fld 8 b, fld 0 t]
  | .vimac d a b t => word [0xa4000040, fld 20 d, fld 14 a, fld 8 b, fld 0 t]
  | .vimin d a b t => word [0xa4000048, fld 20 d, fld 14 a, fld 8 b, fld 0 t]
  | .vimax d a b t => word [0xa4000050, fld 20 d, fld 14 a, fld 8 b, fld 0 t]
  | .viminn d a b t => word [0xa4000058, fld 20 d, fld 14 a, fld 8 b, fld 0 t]
  | .vimaxn d a b t => word [0xa4000060, fld 20 d, fld 14 a, fld 8 b, fld 0 t]
  | .vand d a b t => word [0xa4000068, fld 20 d, fld 14 a, fld 8 b, fld 0 t]
  | .vor d a b t => word [0xa4000070, fld 20 d, fld 14 a, fld 8 b, fld 0 t]
  | .vxor d a b t => word [0xa4000078, fld 20 d, fld 14 a, fld 8 b, fld 0 t]
  | .vshl d a b t => word [0xa4000080, fld 20 d, fld 14 a, fld 8 b, fld 0 t]
  | .vshr d a b t => word [0xa4000088, fld 20 d, fld 14 a, fld 8 b, fld 0 t]
  | .vsar d a b t => word [0xa4000090, fld 20 d, fld 14 a, fld 8 b, fld 0 t]
  | .vsel d a b t => word [0xa4000098, fld 20 d, fld 14 a, fld 8 b, fld 0 t]
  | .vcmpEq a b t => word [0xa8000000, fld 14 a, fld 8 b, fld 0 t]
  | .vcmpNe a b t => word [0xa8000008, fld 14 a, fld 8 b, fld 0 t]
  | .vcmpLt a b t => word [0xa8000010, fld 14 a, fld 8 b, fld 0 t]
  | .vcmpLe a b t => word [0xa8000018, fld 14 a, fld 8 b, fld 0 t]
  | .vcmpUn a b t => word [0xa8000020, fld 14 a, fld 8 b, fld 0 t]
  | .vicmpEq a b t => word [0xa8000028, fld 14 a, fld 8 b, fld 0 t]
  | .vicmpLt a b t => word [0xa8000030, fld 14 a, fld 8 b, fld 0 t]
  | .vicmpLtn a b t => word [0xa8000038, fld 14 a, fld 8 b, fld 0 t]
  | .vmsk a t => word [0xa8000040, fld 14 a, fld 0 t]
  | .vmskall t => word [0xa8000048, fld 0 t]
  | .vcvtBf d a t => word [0xac000000, fld 20 d, fld 14 a, fld 0 t]
  | .vcvtF8 d a t => word [0xac000008, fld 20 d, fld 14 a, fld 0 t]
  | .vcvtKb8 d a b t => word [0xac000010, fld 20 d, fld 14 a, fld 8 b, fld 0 t]
  | .vcvtKb4 d a b t => word [0xac000018, fld 20 d, fld 14 a, fld 8 b, fld 0 t]
  | .vcvtF32 d a b t => word [0xac000020, fld 20 d, fld 14 a, fld 8 b, fld 0 t]
  | .vcvtInt d a t => word [0xac000028, fld 20 d, fld 14 a, fld 0 t]
  | .vcvtFlt d a t => word [0xac000030, fld 20 d, fld 14 a, fld 0 t]
  | .vnarrow d a t => word [0xac000038, fld 20 d, fld 14 a, fld 0 t]
  | .vnarrows d a t => word [0xac000040, fld 20 d, fld 14 a, fld 0 t]
  | .vcvtMr d a t => word [0xac000048, fld 20 d, fld 14 a, fld 0 t]
  | .vexp2 d a t => word [0xb0000000, fld 20 d, fld 14 a, fld 0 t]
  | .vlog2 d a t => word [0xb0000008, fld 20 d, fld 14 a, fld 0 t]
  | .vrcp d a t => word [0xb0000010, fld 20 d, fld 14 a, fld 0 t]
  | .vrsqrt d a t => word [0xb0000018, fld 20 d, fld 14 a, fld 0 t]
  | .vsin d a t => word [0xb0000020, fld 20 d, fld 14 a, fld 0 t]
  | .vcos d a t => word [0xb0000028, fld 20 d, fld 14 a, fld 0 t]
  | .vtanh d a t => word [0xb0000030, fld 20 d, fld 14 a, fld 0 t]
  | .vexp d a t => word [0xb0000038, fld 20 d, fld 14 a, fld 0 t]
  | .vlse d a b t => word [0xb0000040, fld 20 d, fld 14 a, fld 8 b, fld 0 t]
  | .vmadd d a b t => word [0xb4000000, fld 20 d, fld 14 a, fld 8 b, fld 0 t]
  | .vmsub d a b t => word [0xb4000008, fld 20 d, fld 14 a, fld 8 b, fld 0 t]
  | .vmmul d a b t => word [0xb4000010, fld 20 d, fld 14 a, fld 8 b, fld 0 t]
  | .vmmac d a b t => word [0xb4000018, fld 20 d, fld 14 a, fld 8 b, fld 0 t]
  | .vmneg d a t => word [0xb4000020, fld 20 d, fld 14 a, fld 0 t]
  | .mqset a t => word [0xb4000028, fld 14 a, fld 0 t]
  | .bflyCt d a b t => word [0xb8000000, fld 20 d, fld 14 a, fld 8 b, fld 0 t]
  | .bflyGs d a b t => word [0xb8000008, fld 20 d, fld 14 a, fld 8 b, fld 0 t]
  | .vbst d a s t => word [0xb8000010, fld 20 d, fld 14 a, fld 8 s, fld 0 t]
  | .vrev d a t => word [0xb8000018, fld 20 d, fld 14 a, fld 0 t]
  | .vshuf d a b t => word [0xb8000020, fld 20 d, fld 14 a, fld 8 b, fld 0 t]
  | .vld d a t => word [0xbc000000, fld 20 d, fld 14 a, fld 0 t]
  | .vst d a t => word [0xbc000008, fld 20 d, fld 14 a, fld 0 t]
  | .strbind d a t => word [0xbc000010, fld 20 d, fld 14 a, fld 0 t]
  | .strend d t => word [0xbc000018, fld 20 d, fld 0 t]
  | .vrsum d a t => word [0xc0000000, fld 20 d, fld 14 a, fld 0 t]
  | .vrmax d a t => word [0xc0000008, fld 20 d, fld 14 a, fld 0 t]
  | .vrmin d a t => word [0xc0000010, fld 20 d, fld 14 a, fld 0 t]
  | .vrprod d a t => word [0xc0000018, fld 20 d, fld 14 a, fld 0 t]
  | .vbcast d a t => word [0xc0000020, fld 20 d, fld 14 a, fld 0 t]
  | .vrand d t => word [0xc0000028, fld 20 d, fld 0 t]
  | .vseed a b t => word [0xc0000030, fld 14 a, fld 8 b, fld 0 t]
  | .ftile a y t => word [0xc0000038, fld 14 a, fld 8 y, fld 0 t]
  | .ftrel a t => word [0xc0000040, fld 14 a, fld 0 t]
  | .vext d a b t => word [0xc0000048, fld 20 d, fld 14 a, fld 8 b, fld 0 t]
  | .vmov d a t => word [0xc0000050, fld 20 d, fld 14 a, fld 0 t]
  | .tbind d h l y t => word [0xc4000000, fld 18 d, fld 15 h, fld 12 l, fld 9 y, fld 0 t]
  | .tfree t => word [0xc4200000, fld 0 t]
  | .tzero d t => word [0xc4400000, fld 18 d, fld 0 t]
  | .tfill d a t => word [0xc4600000, fld 18 d, fld 13 a, fld 0 t]
  | .tdrain d a t => word [0xc4800000, fld 18 d, fld 13 a, fld 0 t]
  | .rowact a t => word [0xc8000000, fld 13 a, fld 0 t]
  | .rowpre a t => word [0xc8200000, fld 13 a, fld 0 t]
  | .tld d a b c t => word [0xc8400000, fld 18 d, fld 13 a, fld 8 b, fld 3 c, fld 0 t]
  | .bld a b c t => word [0xc8600000, fld 13 a, fld 8 b, fld 3 c, fld 0 t]
  | .mma d a b t => word [0xcc000000, fld 18 d, fld 13 a, fld 8 b, fld 0 t]
  | .mmaZ d a b t => word [0xcc200000, fld 18 d, fld 13 a, fld 8 b, fld 0 t]
  | .mmaM d a b t => word [0xcc400000, fld 18 d, fld 13 a, fld 8 b, fld 0 t]
  | .ckVer d c t => word [0xd0000000, fld 18 d, fld 3 c, fld 0 t]
  | .ckFix d t => word [0xd0200000, fld 18 d, fld 0 t]
  | .ckRd d b c t => word [0xd0400000, fld 18 d, fld 8 b, fld 3 c, fld 0 t]
  | .ckSig d c t => word [0xd0600000, fld 18 d, fld 3 c, fld 0 t]
  | .ckVerg a c t => word [0xd0800000, fld 13 a, fld 3 c, fld 0 t]
  | .ckFixg a t => word [0xd0a00000, fld 13 a, fld 0 t]
  | .ckRdg a b c t => word [0xd0c00000, fld 13 a, fld 8 b, fld 3 c, fld 0 t]
  | .ckSigg a c t => word [0xd0e00000, fld 13 a, fld 3 c, fld 0 t]
  | .ttEnq a c t => word [0xd4000000, fld 13 a, fld 3 c, fld 0 t]
  | .leave a b t => word [0xd4200000, fld 13 a, fld 8 b, fld 0 t]
  | .leaveRel t => word [0xd4400000, fld 0 t]
  | .lutld a b t => word [0xd8000000, fld 13 a, fld 8 b, fld 0 t]
  | .fmtw a b c t => word [0xd8200000, fld 13 a, fld 8 b, fld 3 c, fld 0 t]
  | .mmag d a b c t => word [0xdc000000, fld 18 d, fld 13 a, fld 8 b, fld 3 c, fld 0 t]
  | .mmagZ d a b c t => word [0xdc200000, fld 18 d, fld 13 a, fld 8 b, fld 3 c, fld 0 t]
  | .kvApp a b c t => word [0xe0000000, fld 13 a, fld 8 b, fld 3 c, fld 0 t]
  | .kvFind a b c t => word [0xe0200000, fld 13 a, fld 8 b, fld 3 c, fld 0 t]
  | .kvFree a b c t => word [0xe0400000, fld 13 a, fld 8 b, fld 3 c, fld 0 t]
  | .kvGath a b t => word [0xe0600000, fld 13 a, fld 8 b, fld 0 t]
  | .rbSel a b c t => word [0xe4000000, fld 13 a, fld 8 b, fld 3 c, fld 0 t]
  | .rbSeln a b c t => word [0xe4200000, fld 13 a, fld 8 b, fld 3 c, fld 0 t]
  | .embRed a c t => word [0xe8000000, fld 13 a, fld 3 c, fld 0 t]
  | .dpPlan a b c t => word [0xec000000, fld 13 a, fld 8 b, fld 3 c, fld 0 t]
  | .rpt L C D A B t => word [0xf0000000, fld 21 L, fld 15 C, fld 11 D, fld 7 A, fld 3 B, fld 0 t]
  | .trap i t => word [0x00200000, fld 3 i, fld 0 t]
  | .brk i t => word [0x00300000, fld 3 i, fld 0 t]
  | .rte t => word [0x00400000, fld 0 t]
  | .settle d a t => word [0x00500000, fld 15 d, fld 10 a, fld 0 t]
  | .crd d i t => word [0x00600000, fld 15 d, fld 3 i, fld 0 t]
  | .cwr a i t => word [0x00700000, fld 10 a, fld 3 i, fld 0 t]
  | .xrd d a i t => word [0x00800000, fld 15 d, fld 10 a, fld 3 i, fld 0 t]
  | .xwr d a i t => word [0x00900000, fld 15 d, fld 10 a, fld 3 i, fld 0 t]
  | .preempt d a t => word [0x00a00000, fld 15 d, fld 10 a, fld 0 t]
  | .freeze a t => word [0x00b00000, fld 10 a, fld 0 t]
  | .thaw a t => word [0x00c00000, fld 10 a, fld 0 t]
  | .stinv d a t => word [0x00d00000, fld 15 d, fld 10 a, fld 0 t]
  | .halt t => word [0x00e00000, fld 0 t]
  | .idle t => word [0x00f00000, fld 0 t]
  | .kill a t => word [0x01000000, fld 10 a, fld 0 t]
  | .b p o => word [0x04000000, fld 22 p, fld 0 o]
  | .bn p o => word [0x04200000, fld 22 p, fld 0 o]
  | .j o => word [0x08000000, fld 0 o]
  | .call o => word [0x0c000000, fld 0 o]
  | .ret t => word [0x10000000, fld 0 t]
  | .wpf t => word [0x100000c0, fld 0 t]
  | .pand d a b t => word [0x40000000, fld 21 d, fld 16 a, fld 11 b, fld 0 t]
  | .por d a b t => word [0x40000040, fld 21 d, fld 16 a, fld 11 b, fld 0 t]
  | .pxor d a b t => word [0x40000080, fld 21 d, fld 16 a, fld 11 b, fld 0 t]
  | .pandn d a b t => word [0x400000c0, fld 21 d, fld 16 a, fld 11 b, fld 0 t]
  | .pnot d a t => word [0x40000100, fld 21 d, fld 16 a, fld 0 t]
  | .pset d t => word [0x40000140, fld 21 d, fld 0 t]
  | .pclr d t => word [0x40000180, fld 21 d, fld 0 t]
  | .fenceAcq s w => word [0x88000000, fld 3 s, fld 1 w]
  | .fenceRel s w => word [0x88000080, fld 3 s, fld 1 w]
  | .fenceAr s w => word [0x88000100, fld 3 s, fld 1 w]
  | .fenceSc s w => word [0x88000180, fld 3 s, fld 1 w]
  | .wait w => word [0x88000200, fld 1 w]
  | .nop t => word [0x00100000, fld 0 t]
  | _ => 0

/-- The minors of major 0x00 (R240 to R244). -/
noncomputable def fieldsSys (w : BitVec 32) : Option Instr :=
  match w.extractLsb' 20 6 with
  | 2#6 => some (.trap (w.extractLsb' 3 7) (w.extractLsb' 0 3))
  | 3#6 => some (.brk (w.extractLsb' 3 7) (w.extractLsb' 0 3))
  | 4#6 => some (.rte (w.extractLsb' 0 3))
  | 5#6 => some (.settle (w.extractLsb' 15 5) (w.extractLsb' 10 5) (w.extractLsb' 0 3))
  | 6#6 => some (.crd (w.extractLsb' 15 5) (w.extractLsb' 3 7) (w.extractLsb' 0 3))
  | 7#6 => some (.cwr (w.extractLsb' 10 5) (w.extractLsb' 3 7) (w.extractLsb' 0 3))
  | 8#6 => some (.xrd (w.extractLsb' 15 5) (w.extractLsb' 10 5) (w.extractLsb' 3 7) (w.extractLsb' 0 3))
  | 9#6 => some (.xwr (w.extractLsb' 15 5) (w.extractLsb' 10 5) (w.extractLsb' 3 7) (w.extractLsb' 0 3))
  | 10#6 => some (.preempt (w.extractLsb' 15 5) (w.extractLsb' 10 5) (w.extractLsb' 0 3))
  | 11#6 => some (.freeze (w.extractLsb' 10 5) (w.extractLsb' 0 3))
  | 12#6 => some (.thaw (w.extractLsb' 10 5) (w.extractLsb' 0 3))
  | 13#6 => some (.stinv (w.extractLsb' 15 5) (w.extractLsb' 10 5) (w.extractLsb' 0 3))
  | 14#6 => some (.halt (w.extractLsb' 0 3))
  | 15#6 => some (.idle (w.extractLsb' 0 3))
  | 16#6 => some (.kill (w.extractLsb' 10 5) (w.extractLsb' 0 3))
  | 1#6 => some (.nop (w.extractLsb' 0 3))
  | _ => none

/-- The minors of major 0x01 (R240 to R244). -/
noncomputable def fieldsB (w : BitVec 32) : Option Instr :=
  match w.extractLsb' 21 1 with
  | 0#1 => some (.b (w.extractLsb' 22 4) (w.extractLsb' 0 21))
  | 1#1 => some (.bn (w.extractLsb' 22 4) (w.extractLsb' 0 21))

/-- The minors of major 0x04 (R240 to R244). -/
noncomputable def fieldsCtl (w : BitVec 32) : Option Instr :=
  match w.extractLsb' 6 5 with
  | 1#5 => some (.jr (w.extractLsb' 16 5) (w.extractLsb' 4 1) (w.extractLsb' 0 3))
  | 2#5 => some (.callr (w.extractLsb' 16 5) (w.extractLsb' 4 1) (w.extractLsb' 0 3))
  | 4#5 => some (.yield (w.extractLsb' 0 3))
  | 5#5 => some (.go (w.extractLsb' 16 5) (w.extractLsb' 4 1) (w.extractLsb' 0 3))
  | 6#5 => some (.park (w.extractLsb' 0 3))
  | 7#5 => some (.exit (w.extractLsb' 0 3))
  | 0#5 => some (.ret (w.extractLsb' 0 3))
  | 3#5 => some (.wpf (w.extractLsb' 0 3))
  | _ => none

/-- The minors of major 0x06 (R240 to R244). -/
def fieldsAlu (w : BitVec 32) : Option Instr :=
  match w.extractLsb' 6 5 with
  | 0#5 => some (.add (w.extractLsb' 21 5) (w.extractLsb' 16 5) (w.extractLsb' 11 5) (w.extractLsb' 5 1) (w.extractLsb' 3 2) (w.extractLsb' 0 3))
  | 1#5 => some (.sub (w.extractLsb' 21 5) (w.extractLsb' 16 5) (w.extractLsb' 11 5) (w.extractLsb' 5 1) (w.extractLsb' 3 2) (w.extractLsb' 0 3))
  | 2#5 => some (.and (w.extractLsb' 21 5) (w.extractLsb' 16 5) (w.extractLsb' 11 5) (w.extractLsb' 5 1) (w.extractLsb' 3 2) (w.extractLsb' 0 3))
  | 3#5 => some (.or (w.extractLsb' 21 5) (w.extractLsb' 16 5) (w.extractLsb' 11 5) (w.extractLsb' 5 1) (w.extractLsb' 3 2) (w.extractLsb' 0 3))
  | 4#5 => some (.xor (w.extractLsb' 21 5) (w.extractLsb' 16 5) (w.extractLsb' 11 5) (w.extractLsb' 5 1) (w.extractLsb' 3 2) (w.extractLsb' 0 3))
  | 5#5 => some (.andn (w.extractLsb' 21 5) (w.extractLsb' 16 5) (w.extractLsb' 11 5) (w.extractLsb' 5 1) (w.extractLsb' 3 2) (w.extractLsb' 0 3))
  | 6#5 => some (.shl (w.extractLsb' 21 5) (w.extractLsb' 16 5) (w.extractLsb' 11 5) (w.extractLsb' 5 1) (w.extractLsb' 3 2) (w.extractLsb' 0 3))
  | 7#5 => some (.shr (w.extractLsb' 21 5) (w.extractLsb' 16 5) (w.extractLsb' 11 5) (w.extractLsb' 5 1) (w.extractLsb' 3 2) (w.extractLsb' 0 3))
  | 8#5 => some (.sar (w.extractLsb' 21 5) (w.extractLsb' 16 5) (w.extractLsb' 11 5) (w.extractLsb' 5 1) (w.extractLsb' 3 2) (w.extractLsb' 0 3))
  | 9#5 => some (.mul (w.extractLsb' 21 5) (w.extractLsb' 16 5) (w.extractLsb' 11 5) (w.extractLsb' 5 1) (w.extractLsb' 3 2) (w.extractLsb' 0 3))
  | 10#5 => some (.mulh (w.extractLsb' 21 5) (w.extractLsb' 16 5) (w.extractLsb' 11 5) (w.extractLsb' 5 1) (w.extractLsb' 3 2) (w.extractLsb' 0 3))
  | 11#5 => some (.mulhn (w.extractLsb' 21 5) (w.extractLsb' 16 5) (w.extractLsb' 11 5) (w.extractLsb' 5 1) (w.extractLsb' 3 2) (w.extractLsb' 0 3))
  | 12#5 => some (.div (w.extractLsb' 21 5) (w.extractLsb' 16 5) (w.extractLsb' 11 5) (w.extractLsb' 5 1) (w.extractLsb' 3 2) (w.extractLsb' 0 3))
  | 13#5 => some (.divn (w.extractLsb' 21 5) (w.extractLsb' 16 5) (w.extractLsb' 11 5) (w.extractLsb' 5 1) (w.extractLsb' 3 2) (w.extractLsb' 0 3))
  | 14#5 => some (.rem (w.extractLsb' 21 5) (w.extractLsb' 16 5) (w.extractLsb' 11 5) (w.extractLsb' 5 1) (w.extractLsb' 3 2) (w.extractLsb' 0 3))
  | 15#5 => some (.remn (w.extractLsb' 21 5) (w.extractLsb' 16 5) (w.extractLsb' 11 5) (w.extractLsb' 5 1) (w.extractLsb' 3 2) (w.extractLsb' 0 3))
  | 16#5 => some (.min (w.extractLsb' 21 5) (w.extractLsb' 16 5) (w.extractLsb' 11 5) (w.extractLsb' 5 1) (w.extractLsb' 3 2) (w.extractLsb' 0 3))
  | 17#5 => some (.max (w.extractLsb' 21 5) (w.extractLsb' 16 5) (w.extractLsb' 11 5) (w.extractLsb' 5 1) (w.extractLsb' 3 2) (w.extractLsb' 0 3))
  | 18#5 => some (.minn (w.extractLsb' 21 5) (w.extractLsb' 16 5) (w.extractLsb' 11 5) (w.extractLsb' 5 1) (w.extractLsb' 3 2) (w.extractLsb' 0 3))
  | 19#5 => some (.maxn (w.extractLsb' 21 5) (w.extractLsb' 16 5) (w.extractLsb' 11 5) (w.extractLsb' 5 1) (w.extractLsb' 3 2) (w.extractLsb' 0 3))
  | 20#5 => some (.clz (w.extractLsb' 21 5) (w.extractLsb' 16 5) (w.extractLsb' 5 1) (w.extractLsb' 4 1) (w.extractLsb' 0 3))
  | 21#5 => some (.ctz (w.extractLsb' 21 5) (w.extractLsb' 16 5) (w.extractLsb' 5 1) (w.extractLsb' 4 1) (w.extractLsb' 0 3))
  | 22#5 => some (.popc (w.extractLsb' 21 5) (w.extractLsb' 16 5) (w.extractLsb' 5 1) (w.extractLsb' 4 1) (w.extractLsb' 0 3))
  | _ => none

/-- The minors of major 0x0B (R240 to R244). -/
def fieldsShi (w : BitVec 32) : Option Instr :=
  match w.extractLsb' 14 2 with
  | 0#2 => some (.shli (w.extractLsb' 21 5) (w.extractLsb' 16 5) (w.extractLsb' 4 6) (w.extractLsb' 3 1) (w.extractLsb' 0 3))
  | 1#2 => some (.shri (w.extractLsb' 21 5) (w.extractLsb' 16 5) (w.extractLsb' 4 6) (w.extractLsb' 3 1) (w.extractLsb' 0 3))
  | 2#2 => some (.sari (w.extractLsb' 21 5) (w.extractLsb' 16 5) (w.extractLsb' 4 6) (w.extractLsb' 3 1) (w.extractLsb' 0 3))
  | _ => none

/-- The minors of major 0x0E (R240 to R244). -/
def fieldsCmp (w : BitVec 32) : Option Instr :=
  match w.extractLsb' 6 5 with
  | 0#5 => some (.cmpEq (w.extractLsb' 21 5) (w.extractLsb' 16 5) (w.extractLsb' 11 5) (w.extractLsb' 3 2) (w.extractLsb' 0 3))
  | 1#5 => some (.cmpNe (w.extractLsb' 21 5) (w.extractLsb' 16 5) (w.extractLsb' 11 5) (w.extractLsb' 3 2) (w.extractLsb' 0 3))
  | 2#5 => some (.cmpLt (w.extractLsb' 21 5) (w.extractLsb' 16 5) (w.extractLsb' 11 5) (w.extractLsb' 3 2) (w.extractLsb' 0 3))
  | 3#5 => some (.cmpGe (w.extractLsb' 21 5) (w.extractLsb' 16 5) (w.extractLsb' 11 5) (w.extractLsb' 3 2) (w.extractLsb' 0 3))
  | 4#5 => some (.cmpLtn (w.extractLsb' 21 5) (w.extractLsb' 16 5) (w.extractLsb' 11 5) (w.extractLsb' 3 2) (w.extractLsb' 0 3))
  | 5#5 => some (.cmpGen (w.extractLsb' 21 5) (w.extractLsb' 16 5) (w.extractLsb' 11 5) (w.extractLsb' 3 2) (w.extractLsb' 0 3))
  | 6#5 => some (.cmpTst (w.extractLsb' 21 5) (w.extractLsb' 16 5) (w.extractLsb' 11 5) (w.extractLsb' 3 2) (w.extractLsb' 0 3))
  | 7#5 => some (.cmpTstz (w.extractLsb' 21 5) (w.extractLsb' 16 5) (w.extractLsb' 11 5) (w.extractLsb' 3 2) (w.extractLsb' 0 3))
  | _ => none

/-- The minors of major 0x0F (R240 to R244). -/
def fieldsCmpi (w : BitVec 32) : Option Instr :=
  match w.extractLsb' 13 3 with
  | 0#3 => some (.cmpiEq (w.extractLsb' 21 5) (w.extractLsb' 16 5) (w.extractLsb' 4 9) (w.extractLsb' 3 1) (w.extractLsb' 0 3))
  | 1#3 => some (.cmpiNe (w.extractLsb' 21 5) (w.extractLsb' 16 5) (w.extractLsb' 4 9) (w.extractLsb' 3 1) (w.extractLsb' 0 3))
  | 2#3 => some (.cmpiLt (w.extractLsb' 21 5) (w.extractLsb' 16 5) (w.extractLsb' 4 9) (w.extractLsb' 3 1) (w.extractLsb' 0 3))
  | 3#3 => some (.cmpiGe (w.extractLsb' 21 5) (w.extractLsb' 16 5) (w.extractLsb' 4 9) (w.extractLsb' 3 1) (w.extractLsb' 0 3))
  | 4#3 => some (.cmpiLtn (w.extractLsb' 21 5) (w.extractLsb' 16 5) (w.extractLsb' 4 9) (w.extractLsb' 3 1) (w.extractLsb' 0 3))
  | 5#3 => some (.cmpiGen (w.extractLsb' 21 5) (w.extractLsb' 16 5) (w.extractLsb' 4 9) (w.extractLsb' 3 1) (w.extractLsb' 0 3))
  | _ => none

/-- The minors of major 0x10 (R240 to R244). -/
noncomputable def fieldsPred (w : BitVec 32) : Option Instr :=
  match w.extractLsb' 6 5 with
  | 0#5 => some (.pand (w.extractLsb' 21 5) (w.extractLsb' 16 5) (w.extractLsb' 11 5) (w.extractLsb' 0 3))
  | 1#5 => some (.por (w.extractLsb' 21 5) (w.extractLsb' 16 5) (w.extractLsb' 11 5) (w.extractLsb' 0 3))
  | 2#5 => some (.pxor (w.extractLsb' 21 5) (w.extractLsb' 16 5) (w.extractLsb' 11 5) (w.extractLsb' 0 3))
  | 3#5 => some (.pandn (w.extractLsb' 21 5) (w.extractLsb' 16 5) (w.extractLsb' 11 5) (w.extractLsb' 0 3))
  | 4#5 => some (.pnot (w.extractLsb' 21 5) (w.extractLsb' 16 5) (w.extractLsb' 0 3))
  | 5#5 => some (.pset (w.extractLsb' 21 5) (w.extractLsb' 0 3))
  | 6#5 => some (.pclr (w.extractLsb' 21 5) (w.extractLsb' 0 3))
  | _ => none

/-- The minors of major 0x11 (R240 to R244). -/
def fieldsSel (w : BitVec 32) : Option Instr :=
  match w.extractLsb' 10 1 with
  | 0#1 => some (.sel (w.extractLsb' 21 5) (w.extractLsb' 16 5) (w.extractLsb' 11 5) (w.extractLsb' 6 4) (w.extractLsb' 5 1) (w.extractLsb' 3 2) (w.extractLsb' 0 3))
  | 1#1 => some (.seln (w.extractLsb' 21 5) (w.extractLsb' 16 5) (w.extractLsb' 11 5) (w.extractLsb' 6 4) (w.extractLsb' 5 1) (w.extractLsb' 3 2) (w.extractLsb' 0 3))

/-- The minors of major 0x12 (R240 to R244). -/
def fieldsAddr (w : BitVec 32) : Option Instr :=
  match w.extractLsb' 6 5 with
  | 0#5 => some (.lea1 (w.extractLsb' 21 5) (w.extractLsb' 16 5) (w.extractLsb' 11 5) (w.extractLsb' 5 1) (w.extractLsb' 3 2) (w.extractLsb' 0 3))
  | 1#5 => some (.lea2 (w.extractLsb' 21 5) (w.extractLsb' 16 5) (w.extractLsb' 11 5) (w.extractLsb' 5 1) (w.extractLsb' 3 2) (w.extractLsb' 0 3))
  | 2#5 => some (.lea4 (w.extractLsb' 21 5) (w.extractLsb' 16 5) (w.extractLsb' 11 5) (w.extractLsb' 5 1) (w.extractLsb' 3 2) (w.extractLsb' 0 3))
  | 3#5 => some (.lea8 (w.extractLsb' 21 5) (w.extractLsb' 16 5) (w.extractLsb' 11 5) (w.extractLsb' 5 1) (w.extractLsb' 3 2) (w.extractLsb' 0 3))
  | _ => none

/-- The minors of major 0x13 (R240 to R244). -/
def fieldsBitf (w : BitVec 32) : Option Instr :=
  match w.extractLsb' 6 5 with
  | 0#5 => some (.bfx (w.extractLsb' 21 5) (w.extractLsb' 16 5) (w.extractLsb' 11 5) (w.extractLsb' 5 1) (w.extractLsb' 3 2) (w.extractLsb' 0 3))
  | 1#5 => some (.bfxs (w.extractLsb' 21 5) (w.extractLsb' 16 5) (w.extractLsb' 11 5) (w.extractLsb' 5 1) (w.extractLsb' 3 2) (w.extractLsb' 0 3))
  | 2#5 => some (.bfi (w.extractLsb' 21 5) (w.extractLsb' 16 5) (w.extractLsb' 11 5) (w.extractLsb' 5 1) (w.extractLsb' 3 2) (w.extractLsb' 0 3))
  | _ => none

/-- The minors of major 0x1F (R240 to R244). -/
def fieldsLdf (w : BitVec 32) : Option Instr :=
  match w.extractLsb' 9 1 with
  | 0#1 => some (.ldF (w.extractLsb' 21 5) (w.extractLsb' 16 5) (w.extractLsb' 14 2) (w.extractLsb' 12 2) (w.extractLsb' 10 2) (w.extractLsb' 0 9))
  | 1#1 => some (.ldFe (w.extractLsb' 21 5) (w.extractLsb' 16 5) (w.extractLsb' 14 2) (w.extractLsb' 12 2) (w.extractLsb' 10 2) (w.extractLsb' 0 9))

/-- The minors of major 0x20 (R240 to R244). -/
def fieldsStf (w : BitVec 32) : Option Instr :=
  match w.extractLsb' 9 1 with
  | 0#1 => some (.stF (w.extractLsb' 21 5) (w.extractLsb' 16 5) (w.extractLsb' 14 2) (w.extractLsb' 12 2) (w.extractLsb' 10 2) (w.extractLsb' 0 9))
  | 1#1 => some (.stEf (w.extractLsb' 21 5) (w.extractLsb' 16 5) (w.extractLsb' 14 2) (w.extractLsb' 12 2) (w.extractLsb' 10 2) (w.extractLsb' 0 9))

/-- The minors of major 0x21 (R240 to R244). -/
def fieldsAmo (w : BitVec 32) : Option Instr :=
  match w.extractLsb' 7 4 with
  | 0#4 => some (.amoAdd (w.extractLsb' 21 5) (w.extractLsb' 16 5) (w.extractLsb' 11 5) (w.extractLsb' 5 2) (w.extractLsb' 3 2) (w.extractLsb' 1 2))
  | 1#4 => some (.amoAnd (w.extractLsb' 21 5) (w.extractLsb' 16 5) (w.extractLsb' 11 5) (w.extractLsb' 5 2) (w.extractLsb' 3 2) (w.extractLsb' 1 2))
  | 2#4 => some (.amoOr (w.extractLsb' 21 5) (w.extractLsb' 16 5) (w.extractLsb' 11 5) (w.extractLsb' 5 2) (w.extractLsb' 3 2) (w.extractLsb' 1 2))
  | 3#4 => some (.amoXor (w.extractLsb' 21 5) (w.extractLsb' 16 5) (w.extractLsb' 11 5) (w.extractLsb' 5 2) (w.extractLsb' 3 2) (w.extractLsb' 1 2))
  | 4#4 => some (.amoMin (w.extractLsb' 21 5) (w.extractLsb' 16 5) (w.extractLsb' 11 5) (w.extractLsb' 5 2) (w.extractLsb' 3 2) (w.extractLsb' 1 2))
  | 5#4 => some (.amoMax (w.extractLsb' 21 5) (w.extractLsb' 16 5) (w.extractLsb' 11 5) (w.extractLsb' 5 2) (w.extractLsb' 3 2) (w.extractLsb' 1 2))
  | 6#4 => some (.amoMinn (w.extractLsb' 21 5) (w.extractLsb' 16 5) (w.extractLsb' 11 5) (w.extractLsb' 5 2) (w.extractLsb' 3 2) (w.extractLsb' 1 2))
  | 7#4 => some (.amoMaxn (w.extractLsb' 21 5) (w.extractLsb' 16 5) (w.extractLsb' 11 5) (w.extractLsb' 5 2) (w.extractLsb' 3 2) (w.extractLsb' 1 2))
  | 8#4 => some (.amoSwap (w.extractLsb' 21 5) (w.extractLsb' 16 5) (w.extractLsb' 11 5) (w.extractLsb' 5 2) (w.extractLsb' 3 2) (w.extractLsb' 1 2))
  | 9#4 => some (.amoCas (w.extractLsb' 21 5) (w.extractLsb' 16 5) (w.extractLsb' 11 5) (w.extractLsb' 5 2) (w.extractLsb' 3 2) (w.extractLsb' 1 2))
  | _ => none

/-- The minors of major 0x22 (R240 to R244). -/
noncomputable def fieldsFence (w : BitVec 32) : Option Instr :=
  match w.extractLsb' 7 4 with
  | 5#4 => some (.waita (w.extractLsb' 16 5) (w.extractLsb' 11 5) (w.extractLsb' 1 2))
  | 0#4 => some (.fenceAcq (w.extractLsb' 3 2) (w.extractLsb' 1 2))
  | 1#4 => some (.fenceRel (w.extractLsb' 3 2) (w.extractLsb' 1 2))
  | 2#4 => some (.fenceAr (w.extractLsb' 3 2) (w.extractLsb' 1 2))
  | 3#4 => some (.fenceSc (w.extractLsb' 3 2) (w.extractLsb' 1 2))
  | 4#4 => some (.wait (w.extractLsb' 1 2))
  | _ => none

/-- The minors of major 0x23 (R240 to R244). -/
def fieldsCb (w : BitVec 32) : Option Instr :=
  match w.extractLsb' 7 4 with
  | 0#4 => some (.cbInit (w.extractLsb' 16 5) (w.extractLsb' 11 5) (w.extractLsb' 1 2))
  | 1#4 => some (.cbArr (w.extractLsb' 16 5) (w.extractLsb' 1 2))
  | 2#4 => some (.cbExp (w.extractLsb' 16 5) (w.extractLsb' 11 5) (w.extractLsb' 1 2))
  | 3#4 => some (.cbWait (w.extractLsb' 16 5) (w.extractLsb' 1 2))
  | 4#4 => some (.cbTest (w.extractLsb' 21 5) (w.extractLsb' 16 5) (w.extractLsb' 1 2))
  | _ => none

/-- The minors of major 0x24 (R240 to R244). -/
def fieldsCpy (w : BitVec 32) : Option Instr :=
  match w.extractLsb' 7 4 with
  | 0#4 => some (.cpy (w.extractLsb' 16 5) (w.extractLsb' 5 2) (w.extractLsb' 3 2) (w.extractLsb' 1 2))
  | 1#4 => some (.cpyQ (w.extractLsb' 21 5) (w.extractLsb' 3 2) (w.extractLsb' 1 2))
  | _ => none

/-- The minors of major 0x25 (R240 to R244). -/
def fieldsRpc (w : BitVec 32) : Option Instr :=
  match w.extractLsb' 7 4 with
  | 0#4 => some (.ldxM (w.extractLsb' 21 5) (w.extractLsb' 16 5) (w.extractLsb' 5 2) (w.extractLsb' 3 2) (w.extractLsb' 1 2))
  | 1#4 => some (.stxM (w.extractLsb' 21 5) (w.extractLsb' 16 5) (w.extractLsb' 5 2) (w.extractLsb' 3 2) (w.extractLsb' 1 2))
  | _ => none

/-- The minors of major 0x26 (R240 to R244). -/
def fieldsLnch (w : BitVec 32) : Option Instr :=
  match w.extractLsb' 7 4 with
  | 0#4 => some (.lnch (w.extractLsb' 16 5) (w.extractLsb' 11 5) (w.extractLsb' 5 2) (w.extractLsb' 3 2) (w.extractLsb' 1 2))
  | 1#4 => some (.grank (w.extractLsb' 21 5) (w.extractLsb' 11 5) (w.extractLsb' 3 2) (w.extractLsb' 1 2))
  | 2#4 => some (.gsize (w.extractLsb' 21 5) (w.extractLsb' 11 5) (w.extractLsb' 3 2) (w.extractLsb' 1 2))
  | 3#4 => some (.task (w.extractLsb' 16 5) (w.extractLsb' 3 2) (w.extractLsb' 1 2))
  | 4#4 => some (.inq (w.extractLsb' 21 5) (w.extractLsb' 3 2) (w.extractLsb' 1 2))
  | _ => none

/-- The minors of major 0x27 (R240 to R244). -/
def fieldsSpm (w : BitVec 32) : Option Instr :=
  match w.extractLsb' 6 5 with
  | 0#5 => some (.spal (w.extractLsb' 21 5) (w.extractLsb' 16 5) (w.extractLsb' 5 1) (w.extractLsb' 4 1) (w.extractLsb' 0 3))
  | 1#5 => some (.spfree (w.extractLsb' 16 5) (w.extractLsb' 4 1) (w.extractLsb' 0 3))
  | 2#5 => some (.spsz (w.extractLsb' 21 5) (w.extractLsb' 16 5) (w.extractLsb' 5 1) (w.extractLsb' 4 1) (w.extractLsb' 0 3))
  | _ => none

/-- The minors of major 0x28 (R240 to R244). -/
def fieldsVarf (w : BitVec 32) : Option Instr :=
  match w.extractLsb' 3 5 with
  | 0#5 => some (.vadd (w.extractLsb' 20 6) (w.extractLsb' 14 6) (w.extractLsb' 8 6) (w.extractLsb' 0 3))
  | 1#5 => some (.vsub (w.extractLsb' 20 6) (w.extractLsb' 14 6) (w.extractLsb' 8 6) (w.extractLsb' 0 3))
  | 2#5 => some (.vmul (w.extractLsb' 20 6) (w.extractLsb' 14 6) (w.extractLsb' 8 6) (w.extractLsb' 0 3))
  | 3#5 => some (.vfma (w.extractLsb' 20 6) (w.extractLsb' 14 6) (w.extractLsb' 8 6) (w.extractLsb' 0 3))
  | 4#5 => some (.vfms (w.extractLsb' 20 6) (w.extractLsb' 14 6) (w.extractLsb' 8 6) (w.extractLsb' 0 3))
  | 5#5 => some (.vmin (w.extractLsb' 20 6) (w.extractLsb' 14 6) (w.extractLsb' 8 6) (w.extractLsb' 0 3))
  | 6#5 => some (.vmax (w.extractLsb' 20 6) (w.extractLsb' 14 6) (w.extractLsb' 8 6) (w.extractLsb' 0 3))
  | 7#5 => some (.vabs (w.extractLsb' 20 6) (w.extractLsb' 14 6) (w.extractLsb' 0 3))
  | 8#5 => some (.vneg (w.extractLsb' 20 6) (w.extractLsb' 14 6) (w.extractLsb' 0 3))
  | 9#5 => some (.vdiv (w.extractLsb' 20 6) (w.extractLsb' 14 6) (w.extractLsb' 8 6) (w.extractLsb' 0 3))
  | 10#5 => some (.vsqrt (w.extractLsb' 20 6) (w.extractLsb' 14 6) (w.extractLsb' 0 3))
  | _ => none

/-- The minors of major 0x29 (R240 to R244). -/
def fieldsVari (w : BitVec 32) : Option Instr :=
  match w.extractLsb' 3 5 with
  | 0#5 => some (.viadd (w.extractLsb' 20 6) (w.extractLsb' 14 6) (w.extractLsb' 8 6) (w.extractLsb' 0 3))
  | 1#5 => some (.visub (w.extractLsb' 20 6) (w.extractLsb' 14 6) (w.extractLsb' 8 6) (w.extractLsb' 0 3))
  | 2#5 => some (.viadds (w.extractLsb' 20 6) (w.extractLsb' 14 6) (w.extractLsb' 8 6) (w.extractLsb' 0 3))
  | 3#5 => some (.visubs (w.extractLsb' 20 6) (w.extractLsb' 14 6) (w.extractLsb' 8 6) (w.extractLsb' 0 3))
  | 4#5 => some (.viaddn (w.extractLsb' 20 6) (w.extractLsb' 14 6) (w.extractLsb' 8 6) (w.extractLsb' 0 3))
  | 5#5 => some (.visubn (w.extractLsb' 20 6) (w.extractLsb' 14 6) (w.extractLsb' 8 6) (w.extractLsb' 0 3))
  | 6#5 => some (.vimul (w.extractLsb' 20 6) (w.extractLsb' 14 6) (w.extractLsb' 8 6) (w.extractLsb' 0 3))
  | 7#5 => some (.vimulh (w.extractLsb' 20 6) (w.extractLsb' 14 6) (w.extractLsb' 8 6) (w.extractLsb' 0 3))
  | 8#5 => some (.vimac (w.extractLsb' 20 6) (w.extractLsb' 14 6) (w.extractLsb' 8 6) (w.extractLsb' 0 3))
  | 9#5 => some (.vimin (w.extractLsb' 20 6) (w.extractLsb' 14 6) (w.extractLsb' 8 6) (w.extractLsb' 0 3))
  | 10#5 => some (.vimax (w.extractLsb' 20 6) (w.extractLsb' 14 6) (w.extractLsb' 8 6) (w.extractLsb' 0 3))
  | 11#5 => some (.viminn (w.extractLsb' 20 6) (w.extractLsb' 14 6) (w.extractLsb' 8 6) (w.extractLsb' 0 3))
  | 12#5 => some (.vimaxn (w.extractLsb' 20 6) (w.extractLsb' 14 6) (w.extractLsb' 8 6) (w.extractLsb' 0 3))
  | 13#5 => some (.vand (w.extractLsb' 20 6) (w.extractLsb' 14 6) (w.extractLsb' 8 6) (w.extractLsb' 0 3))
  | 14#5 => some (.vor (w.extractLsb' 20 6) (w.extractLsb' 14 6) (w.extractLsb' 8 6) (w.extractLsb' 0 3))
  | 15#5 => some (.vxor (w.extractLsb' 20 6) (w.extractLsb' 14 6) (w.extractLsb' 8 6) (w.extractLsb' 0 3))
  | 16#5 => some (.vshl (w.extractLsb' 20 6) (w.extractLsb' 14 6) (w.extractLsb' 8 6) (w.extractLsb' 0 3))
  | 17#5 => some (.vshr (w.extractLsb' 20 6) (w.extractLsb' 14 6) (w.extractLsb' 8 6) (w.extractLsb' 0 3))
  | 18#5 => some (.vsar (w.extractLsb' 20 6) (w.extractLsb' 14 6) (w.extractLsb' 8 6) (w.extractLsb' 0 3))
  | 19#5 => some (.vsel (w.extractLsb' 20 6) (w.extractLsb' 14 6) (w.extractLsb' 8 6) (w.extractLsb' 0 3))
  | _ => none

/-- The minors of major 0x2A (R240 to R244). -/
def fieldsVcmp (w : BitVec 32) : Option Instr :=
  match w.extractLsb' 3 5 with
  | 0#5 => some (.vcmpEq (w.extractLsb' 14 6) (w.extractLsb' 8 6) (w.extractLsb' 0 3))
  | 1#5 => some (.vcmpNe (w.extractLsb' 14 6) (w.extractLsb' 8 6) (w.extractLsb' 0 3))
  | 2#5 => some (.vcmpLt (w.extractLsb' 14 6) (w.extractLsb' 8 6) (w.extractLsb' 0 3))
  | 3#5 => some (.vcmpLe (w.extractLsb' 14 6) (w.extractLsb' 8 6) (w.extractLsb' 0 3))
  | 4#5 => some (.vcmpUn (w.extractLsb' 14 6) (w.extractLsb' 8 6) (w.extractLsb' 0 3))
  | 5#5 => some (.vicmpEq (w.extractLsb' 14 6) (w.extractLsb' 8 6) (w.extractLsb' 0 3))
  | 6#5 => some (.vicmpLt (w.extractLsb' 14 6) (w.extractLsb' 8 6) (w.extractLsb' 0 3))
  | 7#5 => some (.vicmpLtn (w.extractLsb' 14 6) (w.extractLsb' 8 6) (w.extractLsb' 0 3))
  | 8#5 => some (.vmsk (w.extractLsb' 14 6) (w.extractLsb' 0 3))
  | 9#5 => some (.vmskall (w.extractLsb' 0 3))
  | _ => none

/-- The minors of major 0x2B (R240 to R244). -/
def fieldsVcvt (w : BitVec 32) : Option Instr :=
  match w.extractLsb' 3 5 with
  | 0#5 => some (.vcvtBf (w.extractLsb' 20 6) (w.extractLsb' 14 6) (w.extractLsb' 0 3))
  | 1#5 => some (.vcvtF8 (w.extractLsb' 20 6) (w.extractLsb' 14 6) (w.extractLsb' 0 3))
  | 2#5 => some (.vcvtKb8 (w.extractLsb' 20 6) (w.extractLsb' 14 6) (w.extractLsb' 8 6) (w.extractLsb' 0 3))
  | 3#5 => some (.vcvtKb4 (w.extractLsb' 20 6) (w.extractLsb' 14 6) (w.extractLsb' 8 6) (w.extractLsb' 0 3))
  | 4#5 => some (.vcvtF32 (w.extractLsb' 20 6) (w.extractLsb' 14 6) (w.extractLsb' 8 6) (w.extractLsb' 0 3))
  | 5#5 => some (.vcvtInt (w.extractLsb' 20 6) (w.extractLsb' 14 6) (w.extractLsb' 0 3))
  | 6#5 => some (.vcvtFlt (w.extractLsb' 20 6) (w.extractLsb' 14 6) (w.extractLsb' 0 3))
  | 7#5 => some (.vnarrow (w.extractLsb' 20 6) (w.extractLsb' 14 6) (w.extractLsb' 0 3))
  | 8#5 => some (.vnarrows (w.extractLsb' 20 6) (w.extractLsb' 14 6) (w.extractLsb' 0 3))
  | 9#5 => some (.vcvtMr (w.extractLsb' 20 6) (w.extractLsb' 14 6) (w.extractLsb' 0 3))
  | _ => none

/-- The minors of major 0x2C (R240 to R244). -/
def fieldsVsfu (w : BitVec 32) : Option Instr :=
  match w.extractLsb' 3 5 with
  | 0#5 => some (.vexp2 (w.extractLsb' 20 6) (w.extractLsb' 14 6) (w.extractLsb' 0 3))
  | 1#5 => some (.vlog2 (w.extractLsb' 20 6) (w.extractLsb' 14 6) (w.extractLsb' 0 3))
  | 2#5 => some (.vrcp (w.extractLsb' 20 6) (w.extractLsb' 14 6) (w.extractLsb' 0 3))
  | 3#5 => some (.vrsqrt (w.extractLsb' 20 6) (w.extractLsb' 14 6) (w.extractLsb' 0 3))
  | 4#5 => some (.vsin (w.extractLsb' 20 6) (w.extractLsb' 14 6) (w.extractLsb' 0 3))
  | 5#5 => some (.vcos (w.extractLsb' 20 6) (w.extractLsb' 14 6) (w.extractLsb' 0 3))
  | 6#5 => some (.vtanh (w.extractLsb' 20 6) (w.extractLsb' 14 6) (w.extractLsb' 0 3))
  | 7#5 => some (.vexp (w.extractLsb' 20 6) (w.extractLsb' 14 6) (w.extractLsb' 0 3))
  | 8#5 => some (.vlse (w.extractLsb' 20 6) (w.extractLsb' 14 6) (w.extractLsb' 8 6) (w.extractLsb' 0 3))
  | _ => none

/-- The minors of major 0x2D (R240 to R244). -/
def fieldsVmod (w : BitVec 32) : Option Instr :=
  match w.extractLsb' 3 5 with
  | 0#5 => some (.vmadd (w.extractLsb' 20 6) (w.extractLsb' 14 6) (w.extractLsb' 8 6) (w.extractLsb' 0 3))
  | 1#5 => some (.vmsub (w.extractLsb' 20 6) (w.extractLsb' 14 6) (w.extractLsb' 8 6) (w.extractLsb' 0 3))
  | 2#5 => some (.vmmul (w.extractLsb' 20 6) (w.extractLsb' 14 6) (w.extractLsb' 8 6) (w.extractLsb' 0 3))
  | 3#5 => some (.vmmac (w.extractLsb' 20 6) (w.extractLsb' 14 6) (w.extractLsb' 8 6) (w.extractLsb' 0 3))
  | 4#5 => some (.vmneg (w.extractLsb' 20 6) (w.extractLsb' 14 6) (w.extractLsb' 0 3))
  | 5#5 => some (.mqset (w.extractLsb' 14 5) (w.extractLsb' 0 3))
  | _ => none

/-- The minors of major 0x2E (R240 to R244). -/
def fieldsVperm (w : BitVec 32) : Option Instr :=
  match w.extractLsb' 3 5 with
  | 0#5 => some (.bflyCt (w.extractLsb' 20 6) (w.extractLsb' 14 6) (w.extractLsb' 8 6) (w.extractLsb' 0 3))
  | 1#5 => some (.bflyGs (w.extractLsb' 20 6) (w.extractLsb' 14 6) (w.extractLsb' 8 6) (w.extractLsb' 0 3))
  | 2#5 => some (.vbst (w.extractLsb' 20 6) (w.extractLsb' 14 6) (w.extractLsb' 8 6) (w.extractLsb' 0 3))
  | 3#5 => some (.vrev (w.extractLsb' 20 6) (w.extractLsb' 14 6) (w.extractLsb' 0 3))
  | 4#5 => some (.vshuf (w.extractLsb' 20 6) (w.extractLsb' 14 6) (w.extractLsb' 8 6) (w.extractLsb' 0 3))
  | _ => none

/-- The minors of major 0x2F (R240 to R244). -/
def fieldsVmem (w : BitVec 32) : Option Instr :=
  match w.extractLsb' 3 5 with
  | 0#5 => some (.vld (w.extractLsb' 20 6) (w.extractLsb' 14 5) (w.extractLsb' 0 3))
  | 1#5 => some (.vst (w.extractLsb' 20 6) (w.extractLsb' 14 5) (w.extractLsb' 0 3))
  | 2#5 => some (.strbind (w.extractLsb' 20 6) (w.extractLsb' 14 5) (w.extractLsb' 0 3))
  | 3#5 => some (.strend (w.extractLsb' 20 6) (w.extractLsb' 0 3))
  | _ => none

/-- The minors of major 0x30 (R240 to R244). -/
def fieldsVmisc (w : BitVec 32) : Option Instr :=
  match w.extractLsb' 3 5 with
  | 0#5 => some (.vrsum (w.extractLsb' 20 5) (w.extractLsb' 14 6) (w.extractLsb' 0 3))
  | 1#5 => some (.vrmax (w.extractLsb' 20 5) (w.extractLsb' 14 6) (w.extractLsb' 0 3))
  | 2#5 => some (.vrmin (w.extractLsb' 20 5) (w.extractLsb' 14 6) (w.extractLsb' 0 3))
  | 3#5 => some (.vrprod (w.extractLsb' 20 5) (w.extractLsb' 14 6) (w.extractLsb' 0 3))
  | 4#5 => some (.vbcast (w.extractLsb' 20 6) (w.extractLsb' 14 5) (w.extractLsb' 0 3))
  | 5#5 => some (.vrand (w.extractLsb' 20 6) (w.extractLsb' 0 3))
  | 6#5 => some (.vseed (w.extractLsb' 14 5) (w.extractLsb' 8 5) (w.extractLsb' 0 3))
  | 7#5 => some (.ftile (w.extractLsb' 14 5) (w.extractLsb' 8 6) (w.extractLsb' 0 3))
  | 8#5 => some (.ftrel (w.extractLsb' 14 5) (w.extractLsb' 0 3))
  | 9#5 => some (.vext (w.extractLsb' 20 5) (w.extractLsb' 14 6) (w.extractLsb' 8 5) (w.extractLsb' 0 3))
  | 10#5 => some (.vmov (w.extractLsb' 20 6) (w.extractLsb' 14 6) (w.extractLsb' 0 3))
  | _ => none

/-- The minors of major 0x31 (R240 to R244). -/
def fieldsTile (w : BitVec 32) : Option Instr :=
  match w.extractLsb' 21 5 with
  | 0#5 => some (.tbind (w.extractLsb' 18 3) (w.extractLsb' 15 3) (w.extractLsb' 12 3) (w.extractLsb' 9 3) (w.extractLsb' 0 3))
  | 1#5 => some (.tfree (w.extractLsb' 0 3))
  | 2#5 => some (.tzero (w.extractLsb' 18 3) (w.extractLsb' 0 3))
  | 3#5 => some (.tfill (w.extractLsb' 18 3) (w.extractLsb' 13 5) (w.extractLsb' 0 3))
  | 4#5 => some (.tdrain (w.extractLsb' 18 3) (w.extractLsb' 13 5) (w.extractLsb' 0 3))
  | _ => none

/-- The minors of major 0x32 (R240 to R244). -/
def fieldsRow (w : BitVec 32) : Option Instr :=
  match w.extractLsb' 21 5 with
  | 0#5 => some (.rowact (w.extractLsb' 13 5) (w.extractLsb' 0 3))
  | 1#5 => some (.rowpre (w.extractLsb' 13 5) (w.extractLsb' 0 3))
  | 2#5 => some (.tld (w.extractLsb' 18 3) (w.extractLsb' 13 5) (w.extractLsb' 8 5) (w.extractLsb' 3 5) (w.extractLsb' 0 3))
  | 3#5 => some (.bld (w.extractLsb' 13 5) (w.extractLsb' 8 5) (w.extractLsb' 3 5) (w.extractLsb' 0 3))
  | _ => none

/-- The minors of major 0x33 (R240 to R244). -/
def fieldsMma (w : BitVec 32) : Option Instr :=
  match w.extractLsb' 21 5 with
  | 0#5 => some (.mma (w.extractLsb' 18 3) (w.extractLsb' 13 5) (w.extractLsb' 8 5) (w.extractLsb' 0 3))
  | 1#5 => some (.mmaZ (w.extractLsb' 18 3) (w.extractLsb' 13 5) (w.extractLsb' 8 5) (w.extractLsb' 0 3))
  | 2#5 => some (.mmaM (w.extractLsb' 18 3) (w.extractLsb' 13 5) (w.extractLsb' 8 5) (w.extractLsb' 0 3))
  | _ => none

/-- The minors of major 0x34 (R240 to R244). -/
def fieldsCk (w : BitVec 32) : Option Instr :=
  match w.extractLsb' 21 5 with
  | 0#5 => some (.ckVer (w.extractLsb' 18 3) (w.extractLsb' 3 5) (w.extractLsb' 0 3))
  | 1#5 => some (.ckFix (w.extractLsb' 18 3) (w.extractLsb' 0 3))
  | 2#5 => some (.ckRd (w.extractLsb' 18 3) (w.extractLsb' 8 5) (w.extractLsb' 3 5) (w.extractLsb' 0 3))
  | 3#5 => some (.ckSig (w.extractLsb' 18 3) (w.extractLsb' 3 5) (w.extractLsb' 0 3))
  | 4#5 => some (.ckVerg (w.extractLsb' 13 5) (w.extractLsb' 3 5) (w.extractLsb' 0 3))
  | 5#5 => some (.ckFixg (w.extractLsb' 13 5) (w.extractLsb' 0 3))
  | 6#5 => some (.ckRdg (w.extractLsb' 13 5) (w.extractLsb' 8 5) (w.extractLsb' 3 5) (w.extractLsb' 0 3))
  | 7#5 => some (.ckSigg (w.extractLsb' 13 5) (w.extractLsb' 3 5) (w.extractLsb' 0 3))
  | _ => none

/-- The minors of major 0x35 (R240 to R244). -/
def fieldsTt (w : BitVec 32) : Option Instr :=
  match w.extractLsb' 21 5 with
  | 0#5 => some (.ttEnq (w.extractLsb' 13 5) (w.extractLsb' 3 5) (w.extractLsb' 0 3))
  | 1#5 => some (.leave (w.extractLsb' 13 5) (w.extractLsb' 8 5) (w.extractLsb' 0 3))
  | 2#5 => some (.leaveRel (w.extractLsb' 0 3))
  | _ => none

/-- The minors of major 0x36 (R240 to R244). -/
def fieldsLut (w : BitVec 32) : Option Instr :=
  match w.extractLsb' 21 5 with
  | 0#5 => some (.lutld (w.extractLsb' 13 5) (w.extractLsb' 8 5) (w.extractLsb' 0 3))
  | 1#5 => some (.fmtw (w.extractLsb' 13 5) (w.extractLsb' 8 5) (w.extractLsb' 3 5) (w.extractLsb' 0 3))
  | _ => none

/-- The minors of major 0x37 (R240 to R244). -/
def fieldsMmag (w : BitVec 32) : Option Instr :=
  match w.extractLsb' 21 5 with
  | 0#5 => some (.mmag (w.extractLsb' 18 3) (w.extractLsb' 13 5) (w.extractLsb' 8 5) (w.extractLsb' 3 5) (w.extractLsb' 0 3))
  | 1#5 => some (.mmagZ (w.extractLsb' 18 3) (w.extractLsb' 13 5) (w.extractLsb' 8 5) (w.extractLsb' 3 5) (w.extractLsb' 0 3))
  | _ => none

/-- The minors of major 0x38 (R240 to R244). -/
def fieldsKv (w : BitVec 32) : Option Instr :=
  match w.extractLsb' 21 5 with
  | 0#5 => some (.kvApp (w.extractLsb' 13 5) (w.extractLsb' 8 5) (w.extractLsb' 3 5) (w.extractLsb' 0 3))
  | 1#5 => some (.kvFind (w.extractLsb' 13 5) (w.extractLsb' 8 5) (w.extractLsb' 3 5) (w.extractLsb' 0 3))
  | 2#5 => some (.kvFree (w.extractLsb' 13 5) (w.extractLsb' 8 5) (w.extractLsb' 3 5) (w.extractLsb' 0 3))
  | 3#5 => some (.kvGath (w.extractLsb' 13 5) (w.extractLsb' 8 5) (w.extractLsb' 0 3))
  | _ => none

/-- The minors of major 0x39 (R240 to R244). -/
def fieldsRind (w : BitVec 32) : Option Instr :=
  match w.extractLsb' 21 5 with
  | 0#5 => some (.rbSel (w.extractLsb' 13 5) (w.extractLsb' 8 5) (w.extractLsb' 3 5) (w.extractLsb' 0 3))
  | 1#5 => some (.rbSeln (w.extractLsb' 13 5) (w.extractLsb' 8 5) (w.extractLsb' 3 5) (w.extractLsb' 0 3))
  | _ => none

/-- The minors of major 0x3A (R240 to R244). -/
def fieldsEmb (w : BitVec 32) : Option Instr :=
  match w.extractLsb' 21 5 with
  | 0#5 => some (.embRed (w.extractLsb' 13 5) (w.extractLsb' 3 5) (w.extractLsb' 0 3))
  | _ => none

/-- The minors of major 0x3B (R240 to R244). -/
def fieldsPlan (w : BitVec 32) : Option Instr :=
  match w.extractLsb' 21 5 with
  | 0#5 => some (.dpPlan (w.extractLsb' 13 5) (w.extractLsb' 8 5) (w.extractLsb' 3 5) (w.extractLsb' 0 3))
  | _ => none

/-- The instruction whose major and minor codes a word carries, its fields cut out where R226 places them, but for the majors of `fields` below. -/
def fieldsPlain (w : BitVec 32) : Option Instr :=
  match w.extractLsb' 26 6 with
  | 0x05#6 => some (.loop (w.extractLsb' 21 5) (w.extractLsb' 4 12) (w.extractLsb' 0 3))
  | 0x06#6 => fieldsAlu w
  | 0x07#6 => some (.addi (w.extractLsb' 21 5) (w.extractLsb' 16 5) (w.extractLsb' 4 12) (w.extractLsb' 3 1) (w.extractLsb' 0 3))
  | 0x08#6 => some (.andi (w.extractLsb' 21 5) (w.extractLsb' 16 5) (w.extractLsb' 4 12) (w.extractLsb' 3 1) (w.extractLsb' 0 3))
  | 0x09#6 => some (.ori (w.extractLsb' 21 5) (w.extractLsb' 16 5) (w.extractLsb' 4 12) (w.extractLsb' 3 1) (w.extractLsb' 0 3))
  | 0x0a#6 => some (.xori (w.extractLsb' 21 5) (w.extractLsb' 16 5) (w.extractLsb' 4 12) (w.extractLsb' 3 1) (w.extractLsb' 0 3))
  | 0x0b#6 => fieldsShi w
  | 0x0c#6 => some (.li (w.extractLsb' 21 5) (w.extractLsb' 3 18) (w.extractLsb' 0 3))
  | 0x0d#6 => some (.lui (w.extractLsb' 21 5) (w.extractLsb' 3 18) (w.extractLsb' 0 3))
  | 0x0e#6 => fieldsCmp w
  | 0x0f#6 => fieldsCmpi w
  | 0x11#6 => fieldsSel w
  | 0x12#6 => fieldsAddr w
  | 0x13#6 => fieldsBitf w
  | 0x14#6 => some (.ldS8 (w.extractLsb' 21 5) (w.extractLsb' 16 5) (w.extractLsb' 14 2) (w.extractLsb' 12 2) (w.extractLsb' 10 2) (w.extractLsb' 0 10))
  | 0x15#6 => some (.ldN8 (w.extractLsb' 21 5) (w.extractLsb' 16 5) (w.extractLsb' 14 2) (w.extractLsb' 12 2) (w.extractLsb' 10 2) (w.extractLsb' 0 10))
  | 0x16#6 => some (.ldS16 (w.extractLsb' 21 5) (w.extractLsb' 16 5) (w.extractLsb' 14 2) (w.extractLsb' 12 2) (w.extractLsb' 10 2) (w.extractLsb' 0 10))
  | 0x17#6 => some (.ldN16 (w.extractLsb' 21 5) (w.extractLsb' 16 5) (w.extractLsb' 14 2) (w.extractLsb' 12 2) (w.extractLsb' 10 2) (w.extractLsb' 0 10))
  | 0x18#6 => some (.ldS32 (w.extractLsb' 21 5) (w.extractLsb' 16 5) (w.extractLsb' 14 2) (w.extractLsb' 12 2) (w.extractLsb' 10 2) (w.extractLsb' 0 10))
  | 0x19#6 => some (.ldN32 (w.extractLsb' 21 5) (w.extractLsb' 16 5) (w.extractLsb' 14 2) (w.extractLsb' 12 2) (w.extractLsb' 10 2) (w.extractLsb' 0 10))
  | 0x1a#6 => some (.ldx (w.extractLsb' 21 5) (w.extractLsb' 16 5) (w.extractLsb' 14 2) (w.extractLsb' 12 2) (w.extractLsb' 10 2) (w.extractLsb' 0 10))
  | 0x1b#6 => some (.stb (w.extractLsb' 21 5) (w.extractLsb' 16 5) (w.extractLsb' 14 2) (w.extractLsb' 12 2) (w.extractLsb' 10 2) (w.extractLsb' 0 10))
  | 0x1c#6 => some (.sth (w.extractLsb' 21 5) (w.extractLsb' 16 5) (w.extractLsb' 14 2) (w.extractLsb' 12 2) (w.extractLsb' 10 2) (w.extractLsb' 0 10))
  | 0x1d#6 => some (.stw (w.extractLsb' 21 5) (w.extractLsb' 16 5) (w.extractLsb' 14 2) (w.extractLsb' 12 2) (w.extractLsb' 10 2) (w.extractLsb' 0 10))
  | 0x1e#6 => some (.stx (w.extractLsb' 21 5) (w.extractLsb' 16 5) (w.extractLsb' 14 2) (w.extractLsb' 12 2) (w.extractLsb' 10 2) (w.extractLsb' 0 10))
  | 0x1f#6 => fieldsLdf w
  | 0x20#6 => fieldsStf w
  | 0x21#6 => fieldsAmo w
  | 0x23#6 => fieldsCb w
  | 0x24#6 => fieldsCpy w
  | 0x25#6 => fieldsRpc w
  | 0x26#6 => fieldsLnch w
  | 0x27#6 => fieldsSpm w
  | 0x28#6 => fieldsVarf w
  | 0x29#6 => fieldsVari w
  | 0x2a#6 => fieldsVcmp w
  | 0x2b#6 => fieldsVcvt w
  | 0x2c#6 => fieldsVsfu w
  | 0x2d#6 => fieldsVmod w
  | 0x2e#6 => fieldsVperm w
  | 0x2f#6 => fieldsVmem w
  | 0x30#6 => fieldsVmisc w
  | 0x31#6 => fieldsTile w
  | 0x32#6 => fieldsRow w
  | 0x33#6 => fieldsMma w
  | 0x34#6 => fieldsCk w
  | 0x35#6 => fieldsTt w
  | 0x36#6 => fieldsLut w
  | 0x37#6 => fieldsMmag w
  | 0x38#6 => fieldsKv w
  | 0x39#6 => fieldsRind w
  | 0x3a#6 => fieldsEmb w
  | 0x3b#6 => fieldsPlan w
  | 0x3c#6 => some (.rpt (w.extractLsb' 21 4) (w.extractLsb' 15 6) (w.extractLsb' 11 4) (w.extractLsb' 7 4) (w.extractLsb' 3 4) (w.extractLsb' 0 3))
  | _ => none

/-- The instruction whose major and minor codes a word carries. -/
noncomputable def fields (w : BitVec 32) : Option Instr :=
  match w.extractLsb' 26 6 with
  | 0x00#6 => fieldsSys w
  | 0x01#6 => fieldsB w
  | 0x02#6 => some (.j (w.extractLsb' 0 26))
  | 0x03#6 => some (.call (w.extractLsb' 0 26))
  | 0x04#6 => fieldsCtl w
  | 0x10#6 => fieldsPred w
  | 0x22#6 => fieldsFence w
  | _ => fieldsPlain w

/-- Decoding (R227): a word is refused by name, or gives its instruction. -/
noncomputable def decode (w : BitVec 32) : Except Reject Instr :=
  match fields w with
  | none => .error (if w = 0 then .zeroWord else if 61 ≤ (w.extractLsb' 26 6).toNat then .major else .minor)
  | some i => if encode i = w then if Machine.legal i then .ok i else .error .excluded else .error .reserved

/-- The instruction at the head of a byte sequence, with the bytes that follow it: words are little-endian (R225). -/
noncomputable def decodeBytes : List Byte → Except Reject (Instr × List Byte)
  | b0 :: b1 :: b2 :: b3 :: rest => (decode (b3 ++ b2 ++ b1 ++ b0)).map fun i => (i, rest)
  | _ => .error .short

/-- The instruction the decoder reads from a word numbered as spec/opcode_table.json numbers its bits. -/
noncomputable def decodeTableWord (_nbits w : Nat) : Option Instr :=
  match decodeBytes [BitVec.ofNat 8 w, BitVec.ofNat 8 (w / 2 ^ 8), BitVec.ofNat 8 (w / 2 ^ 16), BitVec.ofNat 8 (w / 2 ^ 24)] with
  | .ok (i, _) => some i
  | .error _ => none

end Sys2Proof
end

