-- ==== Sys2Proof/Config.lean ====
section
/-! DEFINITION. What an implementation fixes or the spec leaves open: free values, as opaque constants that no proof can see
through. -/

namespace Sys2Proof.Config

/-- An xword the spec does not give: applied to the counter `State.free` (notes/assumptions/11.md). -/
opaque freeXword : Nat → BitVec 64

/-- PADDR of a request to an address of another core's scratchpad that no allocation gives a byte (R123, R133;
notes/assumptions/141.md). -/
opaque missPaddr : BitVec 48 → BitVec 44

/-- What stands for the modulus of a lane register that holds zero, by lane (notes/assumptions/122.md). -/
opaque laneModulus : Nat → BitVec 64

/-- Byte 9 of an event-log entry whose source has neither a cluster nor a link, by kind (R430). -/
opaque logUnit : Nat → BitVec 8

/-- Bytes 16 to 31 of an event-log entry, by kind and what its source has to say: R430 gives no coding. -/
opaque logDetail : Nat → Nat → BitVec 128

/-- The byte offset of a field of a firmware header: 0 for VER, 1 for BODY, 2 for SIG_E, 3 for SIG_L. R428 lists the fields and
gives no offsets (notes/assumptions/138.md). -/
opaque headerAt : Nat → Nat

/-- Whether an ECDSA P-384 signature over some bytes verifies against the fused key, which the spec does not give (R428). -/
opaque ecdsaVerifies : List (BitVec 8) → List (BitVec 8) → Bool

/-- Whether an LMS signature over some bytes verifies against the fused key, which the spec does not give (R428). -/
opaque lmsVerifies : List (BitVec 8) → List (BitVec 8) → Bool

/-- The serial number of the device (R429); its eight bytes are the model's (notes/assumptions/139.md). -/
opaque serial : BitVec 64

/-- The column remap of R16, as the attestation report digests it (R429). -/
opaque columnRemap : List (BitVec 8)

/-- The ECDSA P-384 signature of an attestation report over its bytes, two numbers of 384 bits, under a key the spec does not give
(R429). -/
opaque attestSignature : List (BitVec 8) → BitVec 768

/-- A row the spec leaves open. -/
opaque freeRow : Nat → BitVec 1024

end Sys2Proof.Config
end

