-- ==== Sys2Proof/Machine/Bits.lean ====
section
/-! DEFINITION. Bit fields, byte order and keyed lists: the helpers every other file uses (R8, R247). -/

namespace Sys2Proof.Machine

/-! ## Numbers and bits -/

/-- `bits(v, hi, lo)` of R247. -/
def bitsOf (v hi lo : Nat) : Nat := v / 2 ^ lo % 2 ^ (hi + 1 - lo)

/-- Bit `i` of a number. -/
def bitAt (v i : Nat) : Bool := v / 2 ^ i % 2 == 1

/-- `sx(v, n)` of R247: the low `n` bits read as two's complement. -/
def sx (n : Nat) (v : Nat) : Int :=
  let u := v % 2 ^ n
  if u < 2 ^ (n - 1) then u else (u : Int) - 2 ^ n

/-- A 48-bit value as a signed xword (the `sx(rd, 48) as 64 bits` of R279, R280). -/
def sxWord (v : Word) : XWord := v.signExtend 64

/-- Bits 47:0 of an xword. -/
def lowWord (v : XWord) : Word := v.setWidth 48

/-- The truth of a proposition as a bit. -/
def bit (b : Bool) : Nat := if b then 1 else 0

/-- `⌊log2 v⌋`, zero for zero. -/
def log2 (v : Nat) : Nat := Nat.log2 v

/-- The lesser of two numbers, saturating counters (R144). -/
def sat (limit v : Nat) : Nat := if v < limit then v else limit

/-- The field of width `w` at `lo` of a register replaced. -/
def setField {n : Nat} (r : BitVec n) (lo w v : Nat) : BitVec n :=
  BitVec.ofNat n (r.toNat - (r.toNat / 2 ^ lo % 2 ^ w) * 2 ^ lo + (v % 2 ^ w) * 2 ^ lo)

/-- Adds to a saturating counter field (R144, R199). -/
def bump {n : Nat} (r : BitVec n) (lo w k : Nat) : BitVec n :=
  setField r lo w (min (2 ^ w - 1) (r.toNat / 2 ^ lo % 2 ^ w + k))

/-! ## Bytes (R8) -/

/-- The `n` low bytes of a number, least significant first. -/
def leBytes : Nat → Nat → List Byte
  | 0, _ => []
  | n + 1, v => BitVec.ofNat 8 v :: leBytes n (v / 256)

/-- The number little-endian bytes stand for. -/
def leNat : List Byte → Nat
  | [] => 0
  | b :: r => b.toNat + 256 * leNat r

/-- `n` little-endian bytes starting at offset `o` of a record. -/
def fieldAt (bs : List Byte) (o n : Nat) : Nat := leNat ((bs.drop o).take n)

/-- Pads a record with zero bytes to a length. -/
def padTo (n : Nat) (bs : List Byte) : List Byte := bs ++ List.replicate (n - bs.length) 0

/-- Overwrites part of a record. -/
def patch (bs : List Byte) (o : Nat) (new : List Byte) : List Byte := bs.take o ++ new ++ bs.drop (o + new.length)

/-- Cuts a list into parts of `w` elements. -/
def chunks {α : Type} (w : Nat) : Nat → List α → List (List α)
  | 0, _ => []
  | n + 1, l => l.take w :: chunks w n (l.drop w)

/-! ## Keyed lists -/

/-- The value listed under a key. -/
def look {α : Type} (k : Nat) : List (Nat × α) → Option α
  | [] => none
  | (i, v) :: r => if i = k then some v else look k r

/-- Lists a value under a key, keeping the keys in rising order. -/
def put {α : Type} (k : Nat) (v : α) : List (Nat × α) → List (Nat × α)
  | [] => [(k, v)]
  | (i, w) :: r => if i = k then (k, v) :: r else if k < i then (k, v) :: (i, w) :: r else (i, w) :: put k v r

/-- Removes a key. -/
def del {α : Type} (k : Nat) (m : List (Nat × α)) : List (Nat × α) := m.filter fun e => e.1 != k

/-- A number added to a rising list without repeats. -/
def insertNat (k : Nat) : List Nat → List Nat
  | [] => [k]
  | i :: r => if i = k then i :: r else if k < i then k :: i :: r else i :: insertNat k r

/-- Replaces the element at a position. -/
def setAt {α : Type} (l : List α) (i : Nat) (v : α) : List α := l.set i v

/-- Removes the element at a position. -/
def dropAt {α : Type} (l : List α) (i : Nat) : List α := l.take i ++ l.drop (i + 1)

/-- The first element, with its position, that a test accepts. -/
def findFrom {α : Type} (p : α → Bool) : Nat → List α → Option (Nat × α)
  | _, [] => none
  | i, v :: r => if p v then some (i, v) else findFrom p (i + 1) r

/-- The lowest number below `n` that a test accepts. -/
def lowestBelow (n : Nat) (p : Nat → Bool) : Option Nat := (List.range n).find? p

/-- The least element under a measure; the first among equals. -/
def leastBy {α : Type} (f : α → Nat) : List α → Option α
  | [] => none
  | v :: r => match leastBy f r with
    | none => some v
    | some w => if f w < f v then some w else some v

/-- The sum of a list under a measure. -/
def sumBy {α : Type} (f : α → Nat) (l : List α) : Nat := l.foldl (fun a v => a + f v) 0

/-- Applies a step to every number below `n`, in rising order. -/
def upTo {σ : Type} (n : Nat) (f : σ → Nat → σ) (s : σ) : σ := (List.range n).foldl f s

end Sys2Proof.Machine
end

