-- ==== Sys2Proof/Machine/State.lean ====
section
/-! DEFINITION. The whole device as plain data: every piece of state the spec names, the fault and refusal reasons, and
the machine right after reset (R431, R433). Per-core, per-cluster and per-station state is a list of (index, value) pairs in
which an index that is not listed holds its reset value. -/

namespace Sys2Proof.Machine

/-! ## Reasons to stop -/

/-- The spec gives every event of the device a trap, a status or a log entry, so the one reason to stop is a move that
names a unit the device does not have. -/
inductive Fault where
  /-- Raised by `step` when the next move names a core above 1,023 or a slot above 7 (R17, R18); safe, the model stops. -/
  | noSuchUnit
deriving DecidableEq, Repr

/-- Reasons for which the model gives an instruction no meaning. -/
inductive Refusal where
  /-- Raised by `exec` for an instruction whose meaning is not written; safe, the model stops. -/
  | notModelled (mnemonic : String)
deriving DecidableEq, Repr

/-! ## Causes, memory -/

/-- The trap causes of R376, by name. -/
inductive Cause where
  | illegal | priv | understall | expired | poison | spill | fill | feature | align | xlate | prot | refused
  | waitlim | eccue | cksum | tldtherm | luttag | preempt | brk | syscall | group | audit
deriving DecidableEq, Repr

/-- A byte-addressed memory: (address, byte) pairs with addresses strictly rising and no byte equal to what an unlisted
address reads as. -/
abbrev Memory := List Host.Cell

/-- A strand, named by its launch and its number (R38). -/
structure StrandId where
  lid : BitVec 16
  sid : Nat
deriving DecidableEq, Repr

/-! ## Registers of a barrel slot -/

/-- One register of the window file (R78): its value, the cycle of the marked write while it carries a short-lived
mark (R79), whether that mark has lapsed, whether it is live (R80), the barrel turn from which a consumer may read it
(R231), and whether its parity fails when the bank is next checked (R81). -/
structure Reg where
  val    : Word
  mark   : Option Nat
  lapsed : Bool
  live   : Bool
  ready  : Nat
  bad    : Bool
deriving DecidableEq, Repr

/-- The power states of a quad bank (R81). -/
inductive BankPower where
  | on | retention | gated
deriving DecidableEq, Repr

/-- A quad bank (R78): four registers, its power state, the cycle of the last access, the parity failures since bring-up (R407), and
whether it holds registers that a parity check has poisoned and no access has yet reported (R81, R254). -/
structure Quad where
  r0 : Reg
  r1 : Reg
  r2 : Reg
  r3 : Reg
  power   : BankPower
  touched : Nat
  fails   : Nat
  poison  : Bool
deriving DecidableEq, Repr

/-- An older window (R73, R74): its registers, its save address, whether it lies in the window file or in the stack
store (R75), and whether its stack-store words hold an error that no read can correct, or one that the next read corrects (R406). -/
structure OldWin where
  quad   : Quad
  save   : Word
  inFile : Bool
  spoilt : Bool
  flawed : Bool
deriving DecidableEq, Repr

/-- The strand bound to a slot (R36, R38, R58, R59). -/
structure Bound where
  id     : StrandId
  pid    : BitVec 16
  base   : BitVec 5
  eff    : BitVec 5
  handle : BitVec 12
  hops   : BitVec 4
  lrec   : BitVec 48
deriving DecidableEq, Repr

/-- A repeat frame being replayed (R236, R238). -/
structure Frame where
  addr  : Word
  words : List (BitVec 32)
  cnt   : Nat
  sd : Int
  sa : Int
  sb : Int
  pos : Nat
  rep : Nat
deriving DecidableEq, Repr

/-- The kinds of stream binding (R314). -/
inductive StreamKind where
  | inPattern | outPattern | inChannel | outChannel
deriving DecidableEq, Repr

/-- One place of a stream FIFO (R86, R316): the entry, or the fault its read met, and the granules of its read still on their way, each
with its request's number (R299). -/
structure FifoEntry where
  row   : Row
  fault : Option Cause
  addr  : Word
  wait  : List (Nat × BitVec 16)
deriving DecidableEq, Repr

/-- A bound stream (R86, R314): its number, the vector name it binds, the captured descriptor, how many entries have
been read ahead or pushed, how many have been popped or written, its FIFO, and the place of an access of its pattern that waits for a
tag (R136). -/
structure Stream where
  num   : Nat
  vd    : BitVec 6
  kind  : StreamKind
  dir   : Nat
  base  : Word
  cnt   : Nat
  icnt  : Nat
  istr  : Int
  ostr  : Int
  ahead : Nat
  done  : Nat
  fifo  : List FifoEntry
  tag   : Option Nat
deriving DecidableEq, Repr

/-- A tile binding (R84, R331). -/
structure Binding where
  lo  : Nat
  hi  : Nat
  tyl : BitVec 3
  tyh : BitVec 3
deriving DecidableEq, Repr

/-- A leave in force (R349): what is left of its energy, and its current. -/
structure Leave where
  owner   : StrandId
  energy  : Nat
  current : Nat
deriving DecidableEq, Repr

/-! ## Work sent off by a strand -/

/-- The routes of R276 by the counter class of R170; `moot` is a posted store its station has not translated. -/
inductive Cls where
  | zero | one | two | three | moot
deriving DecidableEq, Repr

/-- An engine command's captured values (R106, R327, R339, R378, R386): the command word, the form's operand word, the format, scale
pointers, the captured FPC, the code table, the process, the privilege and the strand that issued it. `scales` holds the scale words of
A that the engine has read, by block and row. -/
structure MmaOp where
  cmd    : BitVec 32
  acct   : BitVec 16
  td     : Nat
  zero   : Bool
  fromTile : Bool
  word   : Word
  fmt    : BitVec 32
  sca    : Word
  scb    : Word
  fpc    : BitVec 32
  lut    : List (BitVec 8)
  pid    : BitVec 16
  prv    : Bool
  id     : StrandId
  slot   : Nat
  bar    : Word
  started : Nat
  blocks : Nat
  resumed : Bool
  entry  : Option Nat
  group  : Option (Nat × Nat × Nat)
  got    : Nat
  task   : Option Nat
  scales : List (List Nat)
deriving DecidableEq, Repr

/-- A copy descriptor's captured fields, with its own address (R286). -/
structure CopyDesc where
  at_   : Word
  src   : Word
  dst   : Word
  len   : Nat
  cmode : BitVec 2
  csc   : BitVec 2
  sbf   : Bool
  caddr : Word
  cval  : XWord
deriving DecidableEq, Repr

/-- A gather's request, and the 32 bytes of its descriptor once the agent has read them (R369, R370, R386). -/
structure GatherDesc where
  va    : Word
  vault : Nat
  head  : Nat
  desc  : Nat
  bytes : List Byte
deriving DecidableEq, Repr

/-- What a scoreboard entry needs for a retry by `settle` (R386, R388). -/
inductive Work where
  /-- A store (`fn` 0), or an atomic function with 16 added, with its second operand. -/
  | scalar (va : Word) (size : Nat) (fn : Nat) (data more : XWord)
  | vector (va : Word) (mask : BitVec 128) (data : List Byte)
  | message (va : Word) (fn : Nat) (data : XWord)
  | copy (d : CopyDesc)
  | matrix (o : MmaOp)
  | gather (g : GatherDesc)
deriving DecidableEq, Repr

/-- A scoreboard entry (R385, R386); `left` counts the replies that a posted access still waits for. -/
structure SbEntry where
  num   : Nat
  work  : Work
  state : BitVec 2
  cause : Option Cause
  sub   : Nat
  eva   : Word
  stop  : Bool
  cls   : Cls
  part  : Bool
  seq   : BitVec 16
  aux   : Nat
  left  : Nat
deriving DecidableEq, Repr

/-- What the reply to an awaited access does at the originator (R135, R276). -/
inductive AwaitAct where
  /-- `ld.*`, `ldx`: the size, whether it sign-extends, and the destination code. -/
  | load (size : Nat) (signed : Bool) (rd : BitVec 5)
  | atomic (rd : BitVec 5)
  /-- A full/empty form: whether it is a load, and the register code. -/
  | fullEmpty (isLoad : Bool) (rd : BitVec 5)
  /-- A form whose reply is a scalar result: `cb.test`, the SPM forms, KV and bag forms; with a short-lived mark or not. -/
  | result (rd : BitVec 5) (short : Bool)
  /-- A `vld`: the vector name, the bytes it writes, and those that have arrived, by granule (R299). -/
  | row (vd : BitVec 6) (mask : BitVec 128) (got : List (Nat × List Byte))
  /-- A descriptor or a table, with which the instruction issues again once it is here: its length, and what has arrived (R299). -/
  | table (n : Nat) (got : List (Nat × List Byte))
  /-- A form that only waits to be performed. -/
  | done
deriving DecidableEq, Repr

/-- What an instruction that only names registers can change of its slot: the registers as they stood before an awaited access,
which a failing one gives back (R135, R377). -/
structure Saved where
  lo    : Quad
  hi    : Quad
  k     : List Word
  pc    : Word
  fl    : Word
  preds : BitVec 11
  ready : List (Nat × Nat)
  frame : Option Frame
deriving DecidableEq, Repr

/-- An awaited access in flight (R231, R276), oldest first in its slot: the numbers of the requests it still has on their way, what
its reply does, its address, whether it is a plain load, which later loads may pass, the slot as it was before the access, and the
failure its reply brought while an older access was on its way. -/
structure Await where
  seqs  : List (BitVec 16)
  act   : AwaitAct
  ea    : Word
  plain : Bool
  saved : Saved
  failed : Option (Cause × Word)
deriving DecidableEq, Repr

/-- A cause waiting to be taken (R377): its code, EVA, the reply status behind it, and the scoreboard entry it belongs
to. -/
structure Pend where
  cause : Cause
  eva   : Word
  sub   : Nat
  entry : Option Nat
deriving DecidableEq, Repr

/-! ## Continuations and packets -/

/-- A continuation record of R35 with the strand it belongs to, the cause it will take at take-up (R40, R146), and whether the strand
starts afresh, at birth or by a restart, with its control block at reset (R82). -/
structure Cont where
  a      : List Word
  pc     : Word
  fl     : Word
  preds  : BitVec 11
  handle : BitVec 12
  hops   : BitVec 4
  id     : StrandId
  pend   : Option (Cause × Word)
  fresh  : Bool
deriving DecidableEq, Repr

/-- A migration packet (R59), with the core that wrote its record (R38). `ahead` marks a strand displaced by pre-emption (R67), `park`
the cycle in which `park` suspended one, and its limit (R272, R384). -/
structure Packet where
  cont : Cont
  pid  : BitVec 16
  dst  : Nat
  org  : Nat
  bpri : BitVec 5
  epri : BitVec 5
  kind : BitVec 3
  hint : Bool
  hx   : Nat
  hy   : Nat
  rad  : Nat
  lrec : BitVec 48
  at_  : Nat
  slot : Option Nat
  ahead : Bool
  wrote : Nat
  park  : Option (Nat × Nat)
deriving DecidableEq, Repr

/-- A ready-ring or overflow-list entry: the packet, the cycle from which its wait is counted, and its place among the 4,096 of the
ring (R56, R57). The record itself lies in the ring's bytes of the vault, or in the strand's slot of the continuation area: it is read
from there when the entry leaves. -/
structure RingEntry where
  pkt   : Packet
  since : Nat
  w0    : Nat
  pos   : Nat
deriving DecidableEq, Repr

/-- What a parked strand waits for (R146, R149, R272, R285). -/
inductive WaitKind where
  /-- A full/empty form at a vault word: `fn` as R134 codes it, the destination or source code, the store data. -/
  | fullEmpty (paddr : Nat) (isLoad : Bool) (fn : Nat) (rd : BitVec 5) (data : XWord)
  | word (off : Nat)
  | barrier (slot : Nat) (phase : Bool)
  | timed
deriving DecidableEq, Repr

/-- A parked strand (R146–R149): its packet, what it waits for, its effective address, the core it returns to, the
cycle it parked, its wait limit, its accounting tag (R224), and whether it is kept in its slot of the continuation area. -/
structure Waiter where
  pkt   : Packet
  kind  : WaitKind
  ea    : Word
  back  : Nat
  since : Nat
  limit : Nat
  acct  : BitVec 16
  inMem : Bool
deriving DecidableEq, Repr

/-- A tile task in a cluster queue or on an engine (R206, R208, R209): its record and captured values, the waits it has found,
the strand that enqueued it, the failed barrier's second xword, its place in the order of readiness, and, once a freeze has stopped it, its resume block and
the core whose tile holds its partial C (R397). `c0` is the image of C at the start of an MMA task, and `scales` the scale words of A
read before it was stopped (R413). -/
structure Task where
  num   : Nat
  rec_  : List Byte
  pid   : BitVec 16
  prv   : Bool
  id    : StrandId
  acct  : BitVec 16
  fpc   : BitVec 32
  fmt   : BitVec 32
  sca   : Word
  scb   : Word
  got0  : Bool
  got1  : Bool
  bad   : Option (BitVec 64)
  readyAt : Option Nat
  resume : Nat
  home  : Option Nat
  audit : Option Nat
  c0    : List Byte
  scales : List (List Nat)
deriving DecidableEq, Repr

/-! ## Remote-procedure messages -/

/-- Where a message is (R126, R132): on its way to a station, waiting for a walk, on its way to its owner, or replied. -/
inductive Stage where
  | toStation | walking | toOwner | replied
deriving DecidableEq, Repr

/-- Who sent a message, and so who takes its reply. -/
inductive Client where
  | slot (core slot : Nat) (id : StrandId)
  | stream (core slot : Nat) (id : StrandId) (num granule : Nat)
  | copy (core cmd off : Nat)
  | engine (core : Nat)
  | peer (link : Nat)
  | none
deriving DecidableEq, Repr

/-- A message: the header of R133, its payload, and the reply of R135 once it has one. One with a tile task is no remote procedure: it
carries a record of `tt.enq` to another cluster (R347). `tag` is its place among the requests that wait for a tag of its agent (R136). -/
structure Msg where
  pid   : BitVec 16
  seq   : BitVec 16
  src   : Nat
  dst   : Nat
  proc  : BitVec 4
  ord   : BitVec 2
  sc    : BitVec 2
  prv   : Bool
  size  : BitVec 2
  acct  : BitVec 16
  fn    : BitVec 4
  paddr : Nat
  opa   : XWord
  opb   : XWord
  data  : List Byte
  mask  : BitVec 128
  va    : Word
  storing : Bool
  stage : Stage
  status : Nat
  cause : Option Cause
  result : XWord
  client : Client
  entry : Option Nat
  cls   : Cls
  lid   : BitVec 16
  cont  : Option Waiter
  rec_  : Option Task
  tag   : Option Nat
deriving DecidableEq, Repr

/-- A partial of a cooperative product on its way to the owner (R343). -/
structure Partial where
  owner  : Nat
  sender : Nat
  lid    : BitVec 16
  group  : Nat
  tile   : Nat
  op     : MmaOp
  rows   : List Row
  preds  : List XWord
  held   : Bool
deriving DecidableEq, Repr

/-- A station invalidation on its way (R131, R402). -/
structure InvMsg where
  station : Nat
  core    : Nat
  slot    : Nat
  pid     : BitVec 16
  page    : BitVec 32
  allv    : Bool
  allp    : Bool
deriving DecidableEq, Repr

/-! ## Barrel slots -/

/-- An instruction of the slot that has begun and not retired: it is issued again until it is done. -/
inductive Run where
  /-- A `tld` (R139, R142, R336): beats delivered, the vault offset of the next one, and whether the DRAM throttle has stopped
  it. -/
  | tld (beats next : Nat) (stopped : Bool)
  /-- A `preempt` waiting for the selected cores (R396). -/
  | preempt (cores : List Nat) (release : Bool)
  /-- A strand that has taken PREEMPT and whose work drains (R395). -/
  | saving
  /-- A strand that a double trap ends once its outstanding work has stopped (R394). -/
  | ending
  /-- A `stinv` waiting for the stations (R402). -/
  | stinv
  /-- A `leave`, or a direct operation, waiting for its grant (R215, R349). -/
  | leave
  /-- An `idle` waiting for an event of R403, and whether one has come. -/
  | idle (stirred : Bool)
  /-- An access waiting for a tag of its vault agent, and its place in the order of arrival (R136). -/
  | tag (order : Nat)
deriving DecidableEq, Repr

/-- A barrel slot (R18, R69, R72, R86, R89, R235, R321, R381–R385). `spare` holds the parity-failure counts of its quad banks that hold
no window (R78, R407). `syncing` says that a posted synchronising access has its sc fence still to come (R160), `trapAt` the cycle of
its last trap entry (R405), `freed` the entries that replies freed in a cycle, with that cycle (R405), `early` the EVA of an UNDERSTALL that its next instruction has met behind an awaited access (R231).
`fetched` is the descriptor or table that the next instruction waits for, at its address. -/
structure Slot where
  strand : Option Bound
  pc     : Word
  fl     : Word
  preds  : BitVec 11
  lo     : Quad
  hi     : Quad
  older  : List OldWin
  spare  : List Nat
  k      : List Word
  ready  : List (Nat × Nat)
  turnNext : Nat
  fpc    : BitVec 32
  wlim   : BitVec 64
  mqb    : BitVec 64
  fmt    : BitVec 32
  sca    : Word
  scb    : Word
  epc    : Word
  eva    : Word
  epw    : BitVec 32
  ecs    : BitVec 48
  esb    : BitVec 48
  tldp   : BitVec 32
  acct   : BitVec 16
  lanes  : BitVec 128
  streams : List Stream
  moduli : List (XWord × XWord)
  modLoaded : Bool
  rngKey : XWord
  rngCtr : XWord
  frame  : Option Frame
  prefetch : List Nat
  board  : List SbEntry
  boardNext : Nat
  unack  : Nat
  awaits : List Await
  fetched : Option (Word × List Byte)
  syncing : Bool
  trapAt : Option Nat
  freed  : List (Nat × SbEntry)
  early  : Option Word
  pend   : List Pend
  first  : List (Cause × Word)
  preempt : Bool
  reserved : Option StrandId
  inbound : Option StrandId
  takenAt : Nat
  run    : Option Run
  needShadow : Bool
  needScb : Bool
  refreshed : Nat
deriving DecidableEq, Repr

/-! ## Tiles, engine, scratchpad -/

/-- A checksummed tile: contents, the 512 B sideband (R184), the fields of TKS (R185), the process id of its last
writer (R85). -/
structure Tile where
  rows  : List Row
  side  : List XWord
  drift : Nat
  err   : Bool
  stale : Bool
  prov  : Bool
  ty    : BitVec 3
  writer : BitVec 16
deriving DecidableEq, Repr

/-- A declared scratchpad tile region (R183): its index, sideband and TKS fields, and the cycle of the last vector store into it
(R351); its bytes are in the scratchpad. -/
structure Region where
  num   : Nat
  side  : List XWord
  drift : Nat
  err   : Bool
  stale : Bool
  prov  : Bool
  ty    : BitVec 3
  wrote : Option Nat
deriving DecidableEq, Repr

/-- One K-block of one column of B as the macros hold it (R111, R112, R327). -/
structure KBlock where
  vals  : List Int
  exp   : Int
  poison : Bool
deriving DecidableEq, Repr

/-- The last result whose MMA can be recomputed (R197): the operation, and its tile. -/
structure Prov where
  tile : Nat
  op   : MmaOp
deriving DecidableEq, Repr

/-- A matrix engine (R327): two A buffers of 32 rows of 256 B, the B macros, the columns of B as they were read with their scale words
(R413), the queue, the frozen flag, and whether the parity of the A buffers and of the macros fails when they are next used (R406). -/
structure Engine where
  abuf0 : List (BitVec 2048)
  abuf1 : List (BitVec 2048)
  bcols : List (List KBlock)
  braw  : List (Nat × List Nat)
  bk    : Nat
  bfmt  : BitVec 4
  bkey  : BitVec 32
  queue : List MmaOp
  frozen : Bool
  prov  : Option Prov
  badA  : Bool
  badB  : Bool
deriving DecidableEq, Repr

/-- A scratchpad allocation (R122): index, base, size, owner, launch, the strand that charged it and the bytes charged
to that strand's reservation. -/
structure Alloc where
  idx  : Nat
  base : Nat
  size : Nat
  pid  : BitVec 16
  lid  : BitVec 16
  holder : Nat
  charged : Nat
deriving DecidableEq, Repr

/-- A copy command in progress (R153, R287): the descriptor, its captured context, the offsets of the 64 B
chunks that have landed and of those on their way, the parts of chunks read so far, by chunk and address, its failure, whether `settle`
has stopped it, the offset it began at, and the place of a chunk that waits for a tag (R136). -/
structure CopyCmd where
  num   : Nat
  desc  : CopyDesc
  pid   : BitVec 16
  prv   : Bool
  acct  : BitVec 16
  id    : StrandId
  slot  : Nat
  entry : Option Nat
  landed : List Nat
  sent  : List Nat
  got   : List (Nat × Word × List Byte)
  failed : Option (Cause × Word)
  stopped : Bool
  base  : Nat
  tag   : Option Nat
deriving DecidableEq, Repr

/-- A gather in progress at a table vault's agent (R370). -/
structure GatherCmd where
  num   : Nat
  from_ : Nat
  slot  : Nat
  id    : StrandId
  entry : Option Nat
  pid   : BitVec 16
  prv   : Bool
  acct  : BitVec 16
  head  : Nat
  list  : Nat
  nl    : Nat
  ctl   : BitVec 4
  dst   : XWord
  cb    : Word
  landed : List Nat
  failed : Option (Cause × Word)
  stopped : Bool
deriving DecidableEq, Repr

/-- One DRAM bank of a vault (R138, R140, R143): its open row, the cycle its refresh falls due, a refresh waiting for a
segment, corrected-error counts by row, rows with uncorrectable errors, spare rows used. -/
structure Bank where
  openRow : Option Nat
  due     : Nat
  waiting : Bool
  fixes   : List (Nat × Nat)
  badRows : List Nat
  spares  : Nat
deriving DecidableEq, Repr

/-- A request packet at a vault controller (R136): a `rowact`, a `rowpre`. -/
inductive CtlPacket where
  | act (addr : Nat)
  | pre (addr : Nat)
deriving DecidableEq, Repr

/-- An entry pushed into a channel (R86, R317), with the process id that pushed it. -/
structure ChanEntry where
  pid : BitVec 16
  row : Row
deriving DecidableEq, Repr

/-- A channel push on its way: from a core, toward a direction (R86). -/
structure ChanMsg where
  core : Nat
  dir  : Nat
  entry : ChanEntry
deriving DecidableEq, Repr

/-- An error log of one array of one core (R408): entries ever written, and the newest ones by position. -/
structure ErrLog where
  array : Nat
  count : Nat
  slots : List (Nat × BitVec 256)
deriving DecidableEq, Repr

/-! ## Launches -/

/-- A used entry of the group table (R52). -/
structure Group where
  num    : Nat
  first  : Nat
  gcnt   : Nat
  stride : Nat
  hx     : Nat
  hy     : Nat
deriving DecidableEq, Repr

/-- What the root knows of a strand it has unfolded (R53, R54): its home, groups, reservation and barrier slots. -/
structure Unfolded where
  sid    : Nat
  home   : Option Nat
  groups : List Nat
  gfault : Option Nat
  left   : Nat
  bars   : List Nat
  slot   : Option Nat
  done   : Bool
deriving DecidableEq, Repr

/-- A live launch at its root's launch unit (R43, R44, R47, R54, R65). -/
structure Launch where
  index  : Nat
  lrec   : BitVec 48
  pid    : BitVec 16
  entry  : Word
  count  : Nat
  prio   : BitVec 5
  feat   : BitVec 3
  consts : List Word
  wpkt   : Word
  done   : Word
  cont   : Word
  stkb   : Word
  vac    : Bool
  barn   : Nat
  spmn   : Nat
  npkt   : Nat
  stks   : Nat
  cores  : Bool
  rad    : Nat
  mode   : Nat
  groups : List Group
  allowed : List Nat
  nextSid : Nat
  queue  : List (Nat × Nat)
  last   : Option Nat
  plan   : List (Nat × Nat)
  strands : List Unfolded
  ndone  : Nat
  dead   : Bool
  ending : Bool
  swept  : Option Nat
  heir   : Option Nat
deriving DecidableEq, Repr

/-- The per-launch counters of one core (R64). -/
structure Traffic where
  lid  : BitVec 16
  sent : Nat
  recv : Nat
deriving DecidableEq, Repr

/-! ## Cores -/

/-- One core (R18, R20, R98, R144, R199, R232, R410). `spoilt` says that the parity of the launch unit, the slot control state or the
inbox fails when it is next used (R406). `lutWas` is the table and tag that a `lutld` replaced and the cycle it retired
(R326); `meshAt` the cycle in which the vault agent last accepted a mesh request (R132). -/
structure Core where
  feat   : BitVec 3
  killed : Bool
  spoilt : Bool
  vacating : Bool
  vacated : Bool
  halted : Bool
  slots  : List (Nat × Slot)
  tiles  : List (Nat × Tile)
  bound  : List (StrandId × Binding)
  leaves : List Leave
  regions : List Region
  engine : Engine
  allocs : List Alloc
  bars   : List (Nat × StrandId)
  lut    : List (BitVec 8)
  ltag   : BitVec 32
  lutWas : Option (Nat × List (BitVec 8) × BitVec 32)
  meshAt : Option Nat
  mode   : BitVec 32
  vevt   : BitVec 64
  ckev   : BitVec 64
  eia    : BitVec 48
  eic    : BitVec 48
  copies : List CopyCmd
  gathers : List GatherCmd
  cmdNext : Nat
  inbox  : List (BitVec 128)
  launches : List Launch
  ring   : List RingEntry
  overflow : List RingEntry
  held   : List RingEntry
  waiters : List Waiter
  banks  : List (Nat × Bank)
  ctl    : List CtlPacket
  inChan : List (Nat × List ChanEntry)
  traffic : List Traffic
  consts : List (BitVec 16 × List Word)
  seq    : BitVec 16
  logs   : List ErrLog
deriving DecidableEq, Repr

/-! ## Clusters, stations, ports, Quince -/

/-- How far a task's `tld` has got: the beats delivered, the vault offset of the next one and the cycle from which it may come, and whether
the DRAM throttle has stopped it (R139, R142). -/
structure TldRun where
  beats : Nat
  next  : Nat
  from_ : Nat
  stopped : Bool
deriving DecidableEq, Repr

/-- A task in execution, with the core whose engine runs it (R213): whether its events have begun (R214), the code table a `bld` captured
at its issue (R99), how far a `tld` has got, and the place of a `tld` that waits for a tag (R136). -/
structure Running where
  task : Task
  core : Nat
  ipk  : Nat
  begun : Bool
  lut  : List (BitVec 8)
  tld  : Option TldRun
  tag  : Option Nat
deriving DecidableEq, Repr

/-- A pending leave request (R349). -/
structure LeaveReq where
  core : Nat
  slot : Nat
  owner : StrandId
  energy : Nat
  current : Nat
  prio : Nat
  order : Nat
deriving DecidableEq, Repr

/-- The operating points of R26, as PERM.STEP codes them (R205). -/
inductive Step where
  | nominal | boost | fall | economy
deriving DecidableEq, Repr

/-- The state of power gating and wake (R219, R220). -/
inductive Power where
  /-- Running. -/
  | up
  /-- Gated until its hold ends, with a request latched or not. -/
  | held (ends : Nat) (asked : Bool)
  | gated
  /-- In the in-rush queue. -/
  | queued
deriving DecidableEq, Repr

/-- One cluster (R204, R205, R209–R222, R413, R415). `issued` counts the instructions each accounting tag issued in the
control interval, `dues` what each tag owes for it so far, in halves of a nanojoule (R224); `raised` is the audit slot of an AUDIT that
waits for its strand (R414), `low` says that the cores draw from the low rail (R25), `coreEco` that a CORE reason held for 16 µs asks
for economy, and `scaleNext` is the scale of EBUD from the next boundary on (R202, R221). -/
structure Cluster where
  cpwr   : BitVec 64
  ebud   : Nat
  ibud   : Nat
  scale  : Nat × Nat
  scaleNext : Nat × Nat
  deduct : Nat
  charge : Nat
  step   : Step
  slot   : Bool
  permits : Nat
  now    : BitVec 5
  seen   : BitVec 5
  coreSince : Nat
  coreEco : Bool
  noAdmit : Bool
  power  : Power
  switching : Bool
  low    : Bool
  active : Bool
  activeRefill : Bool
  claimPrio : Nat
  queue  : List Task
  running : List Running
  leaves : List LeaveReq
  order  : Nat
  reserve : Option (Bool × Nat)
  finished : Nat
  audit  : Option (Nat × Nat)
  raised : Option Word
  srec   : BitVec 44
  score  : Nat
  issued : List (Nat × Nat)
  dues   : List (Nat × Nat)
deriving DecidableEq, Repr

/-- A cached translation (R130): its process, the level its leaf was read at, the virtual page, the frame, W and X, and whether its
parity fails when it is next used (R406). -/
structure Tlb where
  pid   : BitVec 16
  level : Nat
  vpage : Nat
  frame : Nat
  w : Bool
  x : Bool
  bad : Bool
deriving DecidableEq, Repr

/-- A walk in progress (R130). -/
structure Walk where
  pid : BitVec 16
  va  : Word
deriving DecidableEq, Repr

/-- A translation station (R29, R130). -/
structure Station where
  cache : List Tlb
  walks : List Walk
deriving DecidableEq, Repr

/-- A Sloe link's status register (R426). -/
structure Link where
  up     : Bool
  downs  : Nat
  replay : Nat
deriving DecidableEq, Repr

/-- The Medlar port (R420–R422). -/
structure Medlar where
  up     : Bool
  rdy    : Bool
  drop   : Bool
  replay : Nat
  held   : List (BitVec 128)
  errors : Nat
  reads  : List (List Byte)
deriving DecidableEq, Repr

/-- Quince as far as software and the host can reach it (R407, R427–R433); `stuck` after a failed bring-up (R431). -/
structure Quince where
  cmd    : XWord
  arg    : XWord
  len    : XWord
  sts    : XWord
  busy   : Bool
  logCount : Nat
  log    : List (Nat × BitVec 256)
  pcap   : Nat
  pcapNext : Nat
  hot    : List Nat
  active : List Byte
  staged : Option (List Byte)
  floor  : BitVec 32
  inrush : List Nat
  lastTie : Nat
  lost   : List (Nat × Nat)
  failing : List (Nat × Nat)
  stuck  : Bool
deriving DecidableEq, Repr

/-- What the device does next, as data: how many cycles pass, and which agent moves. -/
inductive Move where
  | issue (cycles core slot : Nat)
  | event (cycles : Nat) (e : Instr)
deriving DecidableEq, Repr

/-! ## The device -/

/-- The device. `now` counts nominal cycles since bring-up (R409 TIME), `rank` says who has moved in the current cycle (R296), `paced`
is the cycle up to which the periodic events have been done; `agenda` says which agent moves next; `core` and `slot` are the core and
slot an instruction is executed for; `kills` are the kills of the current cycle, each with its log array and cause, in ascending core
(R417); `orders` counts arrivals and `free` the free values used. -/
structure State where
  now     : Nat
  rank    : Nat
  paced   : Nat
  agenda  : List Move
  core    : Nat
  slot    : Nat
  mem     : Memory
  spm     : Memory
  empties : List Nat
  badGran : List Nat
  badSpm  : List Nat
  injected : List (Nat × Nat × Nat × Bool)
  cores   : List (Nat × Core)
  clusters : List (Nat × Cluster)
  stations : List (Nat × Station)
  mesh    : List Msg
  packets : List Packet
  notes   : List (Nat × BitVec 128)
  invs    : List InvMsg
  chans   : List ChanMsg
  partials : List Partial
  kills   : List (Nat × Nat × Nat)
  stpt    : BitVec 64
  tvb     : BitVec 64
  audc    : BitVec 64
  audb    : BitVec 64
  energy  : List (Nat × Nat)
  links   : List (Nat × Link)
  medlar  : Medlar
  quince  : Quince
  orders  : Nat
  free    : Nat
deriving DecidableEq, Repr

/-- What one step of this device answers. -/
abbrev Out := Host.Outcome State Fault Refusal

/-! ## After reset -/

/-- A freed register: it reads as zero and is not refreshed (R80). -/
def Reg.reset : Reg := { val := 0, mark := none, lapsed := false, live := false, ready := 0, bad := false }

/-- A gated bank (R81): the slot is idle. -/
def Quad.reset : Quad :=
  { r0 := Reg.reset, r1 := Reg.reset, r2 := Reg.reset, r3 := Reg.reset, power := .gated, touched := 0, fails := 0,
    poison := false }

/-- Slot `j` of core `c` after reset (R142, R321, R381 to R384). -/
def Slot.reset (c j : Nat) : Slot :=
  { strand := none, pc := 0, fl := 0, preds := 0, lo := Quad.reset, hi := Quad.reset, older := [],
    spare := [0, 0, 0], k := List.replicate 8 0, ready := [], turnNext := 0, fpc := 0, wlim := 0, mqb := 0,
    fmt := 0, sca := 0, scb := 0, epc := 0, eva := 0, epw := 0, ecs := BitVec.ofNat 48 (c * 65536),
    esb := BitVec.ofNat 48 (0x0FF60000 + 0x1000 * j), tldp := 0, acct := 0, lanes := BitVec.allOnes 128, streams := [],
    moduli := List.replicate 16 (0, 0), modLoaded := false, rngKey := 0, rngCtr := 0, frame := none, prefetch := [],
    board := [], boardNext := 0, unack := 0, awaits := [], fetched := none, syncing := false, trapAt := none, freed := [], early := none, pend := [], first := [], preempt := false,
    reserved := none, inbound := none, takenAt := 0, run := none, needShadow := false, needScb := false, refreshed := 0 }

/-- An accumulator tile after reset (R185): zero, of type S32, its checksums consistent. -/
def Tile.reset : Tile :=
  { rows := List.replicate 32 0, side := List.replicate 64 0, drift := 0, err := false, stale := false, prov := false, ty := 1,
    writer := 0 }

/-- A matrix engine with no B resident (R327). -/
def Engine.reset : Engine :=
  { abuf0 := List.replicate 32 0, abuf1 := List.replicate 32 0, bcols := [], braw := [], bk := 0, bfmt := 0, bkey := 0, queue := [],
    frozen := false, prov := none, badA := false, badB := false }

/-- A bank with no open row, whose first refresh falls due one interval after bring-up (R137, R140). -/
def Bank.reset : Bank := { openRow := none, due := 6825, waiting := false, fixes := [], badRows := [], spares := 0 }

/-- A core after reset (R20, R98, R144, R199, R232, R410): slots and tiles that are not listed are at reset too. -/
def Core.reset : Core :=
  { feat := 7, killed := false, spoilt := false, vacating := false, vacated := false, halted := false,
    slots := [], tiles := [], bound := [], leaves := [], regions := [], engine := Engine.reset, allocs := [],
    bars := [], lut := List.replicate 16 0, ltag := 0, lutWas := none, meshAt := none, mode := 1, vevt := 0, ckev := 0, eia := 0, eic := 0, copies := [],
    gathers := [], cmdNext := 0, inbox := [], launches := [], ring := [], overflow := [], held := [], waiters := [],
    banks := [], ctl := [], inChan := [], traffic := [], consts := [], seq := 0, logs := [] }

/-- Cluster `c` after reset (R204, R205, R222, R412, R415). -/
def Cluster.reset (c : Nat) : Cluster :=
  { cpwr := BitVec.ofNat 64 (120 * 2 ^ 32 + 20000 * 2 ^ 12), ebud := 20000, ibud := 120, scale := (1, 1), scaleNext := (1, 1), deduct := 0,
    charge := 0, step := .nominal, slot := false, permits := 64, now := 0, seen := 0, coreSince := 0, coreEco := false,
    noAdmit := false, power := .up, switching := false, low := false, active := false, activeRefill := false, claimPrio := 0, queue := [],
    running := [], leaves := [], order := 0, reserve := none, finished := 0, audit := none, raised := none, srec := 0,
    score := 128 * (c / 8) + 4 * (c % 8), issued := [], dues := [] }

/-- A station with empty caches (R432). -/
def Station.reset : Station := { cache := [], walks := [] }

/-- An attached and trained link after bring-up (R426, R431). -/
def Link.reset : Link := { up := true, downs := 0, replay := 0 }

/-- The Medlar port once bring-up has completed (R421, R431). -/
def Medlar.reset : Medlar := { up := true, rdy := true, drop := false, replay := 0, held := [], errors := 0, reads := [] }

/-- Quince once bring-up has completed (R427, R430, R431). -/
def Quince.reset : Quince :=
  { cmd := 0, arg := 0, len := 0, sts := 0, busy := false, logCount := 0, log := [], pcap := 1500, pcapNext := 1500, hot := [],
    active := [], staged := none, floor := 0, inrush := [], lastTie := 63, lost := [], failing := [], stuck := false }

/-- The device right after a reset whose bring-up has completed (R431): every vault byte zero and every full/empty bit
full, every register at its reset value, no launch and no strand. -/
def State.reset : State :=
  { now := 0, rank := 0, paced := 0, agenda := [], core := 0, slot := 0, mem := [], spm := [], empties := [], badGran := [], badSpm := [],
    injected := [], cores := [], clusters := [], stations := [], mesh := [], packets := [], notes := [], invs := [],
    chans := [], partials := [], kills := [], stpt := 0, tvb := 0, audc := 0, audb := 0, energy := [], links := [],
    medlar := Medlar.reset, quince := Quince.reset, orders := 0, free := 0 }

end Sys2Proof.Machine
end

