-- ==== Sys2Proof/Machine/Memory.lean ====
section
/-! DEFINITION. Byte-addressed memory in one canonical form, and the full/empty bits (R21, R132, R145). Unlisted bytes are
zero: bring-up zeroes the vaults (R431). -/

namespace Sys2Proof.Machine

/-- What a byte that nothing has written reads as (R431). -/
def unlisted : Byte := 0

/-- Addresses strictly rise and no listed byte equals what an unlisted one reads as. -/
def Memory.wf : Memory → Bool
  | [] => true
  | [(_, b)] => b != unlisted
  | (a, b) :: (c, d) :: r => b != unlisted && a < c && Memory.wf ((c, d) :: r)

/-- One byte. -/
def Memory.read (m : Memory) (a : Nat) : Byte := (look a m).getD unlisted

/-- `n` bytes from address `a` up. -/
def Memory.readBytes (m : Memory) (a n : Nat) : List Byte := (List.range n).map fun i => m.read (a + i)

/-- The little-endian value of `n` bytes at `a`. -/
def Memory.readNat (m : Memory) (a n : Nat) : Nat := leNat (m.readBytes a n)

/-- The cells of consecutive bytes that differ from an unlisted one. -/
def cells : Nat → List Byte → Memory
  | _, [] => []
  | a, b :: r => if b = unlisted then cells (a + 1) r else (a, b) :: cells (a + 1) r

/-- Writes consecutive bytes from address `a` up. -/
def Memory.write (m : Memory) (a : Nat) (bs : List Byte) : Memory :=
  m.filter (fun e => e.1 < a) ++ cells a bs ++ m.filter (fun e => a + bs.length ≤ e.1)

/-- Writes a number as `n` little-endian bytes. -/
def Memory.writeNat (m : Memory) (a n v : Nat) : Memory := m.write a (leBytes n v)

/-! ## Full/empty bits -/

/-- The full/empty bits of the aligned words that `n` bytes at `a` touch become full: `empties` lists the word
addresses that are empty. -/
def fillWords (empties : List Nat) (a n : Nat) : List Nat :=
  empties.filter fun w => !(a / 8 ≤ w && w < (a + n + 7) / 8)

end Sys2Proof.Machine
end

