-- ==== Sys2Proof/Machine/Access.lean ====
section
/-! DEFINITION. The places of the device: reading and replacing one core, slot, tile, cluster, station or launch, and the
geometry of the mesh (R16, R17, R28, R29, R42). -/

namespace Sys2Proof.Machine

/-! ## Units -/

/-- Core `c`. -/
def State.coreAt (s : State) (c : Nat) : Core := (look c s.cores).getD Core.reset

/-- Replaces core `c`. -/
def State.putCore (s : State) (c : Nat) (k : Core) : State := { s with cores := put c k s.cores }

/-- Changes core `c`. -/
def State.onCore (s : State) (c : Nat) (f : Core → Core) : State := s.putCore c (f (s.coreAt c))

/-- Slot `j` of core `c`. -/
def State.slotAt (s : State) (c j : Nat) : Slot := (look j (s.coreAt c).slots).getD (Slot.reset c j)

/-- Replaces slot `j` of core `c`. -/
def State.putSlot (s : State) (c j : Nat) (v : Slot) : State :=
  s.onCore c fun k => { k with slots := put j v k.slots }

/-- Changes slot `j` of core `c`. -/
def State.onSlot (s : State) (c j : Nat) (f : Slot → Slot) : State := s.putSlot c j (f (s.slotAt c j))

/-- The slot an instruction is executed for. -/
def State.me (s : State) : Slot := s.slotAt s.core s.slot

/-- Changes the slot an instruction is executed for. -/
def State.onMe (s : State) (f : Slot → Slot) : State := s.onSlot s.core s.slot f

/-- The core an instruction is executed on. -/
def State.here (s : State) : Core := s.coreAt s.core

/-- Changes the core an instruction is executed on. -/
def State.onHere (s : State) (f : Core → Core) : State := s.onCore s.core f

/-- Tile `t` of core `c`. -/
def State.tileAt (s : State) (c t : Nat) : Tile := (look t (s.coreAt c).tiles).getD Tile.reset

/-- Replaces tile `t` of core `c`. -/
def State.putTile (s : State) (c t : Nat) (v : Tile) : State := s.onCore c fun k => { k with tiles := put t v k.tiles }

/-- Cluster `g`. -/
def State.clusterAt (s : State) (g : Nat) : Cluster := (look g s.clusters).getD (Cluster.reset g)

/-- Replaces cluster `g`. -/
def State.putCluster (s : State) (g : Nat) (v : Cluster) : State := { s with clusters := put g v s.clusters }

/-- Changes cluster `g`. -/
def State.onCluster (s : State) (g : Nat) (f : Cluster → Cluster) : State := s.putCluster g (f (s.clusterAt g))

/-- Station `n`: two per row, the west end first (R29). -/
def State.stationAt (s : State) (n : Nat) : Station := (look n s.stations).getD Station.reset

/-- Replaces station `n`. -/
def State.putStation (s : State) (n : Nat) (v : Station) : State := { s with stations := put n v s.stations }

/-- The status register of Sloe link `n` (R426). -/
def State.linkAt (s : State) (n : Nat) : Link := (look n s.links).getD Link.reset

/-- Replaces the status register of a link. -/
def State.putLink (s : State) (n : Nat) (v : Link) : State := { s with links := put n v s.links }

/-- Bank `b` of vault `c` (R138). -/
def State.bankAt (s : State) (c b : Nat) : Bank := (look b (s.coreAt c).banks).getD Bank.reset

/-- Replaces a bank. -/
def State.putBank (s : State) (c b : Nat) (v : Bank) : State := s.onCore c fun k => { k with banks := put b v k.banks }

/-- The barrel turn of the current cycle: eight cycles each (R10). -/
def State.turn (s : State) : Nat := s.now / 8

/-- The next free value, and the counter advanced (notes/assumptions/11.md). -/
def State.draw (s : State) : XWord × State := (Config.freeXword s.free, { s with free := s.free + 1 })

/-! ## Geometry (R17, R28, R29) -/

/-- Column of a core. -/
def colOf (c : Nat) : Nat := c % 32
/-- Row of a core. -/
def rowOf (c : Nat) : Nat := c / 32
/-- The cluster of a core. -/
def clusterOf (c : Nat) : Nat := 8 * (rowOf c / 4) + colOf c / 4
/-- The sixteen cores of a cluster, in ascending id. -/
def clusterCores (g : Nat) : List Nat :=
  (List.range 16).map fun i => 32 * (4 * (g / 8) + i / 4) + 4 * (g % 8) + i % 4
/-- The distance between two numbers. -/
def gap (a b : Nat) : Nat := (a - b) + (b - a)
/-- Manhattan distance of two cores. -/
def distance (a b : Nat) : Nat := gap (colOf a) (colOf b) + gap (rowOf a) (rowOf b)
/-- The station of a core: the one of its half of its row. -/
def stationOf (c : Nat) : Nat := 2 * rowOf c + (if colOf c < 16 then 0 else 1)
/-- The core whose error log serves a station (R408). -/
def stationCore (n : Nat) : Nat := 32 * (n / 2) + (if n % 2 = 0 then 0 else 31)

/-- The dimension-ordered route from one core to another, both ends included: along the row first (R28). -/
def route (a b : Nat) : List Nat :=
  let line (lo hi : Nat) (up : Bool) : List Nat :=
    let l := (List.range (hi - lo + 1)).map (lo + ·)
    if up then l else l.reverse
  let xs := line (min (colOf a) (colOf b)) (max (colOf a) (colOf b)) (colOf a ≤ colOf b)
  let ys := line (min (rowOf a) (rowOf b)) (max (rowOf a) (rowOf b)) (rowOf a ≤ rowOf b)
  xs.map (fun x => 32 * rowOf a + x) ++ (ys.drop 1).map (fun y => 32 * y + colOf b)

/-- The core of least distance from a point, other than that point, that a test accepts; the lowest id among ties
(R61, R63). -/
def nearest (from_ : Nat) (ok : Nat → Bool) : Option Nat :=
  leastBy (fun c => 1024 * distance from_ c + c) ((List.range 1024).filter fun c => c != from_ && ok c)

/-- The nearest available core of R61. -/
def State.nearestAvailable (s : State) (from_ : Nat) : Option Nat :=
  nearest from_ fun c => let k := s.coreAt c; !k.vacated && !k.vacating && !k.killed

/-! ## Launches (R41, R42) -/

/-- The root core of a launch id. -/
def rootOf (lid : BitVec 16) : Nat := lid.toNat / 64

/-- The live launch of an id. -/
def State.launchAt (s : State) (lid : BitVec 16) : Option Launch :=
  (s.coreAt (rootOf lid)).launches.find? fun l => l.index == lid.toNat % 64

/-- Changes the live launch of an id. -/
def State.onLaunch (s : State) (lid : BitVec 16) (f : Launch → Launch) : State :=
  s.onCore (rootOf lid) fun k =>
    { k with launches := k.launches.map fun l => if l.index == lid.toNat % 64 then f l else l }

/-- What a launch's root knows of one of its strands. -/
def State.unfoldedAt (s : State) (id : StrandId) : Option Unfolded :=
  (s.launchAt id.lid).bind fun l => l.strands.find? fun u => u.sid == id.sid

/-- Changes what a launch's root knows of one of its strands. -/
def State.onUnfolded (s : State) (id : StrandId) (f : Unfolded → Unfolded) : State :=
  s.onLaunch id.lid fun l => { l with strands := l.strands.map fun u => if u.sid == id.sid then f u else u }

/-- The strand's home core (R54). -/
def State.homeOf (s : State) (id : StrandId) : Option Nat := (s.unfoldedAt id).bind (·.home)

/-- Counts a message that a core emits on behalf of a launch (R64). -/
def State.countSent (s : State) (c : Nat) (lid : BitVec 16) : State :=
  s.onCore c fun k =>
    if k.traffic.any (·.lid == lid) then
      { k with traffic := k.traffic.map fun t => if t.lid == lid then { t with sent := t.sent + 1 } else t }
    else { k with traffic := k.traffic ++ [{ lid := lid, sent := 1, recv := 0 }] }

/-- Counts a message that a core accepts on behalf of a launch (R64). -/
def State.countRecv (s : State) (c : Nat) (lid : BitVec 16) : State :=
  s.onCore c fun k =>
    if k.traffic.any (·.lid == lid) then
      { k with traffic := k.traffic.map fun t => if t.lid == lid then { t with recv := t.recv + 1 } else t }
    else { k with traffic := k.traffic ++ [{ lid := lid, sent := 0, recv := 1 }] }

/-- Half a nanojoule for each 32 B granule an operation transfers, charged to its accounting tag (R224). -/
def State.chargeGranules (s : State) (c : Nat) (tag : BitVec 16) (bytes : Nat) : State :=
  s.onCluster (clusterOf c) fun g =>
    { g with dues := put tag.toNat ((look tag.toNat g.dues).getD 0 + (bytes + 31) / 32) g.dues }

/-- A wake request for a cluster (R220): latched during a hold, else queued for the in-rush arbiter. -/
def State.wakeRequest (s : State) (g : Nat) : State :=
  match (s.clusterAt g).power with
  | .held ends _ => s.onCluster g fun c => { c with power := .held ends true }
  | .gated => { s.onCluster g fun c => { c with power := .queued } with quince := { s.quince with inrush := s.quince.inrush ++ [g] } }
  | _ => s

/-! ## System registers with fields -/

/-- TVB.SPID (R379). -/
def State.spid (s : State) : BitVec 16 := s.tvb.extractLsb' 48 16

/-- TVB.BASE as an address. -/
def State.vectors (s : State) : Nat := bitsOf s.tvb.toNat 47 12 * 4096

/-- MODE.STRICT of a core (R232). -/
def Core.strict (k : Core) : Bool := k.mode.getLsbD 0

/-- MODE.SBC of a core (R232). -/
def Core.sbc (k : Core) : Bool := k.mode.getLsbD 1

/-- Whether a slot is in handler state: ECS.HS (R378, R382). -/
def Slot.handler (v : Slot) : Bool := v.ecs.getLsbD 10

/-- The process id of the strand in a slot. -/
def Slot.pid (v : Slot) : BitVec 16 := match v.strand with | some b => b.pid | none => 0

/-- The identity of the strand in a slot. -/
def Slot.id (v : Slot) : StrandId := match v.strand with | some b => b.id | none => { lid := 0, sid := 0 }

/-- Whether the strand in a slot runs privileged (R378). -/
def State.privileged (s : State) (c j : Nat) : Bool := (s.slotAt c j).handler || (s.slotAt c j).pid == s.spid

/-- Codes of R376. -/
def Cause.code : Cause → Nat
  | .illegal => 1 | .priv => 2 | .understall => 3 | .expired => 4 | .poison => 5 | .spill => 6 | .fill => 7
  | .feature => 8 | .align => 9 | .xlate => 10 | .prot => 11 | .refused => 12 | .waitlim => 13 | .eccue => 14
  | .cksum => 15 | .tldtherm => 16 | .luttag => 17 | .preempt => 18 | .brk => 19 | .syscall => 20 | .group => 21
  | .audit => 22

/-! ## Error logs (R408, R409, R430) -/

/-- An entry of Quince's event log: TIME, kind, a cluster or link number where the source has one, and the source's detail in a
coding the spec does not give (R430, notes/assumptions/27.md). -/
def State.quinceLog (s : State) (kind : Nat) (unit : Option Nat) (detail : Nat) : State :=
  let n := match unit with | some u => u % 256 | none => (Config.logUnit kind).toNat
  let e := BitVec.ofNat 256 (s.now % 2 ^ 64 + kind * 2 ^ 64 + n * 2 ^ 72 + (Config.logDetail kind detail).toNat * 2 ^ 128)
  { s with quince := { s.quince with log := put (s.quince.logCount % 4096) e s.quince.log, logCount := s.quince.logCount + 1 } }

/-- What a log entry says of the consumer (R409). -/
structure Who where
  core : Nat
  pid  : BitVec 16
  id   : StrandId
deriving DecidableEq, Repr

/-- A consumer no rule names. -/
def Who.none (c : Nat) : Who := { core := c, pid := 0, id := { lid := 0, sid := 0 } }

/-- The strand in a slot as a consumer. -/
def State.who (s : State) (c j : Nat) : Who := { core := c, pid := (s.slotAt c j).pid, id := (s.slotAt c j).id }

/-- Writes an entry to the log of an array of a core, and copies one of severity 1 to 3 to Quince (R408, R409). -/
def State.logError (s : State) (c array sev cause addr syn : Nat) (w : Who) (inj : Bool) : State :=
  let x0 := s.now % 2 ^ 64
  let x1 := bit inj * 2 ^ 56 + sev * 2 ^ 54 + cause * 2 ^ 48 + array * 2 ^ 44 + addr % 2 ^ 44
  let x2 := w.pid.toNat * 2 ^ 32 + syn % 2 ^ 32
  let x3 := w.core % 1024 * 2 ^ 40 + w.id.sid % 2 ^ 24 * 2 ^ 16 + w.id.lid.toNat
  let e := BitVec.ofNat 256 (x0 + x1 * 2 ^ 64 + x2 * 2 ^ 128 + x3 * 2 ^ 192)
  let k := s.coreAt c
  let old := (k.logs.find? (·.array == array)).getD { array := array, count := 0, slots := [] }
  let new := { old with count := old.count + 1, slots := put (old.count % 64) e old.slots }
  let logs := if k.logs.any (·.array == array) then k.logs.map (fun l => if l.array == array then new else l)
    else k.logs ++ [new]
  let s := s.putCore c { k with logs := logs }
  if sev = 0 then s else s.quinceLog 2 (some (clusterOf c)) e.toNat

end Sys2Proof.Machine
end

