-- ==== Sys2Proof/Machine/Operands.lean ====
section
/-! DEFINITION. The scalar operand forms: the window file, its banks and marks, every code of R69 as a source and as a
destination, and the readiness, wake and expiry checks of an issuing instruction (R69 to R81, R231, R255). -/

namespace Sys2Proof.Machine

/-! ## The window file -/

/-- Register `i` of a bank. -/
def Quad.get (q : Quad) (i : Nat) : Reg :=
  match i with | 0 => q.r0 | 1 => q.r1 | 2 => q.r2 | _ => q.r3

/-- Replaces register `i` of a bank. -/
def Quad.set (q : Quad) (i : Nat) (r : Reg) : Quad :=
  match i with | 0 => { q with r0 := r } | 1 => { q with r1 := r } | 2 => { q with r2 := r } | _ => { q with r3 := r }

/-- The four registers of a bank. -/
def Quad.regs (q : Quad) : List Reg := [q.r0, q.r1, q.r2, q.r3]

/-- A bank whose four registers are all freed is gated (R81). -/
def Quad.settle (q : Quad) : Quad :=
  if q.regs.any (·.live) then q else { Quad.reset with fails := q.fails }

/-- Register `ai` of the current window, `i` in 0 to 7. -/
def Slot.reg (v : Slot) (i : Nat) : Reg := if i < 4 then v.lo.get i else v.hi.get (i - 4)

/-- Replaces register `ai` of the current window. -/
def Slot.setReg (v : Slot) (i : Nat) (r : Reg) : Slot :=
  if i < 4 then { v with lo := v.lo.set i r } else { v with hi := v.hi.set (i - 4) r }

/-- A register written with a value: live, with or without a short-lived mark, usable from a turn on (R79, R80, R231). -/
def Reg.written (x : Word) (mark : Option Nat) (ready : Nat) : Reg :=
  { val := x, mark := mark, lapsed := false, live := true, ready := ready, bad := false }

/-- Whether a register's short-lived guarantee has lapsed by a cycle (R79). -/
def Reg.expired (r : Reg) (now : Nat) : Bool :=
  match r.mark with
  | none => false
  | some t => r.lapsed || t + 2048 ≤ now

/-- The value a flush, a spill or a move to the stack store writes (R37, R74, R79). -/
def Reg.flushed (r : Reg) (now : Nat) : Word := if r.expired now then 0 else r.val

/-! ## The predicate word (R36) -/

/-- Predicate `p`; p0 reads as 1. -/
def Slot.pred (v : Slot) (p : Nat) : Bool := p == 0 || v.preds.getLsbD (p - 1)

/-- Writes predicate `p`, which the next turn can read whatever an older producer still delivers (R231, R256); a write to p0 is discarded
(R228). -/
def Slot.setPred (v : Slot) (p : Nat) (b : Bool) : Slot :=
  if p = 0 then v else { v with preds := setField v.preds (p - 1) 1 (bit b), ready := del (32 + p) v.ready }

/-- DEPTH: the older windows resident, saturating at 15 (R36, R73). -/
def Slot.depth (v : Slot) : Nat := min v.older.length 15

/-- The predicate word of a slot (R36). -/
def Slot.pw (v : Slot) : BitVec 32 :=
  let h := match v.strand with | some b => b.handle.toNat * 2 ^ 20 + b.hops.toNat * 2 ^ 16 | none => 0
  BitVec.ofNat 32 (h + v.depth * 2 ^ 12 + v.preds.toNat * 2 + 1)

/-! ## Scalar codes (R69) -/

/-- The launch constant of a code 8 to 15 on a core (R71). -/
def Core.const (k : Core) (lid : BitVec 16) (i : Nat) : Word :=
  match k.consts.find? (·.1 == lid) with
  | some c => c.2.getD i 0
  | none => 0

/-- Reading a scalar code as a source (R69, R255). -/
def State.readCode (s : State) (c j : Nat) (code : BitVec 5) : Word :=
  let v := s.slotAt c j
  let n := code.toNat
  if n < 8 then (v.reg n).val
  else if n < 16 then (s.coreAt c).const v.id.lid (n - 8)
  else if n = 16 then 0
  else if n = 17 then v.pw.setWidth 48
  else if n = 18 then v.fl
  else if n = 19 then BitVec.ofNat 48 v.id.sid
  else if n = 20 then BitVec.ofNat 48 c
  else if n = 21 then v.id.lid.setWidth 48
  else if n < 24 then 0
  else v.k.getD (n - 24) 0

/-- A source of the issuing slot. -/
def State.src (s : State) (code : BitVec 5) : Word := s.readCode s.core s.slot code

/-- Lists the turn from which the registers outside the window file can be read, as their last producer delivers them: 18 is fl, 24 to
31 the k registers, 32 + p predicate p, and from 64 on the rows of the tiles, as `State.rowKey` numbers them (R231). -/
def Slot.setReady (v : Slot) (key turn : Nat) : Slot := { v with ready := put key turn v.ready }

/-- A write of pw delivers p1 to p11 together (R255). -/
def Slot.predsReady (v : Slot) (turn : Nat) : Slot := { v with ready := upTo 11 (fun r p => put (33 + p) turn r) v.ready }

/-- Writing a scalar code as a destination, delivered after `lat` barrel turns (R69, R79, R231, R255). -/
def Slot.writeCode (v : Slot) (now : Nat) (code : BitVec 5) (x : Word) (short : Bool) (lat : Nat) : Slot :=
  let n := code.toNat
  let due := now / 8 + lat
  if n < 8 then v.setReg n (Reg.written x (if short then some now else none) due)
  else if n = 17 then { v with preds := x.extractLsb' 1 11 }.predsReady due
  else if n = 18 then { v with fl := x }.setReady 18 due
  else if 24 ≤ n then { v with k := v.k.set (n - 24) x }.setReady n due
  else v

/-- Writes a destination of the issuing slot. -/
def State.dst (s : State) (code : BitVec 5) (x : Word) (short : BitVec 1) (lat : Nat) : State :=
  s.onMe fun v => v.writeCode s.now code x (short == 1) lat

/-- Frees a source written with a last-read mark: it reads as zero and is not refreshed (R80). A short-lived mark it carried ends with
it, so that the freed register never takes EXPIRED (notes/assumptions/117.md). -/
def Slot.freeReg (v : Slot) (code : BitVec 5) : Slot :=
  if code.toNat < 4 then { v with lo := (v.lo.set code.toNat Reg.reset).settle }
  else if code.toNat < 8 then { v with hi := (v.hi.set (code.toNat - 4) Reg.reset).settle }
  else v

/-! ## Checks at issue -/

/-- Whether predicate `p` can be read in a turn; p0 always can (R231, R255). -/
def Slot.predReady (v : Slot) (turn p : Nat) : Bool := p == 0 || (look (32 + p) v.ready).getD 0 ≤ turn

/-- Whether a scalar source can be read in a turn; pw takes every predicate (R231, R255). -/
def Slot.codeReady (v : Slot) (turn : Nat) (code : BitVec 5) : Bool :=
  let n := code.toNat
  if n < 8 then (v.reg n).ready ≤ turn
  else if n = 17 then (List.range 12).all fun p => v.predReady turn p
  else (look n v.ready).getD 0 ≤ turn

/-- The tile binding of the issuing strand (R84). -/
def State.binding (s : State) : Option Binding := (s.here.bound.find? fun b => b.1 == s.me.id).map (·.2)

/-- The tile a vector name selects (R84). -/
def Binding.tile (b : Binding) (n : BitVec 6) : Nat := if n.toNat < 32 then b.lo else b.hi

/-- The key under which `Slot.ready` lists the row that a vector name selects: two names may select one row (R84, R231). -/
def State.rowKey (s : State) (n : BitVec 6) : Nat :=
  match s.binding with
  | some b => 64 + 32 * b.tile n + n.toNat % 32
  | none => 64 + n.toNat

/-- Whether a vector register of the issuing strand can be read in this turn (R231). -/
def State.vecReady (s : State) (n : BitVec 6) : Bool := (look (s.rowKey n) s.me.ready).getD 0 ≤ s.turn

/-- The bank states that an instruction naming these codes finds other than on: the low and the high bank of the window. -/
def Slot.asleep (v : Slot) (codes : List (BitVec 5)) : Bool × Bool :=
  (codes.any (fun c => c.toNat < 4) && v.lo.power != .on,
   codes.any (fun c => 4 ≤ c.toNat && c.toNat < 8) && v.hi.power != .on)

/-- Cycles to wake a bank (R81). -/
def wakeCycles : BankPower → Nat
  | .on => 0
  | .retention => 6
  | .gated => 12

/-- Whether a register's parity counts: a bank checks it as it leaves retention, and a register found wrong stays poisoned until an
access reports it or a write replaces it (R81). -/
def Quad.checks (q : Quad) : Bool := q.power == .retention || q.poison

/-- An accessed bank: on. Its parity failures are counted once. An access that takes POISON for them leaves values the spec does not
give in the poisoned registers; one that only writes the bank leaves them poisoned for the next access that reads it (R81, R254;
notes/assumptions/119.md). -/
def Quad.wake (q : Quad) (now free : Nat) (reads : Bool) : Quad :=
  let hurt := q.checks && q.regs.any (·.bad)
  let fix (r : Reg) (i : Nat) : Reg :=
    if r.bad && hurt && reads then { r with bad := false, val := (Config.freeXword (free + i)).setWidth 48 } else r
  { q with power := .on, touched := now, r0 := fix q.r0 0, r1 := fix q.r1 1, r2 := fix q.r2 2, r3 := fix q.r3 3,
           fails := if hurt && !q.poison then q.fails + 1 else q.fails, poison := hurt && !reads }

/-- The lowest poisoned register of a bank, as a code (R81). -/
def Quad.poisoned (q : Quad) (base : Nat) : Option Nat :=
  if q.checks then (lowestBelow 4 fun i => (q.get i).bad).map (base + ·) else none

/-- Which banks of the window, the low one and the high one, codes name. -/
def banksOf (codes : List (BitVec 5)) : Bool × Bool :=
  (codes.any fun c => c.toNat < 4, codes.any fun c => 4 ≤ c.toNat && c.toNat < 8)

/-- The lowest poisoned register of the banks given, as a code (R81). -/
def Slot.poisonIn (v : Slot) (b : Bool × Bool) : Option Nat :=
  match (if b.1 then v.lo.poisoned 0 else none) with
  | some i => some i
  | none => if b.2 then v.hi.poisoned 4 else none

/-- The first lapsed short-lived register among the sources (R79). -/
def Slot.lapsedAmong (v : Slot) (now : Nat) (codes : List (BitVec 5)) : Option (BitVec 5) :=
  codes.find? fun c => c.toNat < 8 && (v.reg c.toNat).expired now

/-- The banks an instruction reads or writes are touched (R81). -/
def Slot.touch (v : Slot) (now : Nat) (codes : List (BitVec 5)) : Slot :=
  let v := if codes.any (fun c => c.toNat < 4) then { v with lo := { v.lo with touched := now } } else v
  if codes.any (fun c => 4 ≤ c.toNat && c.toNat < 8) then { v with hi := { v.hi with touched := now } } else v

/-! ## Windows (R73 to R76) -/

/-- The windows of the register stack that lie in the window file. -/
def Slot.inFile (v : Slot) : Nat := (v.older.filter (·.inFile)).length

/-- A move to the stack store ends the marks and stores lapsed registers as zero (R79). -/
def Reg.stored (r : Reg) (now : Nat) : Reg := { r with val := r.flushed now, mark := none, lapsed := false }

/-- A bank as the stack store keeps it. -/
def Quad.stored (q : Quad) (now : Nat) : Quad :=
  { q with r0 := q.r0.stored now, r1 := q.r1.stored now, r2 := q.r2.stored now, r3 := q.r3.stored now }

/-- The window as the stack store keeps it: its bank stays in the file. The move is no access to the bank: it wakes nothing and checks
no parity (notes/assumptions/118.md). -/
def OldWin.moved (o : OldWin) (now : Nat) : OldWin := { o with inFile := false, quad := { o.quad.stored now with fails := 0 } }

/-- The windows of a stack of which the file keeps the first `n`, the others in the stack store, and the failure counts of the banks
that this leaves (R75, R78). -/
def keepFile (now : Nat) : Nat → List OldWin → List OldWin × List Nat
  | _, [] => ([], [])
  | n, o :: r =>
    if !o.inFile then let t := keepFile now n r; (o :: t.1, t.2)
    else match n with
      | 0 => let t := keepFile now 0 r; (o.moved now :: t.1, o.quad.fails :: t.2)
      | m + 1 => let t := keepFile now m r; (o :: t.1, t.2)

/-- The windows beyond three leave the file for the stack store (R75), and their banks are free. -/
def Slot.spillFile (v : Slot) (now : Nat) : Slot :=
  let t := keepFile now 3 v.older
  { v with older := t.1, spare := t.2 ++ v.spare }

/-- The call effect of R73, without its checks: the window slides up, and a gated bank becomes the new a4 to a7 (R78). -/
def Slot.slideUp (v : Slot) (now : Nat) : Slot :=
  let w := { v with older := { quad := v.lo, save := v.fl - 32, inFile := true, spoilt := false, flawed := false } :: v.older, lo := v.hi,
                    fl := v.fl - 32 }.spillFile now
  { w with hi := { Quad.reset with fails := w.spare.headD 0 }, spare := w.spare.tail }

/-- The `ret` effect of R73, without its checks: the window slides down, and the bank of the callee's a4 to a7 is gated; a window that
comes from the stack store takes a free bank (R78). -/
def Slot.slideDown (v : Slot) : Slot :=
  match v.older with
  | [] => v
  | o :: r =>
    let free := v.hi.fails :: v.spare
    if o.inFile then { v with older := r, hi := v.lo, lo := o.quad, fl := v.fl + 32, spare := free }
    else { v with older := r, hi := v.lo, lo := { o.quad with fails := free.headD 0 }, fl := v.fl + 32, spare := free.tail }

/-- A bank put back as it was saved, with its failure count, and, where it has gone into retention meanwhile, in that state, with the
parity failures it holds. -/
def Quad.back (old now : Quad) : Quad :=
  let q := { old with fails := now.fails }
  if now.power != .retention then q
  else
    let keep (r s : Reg) : Reg := { r with bad := r.bad || s.bad }
    { q with power := now.power, touched := now.touched, poison := now.poison,
             r0 := keep q.r0 now.r0, r1 := keep q.r1 now.r1, r2 := keep q.r2 now.r2, r3 := keep q.r3 now.r3 }

/-- The window registers that an instruction may change, put back as they were saved (R377). -/
def Saved.onto (b : Saved) (v : Slot) : Slot :=
  { v with lo := b.lo.back v.lo, hi := b.hi.back v.hi, k := b.k, pc := b.pc, fl := b.fl, preds := b.preds, ready := b.ready,
           frame := b.frame }

/-- What an awaited access saves of its slot. -/
def Slot.saved (v : Slot) : Saved :=
  { lo := v.lo, hi := v.hi, k := v.k, pc := v.pc, fl := v.fl, preds := v.preds, ready := v.ready, frame := v.frame }

/-! ## The banks that a write-back reads (R37, R81) -/

/-- The lowest register whose parity the wake of a slot's banks for a write-back finds wrong: a0 to a7, and a0 to a3 of the older
windows in the file. -/
def Slot.flushPoison (v : Slot) : Option Nat :=
  let all := (v.lo.poisoned 0).toList ++ (v.hi.poisoned 4).toList ++ (v.older.filter (·.inFile)).filterMap fun o => o.quad.poisoned 0
  leastBy (fun i : Nat => i) all

/-- A bank woken if it is asleep, and its poison reported. -/
def Quad.roused (q : Quad) (now free : Nat) : Quad := if q.power == .on && !q.poison then q else q.wake now free true

/-- Every bank of a slot that a write-back reads is on. -/
def Slot.roused (v : Slot) (now free : Nat) : Slot :=
  { v with lo := v.lo.roused now free, hi := v.hi.roused now (free + 4),
           older := v.older.zipIdx.map fun p => if p.1.inFile then { p.1 with quad := p.1.quad.roused now (free + 8 + 4 * p.2) } else p.1 }

/-! ## Busy marks (R231) -/

/-- The scalar code that the result of an awaited access goes to. -/
def AwaitAct.dest : AwaitAct → Option (BitVec 5)
  | .load _ _ rd => some rd
  | .atomic rd => some rd
  | .fullEmpty true rd => some rd
  | .fullEmpty false _ => none
  | .result rd _ => some rd
  | .row _ _ _ => none
  | .table _ _ => none
  | .done => none

/-- Whether writing a code as a destination is discarded (R69). -/
def discards (d : BitVec 5) : Bool :=
  !(d.toNat < 8 || d.toNat = 17 || d.toNat = 18 || 24 ≤ d.toNat)

/-- Whether a scalar code carries a busy mark: its value is still on its way. -/
def Slot.busy (v : Slot) (code : BitVec 5) : Bool := !discards code && v.awaits.any fun a => a.act.dest == some code

/-- Whether a vector register carries a busy mark: a `vld` of its row is on its way. -/
def State.vecBusy (s : State) (n : BitVec 6) : Bool := s.me.awaits.any fun a =>
  match a.act with
  | .row d _ _ => s.rowKey d == s.rowKey n
  | _ => false

/-- A store of a register to memory ends its short-lived mark (R79). -/
def Slot.unmark (v : Slot) (code : BitVec 5) : Slot :=
  if code.toNat < 8 then v.setReg code.toNat { v.reg code.toNat with mark := none, lapsed := false } else v

end Sys2Proof.Machine
end

