-- ==== Sys2Proof/Machine/Vault.lean ====
section
/-! DEFINITION. The banks of a vault: reads and writes under SEC-DED, injected errors, lost parts, rows and repairs (R21, R23,
R135, R138, R143, R156, R406, R407, R411). -/

namespace Sys2Proof.Machine

/-! ## Regions of the physical address space (R125) -/

/-- The spaces of R125. -/
inductive Space where
  | vault | unassigned | system | host | fabric
deriving DecidableEq, Repr

/-- The space of a physical address. -/
def spaceOf (a : Nat) : Space :=
  if a < 2 ^ 38 then .vault else if a < 2 ^ 42 then .unassigned else if a < 2 ^ 43 then .system
  else if a < 3 * 2 ^ 42 then .host else .fabric

/-- The core whose vault holds a vault-space address (R21). -/
def vaultOf (a : Nat) : Nat := a / 2 ^ 28 % 1024
/-- The bank of an address (R21). -/
def bankOf (a : Nat) : Nat := a / 2 ^ 23 % 32
/-- The row of an address (R21). -/
def rowOfAddr (a : Nat) : Nat := a / 2 ^ 11 % 4096

/-- Whether the part that holds an address is marked lost (R156). -/
def State.isLost (s : State) (a : Nat) : Bool := s.quince.lost.contains (vaultOf a, bankOf a)

/-- Where a vault's reserved region begins: the top 1 MiB of its highest-numbered surviving bank (R119, R157). -/
def State.reservedBase (s : State) (c : Nat) : Nat :=
  match ((List.range 32).reverse).find? fun b => !s.quince.lost.contains (c, b) with
  | some b => b * 2 ^ 23 + 0x700000
  | none => 0x0FF00000

/-- The physical address of an offset of a vault's reserved region, as the device itself reaches it (R157). -/
def State.reservedAt (s : State) (c o : Nat) : Nat := c * 2 ^ 28 + s.reservedBase c + (o - 0x0FF00000)

/-- The address of a row packet. -/
def CtlPacket.addr : CtlPacket → Nat
  | .act a => a
  | .pre a => a

/-- An access leaves its row open (R138). The row packets that its bank's controller received before it are done with (R136, R335). -/
def State.openRow (s : State) (a : Nat) : State :=
  (s.onCore (vaultOf a) fun k => { k with ctl := k.ctl.filter fun p => bankOf p.addr != bankOf a }).putBank (vaultOf a) (bankOf a)
    { s.bankAt (vaultOf a) (bankOf a) with openRow := some (rowOfAddr a) }

/-! ## Losses and repairs (R143, R156, R407) -/

/-- A bank that has failed too often is listed for Quince, which marks it lost as its next act (R407). -/
def State.failBank (s : State) (c b : Nat) : State :=
  if s.quince.failing.contains (c, b) || s.quince.lost.contains (c, b) then s
  else { s with quince := { s.quince with failing := s.quince.failing ++ [(c, b)] } }

/-- A row is moved to a spare row (R143); with none left the bank is lost (R407). Each bank's spare rows are counted from
`Bank.spares`; the spec gives no number, so sixteen are taken (notes/assumptions/20.md). -/
def State.repairRow (s : State) (a : Nat) (w : Who) : State :=
  let b := s.bankAt (vaultOf a) (bankOf a)
  if 16 ≤ b.spares then s.failBank (vaultOf a) (bankOf a)
  else
    let s := s.putBank (vaultOf a) (bankOf a) { b with spares := b.spares + 1, fixes := del (rowOfAddr a) b.fixes }
    let s := s.onCore (vaultOf a) fun k => { k with vevt := bump k.vevt 24 8 1 }
    s.logError (vaultOf a) 0 2 0 (a / 32 * 32) 0 w false

/-- A corrected error in a row: the fourth one has the row repaired (R407). -/
def State.noteFix (s : State) (a : Nat) (w : Who) : State :=
  let b := s.bankAt (vaultOf a) (bankOf a)
  let n := (look (rowOfAddr a) b.fixes).getD 0 + 1
  if 4 ≤ n then s.repairRow a w
  else s.putBank (vaultOf a) (bankOf a) { b with fixes := put (rowOfAddr a) n b.fixes }

/-- An uncorrectable error in a row: sixteen distinct rows lose the bank (R407). -/
def State.noteBad (s : State) (a : Nat) : State :=
  let b := s.bankAt (vaultOf a) (bankOf a)
  let rows := insertNat (rowOfAddr a) b.badRows
  let s := s.putBank (vaultOf a) (bankOf a) { b with badRows := rows }
  if 16 ≤ rows.length && !s.isLost a then s.failBank (vaultOf a) (bankOf a) else s

/-! ## Injected errors (R410, R411) -/

/-- The key of a scratchpad word of a core among the armed errors; vault granules are keyed by their number. -/
def spmKey (c word : Nat) : Nat := 2 ^ 40 + c * 2 ^ 15 + word

/-- How many bits of a unit an armed set of errors flips: bits flipped twice cancel. -/
def flipCount (width : Nat) (l : List (Nat × Nat × Nat × Bool)) : Nat :=
  let bits := l.foldr (fun e acc => if e.2.2.2 then e.2.2.1 % width :: (e.2.2.1 + 1) % width :: acc else e.2.2.1 % width :: acc) []
  ((List.range width).filter fun b => bits.count b % 2 == 1).length

/-- The armed errors of a unit fire: ARM clears and FIRED sets at each core that armed one (R411). -/
def State.fire (s : State) (key : Nat) : State :=
  let hits := s.injected.filter fun e => e.2.1 == key
  let s := { s with injected := s.injected.filter fun e => e.2.1 != key }
  hits.foldl (fun s e => s.onCore e.1 fun k => { k with eic := setField (setField k.eic 0 1 0) 3 1 1 }) s

/-! ## Granules (R406) -/

/-- SEC-DED of one granule as it is read: status 0 or 2 of R135 (R406, R411). -/
def State.checkGranule (s : State) (w : Who) (g : Nat) : State × Nat :=
  let a := g * 32
  let hits := s.injected.filter fun e => e.2.1 == g
  let flips := flipCount 256 hits
  let s := if hits.isEmpty then s else s.fire g
  if s.badGran.contains g || 2 ≤ flips then
    ((s.logError (vaultOf a) 0 1 0 a flips w (!hits.isEmpty)).noteBad a, 2)
  else if flips = 1 then ((s.logError (vaultOf a) 0 0 0 a flips w true).noteFix a w, 0)
  else (s, 0)

/-- The read of one granule: status 0, 2 or 3 of R135. -/
def State.readGranule (s : State) (w : Who) (g : Nat) : State × Nat :=
  if s.isLost (g * 32) then (s, 3) else (s.openRow (g * 32)).checkGranule w g

/-- The granules that `n` bytes at `a` touch. -/
def granules (a n : Nat) : List Nat := (List.range ((a + n + 31) / 32 - a / 32)).map (a / 32 + ·)

/-- An access answered with status 3 is counted in LOST of its vault, once (R144). -/
def State.countLost (s : State) (a status : Nat) : State :=
  if status = 3 then s.onCore (vaultOf a) fun k => { k with vevt := bump k.vevt 0 8 1 } else s

/-- Reads `n` bytes of vault space: a status of R135, and the bytes, none of which a failed read returns. -/
def State.vaultRead (s : State) (w : Who) (a n : Nat) : State × Nat × List Byte :=
  let r := (granules a n).foldl (fun (acc : State × Nat) g =>
    let t := acc.1.readGranule w g
    (t.1, if acc.2 = 0 then t.2 else acc.2)) (s, 0)
  (r.1.countLost a r.2, r.2, if r.2 = 0 then r.1.mem.readBytes a n else [])

/-- Writes bytes that lie in one granule: a masked write is a read, a merge and a write (R136), and fails in an
uncorrectable granule (R406). -/
def State.writeGranule (s : State) (w : Who) (a : Nat) (bs : List Byte) : State × Nat :=
  let g := a / 32
  if s.isLost a then (s, 3)
  else if bs.length = 32 then
    let s := s.openRow a
    ({ s with mem := s.mem.write a bs, badGran := s.badGran.filter (· != g) }, 0)
  else
    let r := s.readGranule w g
    if r.2 = 0 then ({ r.1 with mem := r.1.mem.write a bs }, 0) else (r.1, r.2)

/-- Splits a write at granule boundaries. -/
def splitGranules : Nat → Nat → List Byte → List (Nat × List Byte)
  | 0, _, _ => []
  | n + 1, a, bs =>
    if bs.isEmpty then [] else
      let k := 32 - a % 32
      (a, bs.take k) :: splitGranules n (a + k) (bs.drop k)

/-- Writes bytes of vault space, granule by granule, and gives the first failure's status. -/
def State.vaultWrite (s : State) (w : Who) (a : Nat) (bs : List Byte) : State × Nat :=
  let r := (splitGranules (bs.length / 32 + 2) a bs).foldl (fun (acc : State × Nat) p =>
    let t := acc.1.writeGranule w p.1 p.2
    (t.1, if acc.2 = 0 then t.2 else acc.2)) (s, 0)
  (r.1.countLost a r.2, r.2)

/-- The cause of a failing status (R135, R360). -/
def statusCause : Nat → Option Cause
  | 0 => none
  | 1 => some .prot
  | 2 => some .eccue
  | 3 => some .eccue
  | 4 => some .refused
  | 7 => some .luttag
  | 8 => some .prot
  | _ => some .illegal

/-- Where the owner-map entry of the page that holds a vault byte lies (R120). -/
def State.ownerAt (s : State) (a : Nat) : Nat := s.reservedAt (vaultOf a) (0x0FF50000 + 2 * (a % 2 ^ 28 / 65536))

/-- The owner-map entry of the page that holds a vault byte (R120). -/
def State.ownerOf (s : State) (a : Nat) : Nat := s.mem.readNat (s.ownerAt a) 2

/-- Whether a process owns the page of a vault byte; 0x0000 and 0xFFFF match nothing (R120). -/
def State.owns (s : State) (pid : BitVec 16) (a : Nat) : Bool :=
  let e := s.ownerOf a
  e == pid.toNat && e != 0 && e != 65535

/-- The owner check of an access: the map entry is read under SEC-DED, whoever asks, and one that cannot be read is ECCUE (R120, R406,
R411; notes/assumptions/146.md). -/
def State.ownerCheck (s : State) (w : Who) (pid : BitVec 16) (a : Nat) : State × Option Cause :=
  match s.checkGranule w (s.ownerAt a / 32) with
  | (t, 0) => (t, if s.owns pid a then none else some .prot)
  | (t, _) => (t, some .eccue)

/-- The owner checks of every page of a vault range, until one fails. -/
def State.ownerChecks (w : Who) (pid : BitVec 16) : List Nat → State → State × Option Cause
  | [], s => (s, none)
  | a :: r, s => match s.ownerCheck w pid a with
    | (s, none) => State.ownerChecks w pid r s
    | o => o

/-- The pages, by an address in each, that a range of a vault's offsets touches. -/
def pagesOf (c a n : Nat) : List Nat := (List.range ((a + n + 65535) / 65536 - a / 65536)).map fun i => c * 2 ^ 28 + (a / 65536 + i) * 65536

end Sys2Proof.Machine
end

