-- ==== Sys2Proof/Machine/Sysregs.lean ====
section
/-! DEFINITION. System space as it reads: every register the spec places there (R20, R127, R203 to R205, R222, R224, R379, R396,
R408, R412, R415, R421, R426, R427). -/

namespace Sys2Proof.Machine

/-- CPWR as it reads: WAKE is write only (R204). -/
def Cluster.cpwrWord (g : Cluster) : Nat := setField g.cpwr 0 1 0 |>.toNat

/-- TRE (R222). -/
def Cluster.treWord (g : Cluster) : Nat := g.now.toNat * 2 ^ 16 + g.seen.toNat

/-- The code of an operating point in PERM.STEP (R205). -/
def Step.code : Step → Nat
  | .nominal => 0 | .boost => 1 | .fall => 2 | .economy => 3

/-- PERM (R205). -/
def Cluster.permWord (g : Cluster) : Nat := bit g.slot * 2 ^ 10 + g.step.code * 2 ^ 8 + g.permits % 128

/-- MLST (R421). -/
def Medlar.status (m : Medlar) : Nat :=
  min 255 m.replay * 2 ^ 8 + m.held.length % 32 * 2 ^ 3 + bit m.drop * 4 + bit m.rdy * 2 + bit m.up

/-- A link's status register (R426). -/
def Link.status (l : Link) : Nat := min (2 ^ 32 - 1) l.replay * 2 ^ 32 + min 65535 l.downs * 2 ^ 16 + bit l.up

/-- One byte of a map of one bit per core (R396, R415). -/
def State.mapByte (s : State) (p : Core → Bool) (i : Nat) : Nat :=
  (List.range 8).foldl (fun a k => a + bit (p (s.coreAt (8 * i + k))) * 2 ^ k) 0

/-- Eight bytes of a map of one bit per core. -/
def State.mapXword (s : State) (p : Core → Bool) (i : Nat) : Nat :=
  (List.range 8).foldl (fun a k => a + s.mapByte p (8 * i + k) * 2 ^ (8 * k)) 0

/-- The log of an array of a core (R408). -/
def State.logOf (s : State) (c a : Nat) : ErrLog :=
  ((s.coreAt c).logs.find? (·.array == a)).getD { array := a, count := 0, slots := [] }

/-- The xword at an aligned offset of system space, as a privileged read finds it; unassigned addresses read zero (R125). -/
def State.sysXword (s : State) (o : Nat) : Nat :=
  if 0x1000 ≤ o ∧ o < 0x2000 then
    let c := (o - 0x1000) / 4
    (s.coreAt c).feat.toNat + (s.coreAt (c + 1)).feat.toNat * 2 ^ 32
  else if o = 0x2000 then s.stpt.toNat
  else if o = 0x3000 then s.tvb.toNat
  else if 0x4000 ≤ o ∧ o < 0x4800 then
    let g := s.clusterAt ((o - 0x4000) / 32)
    if o % 32 = 0 then g.cpwrWord else if o % 32 = 8 then g.treWord + g.permWord * 2 ^ 32 else 0
  else if 0x5000 ≤ o ∧ o < 0x5080 then s.mapXword (·.vacated) ((o - 0x5000) / 8)
  else if o = 0x6000 then s.audc.toNat
  else if o = 0x6008 then s.audb.toNat
  else if 0x7000 ≤ o ∧ o < 0x7200 then
    let g := s.clusterAt ((o - 0x7000) / 8)
    g.srec.toNat * 2 ^ 16 + g.score
  else if 0x7400 ≤ o ∧ o < 0x7480 then s.mapXword (·.killed) ((o - 0x7400) / 8)
  else if o = 0x8000 then s.medlar.status
  else if 0x9000 ≤ o ∧ o < 0x9080 then (s.linkAt ((o - 0x9000) / 8)).status
  else if o = 0xA000 then s.quince.cmd.toNat
  else if o = 0xA008 then s.quince.arg.toNat
  else if o = 0xA010 then s.quince.len.toNat
  else if o = 0xA018 then s.quince.sts.toNat
  else if 0x100000 ≤ o ∧ o < 0x180000 then (look ((o - 0x100000) / 8) s.energy).getD 0 % 2 ^ 64
  else if 0x1000000 ≤ o ∧ o < 0x5000000 then
    let q := o - 0x1000000
    let l := s.logOf (q / 0x10000) (q % 0x10000 / 0x800)
    ((look (q % 0x800 / 32) l.slots).getD 0).toNat / 2 ^ (64 * (q % 32 / 8)) % 2 ^ 64
  else if 0x6000000 ≤ o ∧ o < 0x6040000 then
    let q := o - 0x6000000
    min (2 ^ 48 - 1) (s.logOf (q / 0x100) (q % 0x100 / 8)).count
  else 0

/-- Reads bytes of system space (R125). -/
def State.sysRead (s : State) (a n : Nat) : List Byte :=
  (List.range n).map fun i =>
    let o := (a + i) % 2 ^ 42
    BitVec.ofNat 8 (s.sysXword (o / 8 * 8) / 2 ^ (8 * (o % 8)))

end Sys2Proof.Machine
end

