-- ==== Sys2Proof/Machine/Registers.lean ====
section
/-! DEFINITION. Writes of system space: each register's writable fields under its access codes, the Quince mailbox and MLPOST
(R12, R20, R125, R127, R204, R222, R379, R412, R415, R418, R420, R421, R426, R427). -/

namespace Sys2Proof.Machine

/-- The bits of a mask replaced. -/
def mergeBits (old m v : Nat) : Nat := old - (old &&& m) + (v &&& m)

/-- A write of CPWR: the fields it holds, and a wake request when bit 0 is written as 1 (R204). -/
def State.putCpwr (s : State) (g x : Nat) (wake : Bool) : State :=
  let s := s.onCluster g fun c => { c with
    cpwr := BitVec.ofNat 64 (bitsOf x 47 12 * 2 ^ 12 + bitsOf x 3 1 * 2) }
  if wake then s.wakeRequest g else s

/-- A write of a supervisor-table entry: SCORE keeps its value when the write names a core outside the cluster (R415). -/
def State.putSupervisor (s : State) (g x : Nat) : State :=
  s.onCluster g fun c => { c with
    srec := BitVec.ofNat 44 (bitsOf x 59 16),
    score := if clusterOf (bitsOf x 9 0) = g then bitsOf x 9 0 else c.score }

/-- A write of AUDC: K keeps its value when the write gives 21 to 31 (R412). -/
def State.putAudc (s : State) (x : Nat) : State :=
  let k := if x % 32 ≤ 20 then x % 32 else s.audc.toNat % 32
  { s with audc := BitVec.ofNat 64 (bitsOf x 63 32 * 2 ^ 32 + bitsOf x 6 5 * 2 ^ 5 + k) }

/-- The bits of a write-one-to-clear field left by a write of ones. -/
def cleared (old ones : Nat) : Nat := old - (old &&& ones)

/-- A write of MLST (R421). -/
def Medlar.clear (m : Medlar) (ones : Nat) : Medlar :=
  { m with replay := if bitsOf ones 15 8 = 0 then m.replay else 0, drop := m.drop && !bitAt ones 2 }

/-- A write of a link's status register (R426). -/
def Link.clear (l : Link) (ones : Nat) : Link :=
  { l with replay := cleared (min (2 ^ 32 - 1) l.replay) (bitsOf ones 63 32), downs := cleared (min 65535 l.downs) (bitsOf ones 31 16) }

/-- A write of CMD starts a command unless one runs; STS then reads 0 (R427). -/
def Quince.start (q : Quince) (x : Nat) : Quince :=
  if q.busy then q else { q with cmd := BitVec.ofNat 64 x, busy := true, sts := 0 }

/-! ## MLPOST (R420, R421, R432) -/

/-- A write to MLPOST was refused. -/
def State.postRefused (s : State) : State := { s with medlar := { s.medlar with drop := true } }

/-- A 16 B write to MLPOST: the port holds sixteen messages; before RDY, or beyond sixteen, it refuses. -/
def State.post (s : State) (msg : BitVec 128) : State × Bool :=
  if !s.medlar.rdy || 16 ≤ s.medlar.held.length then (s.postRefused, false)
  else
    let m := setField (setField msg 85 1 1) 86 10 0x3FF
    ({ s with medlar := { s.medlar with held := s.medlar.held ++ [m] } }, true)

/-! ## Registers -/

/-- A write of bits of the xword at an aligned offset of system space, with a status of R135: read-only registers and unassigned
addresses ignore it, and MLPOST refuses every write but the one `State.sysStore` gives. -/
def State.sysPut (s : State) (o m v : Nat) : State × Nat :=
  let x := mergeBits (s.sysXword o) m v
  let ones := v &&& m
  if o = 0x2000 then ({ s with stpt := BitVec.ofNat 64 (bitsOf x 43 12 * 2 ^ 12 + x % 2) }, 0)
  else if o = 0x3000 then ({ s with tvb := BitVec.ofNat 64 (bitsOf x 63 12 * 2 ^ 12) }, 0)
  else if 0x4000 ≤ o ∧ o < 0x4800 then
    let g := (o - 0x4000) / 32
    if o % 32 = 0 then (s.putCpwr g x (bitAt ones 0), 0)
    else if o % 32 = 8 then
      (s.onCluster g fun c => { c with seen := BitVec.ofNat 5 (cleared c.seen.toNat (ones % 32)) }, 0)
    else (s, 0)
  else if o = 0x6000 then (s.putAudc x, 0)
  else if o = 0x6008 then ({ s with audb := BitVec.ofNat 64 (bitsOf x 43 23 * 2 ^ 23) }, 0)
  else if 0x7000 ≤ o ∧ o < 0x7200 then (s.putSupervisor ((o - 0x7000) / 8) x, 0)
  else if o = 0x8000 then ({ s with medlar := s.medlar.clear ones }, 0)
  else if o = 0x8010 ∨ o = 0x8018 then (s.postRefused, 4)
  else if 0x9000 ≤ o ∧ o < 0x9080 then
    let n := (o - 0x9000) / 8
    (s.putLink n ((s.linkAt n).clear ones), 0)
  else if o = 0xA000 then ({ s with quince := s.quince.start x }, 0)
  else if o = 0xA008 then ({ s with quince := { s.quince with arg := BitVec.ofNat 64 x } }, 0)
  else if o = 0xA010 then ({ s with quince := { s.quince with len := BitVec.ofNat 64 x } }, 0)
  else (s, 0)

/-- The range of system space reserved to Quince (R418). -/
def quinceOwn (a : Nat) : Bool := 0xF00000 ≤ a % 2 ^ 42 && a % 2 ^ 42 < 0x1000000

/-- Writes bytes of system space, xword by xword from the lowest: the first failing status is the write's. Sixteen bytes at MLPOST
post one launch message (R420). -/
def State.sysStore (s : State) (a : Nat) (bs : List Byte) : State × Nat :=
  if quinceOwn a then (s, 1)
  else if a % 2 ^ 42 = 0x8010 ∧ bs.length = 16 then
    match s.post (BitVec.ofNat 128 (leNat bs)) with
    | (s, true) => (s, 0)
    | (s, false) => (s, 4)
  else
    let n := (a + bs.length + 7) / 8 - a / 8
    (List.range n).foldl (fun (r : State × Nat) i =>
      let x := (a / 8 + i) * 8
      let lo := max a x
      let hi := min (a + bs.length) (x + 8)
      let v := leNat ((bs.drop (lo - a)).take (hi - lo)) * 2 ^ (8 * (lo - x))
      let m := (2 ^ (8 * (hi - lo)) - 1) * 2 ^ (8 * (lo - x))
      let t := r.1.sysPut (x % 2 ^ 42) m v
      (t.1, if r.2 = 0 then t.2 else r.2)) (s, 0)

/-- A read of system space, with a status of R135. -/
def State.sysLoad (s : State) (a n : Nat) : Nat × List Byte := if quinceOwn a then (1, []) else (0, s.sysRead a n)

end Sys2Proof.Machine
end

