-- ==== Sys2Proof/Machine/Translate.lean ====
section
/-! DEFINITION. Translation at a station: the walk of four levels, the station's cache, and the checks of R129 (R117, R125 to
R131). -/

namespace Sys2Proof.Machine

/-- What an access wants of a page (R129); `route` tests neither W nor X (R273). -/
inductive Acc where
  | read | write | fetch | route
deriving DecidableEq, Repr

/-- A leaf as the walk finds it: the level it lies at, its page frame, and its rights. -/
structure Leaf where
  level : Nat
  frame : Nat
  w : Bool
  x : Bool
deriving DecidableEq, Repr

/-- log2 of the page size of a leaf at a level (R128). -/
def pageBits (level : Nat) : Nat := if level = 2 then 30 else if level = 3 then 21 else 16

/-- The index of a virtual address at a level (R128). -/
def levelIndex (level va : Nat) : Nat :=
  if level = 1 then bitsOf va 47 39 else if level = 2 then bitsOf va 38 30 else if level = 3 then bitsOf va 29 21
  else bitsOf va 20 16

/-- Reads one 8-byte table entry for a walk: a table outside vault space is XLATE, a failing read ECCUE (R129). -/
def State.tableEntry (s : State) (w : Who) (a : Nat) : State × Except Cause Nat :=
  if spaceOf a != .vault then (s, .error .xlate)
  else if (s.coreAt (vaultOf a)).killed then (s, .error .refused)
  else
    let r := s.vaultRead w a 8
    (r.1, if r.2.1 = 0 then .ok (leNat r.2.2) else .error .eccue)

/-- The walk from a table on, `n` levels above the last (R128, R129). -/
def State.walkFrom (w : Who) (va : Nat) : Nat → State → Nat → State × Except Cause Leaf
  | 0, s, _ => (s, .error .xlate)
  | n + 1, s, table =>
    let level := 4 - n
    match s.tableEntry w (table + 8 * levelIndex level va) with
    | (s, .error c) => (s, .error c)
    | (s, .ok e) =>
      if !bitAt e 0 || bitsOf e 63 44 != 0 || bitsOf e 7 4 != 0 then (s, .error .xlate)
      else if bitAt e 1 then
        let frame := bitsOf e 43 16 * 65536
        if level = 1 || bitsOf e 15 8 != 0 || frame % 2 ^ pageBits level != 0 || spaceOf frame == .unassigned then
          (s, .error .xlate)
        else (s, .ok { level := level, frame := frame, w := bitAt e 2, x := bitAt e 3 })
      else if level = 4 || (level < 3 && bitsOf e 11 8 != 0) then (s, .error .xlate)
      else State.walkFrom w va n s (bitsOf e 43 8 * 256)

/-- The walk of a virtual address of a process, from its process-table entry (R127, R128). -/
def State.walk (s : State) (w : Who) (pid : BitVec 16) (va : Nat) : State × Except Cause Leaf :=
  match s.tableEntry w (bitsOf s.stpt.toNat 43 12 * 4096 + 8 * pid.toNat) with
  | (s, .error c) => (s, .error c)
  | (s, .ok e) =>
    if !bitAt e 0 || bitsOf e 63 44 != 0 || bitsOf e 11 1 != 0 then (s, .error .xlate)
    else State.walkFrom w va 4 s (bitsOf e 43 12 * 4096)

/-- The cached translation of an address at a station (R130). -/
def Station.hit (t : Station) (pid : BitVec 16) (va : Nat) : Option Tlb :=
  t.cache.find? fun e => e.pid == pid && e.vpage == va / 2 ^ pageBits e.level

/-- A station's cache without an entry. -/
def Station.drop (t : Station) (e : Tlb) : Station := { t with cache := t.cache.filter (· != e) }

/-- The look-up of a translation at a station: an entry whose parity fails is dropped and logged, and walked again (R406). -/
def State.probe (s : State) (n : Nat) (pid : BitVec 16) (va : Nat) : State × Option Tlb :=
  match (s.stationAt n).hit pid va with
  | none => (s, none)
  | some e =>
    if e.bad then
      let t := s.putStation n ((s.stationAt n).drop e)
      (t.logError (stationCore n) 7 0 0 va 0 { core := stationCore n, pid := pid, id := { lid := 0, sid := 0 } } false, none)
    else (s, some e)

/-- A leaf kept in a station's cache: 4,096 places, the oldest giving way (R130). -/
def Station.keep (t : Station) (pid : BitVec 16) (va : Nat) (f : Leaf) : Station :=
  let e : Tlb := { pid := pid, level := f.level, vpage := va / 2 ^ pageBits f.level, frame := f.frame, w := f.w, x := f.x, bad := false }
  { t with cache := (e :: t.cache).take 4096 }

/-- The physical address a leaf gives, under the rights of R125 and R129. -/
def leafAddress (level frame : Nat) (w x prv : Bool) (va : Nat) (acc : Acc) : Except Cause Nat :=
  let pa := frame + va % 2 ^ pageBits level
  if acc = .write && !w then .error .prot
  else if acc = .fetch && !x then .error .prot
  else if spaceOf pa == .system && !prv && acc != .route then .error .prot
  else .ok pa

/-- The translation of a global address at a core's station (R126, R129, R130): from the cache, or by a walk that fills it. -/
def State.translate (s : State) (w : Who) (pid : BitVec 16) (prv : Bool) (va : Nat) (acc : Acc) : State × Except Cause Nat :=
  if !s.stpt.getLsbD 0 then (s, .error .xlate)
  else
    let n := stationOf w.core
    match s.probe n pid va with
    | (s, some e) => (s, leafAddress e.level e.frame e.w e.x prv va acc)
    | (s, none) =>
      match s.walk w pid va with
      | (s, .error c) => (s, .error c)
      | (s, .ok f) => (s.putStation n ((s.stationAt n).keep pid va f), leafAddress f.level f.frame f.w f.x prv va acc)

/-- Reads consecutive bytes at a translated address, as one access, in the space it lies in (R125). -/
def State.readPhys (s : State) (w : Who) (pa n : Nat) : State × Except Cause (List Byte) :=
  match spaceOf pa with
  | .vault =>
    if (s.coreAt (vaultOf pa)).killed then (s, .error .refused)
    else
      let r := s.vaultRead w pa n
      match statusCause r.2.1 with
      | some c => (r.1, .error c)
      | none => (r.1, .ok r.2.2)
  | .host => if s.medlar.up then (s, .ok (s.mem.readBytes pa n)) else (s, .error .refused)
  | .fabric => if (s.linkAt (pa / 2 ^ 38 % 16)).up then (s, .ok (s.mem.readBytes pa n)) else (s, .error .refused)
  | .system => if quinceOwn pa then (s, .error .prot) else (s, .ok (s.sysRead pa n))
  | .unassigned => (s, .error .xlate)

/-- An access made as one event that travels to another unit: one request for each 32-byte granule, counted as sent, and as received by
the core that takes it, or with its reply where none does (R64, R299; notes/assumptions/87.md). -/
def State.countPairs (s : State) (w : Who) (owner va n : Nat) : State :=
  (granules va n).foldl (fun s _ => (s.countSent w.core w.id.lid).countRecv owner w.id.lid) s

/-- The core that takes a request for a physical address; the sender counts one that no core takes with its reply. -/
def ownerOr (c pa : Nat) : Nat := if spaceOf pa == .vault then vaultOf pa else c

/-- Reads consecutive bytes of a global range that one page holds, as one access. -/
def State.readGlobal (s : State) (w : Who) (pid : BitVec 16) (prv : Bool) (va n : Nat) (acc : Acc) :
    State × Except Cause (List Byte) :=
  match s.translate w pid prv va acc with
  | (s, .error c) => (s.countPairs w w.core va n, .error c)
  | (s, .ok pa) => (s.countPairs w (ownerOr w.core pa) va n).readPhys w pa n

/-- Writes consecutive bytes at a translated address, as one access, in the space it lies in (R125). -/
def State.writePhys (s : State) (w : Who) (pa : Nat) (bs : List Byte) : State × Option Cause :=
  match spaceOf pa with
  | .vault =>
    if (s.coreAt (vaultOf pa)).killed then (s, some .refused)
    else
      let r := s.vaultWrite w pa bs
      (r.1, statusCause r.2)
  | .host => if s.medlar.up then ({ s with mem := s.mem.write pa bs }, none) else (s, some .refused)
  | .fabric =>
    if (s.linkAt (pa / 2 ^ 38 % 16)).up then ({ s with mem := s.mem.write pa bs }, none) else (s, some .refused)
  | .system =>
    let r := s.sysStore pa bs
    (r.1, statusCause r.2)
  | .unassigned => (s, some .xlate)

/-- Writes consecutive bytes of a global range that one page holds, as one access. -/
def State.writeGlobal (s : State) (w : Who) (pid : BitVec 16) (prv : Bool) (va : Nat) (bs : List Byte) :
    State × Option Cause :=
  match s.translate w pid prv va .write with
  | (s, .error c) => (s.countPairs w w.core va bs.length, some c)
  | (s, .ok pa) => (s.countPairs w (ownerOr w.core pa) va bs.length).writePhys w pa bs

end Sys2Proof.Machine
end

