-- ==== Sys2Proof/Machine/Ring.lean ====
section
/-! DEFINITION. Continuations on their way: records and packets as bytes, the end of a strand, ready rings and overflow
lists, continuation-area slots, and the return of a waiter to its ring (R35, R37, R38, R40, R54 to R61, R67, R146 to
R149). -/

namespace Sys2Proof.Machine

/-! ## Records (R35, R59) -/

/-- The predicate word a continuation carries: DEPTH is zero after a write-back (R37). -/
def Cont.pw (k : Cont) : Nat := k.handle.toNat * 2 ^ 20 + k.hops.toNat * 2 ^ 16 + k.preds.toNat * 2 + 1

/-- The 64 bytes of a continuation record (R35). -/
def Cont.bytes (k : Cont) : List Byte :=
  (k.a.flatMap fun r => leBytes 6 r.toNat) ++ leBytes 6 k.pc.toNat ++ leBytes 6 k.fl.toNat ++ leBytes 4 k.pw

/-- The 16 bytes of a packet header (R59). -/
def Packet.header (p : Packet) : List Byte :=
  let lo := p.lrec.toNat + p.rad % 8 * 2 ^ 49 + p.hy % 32 * 2 ^ 52 + p.hx % 32 * 2 ^ 57 + bit p.hint * 2 ^ 62 +
    p.kind.toNat % 2 * 2 ^ 63
  let hi := p.kind.toNat / 2 + p.epri.toNat * 2 ^ 2 + p.bpri.toNat * 2 ^ 7 + p.org % 1024 * 2 ^ 12 + p.dst % 1024 * 2 ^ 22 +
    p.cont.id.lid.toNat * 2 ^ 32 + p.pid.toNat * 2 ^ 48
  leBytes 8 lo ++ leBytes 8 hi

/-- A continuation with the registers, pc, fl and pw of a record: HANDLE and HOPS are taken as the record holds them, DEPTH is ignored
(R35). -/
def Cont.withBytes (k : Cont) (bs : List Byte) : Cont :=
  let pw := fieldAt bs 60 4
  { k with a := (List.range 8).map fun i => BitVec.ofNat 48 (fieldAt bs (6 * i) 6), pc := BitVec.ofNat 48 (fieldAt bs 48 6),
           fl := BitVec.ofNat 48 (fieldAt bs 54 6), preds := BitVec.ofNat 11 (bitsOf pw 11 1), handle := BitVec.ofNat 12 (bitsOf pw 31 20),
           hops := BitVec.ofNat 4 (bitsOf pw 19 16) }

/-- A slot of the continuation area: header, record, and a link (R56); its reserved bytes are neither written nor read
(notes/assumptions/149.md). -/
def Packet.slotBytes (p : Packet) (link : Nat) : List Byte := p.header ++ p.cont.bytes ++ leBytes 8 link

/-- The continuation a slot writes back, resuming at a pc: lapsed short-lived registers are zero and no mark is carried
(R37). A cause that its last take-up left, and that it has not taken, goes with it (R377). -/
def Slot.cont (v : Slot) (now : Nat) (pc : Word) : Cont :=
  { a := (List.range 8).map fun i => (v.reg i).flushed now, pc := pc, fl := v.fl, preds := v.preds,
    handle := match v.strand with | some b => b.handle | none => 0,
    hops := match v.strand with | some b => b.hops | none => 0,
    id := v.id, pend := v.first.head?, fresh := false }

/-- The packet that carries a slot's strand from a core to another (R59). EPRI of a strand that leaves while it runs is its base
priority: its wait starts at zero (notes/assumptions/112.md). -/
def Slot.packet (v : Slot) (now : Nat) (pc : Word) (from_ dst : Nat) (kind : BitVec 3) : Packet :=
  let b := v.strand.getD { id := { lid := 0, sid := 0 }, pid := 0, base := 0, eff := 0, handle := 0, hops := 0, lrec := 0 }
  { cont := v.cont now pc, pid := b.pid, dst := dst, org := from_, bpri := b.base, epri := b.base, kind := kind, hint := false,
    hx := 0, hy := 0, rad := 0, lrec := b.lrec, at_ := from_, slot := none, ahead := false, wrote := from_, park := none }

/-! ## The end of a strand -/

/-- The strand's entries of a core that last while it stays there: its tile binding and its leave end when it leaves (R85,
R349). -/
def Core.unbind (k : Core) (id : StrandId) : Core :=
  { k with bound := k.bound.filter fun b => b.1 != id, leaves := k.leaves.filter fun l => l.owner != id }

/-- A strand that leaves for another core, from wherever it waits. -/
def State.unbindAll (s : State) (id : StrandId) : State := { s with cores := s.cores.map fun e => (e.1, e.2.unbind id) }

/-- Frees a slot of a core that is reserved or held for a strand (R54, R55). -/
def State.freeReserved (s : State) (c : Nat) (id : StrandId) : State :=
  upTo 8 (fun s j =>
    let v := s.slotAt c j
    if v.reserved = some id || v.inbound = some id then
      s.putSlot c j { v with reserved := if v.reserved = some id then none else v.reserved,
                             inbound := if v.inbound = some id then none else v.inbound }
    else s) s

/-- A strand is done: counted in NDONE when it executed `exit`, else its launch ends with STATUS 0x04; its reservations
are released, and what its cores hold for it ends (R45, R85, R122, R274, R349). -/
def State.strandDone (s : State) (id : StrandId) (exited : Bool) : State :=
  let s := s.cores.foldl (fun (s : State) e =>
    (s.onCore e.1 fun k => { k.unbind id with bars := k.bars.filter fun b => b.2 != id }).freeReserved e.1 id) s
  let s := s.onUnfolded id fun u => { u with done := true, left := 0, bars := [], slot := none }
  s.onLaunch id.lid fun l => if exited then { l with ndone := l.ndone + 1 } else { l with dead := true }

/-! ## Continuation-area slots (R43, R56) -/

/-- The address of a strand's slot of the continuation area. -/
def State.contSlot (s : State) (id : StrandId) : Nat :=
  match s.launchAt id.lid with
  | some l => (l.cont.toNat + 128 * id.sid) % 2 ^ 48
  | none => 0

/-- The device as the consumer of an access for a strand of a core. -/
def Packet.agent (p : Packet) (c : Nat) (s : State) : Who := { core := c, pid := s.spid, id := p.cont.id }

/-- A strand whose slot of the continuation area cannot be written or read is ended, with its launch, and logged (R56; for a read,
notes/assumptions/113.md). -/
def State.loseSlot (s : State) (c : Nat) (p : Packet) (cause : Cause) : State :=
  (s.strandDone p.cont.id false).logError c 9 2 cause.code (s.contSlot p.cont.id) 0 { p.agent c s with pid := p.pid } false

/-- Writes a packet into its strand's slot under TVB.SPID with PRV = 1. A slot that cannot be written ends the strand and
its launch, with a log entry (R56): then false is answered. -/
def State.saveSlot (s : State) (c : Nat) (p : Packet) (link : Nat) : State × Bool :=
  match s.writeGlobal (p.agent c s) s.spid true (s.contSlot p.cont.id) (p.slotBytes link) with
  | (s, none) => (s, true)
  | (s, some cause) => (s.loseSlot c p cause, false)

/-- A link of a continuation-area slot: bit 63 the end of the list, else the next strand (R56). -/
def slotLink (next : Option StrandId) : Nat :=
  match next with
  | none => 2 ^ 63
  | some id => id.lid.toNat * 2 ^ 24 + id.sid % 2 ^ 24

/-- Writes the link of a strand's slot. -/
def State.linkSlot (s : State) (c : Nat) (p : Packet) (next : Option StrandId) : State × Bool :=
  match s.writeGlobal (p.agent c s) s.spid true ((s.contSlot p.cont.id + 0x50) % 2 ^ 48) (leBytes 8 (slotLink next)) with
  | (s, none) => (s, true)
  | (s, some cause) => (s.loseSlot c p cause, false)

/-- The packet of a slot of the continuation area, its continuation as the record there holds it (R35, R56). -/
def State.readSlot (s : State) (c : Nat) (p : Packet) : State × Option Packet :=
  match s.readGlobal (p.agent c s) s.spid true ((s.contSlot p.cont.id + 16) % 2 ^ 48) 64 .read with
  | (s, .ok bs) => (s, some { p with cont := p.cont.withBytes bs })
  | (s, .error cause) => (s.loseSlot c p cause, none)

/-! ## Restart from the work packet (R48 to R50) -/

/-- The address of a work-packet entry. -/
def Launch.packetAddress (l : Launch) (handle : BitVec 12) : Nat := (l.wpkt.toNat + 64 * handle.toNat) % 2 ^ 48

/-- Whether a work-packet entry has a nonzero reserved field (R48). -/
def packetReserved (bs : List Byte) : Bool :=
  fieldAt bs 4 4 != 0 || fieldAt bs 0x0E 2 != 0 || fieldAt bs 0x16 2 != 0 || fieldAt bs 0x1E 2 != 0 || fieldAt bs 0x26 2 != 0 ||
    fieldAt bs 0x2E 2 != 0 || fieldAt bs 0x36 2 != 0 || fieldAt bs 0x3E 2 != 0

/-- The continuation of a strand restarted from its work packet, or the cause and address of the failing entry (R50). -/
def State.restartCont (s : State) (c : Nat) (id : StrandId) (handle : BitVec 12) : State × Except (Cause × Word) Cont :=
  match s.launchAt id.lid with
  | none => (s, .error (.xlate, 0))
  | some l =>
    let a := l.packetAddress handle
    match s.readGlobal { core := c, pid := l.pid, id := id } l.pid (l.pid == s.spid) a 64 .read with
    | (s, .error cause) => (s, .error (cause, BitVec.ofNat 48 a))
    | (s, .ok bs) =>
      if packetReserved bs then (s, .error (.illegal, BitVec.ofNat 48 a))
      else
        let r (i : Nat) : Word := BitVec.ofNat 48 (fieldAt bs (0x20 + 8 * i) 8)
        (s, .ok { a := [r 0, r 1, r 2, r 3, 0, 0, 0, 0], pc := BitVec.ofNat 48 (fieldAt bs 0x18 8),
                  fl := BitVec.ofNat 48 (l.stkb.toNat + (id.sid + 1) * 2 ^ l.stks), preds := 0, handle := handle, hops := 0,
                  id := id, pend := none, fresh := true })

/-- A restart that cannot be made ends the strand and its launch, and logs the cause and the entry's address (R50). -/
def State.noRestart (s : State) (c : Nat) (id : StrandId) (pid : BitVec 16) (f : Cause × Word) : State :=
  (s.strandDone id false).logError c 9 2 f.1.code f.2.toNat 0 { core := c, pid := pid, id := id } false

/-- A packet whose strand restarts, its record written afresh by the core, so that HOPS is 0 in its own ring (R50, R157); nothing where the
restart cannot be made. -/
def State.restartPacket (s : State) (c : Nat) (p : Packet) : State × Option Packet :=
  match s.restartCont c p.cont.id p.cont.handle with
  | (s, .error f) => (s.noRestart c p.cont.id p.pid f, none)
  | (s, .ok k) => (s, some { p with cont := k, wrote := c })

/-! ## Ready rings (R56, R57) -/

/-- An event of R403 for every strand of a core that idles. -/
def State.stir (s : State) (c : Nat) : State :=
  upTo 8 (fun s j =>
    let v := s.slotAt c j
    match v.run with
    | some (.idle _) => s.putSlot c j { v with run := some (.idle true) }
    | _ => s) s

/-- HOPS grows when a continuation enters the ring or the overflow list of a core other than the one that wrote it (R38). -/
def Packet.hopped (p : Packet) (c : Nat) : Packet :=
  if p.wrote = c then p else { p with cont := { p.cont with hops := p.cont.hops + 1 } }

/-- The physical address of an entry of a core's ring: 80 bytes each (R56). -/
def State.ringAddress (s : State) (c pos : Nat) : Nat := s.reservedAt c (0x0FF00000 + 80 * pos)

/-- A place of a ring that holds no entry. -/
def Core.ringPlace (k : Core) : Nat := (lowestBelow 4096 fun i => k.ring.all fun e => e.pos != i).getD 0

/-- A packet enters the ring, from outside or from the overflow list: its header and record are written to the ring's bytes, its wait
starts, and strands of the core that idle see it (R56, R57, R59, R403). -/
def State.intoRing (s : State) (c : Nat) (p : Packet) : State :=
  let s := s.stir c
  let pos := (s.coreAt c).ringPlace
  let s := (s.vaultWrite (Who.none c) (s.ringAddress c pos) (p.header ++ p.cont.bytes)).1
  s.onCore c fun k => { k with ring := k.ring ++ [{ pkt := p, since := s.now, w0 := (p.epri.toNat - p.bpri.toNat) * 65536, pos := pos }] }

/-- The packet of a ring entry, its continuation as the record in the ring holds it; a record that cannot be read has its strand
restarted as that of a lost ring is (R35, R157; notes/assumptions/114.md). -/
def State.readRing (s : State) (c : Nat) (e : RingEntry) : State × Option Packet :=
  match s.vaultRead (Who.none c) (s.ringAddress c e.pos + 16) 64 with
  | (s, 0, bs) => (s, some { e.pkt with cont := e.pkt.cont.withBytes bs })
  | (s, _, _) => s.restartPacket c e.pkt

/-- The head of the overflow list moves into the ring while the ring has room (R56). -/
def State.refillRing (c : Nat) : Nat → State → State
  | 0, s => s
  | n + 1, s =>
    let k := s.coreAt c
    match k.overflow with
    | [] => s
    | e :: r =>
      if 4096 ≤ k.ring.length then s
      else State.refillRing c n <|
        match (s.putCore c { k with overflow := r }).readSlot c e.pkt with
        | (s, none) => s
        | (s, some p) => s.intoRing c p

/-- The slots of an overflow list are linked anew, after entries have been taken out of it (R56). -/
def State.relink (c : Nat) : List RingEntry → State → State
  | [], s => s
  | e :: r, s => State.relink c r (s.linkSlot c e.pkt (r.head?.map (·.pkt.cont.id))).1

/-- Every overflow entry that the ring has room for moves into it. -/
def State.refill (s : State) (c : Nat) : State := State.refillRing c (s.coreAt c).overflow.length s

/-- An entry joins the end of a core's overflow list, linked from the one before it (R56). -/
def State.intoOverflow (s : State) (c : Nat) (p : Packet) : State :=
  match s.saveSlot c p (slotLink none) with
  | (s, false) => s
  | (s, true) =>
    let e : RingEntry := { pkt := p, since := s.now, w0 := 0, pos := 0 }
    match (s.coreAt c).overflow.getLast? with
    | none => s.onCore c fun k => { k with overflow := k.overflow ++ [e] }
    | some t => match s.linkSlot c t.pkt (some p.cont.id) with
      | (s, true) => s.onCore c fun k => { k with overflow := k.overflow ++ [e] }
      | (s, false) => s.onCore c fun k => { k with overflow := k.overflow.dropLast ++ [e] }

/-- A continuation enters the ring of a core, or its overflow list when the ring is full (R38, R56). -/
def State.enterRing (s : State) (c : Nat) (p : Packet) : State :=
  let p := p.hopped c
  let s := s.wakeRequest (clusterOf c)
  if (s.coreAt c).ring.length < 4096 then s.intoRing c p else s.intoOverflow c p

/-- An entry leaves the ring, and the head of the overflow list moves in (R56): the packet as its record then is. -/
def State.leaveRing (s : State) (c : Nat) (e : RingEntry) : State × Option Packet :=
  match (s.onCore c fun k => { k with ring := k.ring.filter (·.pos != e.pos) }).readRing c e with
  | (s, p) => (s.refill c, p)

/-- A packet leaves a core (R59, R64). -/
def State.sendPacket (s : State) (p : Packet) : State :=
  let s := s.onCore p.org fun k => k.unbind p.cont.id
  ({ s with packets := s.packets ++ [{ p with at_ := p.org }] }).countSent p.org p.cont.id.lid

/-- A displaced continuation leaves a vacated core with KIND 4 for the nearest available core; with none it waits in its
continuation-area slot (R67). -/
def State.moveAway (s : State) (c : Nat) (p : Packet) : State :=
  match s.nearestAvailable c with
  | some d => s.sendPacket { p with dst := d, org := c, kind := 4, ahead := true }
  | none =>
    match s.saveSlot c p (slotLink none) with
    | (s, false) => s
    | (s, true) =>
      s.onCore c fun k => { k.unbind p.cont.id with held := k.held ++ [{ pkt := { p with ahead := true }, since := s.now, w0 := 0, pos := 0 }] }

/-- Whether a launch runs on vacated cores: VAC of its record (R43). -/
def State.onVacated (s : State) (lid : BitVec 16) : Bool :=
  match s.launchAt lid with
  | some l => l.vac
  | none => false

/-- A continuation becomes ready on a core: on a core being vacated, and on a vacated one unless its launch runs there, it
moves away at once (R67). -/
def State.makeReady (s : State) (c : Nat) (p : Packet) : State :=
  let k := s.coreAt c
  if k.vacating || (k.vacated && !s.onVacated p.cont.id.lid) then s.moveAway c p else s.enterRing c p

/-! ## Waiters (R146 to R149) -/

/-- The list a waiter is in: its bank's, or the core's wait-on-address list (R147, R149). -/
def Waiter.list (w : Waiter) : Nat :=
  match w.kind with
  | .fullEmpty a _ _ _ _ => bankOf a
  | _ => 64

/-- A waiter leaves its list for the ring of the core it returns to, perhaps with a cause pending (R40, R146). That return
does not count in HOPS. From a vacated core the continuation moves on at once instead, from whatever core it parked (R67;
notes/assumptions/115.md); where the core it returns to has been killed, it resumes with REFUSED at the core that held it (R61, R416;
notes/assumptions/148.md). -/
def State.releaseWaiter (s : State) (at_ : Nat) (w : Waiter) (pend : Option (Cause × Word)) : State :=
  let id := w.pkt.cont.id
  let p := { w.pkt with cont := { w.pkt.cont with pend := pend }, org := w.back, wrote := if w.pkt.park.isSome then w.pkt.wrote else w.back,
                        park := none }
  let s := s.stir at_
  let k := s.coreAt at_
  if at_ != w.back && (k.vacating || (k.vacated && !s.onVacated id.lid)) then (s.onCore w.back fun k => k.unbind id).moveAway at_ p
  else if !(s.coreAt w.back).killed then s.makeReady w.back p
  else
    let q := { p with cont := { p.cont with pend := some (.refused, BitVec.ofNat 48 w.back) }, org := at_ }
    if !k.killed then s.makeReady at_ q
    else match s.nearestAvailable at_ with
      | some n => s.makeReady n q
      | none => s.strandDone id false

/-- A waiter whose condition was met resumes past its access (R146). -/
def Waiter.served (w : Waiter) : Waiter :=
  { w with pkt := { w.pkt with cont := { w.pkt.cont with pc := w.pkt.cont.pc + 4 } } }

/-- The oldest waiter of a list that is kept in memory moves on chip (R147). -/
def State.promote (s : State) (c list : Nat) : State :=
  match (s.coreAt c).waiters.find? fun w => w.inMem && w.list == list with
  | none => s
  | some w => match s.readSlot c w.pkt with
    | (s, some p) => s.onCore c fun k => { k with waiters := k.waiters.map fun x => if x == w then { w with pkt := p, inMem := false } else x }
    | (s, none) => s.onCore c fun k => { k with waiters := k.waiters.erase w }

/-- The waiters of a list that are kept in memory. -/
def Core.inMemory (k : Core) (list : Nat) : List Waiter := k.waiters.filter fun w => w.inMem && w.list == list

/-- The slot before that of a waiter in memory is linked to the one after it (R56, R147). -/
def State.unlink (s : State) (c : Nat) (w : Waiter) : State :=
  let l := (s.coreAt c).inMemory w.list
  match (l.takeWhile (· != w)).getLast? with
  | none => s
  | some t => match s.linkSlot c t.pkt (((l.dropWhile (· != w)).drop 1).head?.map (·.pkt.cont.id)) with
    | (s, true) => s
    | (s, false) => s.onCore c fun k => { k with waiters := k.waiters.erase t }

/-- A waiter is taken out of its list: one kept in memory is read back, and one on chip makes room for the oldest of those in memory
(R147). -/
def State.takeWaiter (s : State) (c : Nat) (w : Waiter) : State × Option Waiter :=
  let s := if w.inMem then s.unlink c w else s
  let s := s.onCore c fun k => { k with waiters := k.waiters.erase w }
  if w.inMem then
    match s.readSlot c w.pkt with
    | (s, some p) => (s, some { w with pkt := p, inMem := false })
    | (s, none) => (s, none)
  else (s.promote c w.list, some w)

/-- Releases, in arrival order, the waiters of a core that a test accepts, each as a step changes it. -/
def State.releaseWhere (s : State) (c : Nat) (p : Waiter → Bool) (f : Waiter → Waiter) : State :=
  (((s.coreAt c).waiters.filter p).map (·.pkt.cont.id)).foldl (fun s id =>
    match (s.coreAt c).waiters.find? (·.pkt.cont.id == id) with
    | none => s
    | some w => match s.takeWaiter c w with
      | (s, some w) => s.releaseWaiter c (f w) none
      | (s, none) => s) s

/-- A new waiter joins its list: beyond 64 on chip it waits in its continuation-area slot, linked from the one before it; a slot that
cannot be written ends its strand (R147, R149). -/
def State.enlist (s : State) (c : Nat) (w : Waiter) : State :=
  let l := (s.coreAt c).waiters.filter fun x => x.list == w.list
  if (l.filter fun x => !x.inMem).length < 64 then s.onCore c fun k => { k with waiters := k.waiters ++ [{ w with inMem := false }] }
  else
    match s.saveSlot c w.pkt (slotLink none) with
    | (s, false) => s
    | (s, true) =>
      let w := { w with inMem := true }
      match (l.filter (·.inMem)).getLast? with
      | none => s.onCore c fun k => { k with waiters := k.waiters ++ [w] }
      | some t => match s.linkSlot c t.pkt (some w.pkt.cont.id) with
        | (s, true) => s.onCore c fun k => { k with waiters := k.waiters ++ [w] }
        | (s, false) => s.onCore c fun k => { k with waiters := k.waiters.erase t ++ [w] }

/-- A continuation that has moved is at its new core: in the ring, or, where `park` suspended it, parked there for the rest of its limit,
which has run on (R272, R384). -/
def State.arrive (s : State) (c : Nat) (p : Packet) : State :=
  match p.park with
  | none => s.enterRing c p
  | some (since, limit) => s.enlist c { pkt := p, kind := .timed, ea := 0, back := c, since := since, limit := limit, acct := p.pid, inMem := false }

end Sys2Proof.Machine
end

