-- ==== Sys2Proof/Machine/Scratch.lean ====
section
/-! DEFINITION. The scratchpad of a core: words under SEC-DED, allocations, tile regions, words waited on, and completion
barriers (R121 to R124, R149 to R152, R183, R189, R209, R283, R406). -/

namespace Sys2Proof.Machine

/-! ## Words -/

/-- The key of byte `b` of core `c`'s scratchpad. -/
def spmAt (c b : Nat) : Nat := c * 2 ^ 18 + b

/-- The check of one 8-byte word of a scratchpad on a read: false for an uncorrectable one (R406, R411). -/
def State.readSpmWord (s : State) (w : Who) (c word : Nat) : State × Bool :=
  let key := spmKey c word
  let hits := s.injected.filter fun e => e.2.1 == key
  let flips := flipCount 64 hits
  let s := if hits.isEmpty then s else s.fire key
  if s.badSpm.contains (c * 2 ^ 15 + word) || 2 ≤ flips then
    (s.logError c 1 1 0 (word * 8) flips w (!hits.isEmpty), false)
  else if flips = 1 then (s.logError c 1 0 0 (word * 8) flips w true, true)
  else (s, true)

/-- The words that `n` bytes at `b` touch. -/
def spmWords (b n : Nat) : List Nat := (List.range ((b + n + 7) / 8 - b / 8)).map (b / 8 + ·)

/-- Reads bytes of a scratchpad; nothing when a word is uncorrectable. -/
def State.spmRead (s : State) (w : Who) (c b n : Nat) : State × Option (List Byte) :=
  let r := (spmWords b n).foldl (fun (acc : State × Bool) word =>
    let t := acc.1.readSpmWord w c word
    (t.1, acc.2 && t.2)) (s, true)
  (r.1, if r.2 then some (r.1.spm.readBytes (spmAt c b) n) else none)

/-- A write other than a carried move leaves the regions it touches stale (R189). -/
def Core.staleRegions (k : Core) (b n now : Nat) : Core :=
  { k with regions := k.regions.map fun r =>
      if r.num * 4096 < b + n && b < r.num * 4096 + 4096 then { r with stale := true, prov := false, wrote := some now } else r }

/-- Every waiter on a word that a write touches returns to its ring, in arrival order (R149). -/
def State.wakeWords (s : State) (c b n : Nat) : State :=
  s.releaseWhere c (fun w => match w.kind with
    | .word off => off < b + n && b < off + 8
    | _ => false) id

/-- The bytes of a scratchpad are written, regions become stale and waiters on its words wake. -/
def State.spmPut (s : State) (c b : Nat) (bs : List Byte) : State :=
  let s := { s with spm := s.spm.write (spmAt c b) bs,
                    badSpm := s.badSpm.filter fun w => !((b + 7) / 8 ≤ w % 2 ^ 15 && w % 2 ^ 15 < (b + bs.length) / 8 && w / 2 ^ 15 == c) }
  (s.onCore c fun k => k.staleRegions b bs.length s.now).wakeWords c b bs.length

/-- The check of the words that a write covers in part. -/
def State.spmEdges (s : State) (w : Who) (c b n : Nat) : State × Bool :=
  ((spmWords b n).filter fun x => x * 8 < b || b + n < x * 8 + 8).foldl (fun (acc : State × Bool) word =>
    let t := acc.1.readSpmWord w c word
    (t.1, acc.2 && t.2)) (s, true)

/-- Writes bytes of a scratchpad: a write of part of an uncorrectable word fails. -/
def State.spmWrite (s : State) (w : Who) (c b : Nat) (bs : List Byte) : State × Bool :=
  let r := s.spmEdges w c b bs.length
  if r.2 then (r.1.spmPut c b bs, true) else (r.1, false)

/-! ## The scratchpad window (R121 to R123) -/

/-- IDX of a scratchpad-window address. -/
def idxOf (va : Nat) : Nat := bitsOf va 31 27
/-- CORE of a scratchpad-window address. -/
def spmCore (va : Nat) : Nat := bitsOf va 26 17
/-- OFF of a scratchpad-window address. -/
def spmOff (va : Nat) : Nat := bitsOf va 16 0
/-- The address of an allocation's first byte. -/
def spmAddress (idx c : Nat) : Word := BitVec.ofNat 48 (idx * 2 ^ 27 + c * 2 ^ 17)

/-- The allocation an address names, if its index holds one of the process (R121, R123). -/
def State.allocAt (s : State) (pid : BitVec 16) (va : Nat) : Option Alloc :=
  ((s.coreAt (spmCore va)).allocs.find? fun a => a.idx == idxOf va && a.pid == pid)

/-- The scratchpad byte an address reaches, or nothing in the miss case of R123. -/
def State.spmByte (s : State) (pid : BitVec 16) (va : Nat) : Option Nat :=
  (s.allocAt pid va).map fun a => a.base + spmOff va % a.size

/-- PADDR of a request to another core's scratchpad: the scratchpad byte address (R121, R124, R133). In the miss case of R123 no
allocation gives one: it is free (notes/assumptions/141.md). -/
def State.spadPlace (s : State) (pid : BitVec 16) (va : Word) : Nat :=
  if idxOf va.toNat = 31 then 0x2FC00 + va.toNat % 1024
  else match s.spmByte pid va.toNat with
    | some b => b
    | none => (Config.missPaddr va).toNat

/-- The miss case of R123: reads give zero, writes are discarded, and the scratchpad's core counts it. -/
def State.spmMiss (s : State) (c : Nat) : State := s.onCore c fun k => { k with vevt := bump k.vevt 8 8 1 }

/-- The ranges of an allocation that `n` bytes at an offset reach: OFF counts modulo the size (R121). An access of 256 B or less is
aligned, and no allocation is smaller, so it is one range. -/
def Alloc.spans (a : Alloc) : Nat → Nat → Nat → List (Nat × Nat)
  | 0, _, _ => []
  | f + 1, off, n =>
    let o := off % a.size
    if n ≤ 256 || n ≤ a.size - o then [(a.base + o, n)] else (a.base + o, a.size - o) :: a.spans f (off + (a.size - o)) (n - (a.size - o))

/-- A read through the scratchpad window; nothing when a word is uncorrectable. -/
def State.windowRead (s : State) (w : Who) (pid : BitVec 16) (va n : Nat) : State × Option (List Byte) :=
  match s.allocAt pid va with
  | none => (s.spmMiss (spmCore va), some (List.replicate n 0))
  | some a => (a.spans (n + 1) (spmOff va) n).foldl (fun r p =>
      let t := r.1.spmRead w (spmCore va) p.1 p.2
      (t.1, match r.2, t.2 with | some x, some y => some (x ++ y) | _, _ => none)) (s, some [])

/-- Writes the ranges of an allocation. -/
def State.writeSpans (c : Nat) : List (Nat × Nat) → List Byte → State → State
  | [], _, s => s
  | p :: r, bs, s => State.writeSpans c r (bs.drop p.2) (s.spmPut c p.1 (bs.take p.2))

/-- A write through the scratchpad window; one that fails writes nothing. -/
def State.windowWrite (s : State) (w : Who) (pid : BitVec 16) (va : Nat) (bs : List Byte) : State × Bool :=
  match s.allocAt pid va with
  | none => (s.spmMiss (spmCore va), true)
  | some a =>
    let l := a.spans (bs.length + 1) (spmOff va) bs.length
    let r := l.foldl (fun (acc : State × Bool) p =>
      let t := acc.1.spmEdges w (spmCore va) p.1 p.2
      (t.1, acc.2 && t.2)) (s, true)
    if r.2 then (State.writeSpans (spmCore va) l bs r.1, true) else (r.1, false)

/-! ## Allocation (R122, R290) -/

/-- The scratchpad bytes of a core that neither reservations nor allocations hold. -/
def State.spmFree (s : State) (c : Nat) : Nat :=
  let held := sumBy (fun (e : Nat × Core) => sumBy (fun l => sumBy (fun u => if u.home == some c && !u.done then u.left else 0) l.strands)
    e.2.launches) s.cores
  0x2FC00 - held - sumBy (·.size) (s.coreAt c).allocs

/-- The lowest free base of a size: a multiple of it that no allocation overlaps, below the barrier region. -/
def Core.freeBase (k : Core) (size : Nat) : Option Nat :=
  (lowestBelow (0x2FC00 / size) fun i =>
    k.allocs.all fun a => i * size + size ≤ a.base || a.base + a.size ≤ i * size).map (· * size)

/-- The lowest free index (R122). -/
def Core.freeIdx (k : Core) : Option Nat := (lowestBelow 31 fun i => 2 ≤ i && k.allocs.all (·.idx != i))

/-- A request rounded up to a power of two from 256 B on (R122). -/
def roundSize (n : Nat) : Nat := if n ≤ 256 then 256 else 2 ^ (log2 (n - 1) + 1)

/-- An allocation ends, with the tile regions it holds; bytes charged to a reservation still held return to it (R122, R290,
R324). -/
def State.freeAlloc (s : State) (c : Nat) (a : Alloc) : State :=
  let s := s.onCore c fun k => { k with
    allocs := k.allocs.filter (·.idx != a.idx),
    regions := k.regions.filter fun r => !(a.base ≤ r.num * 4096 && r.num * 4096 < a.base + a.size) }
  s.onUnfolded { lid := a.lid, sid := a.holder } fun u => if u.done then u else { u with left := u.left + a.charged }

/-! ## Completion barriers (R124, R150 to R152) -/

/-- The scratchpad byte of barrier slot `b`. -/
def barByte (b : Nat) : Nat := 0x2FC00 + 16 * b

/-- The fields of a barrier slot (R150). -/
structure Bar where
  tx     : Int
  phase  : Bool
  err    : Bool
  sc     : Nat
  exp    : Nat
  arr    : Nat
  ecause : Nat
  ecore  : Nat
  eaddr  : Nat
deriving DecidableEq, Repr

/-- A barrier slot as the scratchpad holds it. -/
def State.barRead (s : State) (c b : Nat) : Bar :=
  let x := s.spm.readNat (spmAt c (barByte b)) 8
  let y := s.spm.readNat (spmAt c (barByte b) + 8) 8
  { tx := sx 32 x, phase := bitAt x 63, err := bitAt x 62, sc := bitsOf x 61 60, exp := bitsOf x 59 46, arr := bitsOf x 45 32,
    ecause := bitsOf y 63 58, ecore := bitsOf y 57 48, eaddr := bitsOf y 47 0 }

/-- The 16 bytes of a barrier slot. -/
def Bar.bytes (b : Bar) : List Byte :=
  leBytes 4 (b.tx % 2 ^ 32).toNat ++
  leBytes 4 (bit b.phase * 2 ^ 31 + bit b.err * 2 ^ 30 + b.sc % 4 * 2 ^ 28 + b.exp % 2 ^ 14 * 2 ^ 14 + b.arr % 2 ^ 14) ++
  leBytes 8 (b.ecause % 64 * 2 ^ 58 + b.ecore % 1024 * 2 ^ 48 + b.eaddr % 2 ^ 48)

/-- The 32-bit word at offset 4, as `cb.test` reads it (R284). -/
def Bar.status (b : Bar) : Nat :=
  bit b.phase * 2 ^ 31 + bit b.err * 2 ^ 30 + b.sc % 4 * 2 ^ 28 + b.exp % 2 ^ 14 * 2 ^ 14 + b.arr % 2 ^ 14

/-- The updates of R151, R152 and R284. -/
inductive BarOp where
  | init (v : Word)
  | arrive
  | expect (n : Int)
  | finish (n : Nat)
  /-- A failure: its cause, core and address, and the bytes that will not be written. -/
  | fail (cause core addr n : Nat)
deriving DecidableEq, Repr

/-- Whether a byte count fits the signed 32-bit TX. -/
def txFits (t : Int) : Bool := decide (-(2 ^ 31) ≤ t) && decide (t < 2 ^ 31)

/-- An addition to TX, discarded with ERR set when it overflows (R151). -/
def Bar.addTx (b : Bar) (n : Int) : Bar := if txFits (b.tx + n) then { b with tx := b.tx + n } else { b with err := true }

/-- One update before the completion test. -/
def Bar.apply (b : Bar) (op : BarOp) : Bar :=
  match op with
  | .init v => { tx := 0, phase := false, err := false, sc := bitsOf v.toNat 15 14, exp := bitsOf v.toNat 13 0, arr := 0,
                 ecause := 0, ecore := 0, eaddr := 0 }
  | .arrive => if b.arr = b.exp then { b with err := true } else { b with arr := b.arr + 1 }
  | .expect n => b.addTx n
  | .finish n => b.addTx (-(n : Int))
  | .fail cause core addr n =>
    let b := if b.err then b else { b with err := true, ecause := cause, ecore := core, eaddr := addr }
    b.addTx (-(n : Int))

/-- The completion test of R151: the initialising form never completes a phase. -/
def Bar.complete (b : Bar) (op : BarOp) : Bar :=
  match op with
  | .init _ => b
  | _ => if b.arr = b.exp ∧ b.tx = 0 then { b with phase := !b.phase, arr := 0 } else b

/-- Whether a WAIT word of a task record names this barrier and phase (R206). -/
def waitNames (w c b : Nat) (phase : Bool) : Bool :=
  bitAt w 31 && bitsOf w 15 6 == c && bitsOf w 5 0 == b && bitAt w 30 == phase

/-- Waits of queued tasks that find their barrier's phase; a task whose waits are all met becomes ready (R209). -/
def Task.note (t : Task) (c b : Nat) (bar : Bar) (xword1 : BitVec 64) : Task :=
  let h0 := !t.got0 && waitNames (fieldAt t.rec_ 0x28 4) c b bar.phase
  let h1 := !t.got1 && waitNames (fieldAt t.rec_ 0x2C 4) c b bar.phase
  { t with got0 := t.got0 || h0, got1 := t.got1 || h1,
           bad := if (h0 || h1) && bar.err && t.bad.isNone then some xword1 else t.bad }

/-- Gives every task whose waits are all met its place in the order of readiness (R209, R210); its cluster is not idle (R219). -/
def State.orderTasks (s : State) (g : Nat) : State :=
  (s.clusterAt g).queue.foldl (fun s t =>
    if t.readyAt.isNone && t.got0 && t.got1 then
      let s := s.onCluster g fun c =>
        { c with active := true, queue := c.queue.map fun u => if u.num == t.num then { u with readyAt := some s.orders } else u }
      { s.wakeRequest g with orders := s.orders + 1 }
    else s) s

/-- The check of a barrier's two words, as of every read of the scratchpad (R406, R411). -/
def State.barSound (s : State) (w : Who) (c b : Nat) : State × Bool :=
  match s.spmRead w c (barByte b) 16 with
  | (s, x) => (s, x.isSome)

/-- A barrier as a read finds it; nothing when a word is uncorrectable. -/
def State.barLook (s : State) (w : Who) (c b : Nat) : State × Option Bar :=
  match s.barSound w c b with
  | (s, ok) => (s, if ok then some (s.barRead c b) else none)

/-- A barrier takes new fields: its 16 bytes are written, every waiter whose awaited phase now holds returns, and tasks waiting for the
phase note it (R151, R209, R284). -/
def State.barPut (s : State) (c b : Nat) (bar : Bar) : State :=
  let s := { s with spm := s.spm.write (spmAt c (barByte b)) bar.bytes,
                    badSpm := s.badSpm.filter fun w => !(w == c * 2 ^ 15 + barByte b / 8 || w == c * 2 ^ 15 + barByte b / 8 + 1) }
  let s := s.releaseWhere c (fun w => match w.kind with
    | .barrier slot phase => slot == b && phase == bar.phase
    | _ => false) Waiter.served
  let x := BitVec.ofNat 64 (bar.ecause % 64 * 2 ^ 58 + bar.ecore % 1024 * 2 ^ 48 + bar.eaddr % 2 ^ 48)
  (s.onCluster (clusterOf c) fun g => { g with queue := g.queue.map fun t => t.note c b bar x }).orderTasks (clusterOf c)

/-- One update of a completion barrier, as a single read-modify-write of its 16 bytes (R151). The initialising form writes every bit and
reads none; every other fails, and changes nothing, at an uncorrectable word (R406). -/
def State.barTry (s : State) (w : Who) (c b : Nat) (op : BarOp) : State × Bool :=
  match op with
  | .init v => (s.barPut c b ((s.barRead c b).apply (.init v)), true)
  | op => match s.barLook w c b with
    | (s, none) => (s, false)
    | (s, some bar) => (s.barPut c b ((bar.apply op).complete op), true)

/-- An update that the device itself makes, on behalf of an engine, a copy or a task: at an uncorrectable word it is lost, with the log
entry of the read (R406; notes/assumptions/109.md). -/
def State.barUpdate (s : State) (c b : Nat) (op : BarOp) : State := (s.barTry (Who.none c) c b op).1

/-- An update that a core's engine, copy, gather or task makes, for a launch: at another core's barrier it is a message of procedure 9,
which a killed core does not take (R64, R134, R416). -/
def State.barSend (s : State) (from_ : Nat) (lid : BitVec 16) (c b : Nat) (op : BarOp) : State :=
  if c = from_ then s.barUpdate c b op
  else if (s.coreAt c).killed then (s.countSent from_ lid).countRecv from_ lid
  else ((s.countSent from_ lid).countRecv c lid).barUpdate c b op

/-- Whether a barrier slot is reserved to a live strand of a process (R283). -/
def State.barOwned (s : State) (c b : Nat) (pid : BitVec 16) : Bool :=
  match (s.coreAt c).bars.find? fun e => e.1 == b with
  | none => false
  | some e => match s.launchAt e.2.lid with
    | none => false
    | some l => l.pid == pid

end Sys2Proof.Machine
end

