-- ==== Sys2Proof/Machine/Data.lean ====
section
/-! DEFINITION. Data accesses of a slot made as one access: the checks of R275, and reads and writes by region. -/

namespace Sys2Proof.Machine

/-- The regions of R117. -/
inductive Region48 where
  | local_ | spad | global
deriving DecidableEq, Repr

/-- The region of a virtual address (R117). -/
def regionOf (va : Nat) : Region48 := if va < 0x10000000 then .local_ else if va < 0x100000000 then .spad else .global

/-- On whose behalf an access is made: the core whose windows it names, its process and privilege, its strand, and its accounting
tag. -/
structure Ctx where
  core : Nat
  pid  : BitVec 16
  prv  : Bool
  id   : StrandId
  acct : BitVec 16
deriving DecidableEq, Repr

/-- The consumer an error log names for a context. -/
def Ctx.who (x : Ctx) : Who := { core := x.core, pid := x.pid, id := x.id }

/-- The context of a slot. -/
def State.ctx (s : State) (c j : Nat) : Ctx :=
  { core := c, pid := (s.slotAt c j).pid, prv := s.privileged c j, id := (s.slotAt c j).id, acct := (s.slotAt c j).acct }

/-- The region checks of R275 that need no translation: the owner map and the reserved range of a local-window access (R118,
R378); IDX 0, 1 and 31 of the scratchpad window. -/
def State.regionFor (s : State) (x : Ctx) (va : Nat) : State × Option Cause :=
  match regionOf va with
  | .local_ =>
    let b := s.reservedBase x.core
    if 0x0FF00000 ≤ va || (b ≤ va && va < b + 2 ^ 20) then (s, if x.prv then none else some .prot)
    else s.ownerCheck x.who x.pid (x.core * 2 ^ 28 + va)
  | .spad => (s, if idxOf va = 0 ∨ idxOf va = 1 ∨ idxOf va = 31 then some .prot else none)
  | .global => (s, none)

/-- A read of consecutive bytes that one page, row or allocation holds. -/
def State.ctxRead (s : State) (x : Ctx) (va n : Nat) : State × Except Cause (List Byte) :=
  match s.regionFor x va with
  | (s, some cause) => (s, .error cause)
  | (s, none) =>
    match regionOf va with
    | .local_ =>
      let r := s.vaultRead x.who (x.core * 2 ^ 28 + va) n
      match statusCause r.2.1 with
      | some cause => (r.1, .error cause)
      | none => (r.1, .ok r.2.2)
    | .spad =>
      let s := if spmCore va = x.core then s else s.countPairs x.who (spmCore va) va n
      if (s.coreAt (spmCore va)).killed then (s, .error .refused)
      else match s.windowRead x.who x.pid va n with
        | (s, none) => (s, .error .eccue)
        | (s, some bs) => (s, .ok bs)
    | .global => s.readGlobal x.who x.pid x.prv va n .read

/-- A write of consecutive bytes that one page, row or allocation holds. -/
def State.ctxWrite (s : State) (x : Ctx) (va : Nat) (bs : List Byte) : State × Option Cause :=
  match s.regionFor x va with
  | (s, some cause) => (s, some cause)
  | (s, none) =>
    match regionOf va with
    | .local_ =>
      let r := s.vaultWrite x.who (x.core * 2 ^ 28 + va) bs
      (r.1, statusCause r.2)
    | .spad =>
      let s := if spmCore va = x.core then s else s.countPairs x.who (spmCore va) va bs.length
      if (s.coreAt (spmCore va)).killed then (s, some .refused)
      else
        let r := s.windowWrite x.who x.pid va bs
        (r.1, if r.2 then none else some .eccue)
    | .global => s.writeGlobal x.who x.pid x.prv va bs

/-- The region checks for an access of a slot. -/
def State.regionCheck (s : State) (c j : Nat) (va : Nat) : State × Option Cause := s.regionFor (s.ctx c j) va

/-- Whether an address of a core is reached without a message: the local window, or the own scratchpad. -/
def isLocal (c va : Nat) : Bool :=
  match regionOf va with
  | .local_ => true
  | .spad => spmCore va == c
  | .global => false

/-- Whether a range is reached through a vault agent or a message, rather than in the own scratchpad. -/
def throughAgent (c va : Nat) : Bool := regionOf va != .spad || spmCore va != c

/-- A read of a slot. -/
def State.dataRead (s : State) (c j : Nat) (va n : Nat) : State × Except Cause (List Byte) :=
  let s := if throughAgent c va then s.chargeGranules c (s.slotAt c j).acct n else s
  s.ctxRead (s.ctx c j) va n

/-- A write of a slot. -/
def State.dataWrite (s : State) (c j : Nat) (va : Nat) (bs : List Byte) : State × Option Cause :=
  let s := if throughAgent c va then s.chargeGranules c (s.slotAt c j).acct bs.length else s
  s.ctxWrite (s.ctx c j) va bs

/-- An older window's 32 bytes at its save address (R74). -/
def OldWin.bytes (o : OldWin) (now : Nat) : List Byte := o.quad.regs.flatMap fun r => leBytes 8 (r.flushed now).toNat

/-- Older window `n` of a slot is read in the stack store: an error there that SEC-DED corrects is corrected and logged (R406). -/
def State.readStored (s : State) (c j n : Nat) : State :=
  match (s.slotAt c j).older[n]? with
  | some o =>
    if o.inFile || !o.flawed then s
    else (s.logError c 3 0 0 0x20 0 (s.who c j) false).onSlot c j fun v => { v with older := v.older.set n { o with flawed := false } }
  | none => s

/-- The flush of R37: every older window to its save address, the shallowest first. A failing store stops it, with its cause
and address, and so does a stack-store window that is uncorrectable (R406). -/
def State.flushWindows (c j : Nat) : List OldWin → State → State × Option (Cause × Word)
  | [], s => (s, none)
  | o :: r, s =>
    if o.spoilt then (s.logError c 3 1 5 0x20 0 (s.who c j) false, some (.poison, 0x20))
    else if o.save.toNat % 8 != 0 then (s, some (.align, o.save))
    else match (s.readStored c j ((s.slotAt c j).older.length - (r.length + 1))).dataWrite c j o.save.toNat (o.bytes s.now) with
      | (s, some cause) => (s, some (cause, o.save))
      | (s, none) => State.flushWindows c j r s

/-- The 64 bytes of a strand control block (R82). -/
def Slot.scbBytes (v : Slot) : List Byte :=
  leBytes 4 v.fpc.toNat ++ leBytes 4 0 ++ leBytes 8 v.wlim.toNat ++ leBytes 8 v.mqb.toNat ++ List.replicate 40 0

/-- The address of a strand's control block (R82). -/
def State.scbAddress (s : State) (id : StrandId) : Nat :=
  match s.launchAt id.lid with
  | some l => (l.stkb.toNat + id.sid * 2 ^ l.stks) % 2 ^ 48
  | none => 0

end Sys2Proof.Machine
end

