-- ==== Sys2Proof/Machine/Board.lean ====
section
/-! DEFINITION. The scoreboard of a slot and its trap frame: entries as bytes, what the end of outstanding work does to them, and the
gathers that an agent ends (R135, R341, R370, R377, R385 to R387, R390, R405, R416). -/

namespace Sys2Proof.Machine

/-! ## The trap frame (R385, R386) -/

/-- The counter class as CTL and the header code it (R170, R386); one not yet known is coded as class 1. -/
def Cls.code : Cls → Nat
  | .zero => 0 | .one => 1 | .two => 2 | .three => 3 | .moot => 1

/-- KIND of an entry (R386). -/
def Work.kind : Work → Nat
  | .scalar .. => 1 | .vector .. => 2 | .message .. => 3 | .copy _ => 4 | .matrix _ => 5 | .gather _ => 6

/-- The 64 bytes of a copy descriptor (R286). -/
def CopyDesc.bytes (d : CopyDesc) : List Byte :=
  leBytes 8 d.src.toNat ++ leBytes 8 d.dst.toNat ++
  leBytes 8 (d.csc.toNat * 2 ^ 34 + d.cmode.toNat * 2 ^ 32 + bit d.sbf * 2 ^ 30 + d.len % 2 ^ 30) ++
  leBytes 8 d.caddr.toNat ++ leBytes 8 d.cval.toNat ++ List.replicate 24 0

/-- ADDR of an entry: effective address, descriptor address or operand word. -/
def Work.addr : Work → Nat
  | .scalar va _ _ _ _ => va.toNat
  | .vector va _ _ => va.toNat
  | .message va _ _ => va.toNat
  | .copy d => d.at_.toNat
  | .matrix o => o.word.toNat
  | .gather g => g.vault * 2 ^ 28 + g.desc

/-- The captured values of an entry. -/
def Work.captured : Work → List Byte
  | .scalar _ size fn data more => leBytes size data.toNat ++ if fn = 25 then leBytes 8 more.toNat else []
  | .vector _ _ data => data
  | .message _ _ data => leBytes 8 data.toNat
  | .copy d => d.bytes
  | .matrix o => leBytes 8 o.cmd.toNat ++ leBytes 8 o.word.toNat ++ (match o.group with | some g => leBytes 8 g.1 | none => []) ++
      leBytes 8 o.bar.toNat ++ leBytes 4 o.fpc.toNat ++ leBytes 4 o.fmt.toNat ++ leBytes 8 o.sca.toNat ++ leBytes 8 o.scb.toNat
  | .gather g => g.bytes

/-- CTL of an entry (R386). -/
def SbEntry.ctl (e : SbEntry) : Nat :=
  e.work.kind * 2 ^ 60 + e.state.toNat * 2 ^ 58 + (match e.cause with | some k => k.code | none => 0) * 2 ^ 52 +
    bit e.stop * 2 ^ 51 + e.cls.code * 2 ^ 49 + bit e.part * 2 ^ 48 + e.seq.toNat * 2 ^ 32

/-- The 192 bytes of an entry. -/
def SbEntry.bytes (e : SbEntry) : List Byte :=
  leBytes 8 e.ctl ++ leBytes 8 e.work.addr ++ leBytes 8 e.aux ++ leBytes 8 0 ++ padTo 160 (e.work.captured.take 160)

/-- RPTS of a repeat frame (R386). -/
def Frame.rpts (f : Frame) : Nat :=
  let st (i : Int) : Nat := (i % 16).toNat
  (f.words.length - 1) + (f.cnt - 1) * 2 ^ 4 + st f.sd * 2 ^ 10 + st f.sa * 2 ^ 14 + st f.sb * 2 ^ 18 + f.pos * 2 ^ 22 + f.rep * 2 ^ 26

/-- The 4 KiB of a trap frame. -/
def Slot.frameBytes (v : Slot) (strict : Bool) : List Byte :=
  let rpt := match v.frame with
    | some f => leBytes 8 (2 ^ 63 + f.addr.toNat) ++ leBytes 8 f.rpts
    | none => leBytes 16 0
  let head := padTo 256 (rpt ++ leBytes 8 v.tldp.toNat)
  padTo 4096 (head ++ if strict then [] else (v.board.take 16).flatMap SbEntry.bytes)

/-- The physical address of a slot's trap frame: ESB in the vault of the core (R380, R383). -/
def State.frameAddress (s : State) (c j : Nat) : Nat := s.reservedAt c (s.slotAt c j).esb.toNat

/-- Entry `n` of a slot is written again into its trap frame. -/
def State.frameEntry (s : State) (c j n : Nat) : State :=
  match (s.slotAt c j).board.zipIdx.find? fun p => p.1.num == n with
  | none => s
  | some p => (s.vaultWrite (s.who c j) (s.frameAddress c j + 0x100 + 192 * p.2) p.1.bytes).1

/-! ## Entries (R377, R385, R387) -/

/-- Changes an entry of a slot. -/
def Slot.onEntry (v : Slot) (n : Nat) (f : SbEntry → SbEntry) : Slot :=
  { v with board := v.board.map fun e => if e.num = n then f e else e }

/-- An entry whose work has stopped with success. -/
def SbEntry.done (e : SbEntry) (aux : Nat) : SbEntry := { e with stop := true, part := true, aux := aux }

/-- Work that stops with success frees its entry outside a trap; in handler state the entry records it, with AUX as given (R385,
R387). A freed entry is kept for its cycle, in which a trap may still be taken (R405). -/
def Slot.entryDone (v : Slot) (n aux now : Nat) : Slot :=
  if v.handler then v.onEntry n fun e => e.done aux
  else { v with board := v.board.filter fun e => e.num != n,
                freed := v.freed.filter (fun e => e.1 == now) ++ (v.board.filter fun e => e.num == n).map fun e => (now, e.done aux) }

/-- The scoreboard as a trap entry finds it: the entries that replies of the same cycle freed are recorded as stopped (R405). -/
def Slot.boardAt (v : Slot) (now : Nat) : List SbEntry :=
  (v.freed.filter fun e => e.1 == now).foldl (fun b e =>
    b.takeWhile (fun x => decide (x.num < e.2.num)) ++ [e.2] ++ b.dropWhile fun x => decide (x.num < e.2.num)) v.board

/-- Work that stops with a failure: the entry records it until `rte`, and outside handler state it is a cause due at the next boundary,
unless it is told elsewhere (R377, R385, R387). -/
def Slot.entryFailed (v : Slot) (n : Nat) (cause : Cause) (eva : Word) (sub aux : Nat) (part traps : Bool) : Slot :=
  let v := v.onEntry n fun e => { e with stop := true, cause := some cause, eva := eva, sub := sub, aux := aux, part := part }
  if v.handler || !traps then v else { v with pend := v.pend ++ [{ cause := cause, eva := eva, sub := sub, entry := some n }] }

/-- An entry changes; in the cycle of a trap entry the frame records the change too (R405). -/
def State.putEntry (s : State) (c j n : Nat) (v : Slot) : State :=
  let s := s.putSlot c j v
  if v.trapAt = some s.now then s.frameEntry c j n else s

/-- The reply status of R135 behind a cause that no reply brought: 1 for PROT, 2 for ECCUE, 4 for REFUSED. R135 has no status for
XLATE: 0 (notes/assumptions/72.md). -/
def refusalStatus (cause : Cause) : Nat :=
  match cause with | .prot => 1 | .eccue => 2 | .refused => 4 | _ => 0

/-- How a failure of engine, copy or gather work is told beside its scoreboard entry: not at all, by its completion value or
barrier as well (R152, R154), or in that way alone (R287 with CMODE 0, R341 with a barrier, R370 with CB = 0). -/
inductive Told where
  | entry
  | both
  | alone
  deriving DecidableEq, Repr

/-- Engine, copy or gather work that has stopped, at the slot of its strand: the entry is freed or records it, and a failure is an
asynchronous cause of the strand unless it is told elsewhere alone; its entry then stays until `rte` (R377, R385, R387;
notes/assumptions/40.md, 79.md). Without an entry a failure that nothing else tells is written to an error log (R390). -/
def State.endWork (s : State) (c j : Nat) (id : StrandId) (entry : Option Nat) (fail : Option (Cause × Word)) (told : Told)
    (array aux : Nat) (part : Bool) : State :=
  let v := s.slotAt c j
  let held := entry.filter fun n => (v.strand.map fun b => b.id) == some id && v.board.any fun (e : SbEntry) => e.num == n
  match fail, held with
  | none, some n => s.putEntry c j n (v.entryDone n aux s.now)
  | none, none => s
  | some f, some n => s.putEntry c j n (v.entryFailed n f.1 f.2 (refusalStatus f.1) aux part (told != .alone))
  | some f, none =>
    if told != .entry then s else s.logError c array 1 f.1.code f.2.toNat 0 { core := c, pid := v.pid, id := id } false

/-- Work under way: its entry, of the strand that issued it, changes (R386). -/
def State.noteWork (s : State) (c j : Nat) (id : StrandId) (entry : Option Nat) (f : SbEntry → SbEntry) : State :=
  match entry with
  | none => s
  | some n => s.onSlot c j fun v => if (v.strand.map fun b => b.id) == some id then v.onEntry n f else v

/-- The entry of work that `settle` has stopped: no cause, undone or partial (R388, R389). -/
def State.markStopped (s : State) (c j : Nat) (entry : Option Nat) (aux : Nat) (part : Bool) : State :=
  match entry with
  | none => s
  | some n => s.onSlot c j fun v => v.onEntry n fun e =>
      { e with stop := true, state := if part then 3 else 2, aux := aux, part := part }

/-! ## Gathers at their agent (R369, R370) -/

/-- KEYS, VALS, MASK and DKIND. -/
def GatherCmd.keys (g : GatherCmd) : Bool := g.ctl.getLsbD 0
/-- VALS. -/
def GatherCmd.vals (g : GatherCmd) : Bool := g.ctl.getLsbD 1
/-- MASK. -/
def GatherCmd.masks (g : GatherCmd) : Bool := g.ctl.getLsbD 2
/-- DKIND. -/
def GatherCmd.toVault (g : GatherCmd) : Bool := g.ctl.getLsbD 3
/-- ESZ. -/
def GatherCmd.esz (g : GatherCmd) : Nat := 8192 * (bit g.keys + bit g.vals) + 128 * bit g.masks
/-- The bytes of the whole gather. -/
def GatherCmd.total (g : GatherCmd) : Nat := g.nl * g.esz
/-- The bytes still to write. -/
def GatherCmd.left (g : GatherCmd) : Nat := g.total - 64 * g.landed.length

/-- The address of a byte of a gather's destination. -/
def GatherCmd.address (g : GatherCmd) (off : Nat) : Word := lowWord g.dst + BitVec.ofNat 48 off

/-- The lowest offset of a gather that has not landed. -/
def GatherCmd.next (g : GatherCmd) : Nat :=
  match lowestBelow (g.landed.length + 1) fun i => !g.landed.contains (64 * i) with
  | some i => 64 * i
  | none => g.total

/-- The strand that a gather works for, as the consumer of its accesses. -/
def GatherCmd.who (g : GatherCmd) : Who := { core := g.from_, pid := g.pid, id := g.id }

/-- The barrier at CB, unless CB is zero, updated from the agent's core. -/
def State.gatherBar (s : State) (c : Nat) (g : GatherCmd) (op : BarOp) : State :=
  if g.cb = 0 then s else s.barSend c g.id.lid (spmCore g.cb.toNat) (bitsOf g.cb.toNat 9 4) op

/-- A gather leaves its agent. -/
def State.dropGather (s : State) (c n : Nat) : State :=
  s.onCore c fun k => { k with gathers := k.gathers.filter fun (g : GatherCmd) => g.num != n }

/-- A gather ends; without a barrier a failure is written to the error log only. -/
def State.endGather (s : State) (c : Nat) (g : GatherCmd) (fail : Option (Cause × Word)) : State :=
  let s := match fail with
    | none => s
    | some f => if g.cb = 0 then s.logError c 8 1 f.1.code f.2.toNat 0 g.who false
      else s.gatherBar c g (.fail f.1.code c f.2.toNat g.left)
  (s.dropGather c g.num).endWork g.from_ g.slot g.id g.entry fail (if g.cb = 0 then .alone else .both) 8 0 (!g.landed.isEmpty)

end Sys2Proof.Machine
end

