-- ==== Sys2Proof/Machine/Ops.lean ====
section
/-! DEFINITION. The shared operations of every meaning: leaving a slot, restarting and ending a strand, killing a core, taking
a trap, and the issue and retirement of an instruction (R35 to R40, R50, R80, R230, R231, R246, R376 to R387, R394, R415,
R416, R434). -/

namespace Sys2Proof.Machine

/-! ## Leaving a slot (R37, R85, R88) -/

/-- An idle slot: the strand's windows, marks, streams and frame are gone and its banks are gated; k0 to k7 and the trap
registers stay (R72, R81, R88). -/
def Slot.vacate (v : Slot) : Slot :=
  { v with
           strand := none, preds := 0, lo := { Quad.reset with fails := v.lo.fails }, hi := { Quad.reset with fails := v.hi.fails },
           older := [], spare := (v.older.filter (·.inFile)).map (·.quad.fails) ++ v.spare, ready := [], streams := [], frame := none,
           prefetch := [], board := [], awaits := [], fetched := none, syncing := false, trapAt := none, freed := [], early := none, pend := [], first := [], preempt := false, run := none, needShadow := false, needScb := false,
           modLoaded := false, lanes := BitVec.allOnes 128 }

/-- The banks that a write-back reads are woken: the lowest register that a parity check poisons (R37, R81; notes/assumptions/119.md). -/
def State.rouse (s : State) (c j : Nat) : State × Option Nat :=
  let v := s.slotAt c j
  let t := { s.putSlot c j (v.roused s.now s.free) with free := s.free + 8 + 4 * v.older.length }
  match v.flushPoison with
  | none => (t, none)
  | some i => (t.logError c 2 1 5 i 0 (s.who c j) false, some i)

/-- The write-back of R37, after its banks are awake: the flush of every older window and the strand control block; on success the
slot as it is then, with no older window. -/
def State.writeBack (s : State) (c j : Nat) : State × Except (Cause × Word) Slot :=
  let v := s.slotAt c j
  match State.flushWindows c j v.older s with
  | (s, some f) => (s, .error f)
  | (s, none) =>
    let a := s.scbAddress v.id
    match s.dataWrite c j a v.scbBytes with
    | (s, some cause) => (s, .error (cause, BitVec.ofNat 48 a))
    | (s, none) => (s, .ok { v with older := [] })

/-- A slot given up by its strand; a core it leaves for another also loses its tile binding (R85). -/
def State.leaveSlot (s : State) (c j : Nat) (leaves : Bool) : State :=
  let id := (s.slotAt c j).id
  let s := s.onSlot c j Slot.vacate
  if leaves then s.onCore c fun k => k.unbind id else s

/-- Ends the strand of a slot as system software does under ACT 4 (R392), or by `exit`. -/
def State.endStrand (s : State) (c j : Nat) (exited : Bool) : State :=
  let id := (s.slotAt c j).id
  let s := s.leaveSlot c j true
  s.strandDone id exited

/-- Loads a continuation's registers into a slot: every bank on, no older window, no mark (R35, R37, R235, R223). -/
def Slot.load (v : Slot) (now : Nat) (b : Bound) (k : Cont) : Slot :=
  let r (i : Nat) : Reg := Reg.written (k.a.getD i 0) none 0
  let bank (i : Nat) (q : Quad) : Quad :=
    { r0 := r i, r1 := r (i + 1), r2 := r (i + 2), r3 := r (i + 3), power := .on, touched := now, fails := q.fails, poison := false }
  { v.vacate with
    strand := some { b with handle := k.handle, hops := k.hops },
    pc := k.pc, fl := k.fl, preds := k.preds, lo := bank 0 v.lo, hi := bank 4 v.hi, acct := b.pid,
    first := k.pend.toList, takenAt := now, refreshed := now, turnNext := max v.turnNext (now / 8), ecs := setField v.ecs 10 1 0,
    inbound := if v.inbound = some b.id then none else v.inbound, reserved := v.reserved }

/-! ## Killing a core (R415, R416) -/

/-- The strands a kill affects: those of slots, ring, overflow list and waiter lists, each with its process, record and
priorities. -/
def State.victims (s : State) (c : Nat) : List (StrandId × BitVec 12) :=
  let k := s.coreAt c
  let inSlots := (List.range 8).filterMap fun j => (s.slotAt c j).strand.map fun b => (b.id, b.handle)
  let ofCont (p : Packet) := (p.cont.id, p.cont.handle)
  inSlots ++ k.ring.map (fun e => ofCont e.pkt) ++ k.overflow.map (fun e => ofCont e.pkt) ++ k.waiters.map fun w => ofCont w.pkt

/-- The live supervisor cores, from a cluster's own on, in ascending cluster id (R415). -/
def State.supervisors (s : State) (g : Nat) : List Nat :=
  ((List.range 64).map fun i => (s.clusterAt ((g + i) % 64)).score).filter fun c => !(s.coreAt c).killed

/-- The supervisor core that acts for a cluster: its own, or the next in ascending cluster id that is alive (R415). -/
def State.supervisorFor (s : State) (g : Nat) : Option Nat := (s.supervisors g).head?

/-- Marks a launch for its end with STATUS 0x04; its strands elsewhere end at their next boundary (R416). -/
def Launch.doom (l : Launch) (heir : Option Nat) : Launch := { l with dead := true, ending := true, heir := heir }

/-- The entries of a kill list (R416). -/
def killList (c : Nat) (l : List (StrandId × BitVec 12)) : List Byte :=
  let part := l.take 8191
  leBytes 8 (c + part.length * 2 ^ 10 + bit (decide (8191 < l.length)) * 2 ^ 63) ++
    part.flatMap fun e => leBytes 8 (e.1.lid.toNat + e.1.sid % 2 ^ 24 * 2 ^ 16 + e.2.toNat * 2 ^ 40)

/-- A co-resident launch with a listed strand, or one rooted at the killed core, ends, with the supervisor to fill its completion word;
other listed strands restart, from the supervisor's uncore (R416). -/
def State.killStrand (s : State) (c : Nat) (sup : Option Nat) (ovf : Bool) (e : StrandId × BitVec 12) : State :=
  match s.launchAt e.1.lid with
  | none => s
  | some l =>
    if l.cores || rootOf e.1.lid = c || ovf then
      (s.onLaunch e.1.lid fun l => l.doom sup).onUnfolded e.1 fun u => { u with done := true }
    else
      match s.restartCont c e.1 e.2 with
      | (s, .error f) => s.noRestart c e.1 l.pid f
      | (s, .ok k) =>
        match s.nearestAvailable c with
        | none => s.noRestart c e.1 l.pid (.refused, 0)
        | some d => (s.unbindAll e.1).sendPacket {
            cont := k, pid := l.pid, dst := d, org := c, bpri := l.prio, epri := l.prio, kind := 3, hint := false,
            hx := 0, hy := 0, rad := 0, lrec := l.lrec, at_ := c, slot := none, ahead := false, wrote := sup.getD c, park := none }

/-- A launch message (R292). -/
def launchMessage (pid acct : BitVec 16) (src : Nat) (prv : Bool) (rec_ : Nat) : BitVec 128 :=
  BitVec.ofNat 128 (rec_ % 2 ^ 44 + bit prv * 2 ^ 85 + src % 1024 * 2 ^ 86 + acct.toNat * 2 ^ 96 + pid.toNat * 2 ^ 112)

/-- The bytes a copy command has still to write. -/
def CopyCmd.left (x : CopyCmd) : Nat := x.desc.len - x.base - sumBy (fun o => min 64 (x.desc.len - o)) x.landed

/-- The failure of work cut off by a kill, on the barrier that counts it (R152, R416). -/
def State.cutOff (s : State) (c : Nat) (lid : BitVec 16) (bar : Word) (addr n : Nat) : State :=
  s.barSend c lid (spmCore bar.toNat) (bitsOf bar.toNat 9 4) (.fail Cause.refused.code c addr n)

/-- The outstanding copies, operations and gathers of a killed core's strands are neither retried nor reported, except on their barriers
(R416); a gather that its agent makes for another core's strand fails with REFUSED (R375). -/
def State.abandon (s : State) (c : Nat) : State :=
  let k := s.coreAt c
  let s := k.copies.foldl (fun s x => if x.desc.cmode = 1 then s.cutOff c x.id.lid x.desc.caddr x.desc.dst.toNat x.left else s) s
  let s := k.engine.queue.foldl (fun s o =>
    if o.bar = 0 then s else s.cutOff c o.id.lid o.bar 0 (if o.zero then 4096 else 128 * (bitsOf o.word.toNat 15 11 + 1))) s
  let s := k.gathers.foldl (fun s g =>
    if g.from_ = c then s.gatherBar c g (.fail Cause.refused.code c (g.address g.next).toNat g.left)
    else s.endGather c g (some (.refused, g.address g.next))) s
  s.onCore c fun k => { k with copies := [], gathers := [], engine := { k.engine with queue := [] } }

/-- The kill list is written into a supervisor's vault: where that vault fails, the next supervisor repeats it and acts (R416, R417). -/
def State.writeKillList (bs : List Byte) : List Nat → State → State × Option Nat
  | [], s => (s, none)
  | p :: r, s =>
    match s.vaultWrite (Who.none p) (s.reservedAt p 0x0FFE0000) bs with
    | (s, 0) => (s, some p)
    | (s, _) => State.writeKillList bs r s

/-- Core `c` is killed, in the order of R416. -/
def State.killCore (s : State) (c array cause : Nat) : State :=
  if (s.coreAt c).killed then s
  else
    let dead := s.victims c
    let ovf := decide (8191 < dead.length)
    let s := s.onCore c fun k => { k with killed := true, spoilt := false, vacating := false, eic := setField k.eic 0 1 0,
                                          engine := { k.engine with frozen := true, bk := 0, bkey := 0 } }
    let s := { s with injected := s.injected.filter fun e => e.1 != c }
    let s := s.logError c array 3 cause c 0 (Who.none c) false
    let q := State.writeKillList (killList c dead) (s.supervisors (clusterOf c)) s
    let sup := q.2
    let s := q.1.abandon c
    let s := s.onCore c fun k => { k with launches := k.launches.map fun l => l.doom sup }
    let s := dead.foldl (fun s e => s.killStrand c sup ovf e) s
    let inbox := (s.coreAt c).inbox
    let s := upTo 8 (fun s j => s.onSlot c j Slot.vacate) s
    let s := s.onCore c fun k => { k with inbox := [], ring := [], overflow := [], waiters := [], leaves := [], bound := [] }
    let s := match sup with
      | none => s
      | some p =>
        let g := s.clusterAt (clusterOf c)
        let s := s.onCore p fun k => { k with inbox := k.inbox ++ inbox }
        { s with notes := s.notes ++ [(p, launchMessage s.spid 0 c true g.srec.toNat)] }
    s.quinceLog 4 (some (clusterOf c)) c

/-- A kill of a core is due, with its log array and cause: the kills of one cycle are made at its end, in ascending core id (R417). -/
def State.callKill (s : State) (c array cause : Nat) : State :=
  if (s.coreAt c).killed || s.kills.any (·.1 == c) then s
  else { s.onCore c fun k => { k with spoilt := false } with
         kills := s.kills.takeWhile (fun k => decide (k.1 < c)) ++ [(c, array, cause)] ++ s.kills.dropWhile fun k => decide (k.1 < c) }

/-- The kills of a cycle are made, in ascending core id. -/
def State.killAll (s : State) : State := s.kills.foldl (fun s k => s.killCore k.1 k.2.1 k.2.2) { s with kills := [] }

/-- The end of a cycle, when time goes on to another. -/
def State.endCycle (s : State) (t : Nat) : State := if s.now < t && !s.kills.isEmpty then s.killAll else s

/-- The parity of a core's launch unit, slot control state or inbox fails: it is logged and the core is killed (R406, R416). -/
def State.failCore (s : State) (c : Nat) : State := (s.logError c 9 1 0 0 0 (Who.none c) false).callKill c 9 0

/-! ## Taking a trap (R377, R380, R394) -/

/-- ECS at trap entry (R382), with ACT 0 and DST the current core. -/
def Slot.entryEcs (v : Slot) (c : Nat) (strict : Bool) (cause : Cause) (async : Bool) (sub : Nat) : BitVec 48 :=
  let nsb := if strict then 0 else v.board.length
  let un := if strict then min 63 v.unack else 0
  BitVec.ofNat 48 (sub * 2 ^ 40 + nsb * 2 ^ 35 + un * 2 ^ 29 + c * 2 ^ 16 + 2 ^ 10 + bit v.frame.isSome * 2 ^ 9 +
    bit async * 2 ^ 8 + bit (decide (0 < un)) * 2 ^ 7 + cause.code)

/-- A strand whose outstanding work has stopped ends; otherwise its slot issues nothing until the work has (R392, R394). -/
def State.endSettled (s : State) (c j : Nat) : State :=
  if (s.slotAt c j).board.any fun (e : SbEntry) => e.state == 0 && !e.stop then s.onSlot c j fun v => { v with run := some .ending }
  else s.endStrand c j false

/-- A cause that arises beside an earlier one ends the strand, and both causes are logged (R394). -/
def State.endTwice (s : State) (c j : Nat) (cause : Cause) (earlier : Nat) : State :=
  (s.logError c 10 2 cause.code (s.slotAt c j).pc.toNat earlier (s.who c j) false).endSettled c j

/-- A cause that arises in handler state ends the strand. -/
def State.doubleTrap (s : State) (c j : Nat) (cause : Cause) : State :=
  s.endTwice c j cause (bitsOf (s.slotAt c j).ecs.toNat 5 0)

/-- An entry whose read faulted is read again when its instruction re-executes (R316). -/
def Stream.refetch (t : Stream) : Stream :=
  match t.fifo with
  | e :: _ => if t.kind == .inPattern && e.fault.isSome then { t with fifo := [], ahead := t.done } else t
  | [] => t

/-- Trap entry, in the order of R380. EPC is the slot's pc: the instruction's own address, or the next one's where the
instruction has retired. A frame that cannot be written kills the core. -/
def State.enterTrap (s : State) (c j : Nat) (cause : Cause) (eva : Word) (async : Bool) (sub : Nat) : State :=
  let v := s.slotAt c j
  if v.handler then s.doubleTrap c j cause
  else
    let v := { v with board := v.boardAt s.now, freed := [] }
    let strict := (s.coreAt c).strict
    let w := s.vaultWrite (s.who c j) (s.frameAddress c j) (v.frameBytes strict)
    let s := w.1
    let s := s.putSlot c j { v with
      epc := v.pc, epw := v.pw, eva := eva, ecs := v.entryEcs c strict cause async sub, frame := none, run := none, fetched := none,
      streams := v.streams.map Stream.refetch,
      pc := BitVec.ofNat 48 (s.vectors + 64 * cause.code), trapAt := some s.now, early := none, turnNext := max v.turnNext (s.turn + 1) }
    let s := if cause = .tldtherm then s.onCore c fun k => { k with vevt := bump k.vevt 16 8 1 } else s
    if w.2 = 0 then s else s.callKill c 10 0

/-- A synchronous trap of the issuing slot. -/
def State.trap (s : State) (cause : Cause) (eva : Word) : State := s.enterTrap s.core s.slot cause eva false 0

/-! ## Issue and retirement (R80, R230, R231, R246) -/

/-- What an instruction may do while an awaited access of its strand is on its way. R231 lets it issue and R135 and R377 have the
access fail precisely, with no younger instruction's effect left: so an instruction issues behind one only when all it changes is what
`Saved` puts back, and every other waits for the reply (notes/assumptions/3.md). -/
inductive Young where
  /-- It waits for every reply. -/
  | waits
  /-- It changes registers, predicates and the pc only. -/
  | registers
  /-- It is a load, which passes plain loads and no others (R163, R164). -/
  | load
deriving DecidableEq, Repr

/-- What an instruction names: its word, whether it needs privilege and which unit it needs, its scalar sources with their
last-read marks, the scalar codes it writes, those it moves with the window (R256; notes/assumptions/145.md), the predicates and the
vector names it reads, the ILLEGAL conditions of its own description, its stall count, and whether it may issue behind an awaited
access. -/
structure Use where
  word  : BitVec 32 := 0
  priv  : Bool := false
  unit  : Option Nat := none
  srcs  : List (BitVec 5 × BitVec 1) := []
  dsts  : List (BitVec 5) := []
  moved : List (BitVec 5) := []
  preds : List Nat := []
  vecs  : List (BitVec 6) := []
  legal : Bool := true
  st    : BitVec 3 := 0
  young : Young := .waits

/-- What an instruction does once it has passed its issue checks. -/
inductive Act where
  /-- It retires; the strand continues at the given pc, or at pc + 4. -/
  | retire (s : State) (next : Option Word)
  /-- It does not issue in this turn. -/
  | stall (s : State)
  /-- It takes a trap before any effect but those of the state given. -/
  | trap (s : State) (cause : Cause) (eva : Word)
  /-- The state given is all it does: the strand has left, or waits for a reply. -/
  | settled (s : State)

/-- What R246 needs of an instruction: its word, and its privilege and unit: a P form, a PRW register or a k register needs
privilege (R69, R244, R245). The instructions that name no register code and no unit leave these at their defaults. -/
def use (i : Instr) : Use :=
  { word := encode i, priv := (formOf i).priv || (formOf i).codes.any (fun c => 24 ≤ c.toNat), unit := (formOf i).unit }

/-- The instruction's word as the EVA of ILLEGAL, PRIV and FEATURE (R246, R434). -/
def Use.eva (u : Use) : Word := u.word.setWidth 48

/-- Whether the core has the unit an instruction needs (R20, R63). -/
def Core.hasUnit (k : Core) (unit : Option Nat) : Bool :=
  match unit with
  | none => true
  | some b => bitAt k.feat.toNat b

/-- The codes an instruction reads or writes in the window file. -/
def Use.codes (u : Use) : List (BitVec 5) := u.srcs.map (·.1) ++ u.dsts

/-- The codes on whose banks an instruction takes POISON: those it accesses (R81), of an instruction of the scalar chapter only those it
reads (R254; notes/assumptions/119.md). -/
def Use.reported (u : Use) : List (BitVec 5) := if u.young = .registers then u.srcs.map (·.1) else u.codes

/-- Whether an instruction consumes a value that an awaited access has still to bring: it stalls for it, whatever else it reads (R231). -/
def Use.consumesBusy (u : Use) (s : State) : Bool :=
  u.srcs.any (fun p => s.me.busy p.1) || u.moved.any s.me.busy || (u.preds.any (· != 0) && s.me.busy 17) || u.vecs.any s.vecBusy

/-- The first source that is not ready, as UNDERSTALL's EVA: 17 stands for the predicates (R231). -/
def Use.unready (u : Use) (s : State) : Option Word :=
  match (u.srcs.map (·.1) ++ u.moved).find? fun c => !s.me.codeReady s.turn c with
  | some c => some (c.setWidth 48)
  | none =>
    if u.preds.any fun p => !s.me.predReady s.turn p then some 17
    else match u.vecs.find? fun n => !s.vecReady n with
      | some n => some (BitVec.ofNat 48 (0x40 + n.toNat))
      | none => none

/-- Frees the marked sources at retirement; a register that the instruction also writes stays live (R80). -/
def Use.free (u : Use) (v : Slot) : Slot :=
  u.srcs.foldl (fun v p => if p.2 == 1 && !u.dsts.contains p.1 then v.freeReg p.1 else v) v

/-- The next instruction after one of a repeat frame: the next word, the next replay, or the word after the frame (R236). -/
def Frame.next (f : Frame) : Option Frame :=
  if f.pos + 1 < f.words.length then some { f with pos := f.pos + 1 }
  else if f.rep + 1 < f.cnt then some { f with pos := 0, rep := f.rep + 1 }
  else none

/-- The pc and the frame after an instruction that does not jump. -/
def Slot.step (v : Slot) : Slot :=
  match v.frame with
  | none => { v with pc := v.pc + 4 }
  | some f => match f.next with
    | some g => { v with frame := some g }
    | none => { v with frame := none, pc := f.addr + 4 + BitVec.ofNat 48 (4 * f.words.length) }

/-- A slot after an instruction has retired: marked sources freed, the pc moved, the next issue no earlier than the stall
count allows (R80, R225, R230). -/
def Slot.retired (v : Slot) (u : Use) (next : Option Word) (turn : Nat) : Slot :=
  let v := u.free v
  let v := match next with | some pc => { v with pc := pc } | none => v.step
  { v with run := none, turnNext := max v.turnNext (turn + 1 + u.st.toNat) }

/-- One instruction issued under a tag in a cluster (R224). -/
def Cluster.countIssue (g : Cluster) (tag : Nat) : Cluster :=
  { g with active := true, activeRefill := true, issued := put tag ((look tag g.issued).getD 0 + 1) g.issued }

/-- An instruction issued on a core is counted under a tag (R218, R224). -/
def State.countIssue (s : State) (c : Nat) (tag : BitVec 16) : State := s.onCluster (clusterOf c) fun g => g.countIssue tag.toNat

/-- The issuing slot's instruction is counted under its tag. -/
def State.countIssued (s : State) : State := s.countIssue s.core s.me.acct

/-- Retirement in the issuing slot. -/
def State.retire (s : State) (u : Use) (next : Option Word) : State := s.countIssued.onMe fun v => v.retired u next s.turn

/-- An instruction that issues and leaves its slot to another, or ends in a trap after its effects: it is counted, and its stall count
acts (R218, R224, R230). -/
def State.issued (s : State) (u : Use) : State :=
  s.countIssued.onMe fun v => { v with turnNext := max v.turnNext (s.turn + 1 + u.st.toNat) }

/-- The banks that an instruction accesses are woken, and the strand stalls until they are on; `reads` says of which ones it reports
poison (R81). -/
def State.wakeBanks (s : State) (a reads : Bool × Bool) : State :=
  let v := s.me
  let wait := max (if a.1 then wakeCycles v.lo.power else 0) (if a.2 then wakeCycles v.hi.power else 0)
  let v := { v with lo := if a.1 then v.lo.wake s.now s.free reads.1 else v.lo,
                    hi := if a.2 then v.hi.wake s.now (s.free + 4) reads.2 else v.hi,
                    turnNext := max v.turnNext ((s.now + wait + 7) / 8) }
  { s.onMe (fun _ => v) with free := s.free + 8 }

/-- Whether an instruction that consumes none of their values issues behind the awaited accesses of its slot, if there are any (R231). -/
def Use.passes (u : Use) (v : Slot) : Bool :=
  v.awaits.isEmpty ||
    ((match u.young with
      | .waits => false
      | .registers => true
      | .load => v.awaits.all (·.plain)) && !u.codes.any v.busy)

/-- A trap of an instruction, from the state it is left in: behind an awaited access it waits, since a trap leaves every older
instruction retired (R377). -/
def State.raise (s t : State) (cause : Cause) (eva : Word) : Out := .next (if s.me.awaits.isEmpty then t.trap cause eva else s)

/-- An act with more for its retirement to do. -/
def Act.also (f : State → State) : Act → Act
  | .retire s next => .retire (f s) next
  | a => a

/-- What an act of an instruction issued in a state leaves. -/
def Act.out (u : Use) (s : State) : Act → Out
  | .retire t next => .next (t.retire u next)
  | .stall t => .next t
  | .trap t cause eva => s.raise t cause eva
  | .settled t => .next t

/-- An instruction whose turn comes before a source is ready: with SBC clear it does not issue in this turn; with SBC set it takes
UNDERSTALL, and behind an awaited access it keeps the cause until the access is performed (R231, R377). -/
def State.understall (s : State) (eva : Word) : Out :=
  if !s.here.sbc then .next s
  else if s.me.awaits.isEmpty then .next (s.trap .understall eva)
  else .next (s.onMe fun v => { v with early := some eva })

/-- The issue of an instruction in the slot `(s.core, s.slot)`: the wait for a busy source, the checks of R246 in their order, then
readiness (R231), whether it may issue behind an awaited access, bank wake and POISON (R81), EXPIRED (R79), and the instruction's own
effect. -/
def issue (u : Use) (s : State) (body : State → Act) : Out :=
  let v := s.me
  let codes := u.codes
  if u.consumesBusy s then .next s
  else if !u.legal then s.raise s .illegal u.eva
  else if u.priv && !s.privileged s.core s.slot then s.raise s .priv u.eva
  else if !s.here.hasUnit u.unit then s.raise s .feature u.eva
  else match v.early, u.unready s with
    | some eva, _ => s.raise s .understall eva
    | none, some eva => s.understall eva
    | none, none =>
      if !u.passes v then .next s
      else
        let a := v.asleep codes
        let reads := banksOf u.reported
        match v.poisonIn reads with
        | some i =>
          s.raise ((s.wakeBanks (banksOf codes) reads).logError s.core 2 1 5 i 0 (s.who s.core s.slot) false) .poison (BitVec.ofNat 48 i)
        | none =>
          if a.1 || a.2 then .next (s.wakeBanks a reads)
          else match v.lapsedAmong s.now (u.srcs.map (·.1)) with
            | some c => s.raise s .expired (c.setWidth 48)
            | none => (body (s.onMe fun v => v.touch s.now codes)).out u s

end Sys2Proof.Machine
end

