-- ==== Sys2Proof/Machine/Wait.lean ====
section
/-! DEFINITION. Waiting and leaving: the counters of posted stores, outstanding engine and copy work, and the suspension of the
issuing strand (R37, R88, R169, R170, R177). -/

namespace Sys2Proof.Machine

/-- Whether a wait code covers a counter class: class 1 and class 3 both count a store not yet translated (R170). -/
def waitsFor (wc : Nat) : Cls → Bool
  | .zero => false
  | .one => wc == 1 || wc == 3
  | .two => wc == 2 || wc == 3
  | .three => wc == 3
  | .moot => wc == 1 || wc == 3

/-- Whether a core has an unacknowledged posted store of the classes a wait code names. -/
def State.posted (s : State) (c wc : Nat) : Bool :=
  s.mesh.any fun m => m.storing && m.src == c && waitsFor wc m.cls

/-- Whether the issuing instruction has still to wait for the posted stores of a wait code: one that has reached its vault agent, and
waits there for a tag, has waited for them (R136, R170). -/
def State.holds (s : State) (wc : Nat) : Bool :=
  (match s.me.run with | some (.tag _) => false | _ => true) && s.posted s.core wc

/-- Whether an engine or copy command, or a gather, that a strand issued is still in progress (R177). -/
def State.busyWork (s : State) (id : StrandId) : Bool :=
  s.cores.any (fun e => e.2.copies.any (fun x => x.id == id) || e.2.engine.queue.any (fun o => o.id == id && o.task.isNone) ||
    e.2.gathers.any fun g => g.id == id) || s.partials.any fun p => p.op.id == id

/-- Whether an output pattern of a slot still holds entries to write (R88). -/
def Slot.draining (v : Slot) : Bool := v.streams.any fun t => t.kind == .outPattern && !t.fifo.isEmpty

/-- The suspension of R37 for the strand of a slot, changed as the instruction that suspends it leaves it: its banks are woken, the
write-back is made, then the slot is idle and a packet holds the continuation. A fault leaves the slot as it was, its banks awake. -/
def State.suspend (s : State) (c j : Nat) (f : Slot → Slot) (pc : Word) (dst : Nat) (kind : BitVec 3) :
    State × Except (Cause × Word) Packet :=
  match s.rouse c j with
  | (s, some i) => (s, .error (.poison, BitVec.ofNat 48 i))
  | (s, none) =>
    let old := s.slotAt c j
    match (s.putSlot c j (f old)).writeBack c j with
    | (s, .error e) => (s.putSlot c j old, .error e)
    | (s, .ok w) => (s.leaveSlot c j (dst != c), .ok (w.packet s.now pc c dst kind))

/-- Suspends the issuing strand, whose instruction has retired with its marks and its stall count acting, and places its packet. -/
def State.suspendMe (s : State) (u : Use) (dst : Nat) (kind : BitVec 3) (place : State → Packet → State) : Act :=
  let c := s.core
  let j := s.slot
  match s.suspend c j u.free (s.me.pc + 4) dst kind with
  | (t, .error f) => .trap t f.1 f.2
  | (t, .ok p) => .settled (place (t.issued u) p)

/-- Whether the eight tags of a core's vault agent are taken: by row packets, and by a segment of each `tld` in progress, a slot's or a
tile task's. A request and the reply of its controller are one event, so it holds its tag within that event (R136;
notes/assumptions/143.md). -/
def State.tagsFull (s : State) (c : Nat) : Bool :=
  8 ≤ (s.coreAt c).ctl.length + ((s.coreAt c).slots.filter fun e => match e.2.run with | some (.tld _ _ _) => true | _ => false).length +
    ((s.clusterAt (clusterOf c)).running.filter fun (r : Running) => r.core == c && r.tld.isSome).length

/-- The places, in the order of arrival, of the requests that wait for a tag of a core's vault agent (R136). -/
def State.tagLine (s : State) (c : Nat) : List Nat :=
  let k := s.coreAt c
  (if k.halted then [] else k.slots.filterMap fun e => match e.2.run with | some (.tag n) => some n | _ => none) ++
    k.slots.flatMap (fun e => e.2.streams.filterMap fun (t : Stream) => t.tag) ++
    ((s.clusterAt (clusterOf c)).running.filter fun (r : Running) => r.core == c).filterMap (fun (r : Running) => r.tag) ++
    (k.copies.filter fun (x : CopyCmd) => !x.stopped && x.failed.isNone).filterMap (fun (x : CopyCmd) => x.tag) ++
    (s.mesh.filter fun m => m.dst == c && m.stage == .toOwner).filterMap fun m => m.tag

/-- Whether a request gets a tag, given its place if it has waited: one is free, and no request waits that came earlier (R136). -/
def State.tagFree (s : State) (c : Nat) (place : Option Nat) : Bool :=
  !s.tagsFull c && (s.tagLine c).all fun n => match place with | none => false | some m => m ≤ n

/-- The place of the issuing strand's access among those that wait for a tag. -/
def Slot.place (v : Slot) : Option Nat := match v.run with | some (.tag n) => some n | _ => none

/-- The issuing strand's access takes its place among those that wait for a tag. -/
def State.awaitTag (s : State) : State :=
  if s.me.place.isSome then s else { s.onMe fun v => { v with run := some (.tag s.orders) } with orders := s.orders + 1 }

/-- Whether the issuing strand must wait before it suspends: every class of R170, and its output patterns. -/
def State.mustWait (s : State) : Bool := s.posted s.core 3 || s.me.draining

/-- The core that owns a migration's target: the current one for a local-window or scratchpad address, else the owner of the
vault that the address translates to (R273, R278). -/
def State.ownerCore (s : State) (a : Word) (acc : Acc) : State × Except Cause (Nat × Option Nat) :=
  if regionOf a.toNat != .global then (s, .ok (s.core, none))
  else match s.translate (s.who s.core s.slot) s.me.pid (s.privileged s.core s.slot) a.toNat acc with
    | (s, .error c) => (s, .error c)
    | (s, .ok pa) => if spaceOf pa == .vault then (s, .ok (vaultOf pa, some pa)) else (s, .error .prot)

end Sys2Proof.Machine
end

