-- ==== Sys2Proof/Machine/Messages.lean ====
section
/-! DEFINITION. Remote-procedure messages: how a slot sends one, awaited or posted, the scoreboard and strict-mode counters, and
what a reply does at its originator (R126, R132 to R135, R160, R169, R170, R276, R385, R387, R390). -/

namespace Sys2Proof.Machine

/-! ## Ordering at issue (R160, R164, R170, R234) -/

/-- The wait code that an access observes: all classes for a release head or a synchronising access, else its wc field. -/
def orderWait (o w : BitVec 2) : Nat := if o = 2 ∨ o = 3 then 3 else w.toNat

/-! ## Messages and what they reach (R133) -/

/-- The consumer of a message. -/
def Msg.who (m : Msg) : Who :=
  { core := m.src, pid := m.pid, id := match m.client with | .slot _ _ id => id | _ => { lid := m.lid, sid := 0 } }

/-- The strand that sent a message. -/
def Msg.strand (m : Msg) : StrandId := m.who.id

/-- The destination of a message that no core accepts: its originator counts it as received with the reply (R64). -/
def noCore : Nat := 1024

/-- Whether a message came over a Sloe link: its launch is the peer's. -/
def Msg.fromPeer (m : Msg) : Bool := match m.client with | .peer _ => true | _ => false

/-- Bytes of a scalar access. -/
def Msg.bytes (m : Msg) : Nat := 2 ^ m.size.toNat

/-- Bytes of an access: a vector access takes one request for each 32-byte granule, whose lanes the mask enables (R299). -/
def Msg.length (m : Msg) : Nat := if !m.data.isEmpty then m.data.length else if m.mask != 0 then 32 else m.bytes

/-- What the access of a message wants of its page. -/
def Msg.access (m : Msg) : Acc := if m.proc = 1 ∨ m.proc = 2 ∨ m.proc = 4 ∨ m.proc = 5 then .write else .read

/-- Where the first byte of a message's access lies: a physical address, or past them all a scratchpad's byte. Nothing while its
translation is not known. -/
def State.placeOf (s : State) (m : Msg) : Option Nat :=
  if m.proc = 8 ∨ m.proc = 9 then
    some (2 ^ 45 + spmAt m.dst (if idxOf m.va.toNat = 31 then barByte (bitsOf m.va.toNat 9 4) else (s.spmByte m.pid m.va.toNat).getD (2 ^ 18 - 256)))
  else if m.stage == .toOwner then some m.paddr
  else match (s.translate m.who m.pid m.prv m.va.toNat m.access).2 with
    | .ok pa => some pa
    | .error _ => none

/-- Whether two ranges share an aligned 8-byte word. -/
def shareWord (a n b m : Nat) : Bool := decide (a / 8 ≤ (b + m - 1) / 8) && decide (b / 8 ≤ (a + n - 1) / 8)

/-- Whether a message may reach a word of a range: one whose place is not known may reach any word that is no scratchpad's, and a
table operation any word of its vault. -/
def State.reaches (s : State) (m : Msg) (a n : Nat) : Bool :=
  if m.rec_.isSome || (2 ^ 45 ≤ a && m.proc != 8 && m.proc != 9) then false
  else match s.placeOf m with
  | none => true
  | some b => if m.proc = 6 ∨ m.proc = 7 then spaceOf b == .vault && spaceOf a == .vault && vaultOf b == vaultOf a else shareWord b m.length a n

/-- Whether a message of a strand has still to be performed. -/
def Msg.pendingOf (m : Msg) (id : StrandId) : Bool :=
  m.stage != .replied && match m.client with
    | .slot _ _ i => i == id
    | _ => false

/-- Whether an access of a strand to a range must wait for a message of the strand, or for a posted store alone: the accesses of a
strand to one word are performed in its program order (R163, R168; notes/assumptions/120.md). -/
def State.behind (s : State) (id : StrandId) (storesOnly : Bool) (a n : Nat) : Bool :=
  s.mesh.any fun m => m.pendingOf id && (m.storing || !storesOnly) && s.reaches m a n

/-- Where an access of a context would lie: a physical address, or past them all a scratchpad's byte; nothing where it would fault. -/
def State.wherePut (s : State) (y : Ctx) (va : Nat) (acc : Acc) : Option Nat :=
  match regionOf va with
  | .local_ => some (y.core * 2 ^ 28 + va)
  | .spad => (s.spmByte y.pid va).map fun b => 2 ^ 45 + spmAt (spmCore va) b
  | .global => match (s.translate y.who y.pid y.prv va acc).2 with
    | .ok pa => some pa
    | .error _ => none

/-- Whether an engine's access of a context to a range must wait for posted stores that its strand made before, to one of the words (R163,
R173, R214). -/
def State.engineBehind (s : State) (y : Ctx) (va n : Nat) (acc : Acc) : Bool :=
  (s.wherePut y va acc).any fun a => s.behind y.id true a n

/-- The 256-byte blocks that a range touches, by their addresses. -/
def blocksAt (a : Word) (n : Nat) : List Word :=
  (List.range ((a.toNat % 256 + n + 255) / 256)).map fun i => BitVec.ofNat 48 ((a.toNat / 256 + i) * 256)

/-- Whether accesses of a context to ranges must wait for posted stores that its strand made before; rights are tested by the accesses
themselves. -/
def State.rangesBehind (s : State) (y : Ctx) (l : List (Word × Nat)) : Bool :=
  (s.mesh.any fun m => m.pendingOf y.id && m.storing) &&
    l.any fun p => (blocksAt p.1 p.2).any fun a => s.engineBehind y a.toNat 256 .route

/-- Whether an update of a barrier must wait for posted stores that the strand made before, to its words or by updates of its own. -/
def State.barBehind (s : State) (id : StrandId) (c b : Nat) : Bool := s.behind id true (2 ^ 45 + spmAt c (barByte b)) 16

/-- Whether message `k` must wait for an older message of its strand that may reach one of its words. -/
def State.blocked (s : State) (k : Nat) (m : Msg) : Bool :=
  match m.client with
  | .slot _ _ id =>
    let older := (s.mesh.take k).filter fun o => o.pendingOf id
    !older.isEmpty && match s.placeOf m with
      | none => true
      | some a =>
        if m.proc = 6 ∨ m.proc = 7 then older.any fun o => o.rec_.isNone && match s.placeOf o with
          | none => true
          | some b => spaceOf b == .vault && spaceOf a == .vault && vaultOf b == vaultOf a
        else older.any fun o => s.reaches o a m.length
  | _ => false

/-! ## Building a message (R133) -/

/-- An empty message of the issuing slot. -/
def State.blank (s : State) (c j : Nat) : Msg :=
  let v := s.slotAt c j
  { pid := v.pid, seq := 0, src := c, dst := c, proc := 0, ord := 0, sc := 0, prv := s.privileged c j, size := 0,
    acct := v.acct, fn := 0, paddr := 0, opa := 0, opb := 0, data := [], mask := 0, va := 0, storing := false,
    stage := .toStation, status := 0, cause := none, result := 0, client := .slot c j v.id, entry := none, cls := .zero,
    lid := v.id.lid, cont := none, rec_ := none, tag := none }

/-- Sends a message: the core numbers it modulo 2^16 and counts it as sent (R64, R133). -/
def State.send (s : State) (m : Msg) : State × BitVec 16 :=
  let seq := (s.coreAt m.src).seq
  let s := s.onCore m.src fun k => { k with seq := k.seq + 1 }
  (({ s with mesh := s.mesh ++ [{ m with seq := seq }] }).countSent m.src m.lid, seq)

/-- The next number of a core's sequence, for work that sends no request of its own (notes/assumptions/123.md). -/
def State.takeSeq (s : State) (c : Nat) : State × BitVec 16 := (s.onCore c fun k => { k with seq := k.seq + 1 }, (s.coreAt c).seq)

/-- Sends the requests of one access. -/
def State.sendAll (s : State) : List Msg → State × List (BitVec 16)
  | [] => (s, [])
  | m :: r =>
    let t := s.send m
    let u := State.sendAll t.1 r
    (u.1, t.2 :: u.2)

/-- An awaited access of one or more requests: the instruction retires as they leave the core, and its result carries a busy mark
until the last reply (R231, R276). -/
def State.sendAwaited (s : State) (ms : List Msg) (ea : Word) (act : AwaitAct) (plain : Bool) : State :=
  let r := s.sendAll ms
  r.1.onMe fun v => { v with awaits := v.awaits ++ [{ seqs := r.2, act := act, ea := ea, plain := plain, saved := s.me.saved, failed := none }] }

/-- An awaited access of one request, which no later access passes. -/
def State.sendAwait (s : State) (m : Msg) (act : AwaitAct) : State := s.sendAwaited [m] m.va act false

/-! ## The scoreboard (R385, R390) -/

/-- Whether an instruction that would make an entry must stall: sixteen are held (R385); strict mode holds none. -/
def State.boardFull (s : State) : Bool := !s.here.strict && 16 ≤ s.me.board.length

/-- Makes a scoreboard entry in the issuing slot, for so many replies, unless the core is in strict mode. -/
def State.addEntry (s : State) (w : Work) (cls : Cls) (seq : BitVec 16) (left : Nat) : State × Option Nat :=
  if s.here.strict then (s, none)
  else
    let n := s.me.boardNext
    (s.onMe fun v => { v with
        boardNext := n + 1,
        board := v.board ++ [{ num := n, work := w, state := 0, cause := none, sub := 0, eva := 0, stop := false, cls := cls,
                               part := false, seq := seq, aux := 0, left := left }] }, some n)

/-- A posted access of one or more requests of a class: its entry, or in strict mode the slot's count of unacknowledged requests, then
the messages (R276, R299, R385, R390). -/
def State.postAll (s : State) (ms : List Msg) (cls : Cls) (w : Work) : State :=
  let r := s.addEntry w cls s.here.seq ms.length
  let s := if r.1.here.strict then r.1.onMe fun v => { v with unack := v.unack + ms.length } else r.1
  (s.sendAll (ms.map fun m => { m with entry := r.2, storing := true })).1

/-- A posted access of one request. -/
def State.sendPosted (s : State) (m : Msg) (w : Work) : State := s.postAll [m] m.cls w

/-- What a slot does with the acknowledgement of a request of a posted access: the last one ends it, and the first failure is its
cause. -/
def Slot.acknowledge (v : Slot) (m : Msg) (now : Nat) : Slot :=
  match m.entry with
  | none =>
    let v := { v with unack := v.unack - 1 }
    if m.cause.isSome then
      { v with pend := v.pend ++ [{ cause := .refused, eva := m.seq.setWidth 48, sub := m.status, entry := none }] }
    else v
  | some n => match v.board.find? fun (e : SbEntry) => e.num == n with
    | none => v
    | some e =>
      let first := e.cause.isNone && m.cause.isSome
      let f : SbEntry := { e with left := e.left - 1, cause := e.cause <|> m.cause, eva := if first then BitVec.ofNat 48 e.work.addr else e.eva,
                                  sub := if first then m.status else e.sub, part := e.part || m.cause.isNone }
      if 1 < e.left then v.onEntry n fun _ => f
      else match f.cause with
        | none => v.entryDone n 0 now
        | some cause => v.entryFailed n cause f.eva f.sub 0 f.part true

/-! ## Replies (R135) -/

/-- The value a load delivers from the bytes it read (R277). -/
def loadValue (size : Nat) (signed : Bool) (x : XWord) : Word :=
  if size = 8 then lowWord x
  else if signed then BitVec.ofInt 48 (sx (8 * size) x.toNat)
  else BitVec.ofNat 48 (x.toNat % 2 ^ (8 * size))

/-- The result an awaited access writes, if its form has one: the destination, the value, and whether it is short-lived. -/
def AwaitAct.write (a : AwaitAct) (x : XWord) : Option (BitVec 5 × Word × Bool) :=
  match a with
  | .load size signed rd => some (rd, loadValue size signed x, false)
  | .atomic rd => some (rd, lowWord x, false)
  | .fullEmpty true rd => some (rd, lowWord x, false)
  | .fullEmpty false _ => none
  | .result rd short => some (rd, lowWord x, short)
  | .row _ _ _ => none
  | .table _ _ => none
  | .done => none

/-- The register result of an awaited access reaches a slot: a bank that has been gated meanwhile is on (R81, R231). -/
def Slot.deliver (v : Slot) (now : Nat) (r : BitVec 5 × Word × Bool) : Slot :=
  let v := v.writeCode now r.1 r.2.1 r.2.2 0
  if r.1.toNat < 4 then { v with lo := { v.lo with power := .on, touched := now } }
  else if r.1.toNat < 8 then { v with hi := { v.hi with power := .on, touched := now } }
  else v

/-- Access `i` of a slot leaves its list with its result, which reaches the slot and what the younger ones have saved of it. -/
def Slot.taken (v : Slot) (now i : Nat) (r : Option (BitVec 5 × Word × Bool)) : Slot :=
  let give (w : Slot) : Slot := match r with | none => w | some r => w.deliver now r
  { give v with awaits := dropAt (v.awaits.zipIdx.map fun p =>
      if p.2 ≤ i then p.1 else { p.1 with saved := (give (p.1.saved.onto v)).saved }) i }

/-- The slot as it was before its oldest awaited access, with none on its way: the access and every younger instruction are undone
(R377). -/
def Slot.undone (v : Slot) : Slot :=
  match v.awaits with
  | [] => v
  | a :: _ => { a.saved.onto v with awaits := [], early := none, run := none }

/-- The bank of the register that a code names is on, with its poison reported (R81). -/
def State.rouseBank (s : State) (c j : Nat) (code : BitVec 5) : State :=
  let b := banksOf [code]
  { s.onSlot c j fun v => { v with lo := if b.1 then v.lo.roused s.now s.free else v.lo,
                                   hi := if b.2 then v.hi.roused s.now (s.free + 4) else v.hi } with free := s.free + 8 }

/-- The oldest awaited access takes the cause its reply brought, if one has, with EVA its address, or the register that it found
poisoned (R81, R135). -/
def State.settleAwaits (s : State) (c j : Nat) : State :=
  match (s.slotAt c j).awaits with
  | [] => s
  | a :: _ => match a.failed with
    | none => s
    | some f =>
      let s := s.onSlot c j Slot.undone
      (if f.1 = .poison then s.rouseBank c j (f.2.setWidth 5) else s).enterTrap c j f.1 f.2 false 0

/-- A failing awaited access takes its cause precisely, once every older one has had its reply (R135, R377). -/
def State.failAwait (s : State) (c j i : Nat) (cause : Cause) (eva : Word) : State :=
  (s.onSlot c j fun v => { v with awaits := v.awaits.zipIdx.map fun p =>
    if p.2 = i then { p.1 with failed := p.1.failed <|> some (cause, eva) } else p.1 }).settleAwaits c j

/-- The reply to an awaited access has come: its result is written; a bank in retention wakes for it, and one found poisoned is the
access's POISON (R81). -/
def State.finishAwait (s : State) (c j i : Nat) (r : Option (BitVec 5 × Word × Bool)) : State :=
  match r.bind fun x => (s.slotAt c j).poisonIn (banksOf [x.1]) with
  | some n => (s.logError c 2 1 5 n 0 (s.who c j) false).failAwait c j i .poison (BitVec.ofNat 48 n)
  | none => (s.onSlot c j fun v => v.taken s.now i r).settleAwaits c j

/-- Answers a message where it is performed: it goes back to its originator with a status, a cause and data. -/
def Msg.answer (m : Msg) (status : Nat) (x : XWord) : Msg :=
  { m with stage := .replied, status := status, cause := statusCause status, result := x }

/-- A message refused at its station, with the translation's cause (R129, R135). -/
def Msg.refuse (m : Msg) (cause : Cause) (status : Nat) : Msg :=
  { m with stage := .replied, status := status, cause := some cause }

/-- Replaces message `k` of the mesh. -/
def State.putMsg (s : State) (k : Nat) (m : Msg) : State := { s with mesh := s.mesh.set k m }

/-- A message answered where no core accepts it. -/
def Msg.answerAway (m : Msg) (status : Nat) (x : XWord) : Msg := { m.answer status x with dst := noCore }

/-- A message refused by its translation, with the cause (R129). -/
def Msg.refuseAway (m : Msg) (cause : Cause) : Msg := { m.refuse cause (refusalStatus cause) with dst := noCore }

/-- Removes message `k` of the mesh. -/
def State.dropMsg (s : State) (k : Nat) : State := { s with mesh := dropAt s.mesh k }

end Sys2Proof.Machine
end

