-- ==== Sys2Proof/Machine/FullEmpty.lean ====
section
/-! DEFINITION. Full/empty words: conditions, the access at the bank, and the service of waiters (R145 to R148, R171, R172,
R279). -/

namespace Sys2Proof.Machine

/-- Whether a word's bit is full. -/
def State.isFull (s : State) (a : Nat) : Bool := !s.empties.contains (a / 8)

/-- The condition of a form: loads need full, `st.f` nothing, `st.ef` empty (R145). -/
def feHolds (isLoad : Bool) (fn : Nat) (full : Bool) : Bool :=
  if isLoad then full else if fn = 0 then true else !full

/-- The bit after a form: `ld.f` leaves it, `ld.fe` empties, stores fill (R145). -/
def State.feBit (s : State) (isLoad : Bool) (fn a : Nat) : State :=
  if isLoad then if fn = 0 then s else { s with empties := insertNat (a / 8) s.empties }
  else { s with empties := s.empties.filter (· != a / 8) }

/-- A form performed at its bank: a status of R135, and the word a load reads. A failing access leaves the bit unchanged
(R146). -/
def State.feAccess (s : State) (w : Who) (a : Nat) (isLoad : Bool) (fn : Nat) (x : XWord) : State × Nat × XWord :=
  if isLoad then
    let r := s.vaultRead w a 8
    if r.2.1 = 0 then (r.1.feBit true fn a, 0, BitVec.ofNat 64 (leNat r.2.2)) else (r.1, r.2.1, 0)
  else
    let r := s.vaultWrite w a (leBytes 8 x.toNat)
    if r.2 = 0 then (r.1.feBit false fn a, 0, 0) else (r.1, r.2, 0)

/-- A loaded value enters a destination of a continuation (R146); codes it does not carry discard it. -/
def Cont.writeReg (k : Cont) (rd : BitVec 5) (x : Word) : Cont :=
  let n := rd.toNat
  if n < 8 then { k with a := k.a.set n x }
  else if n = 17 then { k with preds := x.extractLsb' 1 11 }
  else if n = 18 then { k with fl := x }
  else k

/-- Whether a waiter waits on a vault word. -/
def Waiter.onWord (w : Waiter) (a : Nat) : Bool :=
  match w.kind with
  | .fullEmpty p _ _ _ _ => p == a
  | _ => false

/-- Serves one waiter whose condition holds: the access, charged to its tag (R224), its value and pc, and the return to its ring. A failing access
returns it with ECCUE pending (R146). The waiter keeps the address its request was translated to, whatever `stinv` has invalidated
since (notes/assumptions/116.md). -/
def State.serveWaiter (s : State) (c a : Nat) (w : Waiter) : State :=
  match w.kind with
  | .fullEmpty _ isLoad fn rd x =>
    let who : Who := { core := w.back, pid := w.pkt.pid, id := w.pkt.cont.id }
    let r := (s.chargeGranules w.back w.acct 8).feAccess who a isLoad fn x
    match r.1.takeWaiter c w with
    | (s, none) => s
    | (s, some w) =>
      if r.2.1 = 0 then
        let k := if isLoad then w.pkt.cont.writeReg rd (lowWord r.2.2) else w.pkt.cont
        s.releaseWaiter c ({ w with pkt := { w.pkt with cont := k } }.served) none
      else s.releaseWaiter c w (some (.eccue, w.ea))
  | _ => s

/-- One visit: the waiters of a word in arrival order, each served if its condition holds at that moment (R147). -/
def State.visitOnce (s : State) (c a : Nat) : State :=
  (((s.coreAt c).waiters.filter fun w => w.onWord a).map (·.pkt.cont.id)).foldl (fun s id =>
    match (s.coreAt c).waiters.find? fun w => w.onWord a && w.pkt.cont.id == id with
    | none => s
    | some w => match w.kind with
      | .fullEmpty _ isLoad fn _ _ => if s.isLost a || feHolds isLoad fn (s.isFull a) then s.serveWaiter c a w else s
      | _ => s) s

/-- Visits repeat while they serve a waiter, because each service may change the bit again (R147). -/
def State.visit (c a : Nat) : Nat → State → State
  | 0, s => s
  | n + 1, s =>
    let t := s.visitOnce c a
    if (t.coreAt c).waiters.length = (s.coreAt c).waiters.length then t else State.visit c a n t

/-- The bank visits a word's waiters after its bit has changed. -/
def State.feWake (s : State) (a : Nat) : State :=
  let c := vaultOf a
  if (s.coreAt c).waiters.any (fun w => w.onWord a) then State.visit c a ((s.coreAt c).waiters.length + 1) s else s

/-- A form at its bank, with the visit its change of the bit brings. -/
def State.fePerform (s : State) (w : Who) (a : Nat) (isLoad : Bool) (fn : Nat) (x : XWord) : State × Nat × XWord :=
  let r := s.feAccess w a isLoad fn x
  (r.1.feWake a, r.2)

/-- Whether a form is performed at its bank rather than parked: its condition holds, or its word is lost and the access fails (R145,
R156). -/
def State.feReady (s : State) (a : Nat) (isLoad : Bool) (fn : Nat) : Bool := s.isLost a || feHolds isLoad fn (s.isFull a)

/-- Every word an engine or a copy writes becomes full (R145, R172): words that were empty have their waiters visited. -/
def State.setFull (s : State) (a n : Nat) : State :=
  let words := (s.empties.filter fun w => a / 8 ≤ w && w < (a + n + 7) / 8)
  let s := { s with empties := fillWords s.empties a n }
  words.foldl (fun s w => s.feWake (w * 8)) s

/-- A write by an engine or a copy into vault space. -/
def State.engineWrite (s : State) (w : Who) (a : Nat) (bs : List Byte) : State × Nat :=
  let r := s.vaultWrite w a bs
  if r.2 = 0 then (r.1.setFull a bs.length, 0) else r

/-- The waiter of a parked full/empty form (R146, R148). -/
def feWaiter (p : Packet) (pa : Nat) (isLoad : Bool) (fn : Nat) (rd : BitVec 5) (x : XWord) (ea : Word) (back now limit : Nat)
    (acct : BitVec 16) : Waiter :=
  { pkt := p, kind := .fullEmpty pa isLoad fn rd x, ea := ea, back := back, since := now, limit := limit, acct := acct, inMem := false }

/-- A parked continuation reaches its bank: it is enlisted, and served at once if its condition holds now (R146). -/
def State.parkAt (s : State) (w : Waiter) (a : Nat) : State :=
  (s.enlist (vaultOf a) w).feWake a

end Sys2Proof.Machine
end

