-- ==== Sys2Proof/Machine/LoadStore.lean ====
section
/-! DEFINITION. Loads, stores, full/empty forms, atomics, migrating forms, fences and waits (R275 to R282). -/

namespace Sys2Proof.Machine

/-! ## Loads (R275 to R277) -/

/-- The effective address of an M-layout load or store (R275). -/
def eaScaled (ra : Word) (f : BitVec 10) (size : Nat) : Word := ra + BitVec.ofInt 48 (f.toInt * size)

/-- SIZE of R133. -/
def sizeCode (size : Nat) : BitVec 2 := BitVec.ofNat 2 (log2 size)

/-- Whether an access of the issuing slot must wait for one of its strand that is on its way to one of the words (R163, R168); one that
waits for a tag has passed them. -/
def State.follows (s : State) (pa n : Nat) : Bool := s.me.place.isNone && s.behind s.me.id false pa n

/-- Whether an access of the issuing slot to its own vault must wait: for an older access of its strand, or for a tag (R136, R163). -/
def State.vaultBusy (s : State) (pa n : Nat) : Bool := s.follows pa n || !s.tagFree s.core s.me.place

/-- An access that must wait: it reaches the agent, and takes its place there, once no older one of its strand is before it. -/
def State.vaultWait (s : State) (pa n : Nat) : State := if s.follows pa n then s else s.awaitTag

/-- A load of `size` bytes at an address: from the own vault or scratchpad at once, otherwise by an awaited message. -/
def loadAt (size : Nat) (signed : Bool) (d : BitVec 5) (o sc : BitVec 2) (ea : Word) (s : State) : Act :=
  let w := s.who s.core s.slot
  if ea.toNat % size != 0 then .trap s .align ea
  else match s.regionCheck s.core s.slot ea.toNat with
    | (s, some cause) => .trap s cause ea
    | (s, none) =>
      let m := { s.blank s.core s.slot with ord := o, sc := sc, size := sizeCode size, va := ea }
      match regionOf ea.toNat with
      | .local_ =>
        if s.vaultBusy (s.core * 2 ^ 28 + ea.toNat) size then .stall (s.vaultWait (s.core * 2 ^ 28 + ea.toNat) size)
        else
        let s := s.chargeGranules s.core s.me.acct size
        let r := s.vaultRead w (s.core * 2 ^ 28 + ea.toNat) size
        match statusCause r.2.1 with
        | some cause => .trap r.1 cause ea
        | none => .retire (r.1.dst d (loadValue size signed (BitVec.ofNat 64 (leNat r.2.2))) 0 1) none
      | .spad =>
        if spmCore ea.toNat = s.core then
          match s.windowRead w s.me.pid ea.toNat size with
          | (s, none) => .trap s .eccue ea
          | (s, some bs) => .retire (s.dst d (loadValue size signed (BitVec.ofNat 64 (leNat bs))) 0 1) none
        else .retire (s.sendAwaited [{ m with dst := spmCore ea.toNat, proc := 8, paddr := s.spadPlace m.pid ea, stage := .toOwner }] ea
          (.load size signed d) (o == 0)) none
      | .global => .retire (s.sendAwaited [{ m with proc := 0 }] ea (.load size signed d) (o == 0)) none

/-- A load instruction (R277). -/
def loadForm (i : Instr) (size : Nat) (signed : Bool) (d a : BitVec 5) (o sc w : BitVec 2) (f : BitVec 10) (s : State) : Out :=
  issue { use i with srcs := [(a, 0)], dsts := [d], young := if o = 3 then .waits else .load } s fun s =>
    if s.holds (if o = 3 then 3 else w.toNat) then .stall s
    else loadAt size signed d o sc (eaScaled (s.src a) f size) s

/-! ## Reads of more than one word (R299) -/

/-- The requests for the granules that a read touches; a miss counts once, with the first (R123). -/
def State.granuleReads (s : State) (ea : Word) (n : Nat) : List Msg :=
  (granules ea.toNat n).map fun g =>
    let m := { s.blank s.core s.slot with va := BitVec.ofNat 48 (32 * g), mask := BitVec.allOnes 128, size := 3,
                                          opb := if g = ea.toNat / 32 then 0 else 1 }
    if regionOf ea.toNat == .spad then
      { m with dst := spmCore ea.toNat, proc := 8, paddr := s.spadPlace m.pid m.va, stage := .toOwner } else m

/-- The bytes of a read, from the granules that have arrived. -/
def gathered (ea : Word) (n : Nat) (got : List (Nat × List Byte)) : List Byte :=
  (((granules ea.toNat n).flatMap fun g => (look g got).getD []).drop (ea.toNat % 32)).take n

/-- A descriptor or a table that an instruction needs before it retires: read at once where it is local, otherwise by awaited requests,
and the instruction issues again with it. -/
def tableRead (s : State) (ea : Word) (n : Nat) (k : State → List Byte → Act) : Act :=
  match s.regionCheck s.core s.slot ea.toNat with
  | (s, some cause) => .trap s cause ea
  | (s, none) =>
    if isLocal s.core ea.toNat then
      if regionOf ea.toNat == .local_ && s.vaultBusy (s.core * 2 ^ 28 + ea.toNat) n then .stall (s.vaultWait (s.core * 2 ^ 28 + ea.toNat) n)
      else match s.dataRead s.core s.slot ea.toNat n with
        | (s, .error cause) => .trap s cause ea
        | (s, .ok bs) => k s bs
    else
      let ask := Act.settled (s.sendAwaited (s.granuleReads ea n) ea (.table n []) false)
      match s.me.fetched with
      | none => ask
      | some (a, bs) => if a = ea && bs.length = n then k (s.onMe fun v => { v with fetched := none }) bs else ask

/-! ## Stores (R276, R277) -/

/-- A posted store or atomic; after a synchronising one its strand issues nothing more until it is acknowledged: the sc fence that
follows it (R160, R166). -/
def State.sendStore (s : State) (m : Msg) (w : Work) : State :=
  let t := s.sendPosted m w
  if m.ord = 3 then t.onMe fun v => { v with syncing := true } else t

/-- A store of `size` bytes at an address: into the own vault or scratchpad at once, otherwise posted. -/
def storeAt (size : Nat) (o sc : BitVec 2) (ea : Word) (x : XWord) (s : State) : Act :=
  let w := s.who s.core s.slot
  let bs := leBytes size x.toNat
  if ea.toNat % size != 0 then .trap s .align ea
  else match s.regionCheck s.core s.slot ea.toNat with
    | (s, some cause) => .trap s cause ea
    | (s, none) =>
      let m := { s.blank s.core s.slot with ord := o, sc := sc, size := sizeCode size, va := ea, opa := x, proc := 1, cls := .moot }
      match regionOf ea.toNat with
      | .local_ =>
        if s.vaultBusy (s.core * 2 ^ 28 + ea.toNat) size then .stall (s.vaultWait (s.core * 2 ^ 28 + ea.toNat) size)
        else
        let s := s.chargeGranules s.core s.me.acct size
        let r := s.vaultWrite w (s.core * 2 ^ 28 + ea.toNat) bs
        match statusCause r.2 with
        | some cause => .trap r.1 cause ea
        | none => .retire r.1 none
      | .spad =>
        if spmCore ea.toNat = s.core then
          match s.windowWrite w s.me.pid ea.toNat bs with
          | (s, false) => .trap s .eccue ea
          | (s, true) => .retire s none
        else if s.boardFull then .stall s
        else .retire (s.sendStore { m with dst := spmCore ea.toNat, proc := 9, paddr := s.spadPlace m.pid ea, stage := .toOwner, cls := .two }
          (.scalar ea size 0 x 0)) none
      | .global => if s.boardFull then .stall s else .retire (s.sendStore m (.scalar ea size 0 x 0)) none

/-- A store instruction: rd supplies the data, and its short-lived mark ends (R79, R277). -/
def storeForm (i : Instr) (size : Nat) (d a : BitVec 5) (o sc w : BitVec 2) (f : BitVec 10) (s : State) : Out :=
  issue { use i with srcs := [(a, 0), (d, 0)] } s fun s =>
    if s.holds (orderWait o w) then .stall s
    else (storeAt size o sc (eaScaled (s.src a) f size) (sxWord (s.src d)) s).also fun t => t.onMe fun v => v.unmark d

/-! ## Full/empty forms (R279) -/

/-- Parks the issuing strand on a vault word whose condition fails: the write-back comes before the access retires, and the
continuation goes to the bank (R37, R146). In handler state the form issues again instead (notes/assumptions/24.md). -/
def parkFullEmpty (s : State) (pa : Nat) (isLoad : Bool) (fn : Nat) (rd : BitVec 5) (x : XWord) (ea : Word) : Act :=
  if s.me.handler || s.mustWait then .stall s
  else match s.suspend s.core s.slot id s.me.pc s.core 0 with
    | (t, .error f) => .trap t f.1 f.2
    | (t, .ok p) =>
      let w := feWaiter p pa isLoad fn rd x ea s.core s.now (bitsOf s.me.wlim.toNat 47 0) s.me.acct
      let t := t.countIssue s.core s.me.acct
      if vaultOf pa = s.core then .settled (t.parkAt w pa)
      else .settled (t.send { t.blank s.core s.slot with
                              pid := p.pid, lid := p.cont.id.lid, proc := 10, dst := vaultOf pa, paddr := pa, stage := .toOwner,
                              client := .none, cont := some w, acct := s.me.acct, va := ea }).1

/-- A full/empty form at EA := ra + 8·sx(off9). -/
def fullEmptyForm (i : Instr) (isLoad : Bool) (fn : Nat) (d a : BitVec 5) (o sc w : BitVec 2) (f : BitVec 9) (s : State) : Out :=
  let u : Use := { use i with
                   srcs := if isLoad then [(a, 0)] else [(a, 0), (d, 0)], dsts := if isLoad then [d] else [] }
  issue u s fun s =>
    let ea := s.src a + BitVec.ofInt 48 (f.toInt * 8)
    let x := sxWord (s.src d)
    if s.holds (orderWait o w) then .stall s
    else if ea.toNat % 8 != 0 then .trap s .align ea
    else match s.regionCheck s.core s.slot ea.toNat with
      | (s, some cause) => .trap s cause ea
      | (s, none) => match regionOf ea.toNat with
        | .spad => .trap s .prot ea
        | .local_ =>
          let pa := s.core * 2 ^ 28 + ea.toNat
          if s.vaultBusy pa 8 then .stall (s.vaultWait pa 8)
          else if !s.feReady pa isLoad fn then parkFullEmpty s pa isLoad fn d x ea
          else
            let s := s.chargeGranules s.core s.me.acct 8
            let r := s.fePerform (s.who s.core s.slot) pa isLoad fn x
            match statusCause r.2.1 with
            | some cause => .trap r.1 cause ea
            | none => .retire (if isLoad then r.1.dst d (lowWord r.2.2) 0 1 else r.1.onMe fun v => v.unmark d) none
        | .global =>
          let t := s.sendAwait { s.blank s.core s.slot with
                                 ord := o, sc := sc, size := 3, va := ea, opa := x, proc := if isLoad then 3 else 4,
                                 fn := BitVec.ofNat 4 fn } (.fullEmpty isLoad d)
          .retire (if isLoad then t else t.onMe fun v => v.unmark d) none

/-! ## Atomics (R280) -/

/-- The new value of the word, of the functions of R280. -/
def atomicOf (fn : Nat) (old b c : XWord) : XWord :=
  match fn with
  | 0 => old + b
  | 1 => old &&& b
  | 2 => old ||| b
  | 3 => old ^^^ b
  | 4 => if old.toInt ≤ b.toInt then old else b
  | 5 => if old.toInt ≤ b.toInt then b else old
  | 6 => if old.toNat ≤ b.toNat then old else b
  | 7 => if old.toNat ≤ b.toNat then b else old
  | 8 => b
  | _ => if old = c then b else old

/-- An atomic performed on a word of vault space: a status, and the old value. -/
def State.atomicAccess (s : State) (w : Who) (a fn : Nat) (b c : XWord) : State × Nat × XWord :=
  let r := s.vaultRead w a 8
  if r.2.1 != 0 then (r.1, r.2.1, 0)
  else
    let old := BitVec.ofNat 64 (leNat r.2.2)
    let t := r.1.vaultWrite w a (leBytes 8 (atomicOf fn old b c).toNat)
    (t.1, t.2, old)

/-- An AMO instruction: awaited, or posted when rd discards writes (R276). -/
def atomicForm (i : Instr) (fn : Nat) (d a b : BitVec 5) (o sc w : BitVec 2) (s : State) : Out :=
  let cas := fn == 9
  issue { use i with srcs := if cas then [(a, 0), (b, 0), (d, 0)] else [(a, 0), (b, 0)], dsts := [d] } s
    fun s =>
      let ea := s.src a
      let x := sxWord (s.src b)
      let y := if cas then sxWord (s.src d) else 0
      if s.holds (orderWait o w) then .stall s
      else if ea.toNat % 8 != 0 then .trap s .align ea
      else match s.regionCheck s.core s.slot ea.toNat with
        | (s, some cause) => .trap s cause ea
        | (s, none) => match regionOf ea.toNat with
          | .spad => .trap s .prot ea
          | .local_ =>
            if s.vaultBusy (s.core * 2 ^ 28 + ea.toNat) 8 then .stall (s.vaultWait (s.core * 2 ^ 28 + ea.toNat) 8)
            else
            let s := s.chargeGranules s.core s.me.acct 8
            let r := s.atomicAccess (s.who s.core s.slot) (s.core * 2 ^ 28 + ea.toNat) fn x y
            match statusCause r.2.1 with
            | some cause => .trap r.1 cause ea
            | none => .retire (r.1.dst d (lowWord r.2.2) 0 1) none
          | .global =>
            let m := { s.blank s.core s.slot with
                       ord := o, sc := sc, size := 3, va := ea, opa := x, opb := y, proc := 2, fn := BitVec.ofNat 4 fn }
            if discards d then
              if s.boardFull then .stall s else .retire (s.sendStore { m with cls := .moot } (.scalar ea 8 (16 + fn) x y)) none
            else .retire (s.sendAwait m (.atomic d)) none

/-! ## Migrating forms (R60, R278) -/

/-- A migrating form: the strand moves to the owner of the address with its pc at the form, or the access is performed
here. -/
def migratingForm (i : Instr) (store : Bool) (d a : BitVec 5) (o sc w : BitVec 2) (s : State) : Out :=
  let u : Use := { use i with
                   srcs := if store then [(a, 0), (d, 0)] else [(a, 0)], dsts := if store then [] else [d], legal := !s.me.handler }
  issue u s fun s =>
    let ea := s.src a
    let x := sxWord (s.src d)
    if s.holds (orderWait o w) then .stall s
    else if ea.toNat % 8 != 0 then .trap s .align ea
    else if regionOf ea.toNat != .global then
      if store then (storeAt 8 o sc ea x s).also fun t => t.onMe fun v => v.unmark d else loadAt 8 false d o sc ea s
    else match s.ownerCore ea (if store then .write else .read) with
      | (s, .error c) => .trap s c ea
      | (s, .ok (owner, pa)) =>
        if owner = s.core then
          let p := pa.getD 0
          if s.vaultBusy p 8 then .stall (s.vaultWait p 8)
          else
          let s := s.chargeGranules s.core s.me.acct 8
          if store then
            let r := s.vaultWrite (s.who s.core s.slot) p (leBytes 8 x.toNat)
            match statusCause r.2 with
            | some cause => .trap r.1 cause ea
            | none => .retire (r.1.onMe fun v => v.unmark d) none
          else
            let r := s.vaultRead (s.who s.core s.slot) p 8
            match statusCause r.2.1 with
            | some cause => .trap r.1 cause ea
            | none => .retire (r.1.dst d (lowWord (BitVec.ofNat 64 (leNat r.2.2))) 0 1) none
        else if s.mustWait then .stall s
        else match s.suspend s.core s.slot id s.me.pc owner 0 with
          | (t, .error f) => .trap t f.1 f.2
          | (t, .ok p) => .settled ((t.countIssue s.core s.me.acct).sendPacket p)

/-! ## Fences and waits (R281, R282) -/

/-- A fence: its release side waits for every class (R164, R281). In the one memory order of this model its acquire side and
its place in the sc order have no further effect (notes/assumptions/5.md). -/
def fenceForm (releases : Bool) (w : BitVec 2) (s : State) : Out :=
  issue {} s fun s => if s.holds (if releases then 3 else w.toNat) then .stall s else .retire s none

/-- `waita`: retires at once when the word differs, else retires and parks on it (R149, R282). -/
def execWaita (a b : BitVec 5) (w : BitVec 2) (s : State) : Out :=
  let u : Use := { use (.waita a b w) with srcs := [(a, 0), (b, 0)] }
  issue u s fun s =>
    let ea := s.src a
    if s.holds w.toNat then .stall s
    else if ea.toNat % 8 != 0 then .trap s .align ea
    else if regionOf ea.toNat != .spad || spmCore ea.toNat != s.core || idxOf ea.toNat < 2 || idxOf ea.toNat = 31 then
      .trap s .prot ea
    else match s.windowRead (s.who s.core s.slot) s.me.pid ea.toNat 8 with
      | (s, none) => .trap s .eccue ea
      | (s, some bs) =>
        if BitVec.ofNat 64 (leNat bs) != sxWord (s.src b) then .retire s none
        else if s.me.handler || s.mustWait then .stall s
        else
          let limit := bitsOf s.me.wlim.toNat 47 0
          s.suspendMe u s.core 0 fun t p =>
            let off := (s.spmByte p.pid ea.toNat).getD (2 ^ 18)
            t.enlist s.core { pkt := p, kind := .word off, ea := ea, back := s.core, since := s.now, limit := limit, acct := s.me.acct,
                               inMem := false }

/-! ## The instructions -/

/-- `ld.s8` (R277). -/
def execLdS8 (d a : BitVec 5) (o sc w : BitVec 2) (f : BitVec 10) (s : State) : Out :=
  loadForm (.ldS8 d a o sc w f) 1 true d a o sc w f s

/-- `ld.n8` (R277). -/
def execLdN8 (d a : BitVec 5) (o sc w : BitVec 2) (f : BitVec 10) (s : State) : Out :=
  loadForm (.ldN8 d a o sc w f) 1 false d a o sc w f s

/-- `ld.s16` (R277). -/
def execLdS16 (d a : BitVec 5) (o sc w : BitVec 2) (f : BitVec 10) (s : State) : Out :=
  loadForm (.ldS16 d a o sc w f) 2 true d a o sc w f s

/-- `ld.n16` (R277). -/
def execLdN16 (d a : BitVec 5) (o sc w : BitVec 2) (f : BitVec 10) (s : State) : Out :=
  loadForm (.ldN16 d a o sc w f) 2 false d a o sc w f s

/-- `ld.s32` (R277). -/
def execLdS32 (d a : BitVec 5) (o sc w : BitVec 2) (f : BitVec 10) (s : State) : Out :=
  loadForm (.ldS32 d a o sc w f) 4 true d a o sc w f s

/-- `ld.n32` (R277). -/
def execLdN32 (d a : BitVec 5) (o sc w : BitVec 2) (f : BitVec 10) (s : State) : Out :=
  loadForm (.ldN32 d a o sc w f) 4 false d a o sc w f s

/-- `ldx` (R277). -/
def execLdx (d a : BitVec 5) (o sc w : BitVec 2) (f : BitVec 10) (s : State) : Out :=
  loadForm (.ldx d a o sc w f) 8 false d a o sc w f s

/-- `stb` (R277). -/
def execStb (d a : BitVec 5) (o sc w : BitVec 2) (f : BitVec 10) (s : State) : Out :=
  storeForm (.stb d a o sc w f) 1 d a o sc w f s

/-- `sth` (R277). -/
def execSth (d a : BitVec 5) (o sc w : BitVec 2) (f : BitVec 10) (s : State) : Out :=
  storeForm (.sth d a o sc w f) 2 d a o sc w f s

/-- `stw` (R277). -/
def execStw (d a : BitVec 5) (o sc w : BitVec 2) (f : BitVec 10) (s : State) : Out :=
  storeForm (.stw d a o sc w f) 4 d a o sc w f s

/-- `stx` (R277). -/
def execStx (d a : BitVec 5) (o sc w : BitVec 2) (f : BitVec 10) (s : State) : Out :=
  storeForm (.stx d a o sc w f) 8 d a o sc w f s

/-- `ld.f` (R145, R279). -/
def execLdF (d a : BitVec 5) (o sc w : BitVec 2) (f : BitVec 9) (s : State) : Out :=
  fullEmptyForm (.ldF d a o sc w f) true 0 d a o sc w f s

/-- `ld.fe` (R145, R279). -/
def execLdFe (d a : BitVec 5) (o sc w : BitVec 2) (f : BitVec 9) (s : State) : Out :=
  fullEmptyForm (.ldFe d a o sc w f) true 1 d a o sc w f s

/-- `st.f` (R145, R279). -/
def execStF (d a : BitVec 5) (o sc w : BitVec 2) (f : BitVec 9) (s : State) : Out :=
  fullEmptyForm (.stF d a o sc w f) false 0 d a o sc w f s

/-- `st.ef` (R145, R279). -/
def execStEf (d a : BitVec 5) (o sc w : BitVec 2) (f : BitVec 9) (s : State) : Out :=
  fullEmptyForm (.stEf d a o sc w f) false 1 d a o sc w f s

/-- `amo.add` (R280). -/
def execAmoAdd (d a b : BitVec 5) (o sc w : BitVec 2) (s : State) : Out :=
  atomicForm (.amoAdd d a b o sc w) 0 d a b o sc w s

/-- `amo.and` (R280). -/
def execAmoAnd (d a b : BitVec 5) (o sc w : BitVec 2) (s : State) : Out :=
  atomicForm (.amoAnd d a b o sc w) 1 d a b o sc w s

/-- `amo.or` (R280). -/
def execAmoOr (d a b : BitVec 5) (o sc w : BitVec 2) (s : State) : Out :=
  atomicForm (.amoOr d a b o sc w) 2 d a b o sc w s

/-- `amo.xor` (R280). -/
def execAmoXor (d a b : BitVec 5) (o sc w : BitVec 2) (s : State) : Out :=
  atomicForm (.amoXor d a b o sc w) 3 d a b o sc w s

/-- `amo.min` (R280). -/
def execAmoMin (d a b : BitVec 5) (o sc w : BitVec 2) (s : State) : Out :=
  atomicForm (.amoMin d a b o sc w) 4 d a b o sc w s

/-- `amo.max` (R280). -/
def execAmoMax (d a b : BitVec 5) (o sc w : BitVec 2) (s : State) : Out :=
  atomicForm (.amoMax d a b o sc w) 5 d a b o sc w s

/-- `amo.minn` (R280). -/
def execAmoMinn (d a b : BitVec 5) (o sc w : BitVec 2) (s : State) : Out :=
  atomicForm (.amoMinn d a b o sc w) 6 d a b o sc w s

/-- `amo.maxn` (R280). -/
def execAmoMaxn (d a b : BitVec 5) (o sc w : BitVec 2) (s : State) : Out :=
  atomicForm (.amoMaxn d a b o sc w) 7 d a b o sc w s

/-- `amo.swap` (R280). -/
def execAmoSwap (d a b : BitVec 5) (o sc w : BitVec 2) (s : State) : Out :=
  atomicForm (.amoSwap d a b o sc w) 8 d a b o sc w s

/-- `amo.cas` (R280). -/
def execAmoCas (d a b : BitVec 5) (o sc w : BitVec 2) (s : State) : Out :=
  atomicForm (.amoCas d a b o sc w) 9 d a b o sc w s

/-- `ldx.m` (R278). -/
def execLdxM (d a : BitVec 5) (o sc w : BitVec 2) (s : State) : Out := migratingForm (.ldxM d a o sc w) false d a o sc w s

/-- `stx.m` (R278). -/
def execStxM (d a : BitVec 5) (o sc w : BitVec 2) (s : State) : Out := migratingForm (.stxM d a o sc w) true d a o sc w s

/-- `fence.acq` (R281). -/
def execFenceAcq (_sc w : BitVec 2) (s : State) : Out := fenceForm false w s

/-- `fence.rel` (R281). -/
def execFenceRel (_sc w : BitVec 2) (s : State) : Out := fenceForm true w s

/-- `fence.ar` (R281). -/
def execFenceAr (_sc w : BitVec 2) (s : State) : Out := fenceForm true w s

/-- `fence.sc` (R281). -/
def execFenceSc (_sc w : BitVec 2) (s : State) : Out := fenceForm true w s

/-- `wait` (R281). -/
def execWait (w : BitVec 2) (s : State) : Out := fenceForm false w s

end Sys2Proof.Machine
end

