-- ==== Sys2Proof/Machine/Attention.lean ====
section
/-! DEFINITION. The attention and embedding forms as the issuing strand executes them: the checks of R360 and the request to the
agent of a vault (R359 to R361, R370, R374). -/

namespace Sys2Proof.Machine

/-- The physical address that ra names: in the own vault, or translated into vault space (R360). -/
def State.agentAddress (s : State) (a : Word) : State × Except Cause Nat :=
  match s.regionCheck s.core s.slot a.toNat with
  | (s, some c) => (s, .error c)
  | (s, none) =>
    match regionOf a.toNat with
    | .spad => (s, .error .prot)
    | .local_ => (s, .ok (s.core * 2 ^ 28 + a.toNat))
    | .global =>
      match s.translate (s.who s.core s.slot) s.me.pid (s.privileged s.core s.slot) a.toNat .read with
      | (s, .error c) => (s, .error c)
      | (s, .ok pa) => (s, if spaceOf pa == .vault then .ok pa else .error .prot)

/-- The request of R360: PADDR is ra translated, OPA is rb, OPB holds the captured FPC and FMT. -/
def State.agentRequest (s : State) (proc : BitVec 4) (fn pa : Nat) (ea b : Word) : Msg :=
  { s.blank s.core s.slot with
    dst := vaultOf pa, proc := proc, fn := BitVec.ofNat 4 fn, paddr := pa, opa := b.setWidth 64,
    opb := BitVec.ofNat 64 (s.me.fpc.toNat + s.me.fmt.toNat * 2 ^ 32), va := ea, size := 3, stage := .toOwner, cls := .two }

/-- An offset operand's checks; none for an operand that is no offset (`align` zero). -/
def offsetBad (align : Nat) (b : Word) : Option Cause × Option Cause :=
  (if align != 0 && b.toNat % align != 0 then some .align else none,
   if align != 0 && decide (0x0FF00000 ≤ b.toNat) then some .prot else none)

/-- The checks of R360 in their order, the wait for every class, and the request. -/
def agentForm (u : Use) (proc : BitVec 4) (fn align : Nat) (a b : BitVec 5) (send : State → Msg → Act) (s : State) : Out :=
  issue u s fun s =>
    let ea := s.src a
    let x := s.src b
    let off := offsetBad align x
    if ea.toNat % 64 != 0 then .trap s .align ea
    else match off.1 with
      | some c => .trap s c x
      | none =>
        match s.agentAddress ea with
        | (s, .error c) => .trap s c ea
        | (s, .ok pa) =>
          match off.2 with
          | some c => .trap s c x
          | none => if s.posted s.core 3 then .stall s else send s (s.agentRequest proc fn pa ea x)

/-- An awaited form: its result goes to rc. -/
def awaitResult (c : BitVec 5) (s : State) (m : Msg) : Act := .retire (s.sendAwait m (.result c false)) none

/-- `kv.app` (R363). -/
def execKvApp (a b c : BitVec 5) (t : BitVec 3) (s : State) : Out :=
  agentForm { use (.kvApp a b c t) with srcs := [(a, 0), (b, 0)], dsts := [c], st := t } 7 0 32 a b
    (awaitResult c) s

/-- `kv.find` (R364). -/
def execKvFind (a b c : BitVec 5) (t : BitVec 3) (s : State) : Out :=
  agentForm { use (.kvFind a b c t) with srcs := [(a, 0), (b, 0)], dsts := [c], st := t } 7 1 0 a b
    (awaitResult c) s

/-- `kv.free` (R365). -/
def execKvFree (a b c : BitVec 5) (t : BitVec 3) (s : State) : Out :=
  agentForm { use (.kvFree a b c t) with srcs := [(a, 0), (b, 0)], dsts := [c], st := t } 7 2 0 a b
    (awaitResult c) s

/-- `kv.gath` (R370): retires when its request has left the core. -/
def execKvGath (a b : BitVec 5) (t : BitVec 3) (s : State) : Out :=
  agentForm { use (.kvGath a b t) with srcs := [(a, 0), (b, 0)], st := t } 7 3 32 a b
    (fun s m => if s.boardFull then .stall s
      else .retire (s.sendPosted m (.gather { va := m.va, vault := m.dst, head := m.paddr, desc := m.opa.toNat, bytes := [] })) none) s

/-- `rb.sel` (R367). -/
def execRbSel (a b c : BitVec 5) (t : BitVec 3) (s : State) : Out :=
  agentForm { use (.rbSel a b c t) with srcs := [(a, 0), (b, 0)], dsts := [c], st := t } 7 4 32 a b
    (awaitResult c) s

/-- `rb.seln` (R367). -/
def execRbSeln (a b c : BitVec 5) (t : BitVec 3) (s : State) : Out :=
  agentForm { use (.rbSeln a b c t) with srcs := [(a, 0), (b, 0)], dsts := [c], st := t } 7 5 32 a b
    (awaitResult c) s

/-- `emb.red` (R374): its one operand is the bag descriptor. -/
def execEmbRed (a c : BitVec 5) (t : BitVec 3) (s : State) : Out :=
  agentForm { use (.embRed a c t) with srcs := [(a, 0)], dsts := [c], st := t } 6 0 0 a 16 (awaitResult c) s

/-- `dp.plan` (R371). -/
def execDpPlan (a b c : BitVec 5) (t : BitVec 3) (s : State) : Out :=
  agentForm { use (.dpPlan a b c t) with srcs := [(a, 0), (b, 0)], dsts := [c], st := t } 7 6 32 a b
    (awaitResult c) s

end Sys2Proof.Machine
end

