-- ==== Sys2Proof/Machine/Fetch.lean ====
section
/-! DEFINITION. Fetching an instruction word (R117, R181, R225, R378). -/

namespace Sys2Proof.Machine

/-- The word at an address, fetched under the strand's process id or, in handler state, under TVB.SPID. R181 lets a fetch be made ahead
of its instruction: R64's counters leave it out (notes/assumptions/87.md). -/
def State.fetchWord (s : State) (c j : Nat) (pc : Word) : State × Except Cause (BitVec 32) :=
  if pc.toNat % 4 != 0 then (s, .error .align)
  else if regionOf pc.toNat != .global then (s, .error .prot)
  else
    let v := s.slotAt c j
    let pid := if v.handler then s.spid else v.pid
    let w : Who := { core := c, pid := v.pid, id := v.id }
    match s.translate w pid (s.privileged c j) pc.toNat .fetch with
    | (s, .error cause) => (s, .error cause)
    | (s, .ok pa) => match s.readPhys w pa 4 with
      | (s, .error cause) => (s, .error cause)
      | (s, .ok bs) => (s, .ok (BitVec.ofNat 32 (leNat bs)))

end Sys2Proof.Machine
end

