-- ==== Sys2Proof/Machine/Control.lean ====
section
/-! DEFINITION. Branches, jumps, calls, returns, counted loops and the forms by which a strand leaves its slot (R73 to R77, R265
to R274). -/

namespace Sys2Proof.Machine

/-- The target of a relative transfer: pc + 4·sx(offset), mod 2^48 (R229, R265). -/
def relative {n : Nat} (pc : Word) (o : BitVec n) : Word := pc + BitVec.ofInt 48 (4 * o.toInt)

/-- Bits 1:0 of a register target nonzero (R267). -/
def misaligned (t : Word) : Bool := t.toNat % 4 != 0

/-! ## Branches and jumps (R265 to R267) -/

/-- `b`: taken when the predicate is 1. -/
def execB (p : BitVec 4) (o : BitVec 21) (s : State) : Out :=
  issue { preds := [p.toNat], young := .registers } s fun s =>
    .retire s (if s.me.pred p.toNat then some (relative s.me.pc o) else none)

/-- `bn`: taken when the predicate is 0. -/
def execBn (p : BitVec 4) (o : BitVec 21) (s : State) : Out :=
  issue { preds := [p.toNat], young := .registers } s fun s =>
    .retire s (if s.me.pred p.toNat then none else some (relative s.me.pc o))

/-- `j`. -/
def execJ (o : BitVec 26) (s : State) : Out :=
  issue { young := .registers } s fun s => .retire s (some (relative s.me.pc o))

/-- `jr`. -/
def execJr (a : BitVec 5) (m : BitVec 1) (t : BitVec 3) (s : State) : Out :=
  issue { use (.jr a m t) with srcs := [(a, m)], st := t, young := .registers } s fun s =>
    if misaligned (s.src a) then .trap s .align (s.src a) else .retire s (some (s.src a))

/-- `loop` (R266). -/
def execLoop (d : BitVec 5) (i : BitVec 12) (t : BitVec 3) (s : State) : Out :=
  issue { use (.loop d i t) with srcs := [(d, 0)], dsts := [d], st := t, young := .registers } s fun s =>
    let n := s.src d - 1
    .retire (s.dst d n 0 1) (if n = 0 then none else some (relative s.me.pc i))

/-! ## Call and return (R73, R268, R269) -/

/-- The checks of the call effect, then the link, then the slide (R73, R268). -/
def callTo (target : Word) (free : Slot → Slot) (s : State) : Act :=
  let v := s.me
  if misaligned target then .trap s .align target
  else if v.fl.toNat % 32 != 0 then .trap s .align v.fl
  else if v.older.length = 31 then .trap s .spill v.fl
  else
    let v := free (v.setReg 7 (Reg.written (v.pc + 4) none (s.turn + 1)))
    .retire (s.onMe fun _ => v.slideUp s.now) (some target)

/-- The codes of the first `n` window registers. A slide moves values, so it consumes what their producers have still to deliver (R231,
R256; notes/assumptions/145.md). -/
def windowCodes (n : Nat) : List (BitVec 5) := (List.range n).map (BitVec.ofNat 5)

/-- `call`. -/
def execCall (o : BitVec 26) (s : State) : Out :=
  issue { srcs := [(18, 0)], dsts := [7], moved := windowCodes 8 } s fun s => callTo (relative s.me.pc o) id s

/-- `callr`: a mark on ra frees it before the slide, but for a7, which the link makes live (R268). -/
def execCallr (a : BitVec 5) (m : BitVec 1) (t : BitVec 3) (s : State) : Out :=
  issue { use (.callr a m t) with srcs := [(a, 0), (18, 0)], dsts := [7], moved := windowCodes 8, st := t } s fun s =>
    callTo (s.src a) (fun v => if m = 1 ∧ a ≠ 7 then v.freeReg a else v) s

/-- A window moves from the stack store into the file, in a free bank (R75, R78). -/
def Slot.bringIn (v : Slot) : Slot :=
  let n := v.inFile
  { v with older := v.older.zipIdx.map fun p =>
             if p.2 = n then { p.1 with inFile := true, quad := { p.1.quad with fails := v.spare.headD 0 } } else p.1,
           spare := v.spare.tail }

/-- The shallowest window of the stack store of a slot is read into the file (R75, R406). -/
def State.bringIn (s : State) (c j : Nat) : State := (s.readStored c j (s.slotAt c j).inFile).onSlot c j Slot.bringIn

/-- Prefetch requests that are due each move the shallowest window of the stack store into the file (R76): one that completes when the
file holds three older windows, or the stack store none, moves nothing (R75; notes/assumptions/129.md). -/
def State.finishPrefetch (s : State) (c j : Nat) : State :=
  ((s.slotAt c j).prefetch.filter (· ≤ s.now)).foldl
    (fun s _ => if 3 ≤ (s.slotAt c j).inFile || (s.slotAt c j).older.length ≤ (s.slotAt c j).inFile then s else s.bringIn c j)
    (s.onSlot c j fun v => { v with prefetch := v.prefetch.filter (s.now < ·) })

/-- `ret`: a window in the stack store is read first, in 40 cycles, or its prefetch is awaited (R75, R76); one that was uncorrectable
there is POISON (R406). With no older window it takes FILL and reads nothing (R269). -/
def execRet (t : BitVec 3) (s : State) : Out :=
  issue { srcs := if s.me.older.isEmpty then [(18, 0)] else [(3, 0), (18, 0)],
          moved := if s.me.older.isEmpty then [] else windowCodes 4, st := t } s fun s =>
    let s := s.finishPrefetch s.core s.slot
    let v := s.me
    let target := s.src 3
    match v.older with
    | [] => .trap s .fill v.fl
    | o :: _ =>
      if misaligned target then .trap s .align target
      else if o.spoilt && (o.inFile || v.prefetch.isEmpty) then
        .trap (s.logError s.core 3 1 5 0x20 0 (s.who s.core s.slot) false) .poison 0x20
      else if o.inFile then .retire (s.onMe Slot.slideDown) (some target)
      else match v.prefetch with
        | p :: _ => .stall (s.onMe fun v => { v with turnNext := max v.turnNext ((p + 7) / 8) })
        | [] => .stall ((s.bringIn s.core s.slot).onMe fun v => { v with turnNext := max v.turnNext ((s.now + 47) / 8) })

/-- `wpf` (R76, R270). -/
def execWpf (t : BitVec 3) (s : State) : Out :=
  issue { st := t } s fun s =>
    let s := s.finishPrefetch s.core s.slot
    let v := s.me
    if 2 ≤ v.prefetch.length then .stall s
    else if 3 ≤ v.inFile + v.prefetch.length || v.older.length ≤ v.inFile + v.prefetch.length then .retire s none
    else .retire (s.onMe fun v => { v with prefetch := v.prefetch ++ [s.now + 40] }) none

/-! ## Leaving the slot (R271 to R274) -/

/-- `yield`: suspends into the current core's ring. -/
def execYield (t : BitVec 3) (s : State) : Out :=
  let u : Use := { use (.yield t) with legal := !s.me.handler, st := t }
  issue u s fun s =>
    if s.mustWait then .stall s else s.suspendMe u s.core 0 fun s' p => s'.makeReady s.core p

/-- `park`: waits on the current core with no word named; with no limit in WLIM it acts as `yield` (R272). -/
def execPark (t : BitVec 3) (s : State) : Out :=
  let u : Use := { use (.park t) with legal := !s.me.handler, st := t }
  issue u s fun s =>
    let limit := bitsOf s.me.wlim.toNat 47 0
    if s.mustWait then .stall s
    else s.suspendMe u s.core 0 fun s' p =>
      if limit = 0 then s'.makeReady s.core p
      else s'.enlist s.core { pkt := p, kind := .timed, ea := 0, back := s.core, since := s.now, limit := limit, acct := s.me.acct, inMem := false }

/-- `go`: migrates to the owner of the address in ra (R60, R273). -/
def execGo (a : BitVec 5) (m : BitVec 1) (t : BitVec 3) (s : State) : Out :=
  let u : Use := { use (.go a m t) with srcs := [(a, m)], legal := !s.me.handler, st := t }
  issue u s fun s =>
    let target := s.src a
    match s.ownerCore target .route with
    | (s, .error c) => .trap s c target
    | (s, .ok (owner, _)) =>
      if s.mustWait then .stall s
      else if owner = s.core then .retire s none
      else s.suspendMe u owner 0 fun s' p => s'.sendPacket p

/-- `exit`: waits for every counter and for every command the strand issued, then the strand is done (R177, R274). -/
def execExit (t : BitVec 3) (s : State) : Out :=
  let u : Use := { use (.exit t) with legal := !s.me.handler, st := t }
  issue u s fun s =>
    if s.mustWait || s.busyWork s.me.id then .stall s else .settled ((s.issued u).endStrand s.core s.slot true)

/-- `nop` (R398). -/
def execNop (t : BitVec 3) (s : State) : Out :=
  issue { st := t, young := .registers } s fun s => .retire s none

end Sys2Proof.Machine
end

