-- ==== Sys2Proof/Machine/Flags.lean ====
section
/-! DEFINITION. Floating-point flags, rounding modes and the control register FPC (R104, R105, R107). -/

namespace Sys2Proof.Machine

/-- The conditions of R107 as bits 12:8 of FPC: NX, UF, OF, DZ, NV from bit 0 up. -/
abbrev Flags := BitVec 5

/-- Inexact. -/
def flagNX : Flags := 1
/-- Underflow. -/
def flagUF : Flags := 2
/-- Overflow, which always comes with NX. -/
def flagOF : Flags := 5
/-- Division of a finite nonzero value by zero. -/
def flagDZ : Flags := 8
/-- Invalid operation. -/
def flagNV : Flags := 16

/-- A flag under a condition. -/
def flagIf (c : Bool) (f : Flags) : Flags := if c then f else 0

/-- The flags of a list of results. -/
def flagsAll (l : List Flags) : Flags := l.foldl (· ||| ·) 0

/-- The rounding modes of R105; SR takes the value it has drawn. -/
inductive Mode where
  | rne | rtz | rup | rdn
  | sr (d : Nat)
deriving DecidableEq, Repr

/-- RM of a control word as every operation but the stochastic conversions reads it: SR reads as RNE. -/
def modeOf (fpc : BitVec 32) : Mode :=
  match fpc.toNat % 8 with
  | 1 => .rtz
  | 2 => .rup
  | 3 => .rdn
  | _ => .rne

/-- Whether RM is SR. -/
def stochastic (fpc : BitVec 32) : Bool := fpc.toNat % 8 == 4

/-- SATF8. -/
def satF8 (fpc : BitVec 32) : Bool := fpc.getLsbD 3

/-- ORs conditions into FPC (R107). -/
def raise (fpc : BitVec 32) (f : Flags) : BitVec 32 := fpc ||| (f.setWidth 32 <<< 8)

/-- A write of FPC by software: reserved fields stay zero and a mode of 5 to 7 leaves RM unchanged (R104). -/
def fpcWrite (old : BitVec 32) (x : Nat) : BitVec 32 :=
  let rm := if x % 8 ≤ 4 then x % 8 else old.toNat % 8
  BitVec.ofNat 32 (bitsOf x 12 8 * 256 + bitsOf x 3 3 * 8 + rm)

end Sys2Proof.Machine
end

