-- ==== Sys2Proof/Machine/Float.lean ====
section
/-! DEFINITION. Floating point as exact numbers: values, the one rounding function, encodings of FP32, BF16 and FP8, arithmetic
and comparison (R92 to R94, R105, R107, R301, R303). -/

namespace Sys2Proof.Machine

/-! ## Values -/

/-- A floating-point value: a NaN, an infinity, or (−1)^neg · m · 2^e. -/
inductive Fp where
  | nan (signalling : Bool)
  | inf (neg : Bool)
  | fin (neg : Bool) (m : Nat) (e : Int)
deriving DecidableEq, Repr

/-- A format: its precision, the exponent of its smallest subnormal, and the greatest exponent of a leading bit (R92). -/
structure Shape where
  prec : Nat
  lsb  : Int
  top  : Int
deriving DecidableEq, Repr

/-- binary32. -/
def fp32 : Shape := { prec := 24, lsb := -149, top := 127 }
/-- The upper half of binary32. -/
def bf16 : Shape := { prec := 8, lsb := -133, top := 127 }
/-- E4M3, whose largest magnitude is 448 rather than 480 (R94). -/
def fp8 : Shape := { prec := 4, lsb := -9, top := 8 }

/-- Multiplication by a power of two, rounding down. -/
def scaleDown (m : Nat) (e : Int) : Nat := if 0 ≤ e then m * 2 ^ e.toNat else m / 2 ^ (-e).toNat

/-! ## Rounding (R105) -/

/-- Whether a magnitude `k · u + f`, with `f = rem / 2^w` of a unit and more when sticky, is rounded up. -/
def roundsUp (mode : Mode) (neg : Bool) (k rem w : Nat) (sticky : Bool) : Bool :=
  let some_ := rem != 0 || sticky
  match mode with
  | .rne => 2 ^ w < 2 * rem || (2 ^ w == 2 * rem && (sticky || k % 2 == 1))
  | .rtz => false
  | .rup => some_ && !neg
  | .rdn => some_ && neg
  | .sr d => decide (d < 65536 * rem / 2 ^ w)

/-- A magnitude `m · 2^e`, and a little more when sticky, rounded to a multiple of `2^q`: the multiple, and whether anything
was lost. -/
def roundAt (mode : Mode) (neg : Bool) (m : Nat) (e : Int) (sticky : Bool) (q : Int) : Nat × Bool :=
  if q ≤ e then
    let k := m * 2 ^ (e - q).toNat
    (if roundsUp mode neg k 0 0 sticky then k + 1 else k, sticky)
  else
    let w := (q - e).toNat
    let k := m / 2 ^ w
    let rem := m % 2 ^ w
    (if roundsUp mode neg k rem w sticky then k + 1 else k, rem != 0 || sticky)

/-- What a rounding gives: the rounded magnitude `k · 2^q`, whether it is inexact, beyond the largest finite magnitude, or
tiny after rounding. -/
structure Rounded where
  k : Nat
  q : Int
  inexact : Bool
  beyond : Bool
  tiny : Bool
deriving DecidableEq, Repr

/-- The exponent of the leading bit of `m · 2^e`. -/
def leading (m : Nat) (e : Int) : Int := (log2 m : Int) + e

/-- One rounding to a format with unbounded exponent above (R94, R105, R107). -/
def roundTo (f : Shape) (mode : Mode) (neg : Bool) (m : Nat) (e : Int) (sticky : Bool) : Rounded :=
  if m = 0 then
    let up := roundsUp mode neg 0 0 1 sticky
    { k := bit up, q := f.lsb, inexact := sticky, beyond := false, tiny := sticky }
  else
    let free := leading m e - (f.prec - 1)
    let q := max free f.lsb
    let r := roundAt mode neg m e sticky q
    let u := roundAt mode neg m e sticky free
    let small := u.1 = 0 || leading u.1 free < f.lsb + (f.prec - 1)
    { k := r.1, q := q, inexact := r.2, beyond := r.1 != 0 && f.top < leading r.1 q, tiny := small }

/-! ## Encodings (R92, R93) -/

/-- The fields of an encoding with `ew` exponent and `fw` fraction bits as a number. -/
def packBits (ew fw : Nat) (neg : Bool) (ex frac : Nat) : Nat := bit neg * 2 ^ (ew + fw) + ex * 2 ^ fw + frac

/-- The canonical NaN of binary32. -/
def nan32 : Nat := 0x7FC00000

/-- A finite magnitude `k · 2^q`, representable in binary32 or BF16, as its encoding. -/
def packFinite (f : Shape) (neg : Bool) (k : Nat) (q : Int) : Nat :=
  let fw := f.prec - 1
  if k = 0 then packBits 8 fw neg 0 0
  else
    let lead := leading k q
    if lead < f.lsb + fw then packBits 8 fw neg 0 (scaleDown k (q - f.lsb))
    else packBits 8 fw neg (lead + 127).toNat (scaleDown k (q - (lead - fw)) - 2 ^ fw)

/-- The overflow result of R105. -/
def overflowBits (f : Shape) (mode : Mode) (neg : Bool) : Nat :=
  let fw := f.prec - 1
  let big := packBits 8 fw neg 254 (2 ^ fw - 1)
  let inf := packBits 8 fw neg 255 0
  match mode with
  | .rtz => big
  | .rup => if neg then big else inf
  | .rdn => if neg then inf else big
  | _ => inf

/-- A value rounded into binary32 or BF16, with its flags (R93, R105, R107). -/
def encodeFloat (f : Shape) (mode : Mode) (sticky : Bool) : Fp → Nat × Flags
  | .nan sig => (packBits 8 (f.prec - 1) false 255 (2 ^ (f.prec - 2)), flagIf sig flagNV)
  | .inf neg => (packBits 8 (f.prec - 1) neg 255 0, 0)
  | .fin neg m e =>
    let r := roundTo f mode neg m e sticky
    if r.beyond then (overflowBits f mode neg, flagOF)
    else (packFinite f neg r.k r.q, flagIf r.inexact flagNX ||| flagIf (r.tiny && r.inexact) flagUF)

/-- The value of a binary32 encoding (R92). -/
def decode32 (x : Nat) : Fp :=
  let neg := bitAt x 31
  let ex := bitsOf x 30 23
  let frac := bitsOf x 22 0
  if ex = 255 then if frac = 0 then .inf neg else .nan (!bitAt x 22)
  else if ex = 0 then .fin neg frac (-149)
  else .fin neg (2 ^ 23 + frac) ((ex : Int) - 150)

/-- The value of a BF16 encoding: the upper half of a binary32 (R92). -/
def decode16 (x : Nat) : Fp := decode32 (x * 65536)

/-- The value of an E4M3 encoding (R94). -/
def decode8 (x : Nat) : Fp :=
  let neg := bitAt x 7
  let ex := bitsOf x 6 3
  let frac := bitsOf x 2 0
  if ex = 15 ∧ frac = 7 then .nan false
  else if ex = 0 then .fin neg frac (-9)
  else .fin neg (8 + frac) ((ex : Int) - 10)

/-- A value converted to E4M3 under SATF8, with its flags (R94). -/
def encode8 (mode : Mode) (sat : Bool) : Fp → Nat × Flags
  | .nan sig => (0x7F, flagIf sig flagNV)
  | .inf neg => if sat then (packBits 4 3 neg 15 6, 0) else (0x7F, flagNV)
  | .fin neg m e =>
    let r := roundTo fp8 mode neg m e false
    if 448 < scaleDown r.k r.q then (if sat then packBits 4 3 neg 15 6 else 0x7F, flagOF)
    else
      let lead := leading r.k r.q
      let x := if r.k = 0 then packBits 4 3 neg 0 0
        else if lead < -6 then packBits 4 3 neg 0 (scaleDown r.k (r.q + 9))
        else packBits 4 3 neg (lead + 7).toNat (scaleDown r.k (r.q - (lead - 3)) - 8)
      (x, flagIf r.inexact flagNX ||| flagIf (r.tiny && r.inexact) flagUF)

/-! ## Arithmetic on exact values (R301) -/

/-- Whether a value is a signalling NaN. -/
def Fp.isSignal : Fp → Bool
  | .nan sig => sig
  | _ => false

/-- Whether a value is a NaN. -/
def Fp.isNan : Fp → Bool
  | .nan _ => true
  | _ => false

/-- Whether a value is zero. -/
def Fp.isZero : Fp → Bool
  | .fin _ m _ => m == 0
  | _ => false

/-- The sign of a value. -/
def Fp.neg : Fp → Bool
  | .nan _ => false
  | .inf n => n
  | .fin n _ _ => n

/-- The opposite value. -/
def Fp.flip : Fp → Fp
  | .nan sig => .nan sig
  | .inf n => .inf (!n)
  | .fin n m e => .fin (!n) m e

/-- A signed integer mantissa. -/
def signed (neg : Bool) (m : Nat) : Int := if neg then -(m : Int) else m

/-- A signed integer times a power of two as a value; the sign of a zero is given. -/
def ofSigned (v : Int) (e : Int) (zeroNeg : Bool) : Fp := .fin (if v = 0 then zeroNeg else decide (v < 0)) v.natAbs e

/-- The exact sum of two finite values, whose zero takes its sign from the mode (IEEE 754). -/
def addFinite (mode : Mode) (n1 : Bool) (m1 : Nat) (e1 : Int) (n2 : Bool) (m2 : Nat) (e2 : Int) : Fp :=
  let e := min e1 e2
  let v := signed n1 (m1 * 2 ^ (e1 - e).toNat) + signed n2 (m2 * 2 ^ (e2 - e).toNat)
  let zn := if m1 = 0 ∧ m2 = 0 ∧ n1 = n2 then n1 else mode == .rdn
  ofSigned v e zn

/-- The exact sum, with NV for a signalling NaN or for opposite infinities. -/
def addFp (mode : Mode) (a b : Fp) : Fp × Flags :=
  match a, b with
  | .nan s, b => (.nan false, flagIf (s || b.isSignal) flagNV)
  | a, .nan s => (.nan false, flagIf (s || a.isSignal) flagNV)
  | .inf n, .inf k => if n = k then (.inf n, 0) else (.nan false, flagNV)
  | .inf n, _ => (.inf n, 0)
  | _, .inf n => (.inf n, 0)
  | .fin n1 m1 e1, .fin n2 m2 e2 => (addFinite mode n1 m1 e1 n2 m2 e2, 0)

/-- The exact product, with NV for a signalling NaN or for infinity times zero. -/
def mulFp (a b : Fp) : Fp × Flags :=
  match a, b with
  | .nan s, b => (.nan false, flagIf (s || b.isSignal) flagNV)
  | a, .nan s => (.nan false, flagIf (s || a.isSignal) flagNV)
  | .inf n, b => if b.isZero then (.nan false, flagNV) else (.inf (n != b.neg), 0)
  | a, .inf n => if a.isZero then (.nan false, flagNV) else (.inf (n != a.neg), 0)
  | .fin n1 m1 e1, .fin n2 m2 e2 => (.fin (n1 != n2) (m1 * m2) (e1 + e2), 0)

/-- The exact `a · b + d`. -/
def fmaFp (mode : Mode) (a b d : Fp) : Fp × Flags :=
  let p := mulFp a b
  let r := addFp mode p.1 d
  (r.1, p.2 ||| r.2)

/-- The quotient to 100 bits below the point of the scaled mantissas, and whether more follows. -/
def divFp (a b : Fp) : Fp × Bool × Flags :=
  match a, b with
  | .nan s, b => (.nan false, false, flagIf (s || b.isSignal) flagNV)
  | a, .nan s => (.nan false, false, flagIf (s || a.isSignal) flagNV)
  | .inf n, b => match b with
    | .inf _ => (.nan false, false, flagNV)
    | _ => (.inf (n != b.neg), false, 0)
  | .fin n _ _, .inf k => (.fin (n != k) 0 0, false, 0)
  | .fin n1 m1 e1, .fin n2 m2 e2 =>
    if m2 = 0 then if m1 = 0 then (.nan false, false, flagNV) else (.inf (n1 != n2), false, flagDZ)
    else (.fin (n1 != n2) (m1 * 2 ^ 100 / m2) (e1 - e2 - 100), m1 * 2 ^ 100 % m2 != 0, 0)

/-- The integer square root, bit by bit. -/
def isqrtFrom (n : Nat) : Nat → Nat → Nat
  | 0, r => r
  | k + 1, r => isqrtFrom n k (if (r + 2 ^ k) * (r + 2 ^ k) ≤ n then r + 2 ^ k else r)

/-- ⌊√n⌋. -/
def isqrt (n : Nat) : Nat := isqrtFrom n (log2 n / 2 + 1) 0

/-- The square root to 100 bits below the point of the scaled mantissa, and whether more follows. -/
def sqrtFp (a : Fp) : Fp × Bool × Flags :=
  match a with
  | .nan s => (.nan false, false, flagIf s flagNV)
  | .inf true => (.nan false, false, flagNV)
  | .inf false => (.inf false, false, 0)
  | .fin n m e =>
    if m = 0 then (.fin n 0 0, false, 0)
    else if n then (.nan false, false, flagNV)
    else
      let odd := (e % 2).toNat
      let v := m * 2 ^ odd * 2 ^ 200
      let r := isqrt v
      (.fin false r ((e - odd) / 2 - 100), r * r != v, 0)

/-! ## Order (R301, R303) -/

/-- Whether a value is less than another; neither a NaN, and zeros equal. -/
def ltFp (a b : Fp) : Bool :=
  match a, b with
  | .nan _, _ => false
  | _, .nan _ => false
  | .inf true, .inf true => false
  | .inf true, _ => true
  | .inf false, _ => false
  | _, .inf k => !k
  | .fin n1 m1 e1, .fin n2 m2 e2 =>
    let e := min e1 e2
    decide (signed n1 (m1 * 2 ^ (e1 - e).toNat) < signed n2 (m2 * 2 ^ (e2 - e).toNat))

/-- Whether two values are equal; a NaN equals nothing. -/
def eqFp (a b : Fp) : Bool := !a.isNan && !b.isNan && !ltFp a b && !ltFp b a

/-- The lesser value, −0 below +0; a NaN for a NaN (R301). -/
def minFp (a b : Fp) : Fp × Flags :=
  if a.isNan || b.isNan then (.nan false, flagIf (a.isSignal || b.isSignal) flagNV)
  else if ltFp a b || (eqFp a b && a.neg) then (a, 0) else (b, 0)

/-- The greater value, −0 below +0; a NaN for a NaN (R301). -/
def maxFp (a b : Fp) : Fp × Flags :=
  if a.isNan || b.isNan then (.nan false, flagIf (a.isSignal || b.isSignal) flagNV)
  else if ltFp a b || (eqFp a b && a.neg) then (b, 0) else (a, 0)

/-! ## Integers (R108) -/

/-- An integer as a value. -/
def ofInt (v : Int) : Fp := ofSigned v 0 false

/-- A value rounded to an integer in a range, saturating (R108). -/
def toIntSat (mode : Mode) (lo hi : Int) : Fp → Int × Flags
  | .nan _ => (0, flagNV)
  | .inf n => (if n then lo else hi, flagNV)
  | .fin n m e =>
    let r := roundAt mode n m e false 0
    let v := signed n r.1
    if v < lo then (lo, flagNV) else if hi < v then (hi, flagNV) else (v, flagIf r.2 flagNX)

end Sys2Proof.Machine
end

