-- ==== Sys2Proof/Machine/Special.lean ====
section
/-! DEFINITION. The special functions of R308: each value to a thousand bits below the point, far beyond any rounding boundary a
32-bit argument can come near (notes/assumptions/25.md), for the one rounding of R105. -/

namespace Sys2Proof.Machine

/-- Bits below the point of the fixed-point numbers of this file. -/
def fixBits : Nat := 1000

/-- One, in fixed point. -/
def fixOne : Int := 2 ^ fixBits

/-- A product in fixed point. -/
def fixMul (a b : Int) : Int := a * b / fixOne

/-- A finite value in fixed point. -/
def fixOf (neg : Bool) (m : Nat) (e : Int) : Int := signed neg (scaleDown m (e + fixBits))

/-- `q⁻¹ + s·q⁻³/3 + q⁻⁵/5 + …` with `s` the sign of every second term: `fuel` terms from the one of index `k`. -/
def inverseSeries (alternate : Bool) (q : Int) : Nat → Nat → Int → Int
  | 0, _, _ => 0
  | fuel + 1, k, t =>
    let term := t / (2 * k + 1)
    (if alternate && k % 2 == 1 then -term else term) + inverseSeries alternate q fuel (k + 1) (t / (q * q))

/-- ln 2. -/
def fixLn2 : Int := 2 * inverseSeries false 3 330 0 (fixOne / 3)

/-- π / 2, by Machin's formula. -/
def fixHalfPi : Int := 8 * inverseSeries true 5 230 0 (fixOne / 5) - 2 * inverseSeries true 239 80 0 (fixOne / 239)

/-- The power series of the exponential from the term of index `n` on. -/
def expSeries (x : Int) : Nat → Nat → Int → Int
  | 0, _, t => t
  | fuel + 1, n, t => t + expSeries x fuel (n + 1) (fixMul t x / (n + 1))

/-- `e^x` of a fixed-point number as `m · 2^e`. -/
def expFix (x : Int) : Nat × Int :=
  let k := x / fixLn2
  ((expSeries (x - k * fixLn2) 230 0 fixOne).toNat, k - fixBits)

/-- The area tangent `z + z³/3 + z⁵/5 + …` from the term of index `k` on. -/
def artanhSeries (z2 : Int) : Nat → Nat → Int → Int
  | 0, _, _ => 0
  | fuel + 1, k, t => t / (2 * k + 1) + artanhSeries z2 fuel (k + 1) (fixMul t z2)

/-- `ln x` of a fixed-point number in [1, 2]. -/
def lnFix (x : Int) : Int :=
  let z := (x - fixOne) * fixOne / (x + fixOne)
  2 * artanhSeries (fixMul z z) 330 0 z

/-- The series of the sine (`n` = 1) or the cosine (`n` = 0) from a term on. -/
def trigSeries (x2 : Int) : Nat → Nat → Int → Int
  | 0, _, t => t
  | fuel + 1, n, t => t + trigSeries x2 fuel (n + 2) (-(fixMul t x2 / ((n + 1) * (n + 2))))

/-- The sine, or with `quarter` = 1 the cosine, of a fixed-point number. -/
def trigFix (x : Int) (quarter : Int) : Int :=
  let k := x / fixHalfPi
  let r := x - k * fixHalfPi
  let x2 := fixMul r r
  let q := (k + quarter) % 4
  let v := if q % 2 = 0 then trigSeries x2 120 1 r else trigSeries x2 120 0 fixOne
  if q < 2 then v else -v

/-- An irrational fixed-point value: the part below it is never empty. -/
def ofFix (v : Int) : Fp × Bool × Flags :=
  if 0 ≤ v then (.fin false v.toNat (-fixBits), true, 0) else (.fin true (-v - 1).toNat (-fixBits), true, 0)

/-- A value too great or too small for any format. -/
def huge : Fp × Bool × Flags := (.fin false 1 400, true, 0)
/-- A positive value below every format. -/
def minute : Fp × Bool × Flags := (.fin false 0 0, true, 0)

/-- NaN with NV. -/
def invalid : Fp × Bool × Flags := (.nan false, false, flagNV)

/-- `2^a` or `e^a` of a finite nonzero value. -/
def expOf (two : Bool) (n : Bool) (m : Nat) (e : Int) : Fp × Bool × Flags :=
  let whole := signed n (scaleDown m e)
  if 1000 < whole then huge else if whole < -1000 then minute
  else if two && decide ((signed n (scaleDown m e) : Int) * 2 ^ (-e).toNat = signed n m * 2 ^ e.toNat) then
    (.fin false 1 whole, false, 0)
  else
    let x := fixOf n m e
    let r := expFix (if two then fixMul x fixLn2 else x)
    (.fin false r.1 r.2, true, 0)

/-- `log2` of a positive finite value. -/
def log2Of (m : Nat) (e : Int) : Fp × Bool × Flags :=
  let k := log2 m
  if m = 2 ^ k then (ofInt (k + e), false, 0)
  else ofFix ((k + e) * fixOne + lnFix (m * fixOne / 2 ^ k) * fixOne / fixLn2)

/-- `1/√a` of a positive finite value. -/
def rsqrtOf (m : Nat) (e : Int) : Fp × Bool × Flags :=
  let odd := (e % 2).toNat
  let v := m * 2 ^ odd
  let q := 2 ^ 600 / v
  let r := isqrt q
  (.fin false r (-((e - odd) / 2) - 300), !(2 ^ 600 % v == 0 && r * r == q), 0)

/-- `tanh` of a finite nonzero value. -/
def tanhOf (n : Bool) (m : Nat) (e : Int) : Fp × Bool × Flags :=
  let r :=
    if 300 ≤ scaleDown m e then fixOne - 1
    else
      let p := expFix (-2 * fixOf false m e)
      let y : Int := scaleDown p.1 (p.2 + fixBits)
      (fixOne - y) * fixOne / (fixOne + y)
  (.fin n r.toNat (-fixBits), true, 0)

/-- `ln(e^a + e^b)` of two finite values. -/
def lseOf (a b : Int) : Fp × Bool × Flags :=
  let hi := max a b
  let d := min a b - hi
  if d < -690 * fixOne then ofFix hi
  else
    let p := expFix d
    ofFix (hi + lnFix (fixOne + scaleDown p.1 (p.2 + fixBits)))

/-- The functions 0 to 7 of R308 on one value: the value, whether more follows, and its flags. -/
def special (fn : Nat) (a : Fp) : Fp × Bool × Flags :=
  match a with
  | .nan s => (.nan false, false, flagIf s flagNV)
  | .inf n =>
    match fn with
    | 0 | 7 => if n then (.fin false 0 0, false, 0) else (.inf false, false, 0)
    | 1 => if n then invalid else (.inf false, false, 0)
    | 2 => (.fin n 0 0, false, 0)
    | 3 => if n then invalid else (.fin false 0 0, false, 0)
    | 6 => (.fin n 1 0, false, 0)
    | _ => invalid
  | .fin n 0 _ =>
    match fn with
    | 0 | 5 | 7 => (.fin false 1 0, false, 0)
    | 1 => (.inf true, false, flagDZ)
    | 2 | 3 => (.inf n, false, flagDZ)
    | _ => (.fin n 0 0, false, 0)
  | .fin n m e =>
    match fn with
    | 0 => expOf true n m e
    | 1 => if n then invalid else log2Of m e
    | 2 => divFp (.fin false 1 0) (.fin n m e)
    | 3 => if n then invalid else rsqrtOf m e
    | 4 => ofFix (trigFix (fixOf n m e) 0)
    | 5 => ofFix (trigFix (fixOf n m e) 1)
    | 6 => tanhOf n m e
    | _ => expOf false n m e

/-- `vlse` (R308). -/
def specialLse (a b : Fp) : Fp × Bool × Flags :=
  match a, b with
  | .nan s, b => (.nan false, false, flagIf (s || b.isSignal) flagNV)
  | a, .nan s => (.nan false, false, flagIf (s || a.isSignal) flagNV)
  | .inf false, _ => (.inf false, false, 0)
  | _, .inf false => (.inf false, false, 0)
  | .inf true, b => (b, false, 0)
  | a, .inf true => (a, false, 0)
  | .fin n1 m1 e1, .fin n2 m2 e2 => lseOf (fixOf n1 m1 e1) (fixOf n2 m2 e2)

end Sys2Proof.Machine
end

