-- ==== Sys2Proof/Machine/Blocks.lean ====
section
/-! DEFINITION. The element formats of R91: KB8 and KB4 blocks, FP8, BF16, S8 and C4, as values, and the conversion of 32 numbers
to one block (R91, R94, R97, R100, R102). -/

namespace Sys2Proof.Machine

/-! ## Elements as values -/

/-- The bits of an element of a format code (R91). -/
def elemBits (fmt : Nat) : Nat := if fmt = 0 then 16 else if fmt = 3 ∨ fmt = 5 then 4 else 8

/-- Whether a format code is of the float class. -/
def isFloatFmt (fmt : Nat) : Bool := fmt < 4

/-- The value of a KB element under its scale word, element `j` of the block; a poisoned one is a NaN with NV (R100). -/
def kbValue (eight : Bool) (scale j raw : Nat) : Fp :=
  let c := if eight then 5 else 1
  let mag := if eight then raw % 64 else raw % 4
  let neg := bitAt raw (if eight then 6 else 2)
  let sel := bitAt raw (if eight then 7 else 3)
  let ex := if sel then bitsOf scale 15 8 else bitsOf scale 7 0
  let q := scale / 2 ^ (2 * (j / 4) + 16) % 4
  if ex = 0 then .fin false 0 0
  else if ex = 255 then .nan true
  else .fin neg mag ((ex : Int) - 127 - q - c)

/-- The S8 value of a raw byte. -/
def s8Value (raw : Nat) : Int := sx 8 raw

/-- The value of a C4 code under a table (R97). -/
def c4Value (lut : List (BitVec 8)) (raw : Nat) : Int := (lut.getD (raw % 16) 0).toInt

/-- The value of a float-class element of a block. -/
def floatElem (fmt scale j raw : Nat) : Fp :=
  if fmt = 0 then decode16 raw else if fmt = 1 then decode8 raw else kbValue (fmt == 2) scale j raw

/-- The value of an integer-class element. -/
def intElem (fmt : Nat) (lut : List (BitVec 8)) (raw : Nat) : Int := if fmt = 5 then c4Value lut raw else s8Value raw

/-- Element `i` of packed elements of a width, in a little-endian number. -/
def elemAt (w i x : Nat) : Nat := x / 2 ^ (w * i) % 2 ^ w

/-! ## Conversion to a block (R102) -/

/-- `ex(x)` of R102 on a binary32 encoding. -/
def expField (x : Nat) : Nat := if bitsOf x 30 23 = 0 then 1 else bitsOf x 30 23

/-- Whether a binary32 encoding is a NaN or an infinity. -/
def nonFinite (x : Nat) : Bool := bitsOf x 30 23 == 255

/-- Whether a binary32 encoding is finite and nonzero. -/
def inFin (x : Nat) : Bool := !nonFinite x && x % 2 ^ 31 != 0

/-- The greatest number of a list, if it has one. -/
def greatest (l : List Nat) : Option Nat := l.foldl (fun a v => some (match a with | none => v | some w => max v w)) none

/-- The least number of a list, if it has one. -/
def least (l : List Nat) : Option Nat := l.foldl (fun a v => some (match a with | none => v | some w => min v w)) none

/-- E0, E1 and the selector rule of a block (R102). -/
def blockExponents (xs : List Nat) : Nat × Nat × (Nat → Bool) :=
  let fin := (xs.filter inFin).map expField
  if xs.any nonFinite then (255, (greatest fin).getD 0, fun x => !nonFinite x)
  else match greatest fin with
    | none => (0, 0, fun _ => false)
    | some e0 =>
      let low := fin.filter (· + 4 ≤ e0)
      (e0, (greatest low).getD e0, fun x => inFin x && expField x + 4 ≤ e0)

/-- A block of 32 binary32 encodings converted: the scale word, and each element with its flags (R102). -/
def toBlock (eight : Bool) (mode : Mode) (xs : List Nat) : Nat × List (Nat × Flags) :=
  let c := if eight then 5 else 1
  let mmax := if eight then 63 else 3
  let r := blockExponents xs
  let pick (x : Nat) : Nat := if r.2.2 x then r.2.1 else r.1
  let qs (g : Nat) : Nat :=
    min 3 ((least ((((xs.drop (4 * g)).take 4).filter inFin).map fun x => pick x - expField x)).getD 0)
  let elem (j x : Nat) : Nat × Flags :=
    let e := pick x
    let sign := bit (bitAt x 31)
    let sel := bit (r.2.2 x)
    let place (m : Nat) : Nat := if eight then sel * 128 + sign * 64 + m else sel * 8 + sign * 4 + m
    if !inFin x || e = 0 then (place 0, flagIf (decode32 x).isSignal flagNV)
    else match decode32 x with
      | .fin n m ex =>
        let k := roundAt mode n m (ex + (127 + qs (j / 4) + c : Int) - e) false 0
        (place (min mmax k.1), flagIf (k.2 || mmax < k.1) flagNX)
      | _ => (place 0, 0)
  let scale := r.1 + r.2.1 * 256 + sumBy (fun g => qs g * 2 ^ (2 * g + 16)) (List.range 8)
  (scale, xs.zipIdx.map fun p => elem p.2 p.1)

end Sys2Proof.Machine
end

