-- ==== Sys2Proof/Machine/Check.lean ====
section
/-! DEFINITION. Dovetail checksums: forming them, keeping them under writes, comparing and repairing (R83, R115, R183 to
R201). -/

namespace Sys2Proof.Machine

/-! ## Lanes (R83) -/

/-- The element width in bytes of a type code. -/
def tyBytes (ty : Nat) : Nat := if ty ≤ 1 then 4 else if ty ≤ 3 then 2 else if ty = 4 then 1 else 8

/-- The lanes of a row. -/
def tyLanes (ty : Nat) : Nat := 128 / tyBytes ty

/-- The element width in bits. -/
def tyBits (ty : Nat) : Nat := 8 * tyBytes ty

/-- Whether a type is a float type. -/
def tyFloat (ty : Nat) : Bool := ty == 0 || ty == 2

/-- The raw lanes of a row. -/
def lanesOf (ty : Nat) (r : Row) : List Nat := (List.range (tyLanes ty)).map fun i => elemAt (tyBits ty) i r.toNat

/-- A number from fields of a width, the first lowest. -/
def joinFields (w : Nat) : List Nat → Nat
  | [] => 0
  | x :: r => x % 2 ^ w + 2 ^ w * joinFields w r

/-- A row from raw lanes. -/
def ofLanes (ty : Nat) (l : List Nat) : Row := BitVec.ofNat 1024 (joinFields (tyBits ty) l)

/-- A raw lane as a binary32 encoding (R186). -/
def laneF32 (ty x : Nat) : Nat := if ty = 2 then x * 65536 else x

/-! ## Float sums (R115, R187) -/

/-- One binary32 addition rounded RNE, without flags. -/
def addF32 (a b : Nat) : Nat := (encodeFloat fp32 .rne false (addFp .rne (decode32 a) (decode32 b)).1).1

/-- One level of the pairwise tree. -/
def pairUp {α : Type} (f : α → α → α) : List α → List α
  | a :: b :: r => f a b :: pairUp f r
  | l => l

/-- The fixed pairwise tree over a power of two of values (R115). -/
def treeOf {α : Type} (f : α → α → α) : Nat → List α → List α
  | 0, l => l
  | n + 1, l => treeOf f n (pairUp f l)

/-- The float checksum of encodings: a NaN for a non-finite one (R187). -/
def sumF32 (l : List Nat) : Nat := if l.any nonFinite then nan32 else ((treeOf addF32 7 l).head?).getD 0

/-! ## Formed checksums (R186) -/

/-- The lane moduli in use: the sixteen q_i, or nothing while MQB is not valid. -/
abbrev Moduli := Option (List Nat)

/-- The modulus of a lane. -/
def Moduli.q (m : Moduli) (j : Nat) : Nat := (m.getD []).getD j 1

/-- The sum of signed lanes modulo a power of two. -/
def sumSigned (w bits : Nat) (l : List Nat) : Nat := ((l.foldl (fun (a : Int) x => a + sx w x) 0) % 2 ^ bits).toNat

/-- The width of an exact row checksum's arithmetic. -/
def rowBits (ty : Nat) : Nat := if ty = 5 then 64 else 32

/-- The width of an exact column checksum. -/
def colBits (ty : Nat) : Nat := if ty = 4 then 16 else if ty = 5 then 64 else 32

/-- The row checksum formed from a row. -/
def formRow (ty : Nat) (r : Row) : Nat :=
  let l := lanesOf ty r
  if tyFloat ty then sumF32 (l.map (laneF32 ty))
  else if ty = 5 then l.foldl (· + ·) 0 % 2 ^ 64
  else sumSigned (tyBits ty) 32 l

/-- The column checksum formed from a lane's 32 values. -/
def formCol (ty : Nat) (mq : Moduli) (j : Nat) (l : List Nat) : Nat :=
  if tyFloat ty then sumF32 (l.map (laneF32 ty))
  else if ty = 5 then (l.foldl (fun a x => a + x % mq.q j) 0) % mq.q j
  else sumSigned (tyBits ty) (colBits ty) l

/-- The values of lane `j` of every row. -/
def column (ty j : Nat) (rows : List Row) : List Nat := rows.map fun r => elemAt (tyBits ty) j r.toNat

/-! ## The sideband (R184) -/

/-- The bits of a column checksum's slot that hold it. -/
def slotBits (ty : Nat) : Nat := min 64 (2048 / tyLanes ty)

/-- The bit offset of a column's slot in the sideband. -/
def slotAtBit (ty j : Nat) : Nat := 2048 + 2048 / tyLanes ty * j

/-- A row checksum. -/
def sideRow (side : List XWord) (i : Nat) : Nat := (side.getD i 0).toNat

/-- A column checksum. -/
def sideCol (ty : Nat) (side : List XWord) (j : Nat) : Nat :=
  let o := slotAtBit ty j
  elemAt (slotBits ty) (o % 64 / slotBits ty) (side.getD (o / 64) 0).toNat

/-- Replaces a row checksum. -/
def putRow (side : List XWord) (i v : Nat) : List XWord := side.set i (BitVec.ofNat 64 v)

/-- Replaces a column checksum. -/
def putCol (ty : Nat) (side : List XWord) (j v : Nat) : List XWord :=
  let o := slotAtBit ty j
  side.set (o / 64) (setField (side.getD (o / 64) 0) (o % 64) (slotBits ty) v)

/-- The sideband formed from contents. -/
def formSide (ty : Nat) (mq : Moduli) (rows : List Row) : List XWord :=
  let side := (List.replicate 64 (0 : XWord))
  let side := rows.zipIdx.foldl (fun s p => putRow s p.2 (formRow ty p.1)) side
  upTo (tyLanes ty) (fun s j => putCol ty s j (formCol ty mq j (column ty j rows))) side

/-- The 512 bytes of a sideband. -/
def sideBytes (side : List XWord) : List Byte := side.flatMap fun x => leBytes 8 x.toNat

/-- A sideband from 512 bytes. -/
def sideOf (bs : List Byte) : List XWord := (List.range 64).map fun i => BitVec.ofNat 64 (fieldAt bs (8 * i) 8)

/-- Every checksum formed from the contents, without a comparison. -/
def Tile.reform (t : Tile) (mq : Moduli) : Tile :=
  { t with side := formSide t.ty.toNat mq t.rows, drift := 0, stale := false }

/-- TKS (R185). -/
def Tile.tks (t : Tile) : Nat :=
  t.drift % 256 * 2 ^ 16 + bit t.err * 128 + bit t.stale * 64 + bit t.prov * 32 + t.ty.toNat

/-! ## Writes by vector instructions (R190) -/

/-- The delta update for one written row, with the lanes written. -/
def Tile.deltaRow (t : Tile) (mq : Moduli) (r : Nat) (old new : List Nat) (written : List Nat) : Tile :=
  let ty := t.ty.toNat
  if tyFloat ty then
    let bad := written.any fun j => nonFinite (laneF32 ty (old.getD j 0)) || nonFinite (laneF32 ty (new.getD j 0))
    if bad then
      let side := putRow t.side r (formRow ty (t.rows.getD r 0))
      { t with side := written.foldl (fun s j => putCol ty s j (formCol ty mq j (column ty j t.rows))) side }
    else
      let step (a : List XWord × Nat) (j : Nat) : List XWord × Nat :=
        let d := addF32 (laneF32 ty (new.getD j 0)) (laneF32 ty (old.getD j 0) ^^^ 2 ^ 31)
        (putCol ty a.1 j (addF32 (sideCol ty a.1 j) d), addF32 a.2 d)
      let a := written.foldl step (t.side, 0)
      { t with side := putRow a.1 r (addF32 (sideRow a.1 r) a.2) }
  else
    let step (a : List XWord × Int) (j : Nat) : List XWord × Int :=
      let n := new.getD j 0
      let o := old.getD j 0
      if ty = 5 then
        let q := mq.q j
        (putCol ty a.1 j ((sideCol ty a.1 j % q + n % q + (q - o % q)) % q), a.2 + n - o)
      else
        let d := sx (tyBits ty) n - sx (tyBits ty) o
        (putCol ty a.1 j (((sideCol ty a.1 j : Int) + d) % 2 ^ colBits ty).toNat, a.2 + d)
    let a := written.foldl step (t.side, 0)
    { t with side := putRow a.1 r (((sideRow a.1 r : Int) + a.2) % 2 ^ rowBits ty).toNat }

/-- The lanes of a type that a set of row bytes touches. -/
def lanesTouched (ty : Nat) (bytes : BitVec 128) : List Nat :=
  (List.range (tyLanes ty)).filter fun j => bytes.toNat / 2 ^ (tyBytes ty * j) % 2 ^ tyBytes ty != 0

/-- Whether the delta update of a row counts in DRIFT (R190). -/
def driftWrite (ty : Nat) (old new : List Nat) (written : List Nat) : Bool :=
  tyFloat ty && !(written.any fun j => nonFinite (laneF32 ty (old.getD j 0)) || nonFinite (laneF32 ty (new.getD j 0)))

/-- The bits of a row that a set of its bytes covers. -/
def spread (bytes : BitVec 128) : Row :=
  BitVec.ofNat 1024 (joinFields 8 ((List.range 128).map fun i => if bytes.getLsbD i then 255 else 0))

/-- A row with some of its bytes replaced. -/
def mergeRow (old new : Row) (bytes : BitVec 128) : Row := let m := spread bytes; (old &&& ~~~m) ||| (new &&& m)

/-- A vector instruction writes bytes of a row; an MR64 write without moduli makes the sideband stale (R186, R190). Whether it
made a float delta update is answered too. -/
def Tile.writeRow (t : Tile) (mq : Moduli) (r : Nat) (new : Row) (bytes : BitVec 128) : Tile × Bool :=
  let ty := t.ty.toNat
  let old := t.rows.getD r 0
  let row := mergeRow old new bytes
  let u := { t with rows := t.rows.set r row, prov := false }
  if ty = 5 && mq.isNone then ({ u with stale := true }, false)
  else if t.stale then (u, false)
  else
    let w := lanesTouched ty bytes
    (u.deltaRow mq r (lanesOf ty old) (lanesOf ty row) w, driftWrite ty (lanesOf ty old) (lanesOf ty row) w)

/-- A vector instruction writes consecutive rows of a tile: DRIFT grows by one for the instruction (R190). -/
def Tile.writeRows (t : Tile) (mq : Moduli) (r : Nat) (rows : List Row) (bytes : List (BitVec 128)) : Tile :=
  let a := (rows.zip bytes).zipIdx.foldl (fun (a : Tile × Bool) p =>
    let x := a.1.writeRow mq (r + p.2) p.1.1 p.1.2
    (x.1, a.2 || x.2)) (t, false)
  if a.2 then { a.1 with drift := min 255 (a.1.drift + 1) } else a.1

/-! ## Comparison (R188) -/

/-- The greatest finite magnitude among encodings. -/
def maxMagnitude (l : List Nat) : Nat := (greatest ((l.filter fun x => !nonFinite x).map (· % 2 ^ 31))).getD 0

/-- Whether a stored float checksum is too far from the formed one. -/
def floatMismatch (stored formed n : Nat) (l : List Nat) : Bool :=
  match decode32 stored, decode32 formed, decode32 (maxMagnitude l) with
  | .nan _, _, _ => false
  | _, .nan _, _ => false
  | .fin n1 m1 e1, .fin n2 m2 e2, .fin _ m3 e3 =>
    match addFinite .rne n1 m1 e1 (!n2) m2 e2 with
    | .fin _ d e =>
      let q := min e (e3 - 22)
      decide (n * m3 * 2 ^ (e3 - 22 - q).toNat < d * 2 ^ (e - q).toNat)
    | _ => true
  | _, _, _ => stored != formed

/-- The rows whose checksum disagrees. -/
def Tile.badRowsOf (t : Tile) (n : Nat) : List Nat :=
  let ty := t.ty.toNat
  (List.range 32).filter fun i =>
    let r := t.rows.getD i 0
    if tyFloat ty then floatMismatch (sideRow t.side i) (formRow ty r) n ((lanesOf ty r).map (laneF32 ty))
    else sideRow t.side i % 2 ^ rowBits ty != formRow ty r

/-- The lanes whose column checksum disagrees. -/
def Tile.badColsOf (t : Tile) (mq : Moduli) (n : Nat) : List Nat :=
  let ty := t.ty.toNat
  (List.range (tyLanes ty)).filter fun j =>
    let l := column ty j t.rows
    let f := formCol ty mq j l
    if tyFloat ty then floatMismatch (sideCol ty t.side j) f n (l.map (laneF32 ty))
    else if ty = 5 then sideCol ty t.side j % mq.q j != f
    else sideCol ty t.side j % 2 ^ colBits ty != f

/-! ## Correction (R195 to R197) -/

/-- An element of an exact type corrected at a crossing (R196). -/
def Tile.fixExact (t : Tile) (mq : Moduli) (i j : Nat) : Option Tile :=
  let ty := t.ty.toNat
  let row := t.rows.getD i 0
  let l := lanesOf ty row
  let e := l.getD j 0
  let rr : Int := (sideRow t.side i : Int) - formRow ty row
  let rc : Int := (sideCol ty t.side j : Int) - formCol ty mq j (column ty j t.rows)
  let c1 := if ty = 5 then (((e : Int) + rr) % 2 ^ 64).toNat else ((sx (tyBits ty) e + rr) % 2 ^ tyBits ty).toNat
  let ok := if ty = 5 then
      let q := mq.q j
      decide (c1 < q) && (c1 : Int) == ((e : Int) + rc) % q
    else rr % 2 ^ 32 == sx (colBits ty) (rc % 2 ^ colBits ty).toNat % 2 ^ 32
  if ok then some { t with rows := t.rows.set i (ofLanes ty (l.set j c1)) } else none

/-- A float element computed afresh by the engine that formed the tile (R197). -/
def Tile.fixFloat (t : Tile) (recompute : Nat → Nat → Option Nat) (i j : Nat) : Option Tile :=
  if !t.prov then none
  else match recompute i j with
    | none => none
    | some v =>
      let ty := t.ty.toNat
      some { t with rows := t.rows.set i (ofLanes ty ((lanesOf ty (t.rows.getD i 0)).set j v)) }

/-- One check by its mismatch counts: the tile, whether a correction was made, and whether it ends without a fault. -/
def Tile.checkOnce (t : Tile) (mq : Moduli) (nr nc : Nat) (recompute : Nat → Nat → Option Nat) : Tile × Bool × Bool :=
  let ty := t.ty.toNat
  match t.badRowsOf nr, t.badColsOf mq nc with
  | [], [] => (t, false, true)
  | [i], [] => ({ t with side := putRow t.side i (formRow ty (t.rows.getD i 0)) }, true, true)
  | [], [j] => ({ t with side := putCol ty t.side j (formCol ty mq j (column ty j t.rows)) }, true, true)
  | [i], [j] =>
    match (if tyFloat ty then t.fixFloat recompute i j else t.fixExact mq i j) with
    | some u => (u, true, true)
    | none => (t, false, false)
  | _, _ => (t, false, false)

/-- What a check leaves: the tile, corrections made, whether it formed a stale tile's checksums, and whether it passed. -/
structure Checked where
  tile : Tile
  fixes : Nat
  formed : Bool
  ok : Bool
deriving DecidableEq, Repr

/-- A comparison with its one repetition after a correction (R195). -/
def Tile.compare (t : Tile) (mq : Moduli) (nr nc : Nat) (recompute : Nat → Nat → Option Nat) : Checked :=
  let a := t.checkOnce mq nr nc recompute
  if !a.2.2 then { tile := t, fixes := 0, formed := false, ok := false }
  else if !a.2.1 then { tile := a.1, fixes := 0, formed := false, ok := true }
  else if (a.1.badRowsOf nr).isEmpty && (a.1.badColsOf mq nc).isEmpty then { tile := a.1, fixes := 1, formed := false, ok := true }
  else { tile := t, fixes := 1, formed := false, ok := false }

/-- A stored-against-contents check (R192, R195): stale tiles are formed, and a float tile that passes is formed again. -/
def Tile.check (t : Tile) (mq : Moduli) (recompute : Nat → Nat → Option Nat) : Checked :=
  if t.stale then { tile := t.reform mq, fixes := 0, formed := true, ok := true }
  else
    let r := t.compare mq (tyLanes t.ty.toNat) (32 + t.drift) recompute
    if !r.ok then { r with tile := { t with err := true } }
    else if tyFloat t.ty.toNat then { r with tile := r.tile.reform mq }
    else r

/-! ## Counts and faults (R198, R199) -/

/-- CKEV after a check. -/
def ckevAfter (ckev : BitVec 64) (r : Checked) : BitVec 64 :=
  let k := bump ckev 16 16 r.fixes
  let k := if r.formed then bump k 32 16 1 else k
  if r.ok then k else bump k 0 16 1

/-- A check's counts at its core, and the log entries of a correction and of a mismatch fault in array 4, the array of tiles and
sidebands (R406, R409): ADDR is an accumulator tile's number or a region's scratchpad byte address. -/
def State.noteCheck (s : State) (c : Nat) (r : Checked) (region : Bool) (num : Nat) (w : Who) : State :=
  let s := s.onCore c fun k => { k with ckev := ckevAfter k.ckev r }
  let a := if region then 4096 * num else num
  let s := if r.fixes = 0 then s else s.logError c 4 0 0 a 0 w false
  if r.ok then s else s.logError c 4 1 15 a 0 w false

/-- EVA of CKSUM for an accumulator tile (R198). -/
def tileEva (t : Nat) : Word := BitVec.ofNat 48 (2 ^ 47 + t)

/-! ## Signatures (R201) -/

/-- One bit of a CRC-32C. -/
def crcBit (c : Nat) : Nat := if c % 2 = 1 then (c / 2) ^^^ 0x82F63B78 else c / 2

/-- CRC-32C of bytes. -/
def crc32c (bs : List Byte) : Nat :=
  (bs.foldl (fun c b => crcBit (crcBit (crcBit (crcBit (crcBit (crcBit (crcBit (crcBit (c ^^^ b.toNat))))))))) 0xFFFFFFFF) ^^^ 0xFFFFFFFF

/-- A tile's dovetail signature. -/
def Tile.signature (t : Tile) : Nat := crc32c (sideBytes t.side ++ [t.ty.setWidth 8])

end Sys2Proof.Machine
end

