-- ==== Sys2Proof/Machine/Engine.lean ====
section
/-! DEFINITION. Matrix arithmetic: K-blocks, block sums, products, predicted checksums, and the recomputation of one element (R99,
R101, R109 to R114, R194, R197, R339). -/

namespace Sys2Proof.Machine

/-! ## Alignment (R111, R112) -/

/-- The least and greatest of a signed width. -/
def clampTo (w : Nat) (v : Int) : Int := max (-(2 ^ (w - 1))) (min (2 ^ (w - 1) - 1) v)

/-- Elements of the float class aligned to a width. -/
def alignBlock (w : Nat) (xs : List Fp) : KBlock :=
  let exps := xs.filterMap fun x => match x with
    | .fin _ m e => if m = 0 then none else some (leading m e)
    | _ => none
  let poison := xs.any fun x => match x with
    | .fin .. => false
    | _ => true
  match exps with
  | [] => { vals := xs.map fun _ => 0, exp := 0, poison := poison }
  | e0 :: r =>
    let e := r.foldl max e0
    { vals := xs.map fun x => match x with
        | .fin n m ex => clampTo w (signed n (roundAt .rne n m (ex + ((w : Int) - 2) - e) false 0).1)
        | _ => 0,
      exp := e, poison := poison }

/-- The K-blocks of packed elements: `k` elements of a format, with the scale word of each block. -/
def blocksOf (fmt w k : Nat) (lut : List (BitVec 8)) (scales : List Nat) (raw : Nat) : List KBlock :=
  (List.range ((k + 31) / 32)).map fun kb =>
    let js := (List.range 32).map fun j => (j, 32 * kb + j)
    if isFloatFmt fmt then
      alignBlock w (js.map fun p =>
        if p.2 < k then floatElem fmt (scales.getD kb 0) p.1 (elemAt (elemBits fmt) p.2 raw) else .fin false 0 0)
    else
      { vals := js.map fun p => if p.2 < k then intElem fmt lut (elemAt (elemBits fmt) p.2 raw) else 0, exp := 0, poison := false }

/-! ## Sums (R113, R114) -/

/-- The exact integer block sum. -/
def dotBlock (a b : KBlock) : Int := (a.vals.zip b.vals).foldl (fun t p => t + p.1 * p.2) 0

/-- The exponent of a float block sum, for an A width. -/
def dotExp (wA : Nat) (a b : KBlock) : Int := a.exp + b.exp - ((wA : Int) - 2) - 18

/-- binary32 addition in a mode, without flags. -/
def addIn (mode : Mode) (a b : Nat) : Nat := (encodeFloat fp32 mode false (addFp mode (decode32 a) (decode32 b)).1).1

/-- One block sum added to an element (R113, R114). -/
def addBlock (flt : Bool) (mode : Mode) (wA : Nat) (c : Nat) (p : KBlock × KBlock) : Nat :=
  let t := dotBlock p.1 p.2
  if flt then
    if p.1.poison || p.2.poison then nan32
    else addIn mode c (encodeFloat fp32 mode false (ofSigned t (dotExp wA p.1 p.2) false)).1
  else (((c : Int) + t) % 2 ^ 32).toNat

/-- An element's value after its blocks. -/
def dotAll (flt : Bool) (mode : Mode) (wA : Nat) (c : Nat) (a b : List KBlock) : Nat :=
  (a.zip b).foldl (addBlock flt mode wA) c

/-! ## Predictions (R194) -/

/-- The exact sum of block sums over several products, as an integer and an exponent; nothing when one is poisoned. -/
def sumBlocks (wA : Nat) (l : List (KBlock × KBlock)) : Option (Int × Int) :=
  if l.any fun p => p.1.poison || p.2.poison then none
  else
    let es := l.map fun p => dotExp wA p.1 p.2
    let e := match es with | [] => 0 | x :: r => r.foldl min x
    some (l.foldl (fun (t : Int) (p : KBlock × KBlock) => t + dotBlock p.1 p.2 * 2 ^ (dotExp wA p.1 p.2 - e).toNat) 0, e)

/-- A predicted checksum after one more K-block: the block sums of a row or a column of the product together (R194). -/
def predictBlock (flt : Bool) (mode : Mode) (wA : Nat) (c : Nat) (l : List (KBlock × KBlock)) : Nat :=
  if flt then
    match sumBlocks wA l with
    | none => nan32
    | some (t, e) => addIn mode c (encodeFloat fp32 mode false (ofSigned t e false)).1
  else (((c : Int) + l.foldl (fun (t : Int) (p : KBlock × KBlock) => t + dotBlock p.1 p.2) 0) % 2 ^ 32).toNat

/-- Block `kb` of one operand. -/
def blockAt (l : List KBlock) (kb : Nat) : KBlock := l.getD kb { vals := [], exp := 0, poison := false }

/-- A product on a tile: the rows and the predicted sideband after K-blocks `from_` to `to_ − 1`, for A rows and B columns. -/
def multiply (flt : Bool) (mode : Mode) (wA from_ to_ : Nat) (arows bcols : List (List KBlock)) (t : Tile) : Tile :=
  let cut (l : List KBlock) := (l.take to_).drop from_
  let ty := t.ty.toNat
  let rows := t.rows.zipIdx.map fun p =>
    match arows[p.2]? with
    | none => p.1
    | some a => ofLanes ty ((lanesOf ty p.1).zipIdx.map fun q => dotAll flt mode wA q.1 (cut a) (cut (bcols.getD q.2 [])))
  let blocks := (List.range (to_ - from_)).map (· + from_)
  let side := arows.zipIdx.foldl (fun side p => putRow side p.2 (blocks.foldl (fun c kb =>
    predictBlock flt mode wA c (bcols.map fun b => (blockAt p.1 kb, blockAt b kb))) (sideRow side p.2))) t.side
  let side := bcols.zipIdx.foldl (fun side p => putCol ty side p.2 (blocks.foldl (fun c kb =>
    predictBlock flt mode wA c (arows.map fun a => (blockAt a kb, blockAt p.1 kb))) (sideCol ty side p.2))) side
  { t with rows := rows, side := side }

/-! ## An operation's fields (R339, R342) -/

/-- K of an operand word. -/
def MmaOp.k (o : MmaOp) : Nat := bitsOf o.word.toNat 10 0
/-- M of an operand word. -/
def MmaOp.m (o : MmaOp) : Nat := bitsOf o.word.toNat 15 11 + 1
/-- ABUF. -/
def MmaOp.abuf (o : MmaOp) : Nat := bitsOf o.word.toNat 16 16
/-- KB0. -/
def MmaOp.kb0 (o : MmaOp) : Nat := bitsOf o.word.toNat 21 17
/-- SPART + 1. -/
def MmaOp.parts (o : MmaOp) : Nat := bitsOf o.word.toNat 27 22 + 1
/-- ATILE. -/
def MmaOp.atile (o : MmaOp) : Nat := bitsOf o.word.toNat 30 28
/-- b. -/
def MmaOp.b (o : MmaOp) : Nat := (o.k + 31) / 32
/-- AFMT. -/
def MmaOp.afmt (o : MmaOp) : Nat := bitsOf o.fmt.toNat 3 0
/-- BFMT. -/
def MmaOp.bfmt (o : MmaOp) : Nat := bitsOf o.fmt.toNat 7 4
/-- The A broadcast width (R91). -/
def MmaOp.wA (o : MmaOp) : Nat := elemBits o.afmt
/-- The captured mode. -/
def MmaOp.mode (o : MmaOp) : Mode := modeOf o.fpc
/-- Whether the operation is of the float class. -/
def MmaOp.flt (o : MmaOp) : Bool := isFloatFmt o.afmt
/-- Engine cycles of one K-block, and of the operation (R342). -/
def MmaOp.blockCycles (o : MmaOp) : Nat := (o.m + 15) / 16 * o.wA
/-- Engine cycles of the operation's remaining blocks (R342). -/
def MmaOp.cycles (o : MmaOp) : Nat := (o.b - o.blocks) * o.blockCycles + 16
/-- Its charge in nJ. -/
def MmaOp.charge (o : MmaOp) : Nat := 2 + (16 * o.m * o.b * o.wA + 624) / 625

/-- The context of an operation's memory accesses. -/
def MmaOp.ctx (o : MmaOp) (c : Nat) : Ctx :=
  { core := c, pid := o.pid, prv := o.prv, id := o.id, acct := o.acct }

/-- The resident B columns from a block on. -/
def Engine.columnsFrom (e : Engine) (kb0 : Nat) : List (List KBlock) := e.bcols.map (·.drop kb0)

/-- The raw bits of row `i` of A. -/
def State.aRow (s : State) (c : Nat) (o : MmaOp) (i : Nat) : Nat :=
  let k := s.coreAt c
  if o.fromTile then ((s.tileAt c o.atile).rows.getD i 0).toNat
  else ((if o.abuf = 0 then k.engine.abuf0 else k.engine.abuf1).getD i 0).toNat

/-- The scale words of a row of a KB operand (R101), or the fault and its address. -/
def State.scaleRow (s : State) (x : Ctx) (sc : Word) (i blocks : Nat) : State × Except (Cause × Word) (List Nat) :=
  let start := sc + BitVec.ofNat 48 (4 * (i * blocks))
  (List.range blocks).foldl (fun acc kb =>
    match acc with
    | (s, .error f) => (s, .error f)
    | (s, .ok l) =>
      let a := start + BitVec.ofNat 48 (4 * kb)
      if a.toNat % 4 != 0 then (s, .error (.align, a))
      else match (s.chargeGranules x.core x.acct 4).ctxRead x a.toNat 4 with
        | (s, .error c) => (s, .error (c, a))
        | (s, .ok bs) => (s, .ok (l ++ [leNat bs]))) (s, .ok [])

/-- The aligned K-blocks of row `i` of A, with the scale words that the engine has read (R101, R111, R112). -/
def State.aBlocks (s : State) (c : Nat) (o : MmaOp) (i : Nat) : List KBlock :=
  blocksOf o.afmt o.wA o.k o.lut (o.scales.map fun l => l.getD i 0) (s.aRow c o i)

/-- Whether A has scale words. -/
def MmaOp.scaled (o : MmaOp) : Bool := o.afmt == 2 || o.afmt == 3

/-- The scale words of A for one K-block, row by row, or the first fault. -/
def State.scaleBlock (s : State) (c : Nat) (o : MmaOp) (kb : Nat) : State × Except (Cause × Word) (List Nat) :=
  (List.range o.m).foldl (fun acc i =>
    match acc with
    | (s, .error f) => (s, .error f)
    | (s, .ok l) =>
      let a := o.sca + BitVec.ofNat 48 (4 * (i * o.b + kb))
      if a.toNat % 4 != 0 then (s, .error (.align, a))
      else match (s.chargeGranules c o.acct 4).ctxRead (o.ctx c) a.toNat 4 with
        | (s, .error f) => (s, .error (f, a))
        | (s, .ok bs) => (s, .ok (l ++ [leNat bs]))) (s, .ok [])

/-- The scale words of A block by block, as far as they can be read: those of every block before a fault, and the fault (R101,
R341). -/
def State.scaleBlocks (c : Nat) (o : MmaOp) : Nat → Nat → State → State × List (List Nat) × Option (Cause × Word)
  | 0, _, s => (s, [], none)
  | n + 1, kb, s =>
    match s.scaleBlock c o kb with
    | (s, .error f) => (s, [], some f)
    | (s, .ok l) =>
      let r := State.scaleBlocks c o n (kb + 1) s
      (r.1, l :: r.2.1, r.2.2)

/-- An operation with the scale words of its blocks below `upto`, which the engine reads on from those it has, and the fault that
stopped it. -/
def State.withScales (s : State) (c : Nat) (o : MmaOp) (upto : Nat) : State × MmaOp × Option (Cause × Word) :=
  if !o.scaled then (s, o, none)
  else
    let r := State.scaleBlocks c o (upto - o.scales.length) o.scales.length s
    (r.1, { o with scales := o.scales ++ r.2.1 }, r.2.2)

/-- The blocks of an operation that can be formed. -/
def MmaOp.formed (o : MmaOp) : Nat := if o.scaled then o.scales.length else o.b

/-- The K-blocks of every row of A. -/
def State.aMatrix (s : State) (c : Nat) (o : MmaOp) : List (List KBlock) := (List.range o.m).map (s.aBlocks c o)

/-- An element of the tile that holds the engine's last recomputable result, formed afresh from +0, in a row that the operation did not
write too (R197; notes/assumptions/157.md). -/
def State.recompute (s : State) (c t : Nat) (i j : Nat) : Option Nat :=
  let e := (s.coreAt c).engine
  match e.prov with
  | none => none
  | some p =>
    if p.tile != t then none
    else some (dotAll p.op.flt p.op.mode p.op.wA 0 (s.aBlocks c p.op i) ((e.columnsFrom p.op.kb0).getD j []))

end Sys2Proof.Machine
end

