-- ==== Sys2Proof/Machine/VecOps.lean ====
section
/-! DEFINITION. The vector operand forms: names, bindings and streams, the lane predicate, and the issue and completion that every
V-format instruction shares (R84, R86, R87, R89, R190 to R193, R200, R228, R235, R297 to R300, R316, R317, R321). -/

namespace Sys2Proof.Machine

/-! ## Names (R84, R86) -/

/-- The element type of a name's half. -/
def Binding.ty (b : Binding) (n : BitVec 6) : Nat := if n.toNat < 32 then b.tyl.toNat else b.tyh.toNat

/-- The element type a name has, if its half is bound (R297). -/
def State.vty (s : State) (n : BitVec 6) : Option Nat := s.binding.map fun b => b.ty n

/-- The type as a number; the value for an unbound half is never used. -/
def State.tyOf (s : State) (n : BitVec 6) : Nat := (s.vty n).getD 7

/-- The stream a name means. -/
def Slot.stream (v : Slot) (n : BitVec 6) : Option Stream := v.streams.find? fun t => t.vd == n

/-- Whether a stream is an input. -/
def Stream.isInput (t : Stream) : Bool := t.kind == .inPattern || t.kind == .inChannel

/-- A name that may be read: bound, and not an output stream (R84, R87). -/
def State.canRead (s : State) (n : BitVec 6) : Bool :=
  s.binding.isSome && match s.me.stream n with
    | some t => t.isInput
    | none => true

/-- A name that may be written: bound, and not an input stream. -/
def State.canWrite (s : State) (n : BitVec 6) : Bool :=
  s.binding.isSome && match s.me.stream n with
    | some t => !t.isInput
    | none => true

/-- A name that an instruction may both read and write: bound, and no stream. -/
def State.canUpdate (s : State) (n : BitVec 6) : Bool := s.binding.isSome && (s.me.stream n).isNone

/-- The name `k` rows on. -/
def rowName (n : BitVec 6) (k : Nat) : BitVec 6 := n + BitVec.ofNat 6 k

/-- The row a name denotes. -/
def State.nameRow (s : State) (n : BitVec 6) : Row :=
  match s.binding with
  | none => 0
  | some b => (s.tileAt s.core (b.tile n)).rows.getD (n.toNat % 32) 0

/-! ## Stream operands (R87, R316, R317) -/

/-- The address of entry `k` of a pattern (R314). -/
def Stream.address (t : Stream) (k : Nat) : Word :=
  t.base + BitVec.ofInt 48 ((k % t.icnt : Nat) * t.istr + (k / t.icnt : Nat) * t.ostr)

/-- Changes a bound stream. -/
def Slot.onStream (v : Slot) (num : Nat) (f : Stream → Stream) : Slot :=
  { v with streams := v.streams.map fun t => if t.num = num then f t else t }

/-- What popping or pushing gives. -/
inductive Flow (α : Type) where
  | done (s : State) (x : α)
  /-- No entry, or no room: the instruction does not issue. -/
  | wait
  | fault (cause : Cause) (eva : Word)

/-- Pops one entry of an input stream (R87, R316). -/
def State.popStream (s : State) (t : Stream) : Flow Row :=
  match t.kind with
  | .inPattern =>
    if t.cnt ≤ t.done then .fault .prot (t.address t.cnt)
    else match t.fifo with
      | [] => .wait
      | e :: r =>
        match e.fault with
        | some c => .fault c e.addr
        | none =>
          if !e.wait.isEmpty then .wait
          else .done (s.onMe fun v => v.onStream t.num fun (t : Stream) => { t with done := t.done + 1, fifo := r }) e.row
  | _ =>
    match (look t.dir s.here.inChan).getD [] with
    | [] => .wait
    | e :: r => .done (s.onHere fun k => { k with inChan := put t.dir r k.inChan }) e.row

/-- Pushes one entry to an output stream. -/
def State.pushStream (s : State) (t : Stream) (row : Row) : Flow Unit :=
  match t.kind with
  | .outPattern =>
    if t.cnt ≤ t.ahead then .fault .prot (t.address t.cnt)
    else if 4 ≤ t.fifo.length then .wait
    else .done (s.onMe fun v => v.onStream t.num fun (t : Stream) =>
      { t with ahead := t.ahead + 1, fifo := t.fifo ++ [{ row := row, fault := none, addr := t.address t.ahead, wait := [] }] }) ()
  | _ =>
    if 8 ≤ (s.chans.filter fun m => m.core == s.core && m.dir == t.dir).length then .wait
    else .done { s with chans := s.chans ++ [{ core := s.core, dir := t.dir, entry := { pid := s.me.pid, row := row } }] } ()

/-- The rows of one operand: consecutive rows of a tile, or as many entries of a stream. -/
def State.takeRows (n : BitVec 6) : Nat → Nat → State → Flow (List Row)
  | 0, _, s => .done s []
  | m + 1, k, s =>
    match (match s.me.stream n with
      | some t => s.popStream t
      | none => Flow.done s (s.nameRow (rowName n k))) with
    | .wait => .wait
    | .fault c e => .fault c e
    | .done s r =>
      match State.takeRows n m (k + 1) s with
      | .done s l => .done s (r :: l)
      | o => o

/-- The rows of every operand, in field order. -/
def State.takeAll : List (BitVec 6 × Nat) → State → Flow (List (List Row))
  | [], s => .done s []
  | p :: r, s =>
    match s.takeRows p.1 p.2 0 with
    | .wait => .wait
    | .fault c e => .fault c e
    | .done s l =>
      match State.takeAll r s with
      | .done s ls => .done s (l :: ls)
      | o => o

/-! ## Lanes and flags -/

/-- Whether lane `j` of a type is enabled by a predicate of row bytes (R235). -/
def laneOn (lanes : BitVec 128) (ty j : Nat) : Bool := lanes.getLsbD (tyBytes ty * j)

/-- The bytes of the enabled lanes of a type. -/
def enabledBytes (lanes : BitVec 128) (ty : Nat) : BitVec 128 :=
  BitVec.ofNat 128 (joinFields (tyBytes ty) ((List.range (tyLanes ty)).map fun j =>
    if laneOn lanes ty j then 2 ^ tyBytes ty - 1 else 0))

/-- The predicate in which the bytes of a lane take the lane's truth (R303). -/
def predicateOf (ty : Nat) (l : List Bool) : BitVec 128 :=
  BitVec.ofNat 128 (joinFields (tyBytes ty) (l.map fun b => if b then 2 ^ tyBytes ty - 1 else 0))

/-- Lane results with their flags as a row, and the flags of the enabled lanes (R298). -/
def packLanes (lanes : BitVec 128) (ty : Nat) (l : List (Nat × Flags)) : Row × Flags :=
  (ofLanes ty (l.map (·.1)), flagsAll (l.zipIdx.map fun p => if laneOn lanes ty p.2 then p.1.2 else 0))

/-! ## Random draws (R321) -/

/-- The output of a generator at a counter. -/
def drawAt (key ctr : XWord) : XWord :=
  let z := key + ctr * 0x9E3779B97F4A7C15
  let z := (z ^^^ (z >>> 30)) * 0xBF58476D1CE4E5B9
  let z := (z ^^^ (z >>> 27)) * 0x94D049BB133111EB
  z ^^^ (z >>> 31)

/-- Draw `k` from now of a slot. -/
def Slot.drawNext (v : Slot) (k : Nat) : XWord := drawAt v.rngKey (v.rngCtr + BitVec.ofNat 64 k)

/-- A generator advanced. -/
def Slot.advance (v : Slot) (k : Nat) : Slot := { v with rngCtr := v.rngCtr + BitVec.ofNat 64 k }

/-! ## Moduli (R89) -/

/-- Whether MQB is valid. -/
def Slot.mqValid (v : Slot) : Bool := v.mqb.getLsbD 63

/-- The moduli of the lane registers of a slot (R186). A register of value zero is no modulus: what stands for it is free
(notes/assumptions/122.md). -/
def Slot.laneModuli (v : Slot) : List Nat :=
  v.moduli.zipIdx.map fun p => if p.1.1 = 0 then (Config.laneModulus p.2).toNat else p.1.1.toNat

/-- The lane moduli a slot's writes and checks use. -/
def Slot.mq (v : Slot) : Moduli := if v.mqValid then some v.laneModuli else none

/-! ## Tiles in use (R200) -/

/-- Whether an engine operation of a core reads or writes a tile. -/
def Core.usesTile (k : Core) (t : Nat) : Bool :=
  k.engine.queue.any fun o => o.td == t || (o.fromTile && bitsOf o.word.toNat 30 28 == t)

/-! ## The shared instruction form -/

/-- A valid modulus: odd, at least 3, below 2^62. -/
def modulusOk (q : Nat) : Bool := q % 2 == 1 && 3 ≤ q && decide (q < 2 ^ 62)

/-- The pairs of a lane table of 256 bytes. -/
def moduliOf (bs : List Byte) : List (XWord × XWord) :=
  (List.range 16).map fun i => (BitVec.ofNat 64 (fieldAt bs (16 * i) 8), BitVec.ofNat 64 (fieldAt bs (16 * i + 8) 8))

/-- Whether every modulus of a table is valid. -/
def moduliOk (l : List (XWord × XWord)) : Bool := l.all fun p => modulusOk p.1.toNat

/-- The reload of R89: the lane registers from the table at MQB; or the cause and address that the modular instruction takes. An
invalid modulus clears MQB's valid bit. -/
def State.reloadModuli (s : State) (c j : Nat) : State × Option (Cause × Word) :=
  let v := s.slotAt c j
  let a := lowWord v.mqb
  match s.dataRead c j a.toNat 256 with
  | (s, .error cause) => (s, some (cause, a))
  | (s, .ok bs) =>
    let l := moduliOf bs
    if moduliOk l then (s.onSlot c j fun v => { v with moduli := l, modLoaded := true }, none)
    else (s.onSlot c j fun v => { v with mqb := setField v.mqb 63 1 0 }, some (.illegal, a))

/-! ## The code table (R97 to R99) -/

/-- LTAG.TAG. -/
def Core.tag (k : Core) : Nat := k.ltag.toNat % 4096
/-- LTAG.OWNER. -/
def Core.tagOwner (k : Core) : Nat := bitsOf k.ltag.toNat 27 12

/-- A core with the code table that an operation of a cycle sees: the old one in the cycle in which a `lutld` retires (R326). -/
def Core.seen (k : Core) (now : Nat) : Core :=
  match k.lutWas with
  | some (t, l, g) => if t = now then { k with lut := l, ltag := g } else k
  | none => k

/-- The comparison of R99 under a process: LUTTAG's EVA when it fails (R434). -/
def Core.tagCheck (k : Core) (ctag : Nat) (pid : BitVec 16) : Option Word :=
  if ctag = k.tag ∧ k.tag ≠ 0 ∧ k.tagOwner = pid.toNat then none
  else some (BitVec.ofNat 48 (ctag + k.tag * 2 ^ 12 + bit (k.tagOwner != pid.toNat) * 2 ^ 24))

/-- CTAG of a format word. -/
def ctagOf (fmt : BitVec 32) : Nat := bitsOf fmt.toNat 19 8

/-! ## The shared form -/

/-- What a vector instruction names beside its scalar operands: rows it reads in field order, rows it writes, and a further row
it writes whole; whether it is a modular form, which needs the lane registers, and whether it reads C4 values. -/
structure VUse where
  use   : Use
  reads : List (BitVec 6 × Nat) := []
  write : Option (BitVec 6 × Nat) := none
  also  : Option (BitVec 6) := none
  modular : Bool := false
  coded : Bool := false

/-- What it leaves: the written rows with the bytes written in each, the further row, its flags, how many random values it
drew. -/
structure VOut where
  rows  : List (Row × BitVec 128) := []
  also  : Row := 0
  flags : Flags := 0
  draws : Nat := 0

/-- The tiles whose rows an instruction names, streams apart. -/
def VUse.tiles (u : VUse) (s : State) : List Nat :=
  match s.binding with
  | none => []
  | some b =>
    let names := u.reads.map (·.1) ++ (match u.write with | some w => [w.1] | none => []) ++ u.also.toList
    (names.filter fun n => (s.me.stream n).isNone).map b.tile

/-- The vector registers whose values it reads. -/
def VUse.regs (u : VUse) (s : State) : List (BitVec 6) :=
  u.reads.flatMap fun p =>
    if (s.me.stream p.1).isSome then [] else (List.range p.2).map (rowName p.1)

/-- The condition of R87 on its names: read names readable, written names writable, and a name both read and written by the
form no stream. -/
def VUse.legal (u : VUse) (s : State) (update : Bool) : Bool :=
  u.reads.all (fun p => s.canRead p.1) &&
  (match u.write with
   | some w => if update then s.canUpdate w.1 else s.canWrite w.1
   | none => true) &&
  (match u.also with
   | some n => s.canUpdate n
   | none => true)

/-- A write of rows to a name: a tile's rows with their checksums, or pushes to a stream, in whose disabled lanes the spec
states no value (notes/assumptions/11.md). -/
def State.pushRows (t : Stream) : List (Row × BitVec 128) → State → Flow Unit
  | [], s => .done s ()
  | p :: r, s =>
    let row := mergeRow (Config.freeRow s.free) p.1 p.2
    match ({ s with free := s.free + 1 }.pushStream ((s.me.streams.find? fun (x : Stream) => x.num == t.num).getD t) row) with
    | .done s _ => State.pushRows t r s
    | o => o

/-- The check that a float tile of full DRIFT takes before a vector write (R191): its outcome is counted, and a tile that passes
is formed again. -/
def State.drainDrift (s : State) (t : Nat) : State :=
  let x := s.tileAt s.core t
  if tyFloat x.ty.toNat && x.drift == 255 then
    let r := x.check s.me.mq (s.recompute s.core t)
    let s := s.noteCheck s.core r false t (s.who s.core s.slot)
    s.putTile s.core t (if r.ok then r.tile.reform s.me.mq else r.tile)
  else s

/-- Rows written to a tile by name. -/
def State.storeRows (s : State) (n : BitVec 6) (rows : List (Row × BitVec 128)) : State :=
  match s.binding with
  | none => s
  | some b =>
    let t := b.tile n
    let x := (s.tileAt s.core t).writeRows s.me.mq (n.toNat % 32) (rows.map (·.1)) (rows.map (·.2))
    s.putTile s.core t { x with writer := s.me.pid }

/-- Marks written rows, given with the bytes written in each, as usable from a turn on; a row written in part also waits for its older
producer (R231, R300). -/
def State.rowsReady (s : State) (n : BitVec 6) (masks : List (BitVec 128)) (turn : Nat) : State :=
  s.onMe fun v => masks.zipIdx.foldl (fun v p =>
    let key := s.rowKey (rowName n p.2)
    v.setReady key (if p.1 = BitVec.allOnes 128 then turn else max turn ((look key v.ready).getD 0))) v

/-- Rows written to a name, whatever it means. -/
def State.writeName (s : State) (n : BitVec 6) (rows : List (Row × BitVec 128)) (lat : Nat) : Flow Unit :=
  match s.me.stream n with
  | some t => State.pushRows t rows s
  | none => .done ((s.storeRows n rows).rowsReady n (rows.map (·.2)) (s.turn + lat)) ()

/-- The completion of a vector instruction: its rows, flags and draws, then retirement. A fault leaves nothing of it. -/
def VUse.finish (u : VUse) (s0 s : State) (o : VOut) (lat : Nat) : Act :=
  let s := s.onMe fun v => { v.advance o.draws with fpc := raise v.fpc o.flags }
  let first := match u.write with
    | some w => s.writeName w.1 o.rows lat
    | none => .done s ()
  let second := match first with
    | .done s _ => match u.also with
      | some n => s.writeName n [(o.also, BitVec.allOnes 128)] lat
      | none => .done s ()
    | o => o
  match second with
  | .done s _ => .retire s none
  | .wait => .stall s0
  | .fault c eva => .trap s0 c eva

/-- The tiles whose rows it writes by name. -/
def VUse.written (u : VUse) (s : State) : List Nat := { u with reads := [] }.tiles s

/-- Input patterns forget their read-ahead from the first entry whose read faulted on (R316). -/
def State.rewind (s : State) : State :=
  s.onMe fun v => { v with streams := v.streams.map fun (t : Stream) =>
    if t.kind = .inPattern then
      let ok := t.fifo.takeWhile fun e => e.fault.isNone
      { t with fifo := ok, ahead := t.done + ok.length }
    else t }

/-- What comes before a vector instruction's operands, once it is legal: the comparison of R99, and the reload of R89, which it waits
for. -/
def VUse.before (u : VUse) (s : State) : Option Act :=
  match (if u.coded then (s.here.seen s.now).tagCheck (ctagOf s.me.fmt) s.me.pid else none) with
  | some eva => some (.trap s .luttag eva)
  | none =>
    if u.modular && !s.me.modLoaded then
      match s.reloadModuli s.core s.slot with
      | (s, some f) => some (.trap s f.1 f.2)
      | (s, none) => some (.stall s)
    else none

/-- The issue of a vector instruction: its legality, what comes before its operands, ERR (R193), engine use (R200), its stream entries,
then its effect, which is given the state before and after the entries were taken. -/
def vissue (u : VUse) (ok update : Bool) (s : State) (body : State → State → List (List Row) → Act) : Out :=
  issue { u.use with legal := u.use.legal && ok && u.legal s update, vecs := u.regs s } s fun s => (u.before s).getD <|
    match (u.tiles s).find? fun t => (s.tileAt s.core t).err with
    | some t => .trap s .cksum (tileEva t)
    | none =>
      if (u.tiles s).any s.here.usesTile then .stall s
      else
        let s := (u.written s).foldl State.drainDrift s
        match (u.written s).find? fun t => (s.tileAt s.core t).err with
        | some t => .trap s .cksum (tileEva t)
        | none => match State.takeAll u.reads s with
          | .wait => .stall s
          | .fault c eva => .trap s.rewind c eva
          | .done t rows => body s t rows

/-- The lanes of the row at a position among an instruction's operands. -/
def laneRow (ty : Nat) (rows : List (List Row)) (i : Nat) : List Nat := lanesOf ty ((rows.getD i []).headD 0)

end Sys2Proof.Machine
end

