-- ==== Sys2Proof/Machine/Vector.lean ====
section
/-! DEFINITION. Vector arithmetic, comparisons, special functions, permutations, reductions and lane moves (R301 to R304, R308,
R312, R319 to R322). -/

namespace Sys2Proof.Machine

/-! ## Shared shapes -/

/-- The value of a float lane. -/
def laneFp (ty x : Nat) : Fp := if ty = 0 then decode32 x else decode16 x

/-- A value rounded into a float lane. -/
def fpLane (ty : Nat) (mode : Mode) (sticky : Bool) (v : Fp) : Nat × Flags :=
  encodeFloat (if ty = 0 then fp32 else bf16) mode sticky v

/-- A result with its operation's flags rounded into a lane. -/
def roundLane (ty : Nat) (mode : Mode) (r : Fp × Bool × Flags) : Nat × Flags :=
  let e := fpLane ty mode r.2.1 r.1
  (e.1, r.2.2 ||| e.2)

/-- An exact result with its flags. -/
def exactly (r : Fp × Flags) : Fp × Bool × Flags := (r.1, false, r.2)

/-- The integer types. -/
def tyInt (ty : Nat) : Bool := ty == 1 || ty == 3 || ty == 4

/-- A form whose lanes are computed each from the lanes of two sources and of the old destination when `update`. -/
def lanewise (i : Instr) (ok : Nat → Bool) (update : Bool) (lat : Nat) (d : BitVec 6) (srcs : List (BitVec 6)) (t : BitVec 3)
    (f : Nat → BitVec 32 → Nat → Nat → Nat → Nat × Flags) (s : State) : Out :=
  let ty := s.tyOf d
  let u : VUse := { use := { use i with st := t }, write := some (d, 1),
                    reads := (if update then [(d, 1)] else []) ++ srcs.map fun n => (n, 1) }
  vissue u (ok ty && srcs.all fun n => s.tyOf n == ty) update s fun s0 s rows =>
    let ls := if update then rows else [] :: rows
    let old := laneRow ty ls 0
    let a := laneRow ty ls 1
    let b := laneRow ty ls 2
    let v := s.me
    let r := packLanes v.lanes ty ((List.range (tyLanes ty)).map fun j => f ty v.fpc (old.getD j 0) (a.getD j 0) (b.getD j 0))
    u.finish s0 s { rows := [(r.1, enabledBytes v.lanes ty)], flags := r.2 } lat

/-- A float form of two sources. -/
def floatBin (i : Instr) (lat : Nat) (f : Mode → Fp → Fp → Fp × Bool × Flags) (d a b : BitVec 6) (t : BitVec 3) (s : State) : Out :=
  lanewise i tyFloat false lat d [a, b] t
    (fun ty fpc _ x y => roundLane ty (modeOf fpc) (f (modeOf fpc) (laneFp ty x) (laneFp ty y))) s

/-- A float form of one source. -/
def floatUn (i : Instr) (lat : Nat) (f : Fp → Fp × Bool × Flags) (d a : BitVec 6) (t : BitVec 3) (s : State) : Out :=
  lanewise i tyFloat false lat d [a] t (fun ty fpc _ x _ => roundLane ty (modeOf fpc) (f (laneFp ty x))) s

/-- A float form that adds to or takes from the old destination. -/
def floatAcc (i : Instr) (minus : Bool) (d a b : BitVec 6) (t : BitVec 3) (s : State) : Out :=
  lanewise i tyFloat true 3 d [a, b] t (fun ty fpc o x y =>
    let a := if minus then (laneFp ty x).flip else laneFp ty x
    roundLane ty (modeOf fpc) (exactly (fmaFp (modeOf fpc) a (laneFp ty y) (laneFp ty o)))) s

/-- An integer form of two sources on raw lanes, given the width. -/
def intBin (i : Instr) (lat : Nat) (f : Nat → Nat → Nat → Nat) (d a b : BitVec 6) (t : BitVec 3) (s : State) : Out :=
  lanewise i tyInt false lat d [a, b] t (fun ty _ _ x y => (f (tyBits ty) x y, 0)) s

/-- An integer as a raw lane. -/
def wrapTo (w : Nat) (v : Int) : Nat := (v % 2 ^ w).toNat

/-- A signed saturating result as a raw lane (R95). -/
def satSigned (w : Nat) (v : Int) : Nat := wrapTo w (clampTo w v)

/-- An unsigned saturating result as a raw lane (R95). -/
def satUnsigned (w : Nat) (v : Int) : Nat := (max 0 (min (2 ^ w - 1) v)).toNat

/-- The magnitude of a value: a NaN stays one, signalling only when it was (R301). -/
def absFp : Fp → Fp
  | .fin _ m e => .fin false m e
  | .inf _ => .inf false
  | .nan s => .nan s

/-! ## Floating point (R301) -/

/-- `vadd` (R301). -/
def execVadd (d a b : BitVec 6) (t : BitVec 3) (s : State) : Out :=
  floatBin (.vadd d a b t) 2 (fun m x y => exactly (addFp m x y)) d a b t s

/-- `vsub` (R301). -/
def execVsub (d a b : BitVec 6) (t : BitVec 3) (s : State) : Out :=
  floatBin (.vsub d a b t) 2 (fun m x y => exactly (addFp m x y.flip)) d a b t s

/-- `vmul` (R301). -/
def execVmul (d a b : BitVec 6) (t : BitVec 3) (s : State) : Out :=
  floatBin (.vmul d a b t) 3 (fun _ x y => exactly (mulFp x y)) d a b t s

/-- `vfma` (R301). -/
def execVfma (d a b : BitVec 6) (t : BitVec 3) (s : State) : Out := floatAcc (.vfma d a b t) false d a b t s

/-- `vfms` (R301). -/
def execVfms (d a b : BitVec 6) (t : BitVec 3) (s : State) : Out := floatAcc (.vfms d a b t) true d a b t s

/-- `vmin` (R301). -/
def execVmin (d a b : BitVec 6) (t : BitVec 3) (s : State) : Out :=
  floatBin (.vmin d a b t) 2 (fun _ x y => exactly (minFp x y)) d a b t s

/-- `vmax` (R301). -/
def execVmax (d a b : BitVec 6) (t : BitVec 3) (s : State) : Out :=
  floatBin (.vmax d a b t) 2 (fun _ x y => exactly (maxFp x y)) d a b t s

/-- `vabs` (R301). -/
def execVabs (d a : BitVec 6) (t : BitVec 3) (s : State) : Out :=
  floatUn (.vabs d a t) 2 (fun x => (absFp x, false, 0)) d a t s

/-- `vneg` (R301). -/
def execVneg (d a : BitVec 6) (t : BitVec 3) (s : State) : Out :=
  floatUn (.vneg d a t) 2 (fun x => (x.flip, false, 0)) d a t s

/-- `vdiv` (R301). -/
def execVdiv (d a b : BitVec 6) (t : BitVec 3) (s : State) : Out :=
  floatBin (.vdiv d a b t) 6 (fun _ x y => divFp x y) d a b t s

/-- `vsqrt` (R301). -/
def execVsqrt (d a : BitVec 6) (t : BitVec 3) (s : State) : Out := floatUn (.vsqrt d a t) 6 sqrtFp d a t s

/-! ## Integers (R302) -/

/-- `viadd` (R302). -/
def execViadd (d a b : BitVec 6) (t : BitVec 3) (s : State) : Out :=
  intBin (.viadd d a b t) 1 (fun w x y => wrapTo w (sx w x + sx w y)) d a b t s

/-- `visub` (R302). -/
def execVisub (d a b : BitVec 6) (t : BitVec 3) (s : State) : Out :=
  intBin (.visub d a b t) 1 (fun w x y => wrapTo w (sx w x - sx w y)) d a b t s

/-- `viadds` (R302). -/
def execViadds (d a b : BitVec 6) (t : BitVec 3) (s : State) : Out :=
  intBin (.viadds d a b t) 1 (fun w x y => satSigned w (sx w x + sx w y)) d a b t s

/-- `visubs` (R302). -/
def execVisubs (d a b : BitVec 6) (t : BitVec 3) (s : State) : Out :=
  intBin (.visubs d a b t) 1 (fun w x y => satSigned w (sx w x - sx w y)) d a b t s

/-- `viaddn` (R302). -/
def execViaddn (d a b : BitVec 6) (t : BitVec 3) (s : State) : Out :=
  intBin (.viaddn d a b t) 1 (fun w x y => satUnsigned w (x + y)) d a b t s

/-- `visubn` (R302). -/
def execVisubn (d a b : BitVec 6) (t : BitVec 3) (s : State) : Out :=
  intBin (.visubn d a b t) 1 (fun w x y => satUnsigned w ((x : Int) - y)) d a b t s

/-- `vimul` (R302). -/
def execVimul (d a b : BitVec 6) (t : BitVec 3) (s : State) : Out :=
  intBin (.vimul d a b t) 2 (fun w x y => wrapTo w (sx w x * sx w y)) d a b t s

/-- `vimulh` (R302). -/
def execVimulh (d a b : BitVec 6) (t : BitVec 3) (s : State) : Out :=
  intBin (.vimulh d a b t) 2 (fun w x y => wrapTo w (sx w x * sx w y / 2 ^ w)) d a b t s

/-- `vimac` (R302). -/
def execVimac (d a b : BitVec 6) (t : BitVec 3) (s : State) : Out :=
  lanewise (.vimac d a b t) tyInt true 2 d [a, b] t
    (fun ty _ o x y => (wrapTo (tyBits ty) (sx (tyBits ty) o + sx (tyBits ty) x * sx (tyBits ty) y), 0)) s

/-- `vimin` (R302). -/
def execVimin (d a b : BitVec 6) (t : BitVec 3) (s : State) : Out :=
  intBin (.vimin d a b t) 1 (fun w x y => if sx w x ≤ sx w y then x else y) d a b t s

/-- `vimax` (R302). -/
def execVimax (d a b : BitVec 6) (t : BitVec 3) (s : State) : Out :=
  intBin (.vimax d a b t) 1 (fun w x y => if sx w x ≤ sx w y then y else x) d a b t s

/-- `viminn` (R302). -/
def execViminn (d a b : BitVec 6) (t : BitVec 3) (s : State) : Out :=
  intBin (.viminn d a b t) 1 (fun _ x y => min x y) d a b t s

/-- `vimaxn` (R302). -/
def execVimaxn (d a b : BitVec 6) (t : BitVec 3) (s : State) : Out :=
  intBin (.vimaxn d a b t) 1 (fun _ x y => max x y) d a b t s

/-- `vand`, on any type but MR64 (R297, R302). -/
def execVand (d a b : BitVec 6) (t : BitVec 3) (s : State) : Out :=
  lanewise (.vand d a b t) (· != 5) false 1 d [a, b] t (fun _ _ _ x y => (x &&& y, 0)) s

/-- `vor`, on any type but MR64 (R297, R302). -/
def execVor (d a b : BitVec 6) (t : BitVec 3) (s : State) : Out :=
  lanewise (.vor d a b t) (· != 5) false 1 d [a, b] t (fun _ _ _ x y => (x ||| y, 0)) s

/-- `vxor`, on any type but MR64 (R297, R302). -/
def execVxor (d a b : BitVec 6) (t : BitVec 3) (s : State) : Out :=
  lanewise (.vxor d a b t) (· != 5) false 1 d [a, b] t (fun _ _ _ x y => (x ^^^ y, 0)) s

/-- `vshl` (R302). -/
def execVshl (d a b : BitVec 6) (t : BitVec 3) (s : State) : Out :=
  intBin (.vshl d a b t) 1 (fun w x k => if w ≤ k then 0 else x * 2 ^ k % 2 ^ w) d a b t s

/-- `vshr` (R302). -/
def execVshr (d a b : BitVec 6) (t : BitVec 3) (s : State) : Out :=
  intBin (.vshr d a b t) 1 (fun w x k => if w ≤ k then 0 else x / 2 ^ k) d a b t s

/-- `vsar` (R302). -/
def execVsar (d a b : BitVec 6) (t : BitVec 3) (s : State) : Out :=
  intBin (.vsar d a b t) 1 (fun w x k => wrapTo w (sx w x / 2 ^ min k w)) d a b t s

/-- `vsel`: every lane is written, from va where it is enabled and from vb elsewhere (R298, R302). -/
def execVsel (d a b : BitVec 6) (t : BitVec 3) (s : State) : Out :=
  let ty := s.tyOf d
  let u : VUse := { use := { use (.vsel d a b t) with st := t }, reads := [(a, 1), (b, 1)], write := some (d, 1) }
  vissue u (s.tyOf a == ty && s.tyOf b == ty) false s fun s0 s rows =>
    let x := (rows.getD 0 []).headD 0
    let y := (rows.getD 1 []).headD 0
    u.finish s0 s { rows := [(mergeRow y x (enabledBytes s.me.lanes ty), BitVec.allOnes 128)] } 1

/-! ## Comparisons and the lane predicate (R303, R304) -/

/-- A comparison: it replaces the lane predicate, and flags come from the lanes enabled before. -/
def compareForm (i : Instr) (ok : Nat → Bool) (a b : BitVec 6) (t : BitVec 3) (f : Nat → Nat → Nat → Bool × Flags) (s : State) :
    Out :=
  let ty := s.tyOf a
  let u : VUse := { use := { use i with st := t }, reads := [(a, 1), (b, 1)] }
  vissue u (ok ty && s.tyOf b == ty) false s fun s0 s rows =>
    let x := laneRow ty rows 0
    let y := laneRow ty rows 1
    let r := (List.range (tyLanes ty)).map fun j => f ty (x.getD j 0) (y.getD j 0)
    let fl := flagsAll (r.zipIdx.map fun p => if laneOn s.me.lanes ty p.2 then p.1.2 else 0)
    u.finish s0 (s.onMe fun v => { v with lanes := predicateOf ty (r.map (·.1)) }) { flags := fl } 1

/-- A float comparison: `quiet` ones set NV for a signalling NaN only. -/
def floatCmp (i : Instr) (quiet : Bool) (f : Fp → Fp → Bool) (a b : BitVec 6) (t : BitVec 3) (s : State) : Out :=
  compareForm i tyFloat a b t (fun ty x y =>
    let p := laneFp ty x
    let q := laneFp ty y
    (f p q, flagIf (if quiet then p.isSignal || q.isSignal else p.isNan || q.isNan) flagNV)) s

/-- An integer comparison. -/
def intCmp (i : Instr) (f : Nat → Nat → Nat → Bool) (a b : BitVec 6) (t : BitVec 3) (s : State) : Out :=
  compareForm i tyInt a b t (fun ty x y => (f (tyBits ty) x y, 0)) s

/-- `vcmp.eq` (R303). -/
def execVcmpEq (a b : BitVec 6) (t : BitVec 3) (s : State) : Out :=
  floatCmp (.vcmpEq a b t) true eqFp a b t s

/-- `vcmp.ne` (R303). -/
def execVcmpNe (a b : BitVec 6) (t : BitVec 3) (s : State) : Out :=
  floatCmp (.vcmpNe a b t) true (fun x y => !eqFp x y) a b t s

/-- `vcmp.lt` (R303). -/
def execVcmpLt (a b : BitVec 6) (t : BitVec 3) (s : State) : Out :=
  floatCmp (.vcmpLt a b t) false ltFp a b t s

/-- `vcmp.le` (R303). -/
def execVcmpLe (a b : BitVec 6) (t : BitVec 3) (s : State) : Out :=
  floatCmp (.vcmpLe a b t) false (fun x y => ltFp x y || eqFp x y) a b t s

/-- `vcmp.un` (R303). -/
def execVcmpUn (a b : BitVec 6) (t : BitVec 3) (s : State) : Out :=
  floatCmp (.vcmpUn a b t) true (fun x y => x.isNan || y.isNan) a b t s

/-- `vicmp.eq` (R303). -/
def execVicmpEq (a b : BitVec 6) (t : BitVec 3) (s : State) : Out :=
  intCmp (.vicmpEq a b t) (fun _ x y => x == y) a b t s

/-- `vicmp.lt` (R303). -/
def execVicmpLt (a b : BitVec 6) (t : BitVec 3) (s : State) : Out :=
  intCmp (.vicmpLt a b t) (fun w x y => decide (sx w x < sx w y)) a b t s

/-- `vicmp.ltn` (R303). -/
def execVicmpLtn (a b : BitVec 6) (t : BitVec 3) (s : State) : Out :=
  intCmp (.vicmpLtn a b t) (fun _ x y => decide (x < y)) a b t s

/-- `vmsk`: enables the lanes whose raw bits are nonzero (R304). -/
def execVmsk (a : BitVec 6) (t : BitVec 3) (s : State) : Out :=
  let ty := s.tyOf a
  let u : VUse := { use := { use (.vmsk a t) with st := t }, reads := [(a, 1)] }
  vissue u true false s fun s0 s rows =>
    u.finish s0 (s.onMe fun v => { v with lanes := predicateOf ty ((laneRow ty rows 0).map (· != 0)) }) {} 1

/-- `vmskall` (R304), which names no vector register and needs no binding (R84; notes/assumptions/153.md). -/
def execVmskall (t : BitVec 3) (s : State) : Out :=
  issue { use (.vmskall t) with st := t } s fun s =>
    .retire (s.onMe fun v => { v with lanes := BitVec.allOnes 128 }) none

/-! ## Special functions (R308) -/

/-- `vexp2` (R308). -/
def execVexp2 (d a : BitVec 6) (t : BitVec 3) (s : State) : Out := floatUn (.vexp2 d a t) 4 (special 0) d a t s

/-- `vlog2` (R308). -/
def execVlog2 (d a : BitVec 6) (t : BitVec 3) (s : State) : Out := floatUn (.vlog2 d a t) 4 (special 1) d a t s

/-- `vrcp` (R308). -/
def execVrcp (d a : BitVec 6) (t : BitVec 3) (s : State) : Out := floatUn (.vrcp d a t) 4 (special 2) d a t s

/-- `vrsqrt` (R308). -/
def execVrsqrt (d a : BitVec 6) (t : BitVec 3) (s : State) : Out := floatUn (.vrsqrt d a t) 4 (special 3) d a t s

/-- `vsin` (R308). -/
def execVsin (d a : BitVec 6) (t : BitVec 3) (s : State) : Out := floatUn (.vsin d a t) 4 (special 4) d a t s

/-- `vcos` (R308). -/
def execVcos (d a : BitVec 6) (t : BitVec 3) (s : State) : Out := floatUn (.vcos d a t) 4 (special 5) d a t s

/-- `vtanh` (R308). -/
def execVtanh (d a : BitVec 6) (t : BitVec 3) (s : State) : Out := floatUn (.vtanh d a t) 4 (special 6) d a t s

/-- `vexp` (R308). -/
def execVexp (d a : BitVec 6) (t : BitVec 3) (s : State) : Out := floatUn (.vexp d a t) 4 (special 7) d a t s

/-- `vlse` (R308). -/
def execVlse (d a b : BitVec 6) (t : BitVec 3) (s : State) : Out :=
  floatBin (.vlse d a b t) 6 (fun _ x y => specialLse x y) d a b t s

/-! ## Permutations (R312) -/

/-- A form that moves whole lanes of va. -/
def permute (i : Instr) (ok : Nat → Bool) (d a : BitVec 6) (t : BitVec 3) (f : Nat → Nat → Nat) (s : State) : Out :=
  let ty := s.tyOf d
  let u : VUse := { use := { use i with st := t }, reads := [(a, 1)], write := some (d, 1) }
  vissue u (ok ty && s.tyOf a == ty) false s fun s0 s rows =>
    let x := laneRow ty rows 0
    let l := tyLanes ty
    let r := ofLanes ty ((List.range l).map fun j => x.getD (f l j) 0)
    u.finish s0 s { rows := [(r, enabledBytes s.me.lanes ty)] } 1

/-- A lane index with bits 0 and `k` exchanged. -/
def swapBits (k j : Nat) : Nat := if bitAt j 0 == bitAt j k then j else (j ^^^ 1) ^^^ 2 ^ k

/-- `vbst` (R312). -/
def execVbst (d a k : BitVec 6) (t : BitVec 3) (s : State) : Out :=
  permute (.vbst d a k t) (fun ty => decide (2 ^ k.toNat < tyLanes ty)) d a t (fun _ j => if k = 0 then j else swapBits k.toNat j) s

/-- `vrev` (R312). -/
def execVrev (d a : BitVec 6) (t : BitVec 3) (s : State) : Out :=
  permute (.vrev d a t) (fun _ => true) d a t (fun l j => l - 1 - j) s

/-- `vshuf`: the lanes of vb, of any type with at least as many lanes, choose (R297, R312). -/
def execVshuf (d a b : BitVec 6) (t : BitVec 3) (s : State) : Out :=
  let ty := s.tyOf d
  let tb := s.tyOf b
  let u : VUse := { use := { use (.vshuf d a b t) with st := t }, reads := [(a, 1), (b, 1)], write := some (d, 1) }
  vissue u (s.tyOf a == ty && decide (tyLanes ty ≤ tyLanes tb)) false s fun s0 s rows =>
    let x := laneRow ty rows 0
    let n := laneRow tb rows 1
    let l := tyLanes ty
    let r := ofLanes ty ((List.range l).map fun j => x.getD (n.getD j 0 % l) 0)
    u.finish s0 s { rows := [(r, enabledBytes s.me.lanes ty)] } 1

/-! ## Reductions (R115, R319) -/

/-- A reduction to a scalar: over float lanes in binary32 by the pairwise tree, or over the signed values of integer lanes. -/
def reduceForm (i : Instr) (neutral : Nat) (f : Mode → Fp → Fp → Fp × Flags) (zero : Int) (g : Int → Int → Int) (d : BitVec 5)
    (a : BitVec 6) (t : BitVec 3) (s : State) : Out :=
  let ty := s.tyOf a
  let u : VUse := { use := { use i with st := t, dsts := [d] }, reads := [(a, 1)] }
  vissue u (ty != 5) false s fun s0 s rows =>
    let x := (laneRow ty rows 0).zipIdx
    let on (j : Nat) := laneOn s.me.lanes ty j
    if tyFloat ty then
      let mode := modeOf s.me.fpc
      let step (p q : Nat × Flags) : Nat × Flags :=
        let r := f mode (decode32 p.1) (decode32 q.1)
        let e := encodeFloat fp32 mode false r.1
        (e.1, p.2 ||| q.2 ||| r.2 ||| e.2)
      let l := x.map fun p => (if on p.2 then laneF32 ty p.1 else neutral, (0 : Flags))
      let r := ((treeOf step 7 l).head?).getD (0, 0)
      u.finish s0 (s.dst d (BitVec.ofNat 48 r.1) 0 3) { flags := r.2 } 3
    else
      let l := x.filterMap fun p => if on p.2 then some (sx (tyBits ty) p.1) else none
      let r := match l with
        | [] => zero
        | v :: r => r.foldl g v
      u.finish s0 (s.dst d (BitVec.ofInt 48 r) 0 3) {} 3

/-- `vrsum` (R319). -/
def execVrsum (d : BitVec 5) (a : BitVec 6) (t : BitVec 3) (s : State) : Out :=
  reduceForm (.vrsum d a t) 0 addFp 0 (· + ·) d a t s

/-- `vrmax`: with every lane disabled an integer reduction has no neutral value in its type; its value is free
(notes/assumptions/11.md). -/
def execVrmax (d : BitVec 5) (a : BitVec 6) (t : BitVec 3) (s : State) : Out :=
  reduceForm (.vrmax d a t) 0xFF800000 (fun _ x y => maxFp x y) (Config.freeXword s.free).toInt max d a t
    { s with free := s.free + 1 }

/-- `vrmin`, likewise (R319). -/
def execVrmin (d : BitVec 5) (a : BitVec 6) (t : BitVec 3) (s : State) : Out :=
  reduceForm (.vrmin d a t) 0x7F800000 (fun _ x y => minFp x y) (Config.freeXword s.free).toInt min d a t
    { s with free := s.free + 1 }

/-- `vrprod` (R319). -/
def execVrprod (d : BitVec 5) (a : BitVec 6) (t : BitVec 3) (s : State) : Out :=
  reduceForm (.vrprod d a t) 0x3F800000 (fun _ x y => mulFp x y) 1 (· * ·) d a t s

/-! ## Lane moves and random numbers (R320 to R322) -/

/-- `vbcast` (R320). -/
def execVbcast (d : BitVec 6) (a : BitVec 5) (t : BitVec 3) (s : State) : Out :=
  let ty := s.tyOf d
  let u : VUse := { use := { use (.vbcast d a t) with st := t, srcs := [(a, 0)] }, write := some (d, 1) }
  vissue u true false s fun s0 s _ =>
    let r := ofLanes ty (List.replicate (tyLanes ty) (s.src a).toNat)
    u.finish s0 s { rows := [(r, enabledBytes s.me.lanes ty)] } 1

/-- A lane as a scalar (R320). -/
def laneScalar (ty x : Nat) : Word := if tyInt ty then BitVec.ofInt 48 (sx (tyBits ty) x) else BitVec.ofNat 48 x

/-- `vext` (R320). -/
def execVext (d : BitVec 5) (a : BitVec 6) (b : BitVec 5) (t : BitVec 3) (s : State) : Out :=
  let ty := s.tyOf a
  let u : VUse := { use := { use (.vext d a b t) with st := t, srcs := [(b, 0)], dsts := [d] }, reads := [(a, 1)] }
  vissue u true false s fun s0 s rows =>
    let i := (s.src b).toNat
    let x := if tyLanes ty ≤ i then 0 else laneScalar ty ((laneRow ty rows 0).getD i 0)
    u.finish s0 (s.dst d x 0 1) {} 1

/-- `vmov`: the raw bytes, in the lanes enabled in the type of vd (R320). -/
def execVmov (d a : BitVec 6) (t : BitVec 3) (s : State) : Out :=
  let u : VUse := { use := { use (.vmov d a t) with st := t }, reads := [(a, 1)], write := some (d, 1) }
  vissue u true false s fun s0 s rows =>
    u.finish s0 s { rows := [((rows.getD 0 []).headD 0, enabledBytes s.me.lanes (s.tyOf d))] } 1

/-- `vrand`: sixteen draws, whatever the predicate (R322). -/
def execVrand (d : BitVec 6) (t : BitVec 3) (s : State) : Out :=
  let u : VUse := { use := { use (.vrand d t) with st := t }, write := some (d, 1) }
  vissue u true false s fun s0 s _ =>
    let v := s.me
    let r : Row := BitVec.ofNat 1024 (joinFields 64 ((List.range 16).map fun k => (v.drawNext k).toNat))
    u.finish s0 s { rows := [(r, enabledBytes v.lanes (s.tyOf d))], draws := 16 } 1

/-- `vseed` (R322), which names no vector register and needs no binding (R84; notes/assumptions/153.md). -/
def execVseed (a b : BitVec 5) (t : BitVec 3) (s : State) : Out :=
  issue { use (.vseed a b t) with
          srcs := [(a, 0), (b, 0)], st := t } s fun s =>
    .retire (s.onMe fun v => { v with rngKey := (s.src a).setWidth 64, rngCtr := (s.src b).setWidth 64 <<< 16 }) none

end Sys2Proof.Machine
end

