-- ==== Sys2Proof/Machine/Convert.lean ====
section
/-! DEFINITION. Conversions of vector rows, and the lane moduli in force for modular forms (R89, R99, R102, R103, R108, R305 to
R307, R310). -/

namespace Sys2Proof.Machine

/-! ## Elements of several rows (R305) -/

/-- How a conversion's rows are shaped: the lane counts of its source and its destination. -/
structure Spans where
  src : Nat
  dst : Nat
deriving DecidableEq, Repr

/-- The elements it treats. -/
def Spans.count (p : Spans) : Nat := max p.src p.dst
/-- The rows it reads. -/
def Spans.reads (p : Spans) : Nat := p.count / p.src
/-- The rows it writes. -/
def Spans.writes (p : Spans) : Nat := p.count / p.dst

/-- Whether register numbers suit the row counts. -/
def Spans.aligned (p : Spans) (d a : BitVec 6) : Bool := a.toNat % p.reads == 0 && d.toNat % p.writes == 0

/-- A conversion by elements: every element is converted, the enabled ones are written and raise flags; `draws` random values
are taken. Element `k` is given with its index. -/
def convertForm (i : Instr) (ok : Bool) (p : Spans) (d a : BitVec 6) (more : List (BitVec 6)) (also : Option (BitVec 6)) (t : BitVec 3)
    (lat : Nat) (draws : State → Nat) (f : State → List (List Row) → List (Nat × Flags) × Row) (s : State)
    (modular coded : Bool := false) : Out :=
  let ty := s.tyOf d
  let u : VUse := { use := { use i with st := t }, reads := (a, p.reads) :: more.map fun n => (n, 1), write := some (d, p.writes),
                    also := also, modular := modular, coded := coded }
  vissue u (ok && p.aligned d a) false s fun s0 s rows =>
    let v := s.me
    let r := f s rows
    let parts := (chunks (tyLanes ty) p.writes r.1).map (packLanes v.lanes ty)
    u.finish s0 s { rows := parts.map fun x => (x.1, enabledBytes v.lanes ty), also := r.2, flags := flagsAll (parts.map (·.2)),
                    draws := draws s } lat

/-- The lanes of every row of the first operand, in order. -/
def allLanes (ty : Nat) (rows : List (List Row)) : List Nat := (rows.getD 0 []).flatMap (lanesOf ty)

/-- The mode of an element's stochastic conversion: a draw of its own (R105, R321). -/
def modeFor (v : Slot) (k : Nat) : Mode :=
  if stochastic v.fpc then .sr ((v.drawNext k).toNat % 65536) else modeOf v.fpc

/-- How many values a conversion draws: one for each element under SR. -/
def drawsFor (n : Nat) (s : State) : Nat := if stochastic s.me.fpc then n else 0

/-- A conversion of single elements in the slot's mode, stochastic where the form permits it. -/
def eachElement (sr : Bool) (ty : Nat) (f : Mode → BitVec 32 → Nat → Nat → Nat × Flags) (s : State) (rows : List (List Row)) :
    List (Nat × Flags) × Row :=
  let v := s.me
  ((allLanes ty rows).zipIdx.map fun p => f (if sr then modeFor v p.2 else modeOf v.fpc) v.fpc p.2 p.1, 0)

/-! ## Float destinations (R306) -/

/-- `vcvt.bf`. -/
def execVcvtBf (d a : BitVec 6) (t : BitVec 3) (s : State) : Out :=
  convertForm (.vcvtBf d a t) (s.tyOf a == 0 && s.tyOf d == 2) { src := 32, dst := 64 } d a [] none t 2 (drawsFor 64)
    (eachElement true 0 fun m _ _ x => encodeFloat bf16 m false (decode32 x)) s

/-- `vcvt.f8`. -/
def execVcvtF8 (d a : BitVec 6) (t : BitVec 3) (s : State) : Out :=
  let ty := s.tyOf a
  convertForm (.vcvtF8 d a t) (tyFloat ty && s.tyOf d == 4) { src := tyLanes ty, dst := 128 } d a [] none t 2 (drawsFor 128)
    (eachElement true ty fun m fpc _ x => encode8 m (satF8 fpc) (laneFp ty x)) s

/-- `vcvt.flt`: stochastic with a BF16 destination only. -/
def execVcvtFlt (d a : BitVec 6) (t : BitVec 3) (s : State) : Out :=
  let ty := s.tyOf a
  let td := s.tyOf d
  let p : Spans := { src := tyLanes ty, dst := tyLanes td }
  convertForm (.vcvtFlt d a t) (tyInt ty && tyFloat td) p d a [] none t 2 (if td = 2 then drawsFor p.count else fun _ => 0)
    (eachElement (td == 2) ty fun m _ _ x => fpLane td m false (ofInt (sx (tyBits ty) x))) s

/-! ## Integer and residue destinations (R306) -/

/-- `vcvt.int`. -/
def execVcvtInt (d a : BitVec 6) (t : BitVec 3) (s : State) : Out :=
  let ty := s.tyOf a
  let w := tyBits (s.tyOf d)
  convertForm (.vcvtInt d a t) (tyFloat ty && tyInt (s.tyOf d)) { src := tyLanes ty, dst := tyLanes (s.tyOf d) } d a [] none t 2
    (fun _ => 0)
    (eachElement false ty fun m _ _ x =>
      let r := toIntSat m (-(2 ^ (w - 1))) (2 ^ (w - 1) - 1) (laneFp ty x)
      (wrapTo w r.1, r.2)) s

/-- `vnarrow`, `vnarrows`: sign-extending to a wider type; wrapping or saturating to a narrower one. -/
def narrowForm (i : Instr) (f : Nat → Int → Nat) (d a : BitVec 6) (t : BitVec 3) (s : State) : Out :=
  let ty := s.tyOf a
  let td := s.tyOf d
  convertForm i (tyInt ty && tyInt td && ty != td) { src := tyLanes ty, dst := tyLanes td } d a [] none t 2 (fun _ => 0)
    (eachElement false ty fun _ _ _ x => (f (tyBits td) (sx (tyBits ty) x), 0)) s

/-- `vnarrow`. -/
def execVnarrow (d a : BitVec 6) (t : BitVec 3) (s : State) : Out := narrowForm (.vnarrow d a t) wrapTo d a t s

/-- `vnarrows`. -/
def execVnarrows (d a : BitVec 6) (t : BitVec 3) (s : State) : Out := narrowForm (.vnarrows d a t) satSigned d a t s

/-! ## Block formats (R102, R307) -/

/-- Elements and scale words of blocks of 32. -/
def toBlocks (eight : Bool) (mode : Mode) (xs : List Nat) : List (Nat × Flags) × List Nat :=
  let bs := (chunks 32 (xs.length / 32) xs).map (toBlock eight mode)
  (bs.flatMap (·.2), bs.map (·.1))

/-- Pairs of 4-bit elements packed to bytes, with the flags of both. -/
def packPairs : List (Nat × Flags) → List (Nat × Flags)
  | x :: y :: r => (x.1 + 16 * y.1, x.2 ||| y.2) :: packPairs r
  | _ => []

/-- `vcvt.kb8` and `vcvt.kb4`: the elements to vd, the scale words to the low lanes of vb. They need a float, an S8 and an S32 row,
and a binding gives the names of its two halves two types, so that every issue is ILLEGAL (notes/assumptions/90.md). -/
def blockForm (i : Instr) (eight : Bool) (d a b : BitVec 6) (t : BitVec 3) (s : State) : Out :=
  let ty := s.tyOf a
  convertForm i (tyFloat ty && s.tyOf d == 4 && s.tyOf b == 1 && s.canUpdate b)
    { src := tyLanes ty, dst := if eight then 128 else 256 } d a [] (some b) t 4 (fun _ => 0)
    (fun s rows =>
      let r := toBlocks eight (modeOf s.me.fpc) ((allLanes ty rows).map (laneF32 ty))
      (if eight then r.1 else packPairs r.1, ofLanes 1 r.2)) s

/-- `vcvt.kb8`. -/
def execVcvtKb8 (d a b : BitVec 6) (t : BitVec 3) (s : State) : Out := blockForm (.vcvtKb8 d a b t) true d a b t s

/-- `vcvt.kb4`. -/
def execVcvtKb4 (d a b : BitVec 6) (t : BitVec 3) (s : State) : Out := blockForm (.vcvtKb4 d a b t) false d a b t s

/-- Whether a format word's reserved field is zero (R109). -/
def fmtOk (fmt : BitVec 32) : Bool := bitsOf fmt.toNat 31 20 == 0

/-! ## `vcvt.f32` (R306, R307) -/

/-- `vcvt.f32` from a BF16 row, or from an S8 row read in the captured AFMT; exact. -/
def execVcvtF32 (d a b : BitVec 6) (t : BitVec 3) (s : State) : Out :=
  let ty := s.tyOf a
  let fmt := bitsOf s.me.fmt.toNat 3 0
  let i : Instr := .vcvtF32 d a b t
  if ty = 2 then
    convertForm i (s.tyOf d == 0 && b == 0) { src := 64, dst := 32 } d a [] none t 2 (fun _ => 0)
      (eachElement false 2 fun m _ _ x => encodeFloat fp32 m false (decode16 x)) s
  else
    let kb := fmt == 2 || fmt == 3
    let ok := ty == 4 && s.tyOf d == 0 && fmtOk s.me.fmt && (kb || fmt == 1 || fmt == 5) &&
      (if kb then s.tyOf b == 1 && s.canUpdate b else b == 0)
    let n := if elemBits fmt = 4 then 256 else 128
    convertForm i ok { src := n, dst := 32 } d a (if kb then [b] else []) none t 2 (fun _ => 0)
      (fun s rows =>
        let raw := ((rows.getD 0 []).headD 0).toNat
        let sc := laneRow 1 rows 1
        ((List.range n).map fun k =>
          let x := elemAt (elemBits fmt) k raw
          if fmt = 5 then encodeFloat fp32 .rne false (ofInt (c4Value (s.here.seen s.now).lut x))
          else encodeFloat fp32 .rne false (floatElem fmt (sc.getD (k / 32) 0) (k % 32) x), 0)) s (coded := fmt == 5)

/-! ## Lane moduli (R89, R310) -/

/-- The canonical μ of a modulus: ⌊2^(2b) / q⌋ with b its bit length. -/
def canonicalMu (q : Nat) : Nat := 2 ^ (2 * (log2 q + 1)) / q

/-- The extra turns of a modular form whose μ are not canonical (R300). -/
def Slot.muLatency (v : Slot) : Nat := if v.moduli.all fun p => p.2.toNat == canonicalMu p.1.toNat then 0 else 4

/-- `vcvt.mr`: the signed value modulo the destination lane's modulus. -/
def execVcvtMr (d a : BitVec 6) (t : BitVec 3) (s : State) : Out :=
  let i : Instr := .vcvtMr d a t
  let ty := s.tyOf a
  convertForm i (tyInt ty && s.tyOf d == 5 && s.me.mqValid) { src := tyLanes ty, dst := 16 } d a [] none t (2 + s.me.muLatency)
    (fun _ => 0)
    (fun s rows => ((allLanes ty rows).zipIdx.map fun p =>
      ((sx (tyBits ty) p.1 % (s.me.mq.q (p.2 % 16) : Int)).toNat, (0 : Flags)), 0)) s (modular := true)

end Sys2Proof.Machine
end

