-- ==== Sys2Proof/Machine/Sync.lean ====
section
/-! DEFINITION. Completion barriers, the copy engine's commands, scratchpad allocation, launch, groups, task handles and the
inbox (R122, R150 to R154, R283 to R295). -/

namespace Sys2Proof.Machine

/-! ## Completion barriers (R283 to R285) -/

/-- The barrier slot an address names. -/
def barSlot (ea : Word) : Nat := bitsOf ea.toNat 9 4

/-- The checks of R283 on a barrier address; only `cb.wait` may set bit 0. Ownership is checked here for the current core's
barriers, and by the barrier's core otherwise. -/
def State.barCheck (s : State) (ea : Word) (wait : Bool) : Option Cause :=
  if bitsOf ea.toNat 3 1 != 0 || (!wait && ea.toNat % 2 != 0) then some .align
  else if regionOf ea.toNat != .spad || idxOf ea.toNat != 31 then some .prot
  else if spmCore ea.toNat = s.core && !s.barOwned s.core (barSlot ea) s.me.pid then some .prot
  else none

/-- A message of the issuing slot to another core's scratchpad (R134). -/
def State.toScratch (s : State) (core : Nat) (proc : BitVec 4) (fn : Nat) (paddr : Nat) (x : XWord) (va : Word) : Msg :=
  { s.blank s.core s.slot with
    dst := core, proc := proc, fn := BitVec.ofNat 4 fn, paddr := paddr, opa := x, va := va, stage := .toOwner, size := 3,
    cls := .two }

/-- The update a PROC 9 message asks for: 1 `cb.init`, 2 `cb.arr`, 3 `cb.exp`. -/
def barOpOf (fn : Nat) (x : XWord) : BarOp :=
  if fn = 1 then .init (lowWord x) else if fn = 2 then .arrive else .expect x.toInt

/-- `cb.init`, `cb.arr`, `cb.exp`: an update on the own core, or a message posted in class 2. -/
def barrierForm (u : Use) (fn : Nat) (a : BitVec 5) (x : State → XWord) (wc : Nat) (s : State) : Out :=
  issue u s fun s =>
    let ea := s.src a
    if s.posted s.core wc then .stall s
    else match s.barCheck ea false with
      | some c => .trap s c ea
      | none =>
        if spmCore ea.toNat = s.core then
          match s.barTry (s.who s.core s.slot) s.core (barSlot ea) (barOpOf fn (x s)) with
          | (s, true) => .retire s none
          | (s, false) => .trap s .eccue ea
        else if s.boardFull then .stall s
        else .retire (s.sendPosted (s.toScratch (spmCore ea.toNat) 9 fn (barByte (barSlot ea)) (x s) ea) (.message ea fn (x s))) none

/-- `cb.init` (R284). -/
def execCbInit (a b : BitVec 5) (w : BitVec 2) (s : State) : Out :=
  barrierForm { use (.cbInit a b w) with srcs := [(a, 0), (b, 0)] } 1 a (fun s => sxWord (s.src b))
    w.toNat s

/-- `cb.arr` (R284): a release head, so it waits for every class. -/
def execCbArr (a : BitVec 5) (w : BitVec 2) (s : State) : Out :=
  barrierForm { use (.cbArr a w) with srcs := [(a, 0)] } 2 a (fun _ => 0) 3 s

/-- `cb.exp` (R284). -/
def execCbExp (a b : BitVec 5) (w : BitVec 2) (s : State) : Out :=
  barrierForm { use (.cbExp a b w) with srcs := [(a, 0), (b, 0)] } 3 a (fun s => sxWord (s.src b))
    w.toNat s

/-- A strand waits for the phase that a barrier address names: parked on its core, or with its continuation sent to the barrier's core; in
handler state it issues again until the phase holds (R285; notes/assumptions/24.md). -/
def waitBarrier (ea : Word) (s : State) : Act :=
  let b := barSlot ea
  let phase := ea.toNat % 2 == 1
  let h := spmCore ea.toNat
  if s.me.handler then
    if h = s.core then .stall s
    else .retire (s.sendAwait (s.toScratch h 8 5 (barByte (barSlot ea)) (BitVec.ofNat 64 (bit phase)) ea) .done) none
  else if s.mustWait then .stall s
  else match s.suspend s.core s.slot id s.me.pc s.core 0 with
    | (t, .error f) => .trap t f.1 f.2
    | (t, .ok p) =>
      let t := t.countIssue s.core s.me.acct
      let wt : Waiter := { pkt := p, kind := .barrier b phase, ea := ea, back := s.core, since := s.now,
                           limit := bitsOf s.me.wlim.toNat 47 0, acct := s.me.acct, inMem := false }
      if h = s.core then .settled (t.enlist h wt)
      else .settled (t.send { s.toScratch h 9 4 (barByte (barSlot ea)) (BitVec.ofNat 64 (bit phase)) ea with
                              client := .none, cont := some wt }).1

/-- `cb.wait` (R284, R285): retires at once when the phase holds; otherwise parks, or sends the continuation to the barrier's
core. In handler state it issues again until the phase holds (notes/assumptions/24.md). -/
def execCbWait (a : BitVec 5) (w : BitVec 2) (s : State) : Out :=
  issue { use (.cbWait a w) with srcs := [(a, 0)] } s fun s =>
    let ea := s.src a
    let b := barSlot ea
    let phase := ea.toNat % 2 == 1
    let h := spmCore ea.toNat
    if s.posted s.core w.toNat then .stall s
    else match s.barCheck ea true with
      | some c => .trap s c ea
      | none =>
        if h = s.core then
          match s.barLook (s.who s.core s.slot) h b with
          | (s, none) => .trap s .eccue ea
          | (s, some bar) => if bar.phase == phase then .retire s none else waitBarrier ea s
        else waitBarrier ea s

/-- `cb.test` (R284, R285). -/
def execCbTest (d a : BitVec 5) (w : BitVec 2) (s : State) : Out :=
  issue { use (.cbTest d a w) with srcs := [(a, 0)], dsts := [d] } s fun s =>
    let ea := s.src a
    if s.posted s.core w.toNat then .stall s
    else match s.barCheck ea false with
      | some c => .trap s c ea
      | none =>
        if spmCore ea.toNat = s.core then
          match s.barLook (s.who s.core s.slot) s.core (barSlot ea) with
          | (s, none) => .trap s .eccue ea
          | (s, some bar) => .retire (s.dst d (BitVec.ofNat 48 bar.status) 0 1) none
        else .retire (s.sendAwait (s.toScratch (spmCore ea.toNat) 8 4 (barByte (barSlot ea)) 0 ea) (.result d false)) none

/-! ## Copy commands (R286 to R289) -/

/-- A copy descriptor's fields; nothing for a malformed one (R286). -/
def copyDescOf (at_ : Word) (bs : List Byte) : Option CopyDesc :=
  let f (i : Nat) := fieldAt bs (8 * i) 8
  let ctl := f 2
  if bitsOf (f 0) 63 48 != 0 || bitsOf (f 1) 63 48 != 0 || bitsOf (f 3) 63 48 != 0 || bitsOf ctl 63 36 != 0 || bitAt ctl 31 ||
      f 5 != 0 || f 6 != 0 || f 7 != 0 || bitsOf ctl 33 32 = 3 || bitsOf ctl 29 0 = 0 || f 0 % 8 != 0 || f 1 % 8 != 0 ||
      bitsOf ctl 29 0 % 8 != 0 then none
  else some { at_ := at_, src := BitVec.ofNat 48 (f 0), dst := BitVec.ofNat 48 (f 1), len := bitsOf ctl 29 0, cmode := BitVec.ofNat 2 (ctl / 2 ^ 32),
              csc := BitVec.ofNat 2 (ctl / 2 ^ 34), sbf := bitAt ctl 30, caddr := BitVec.ofNat 48 (f 3), cval := BitVec.ofNat 64 (f 4) }

/-- The check of a barrier address that a descriptor or a record names: R283 with the ownership of any core's slot. -/
def State.barAddressCheck (s : State) (pid : BitVec 16) (ea : Word) : Option Cause :=
  if bitsOf ea.toNat 3 0 != 0 then some .align
  else if regionOf ea.toNat != .spad || idxOf ea.toNat != 31 then some .prot
  else if !s.barOwned (spmCore ea.toNat) (barSlot ea) pid then some .prot
  else none

/-- The checks of CADDR at issue (R286). -/
def State.completionCheck (s : State) (d : CopyDesc) : Option Cause :=
  if d.cmode = 1 then s.barAddressCheck s.me.pid d.caddr
  else if d.cmode = 2 then
    if regionOf d.caddr.toNat != .spad then some .prot
    else if d.caddr.toNat % 8 != 0 then some .align
    else (s.regionCheck s.core s.slot d.caddr.toNat).2
  else none

/-- A copy command of a slot, with the context it captures, from a byte of its range on (R287). -/
def State.startCopy (s : State) (c j : Nat) (d : CopyDesc) (base : Nat) (entry : Option Nat) : State :=
  let v := s.slotAt c j
  s.onCore c fun k => { k with
    cmdNext := k.cmdNext + 1,
    copies := k.copies ++ [{ num := k.cmdNext, desc := d, pid := v.pid, prv := s.privileged c j, acct := v.acct, id := v.id,
                             slot := j, entry := entry, landed := [], sent := [], got := [], failed := none, stopped := false, base := base, tag := none }] }

/-- `cpy`: the descriptor read, its checks, and one of the sixteen commands (R286, R287). -/
def execCpy (a : BitVec 5) (o sc w : BitVec 2) (s : State) : Out :=
  let u : Use := { use (.cpy a o sc w) with srcs := [(a, 0)] }
  issue u s fun s =>
    let ea := s.src a
    if s.posted s.core (orderWait o w) then .stall s
    else if ea.toNat % 64 != 0 then .trap s .align ea
    else tableRead s ea 64 fun s bs =>
        match copyDescOf ea bs with
        | none => .trap s .illegal u.eva
        | some d =>
          match s.completionCheck d with
          | some c => .trap s c d.caddr
          | none =>
            if 16 ≤ s.here.copies.length || s.boardFull then .stall s
            else
              let q := s.takeSeq s.core
              let r := q.1.addEntry (.copy d) .zero q.2 1
              .retire (r.1.startCopy s.core s.slot d 0 r.2) none

/-- `cpy.q` (R289). -/
def execCpyQ (d : BitVec 5) (sc w : BitVec 2) (s : State) : Out :=
  issue { use (.cpyQ d sc w) with dsts := [d] } s fun s =>
    if s.posted s.core w.toNat then .stall s
    else .retire (s.dst d (BitVec.ofNat 48 (16 - s.here.copies.length)) 0 1) none

/-! ## Scratchpad allocation (R122, R290) -/

/-- `spal` at the home core of a strand: an allocation, or the address of a reserved barrier slot; zero for none. -/
def State.allocate (s : State) (c : Nat) (id : StrandId) (pid : BitVec 16) (x : Nat) : State × Word :=
  let u := s.unfoldedAt id
  if bitAt x 47 then
    match u with
    | none => (s, 0)
    | some u => match u.bars[x % 16]? with
      | some b => (s, spmAddress 31 c + BitVec.ofNat 48 (16 * b))
      | none => (s, 0)
  else if x = 0 ∨ 131072 < x then (s, 0)
  else
    let size := roundSize x
    let k := s.coreAt c
    let charged := match u with | some u => min size u.left | none => 0
    match k.freeIdx, k.freeBase size with
    | some idx, some base =>
      if s.spmFree c < size - charged then (s, 0)
      else
        let s := s.putCore c { k with allocs := k.allocs ++
          [{ idx := idx, base := base, size := size, pid := pid, lid := id.lid, holder := id.sid, charged := charged }] }
        (s.onUnfolded id fun u => { u with left := u.left - charged }, spmAddress idx c)
    | _, _ => (s, 0)

/-- `spfree` at the core its operand names. -/
def State.release (s : State) (c : Nat) (lid pid : BitVec 16) (x : Nat) : State :=
  match (s.coreAt c).allocs.find? fun a => a.idx == idxOf x && a.pid == pid && a.lid == lid with
  | some a => if regionOf x == .spad then s.freeAlloc c a else s
  | none => s

/-- `spsz` at the core its operand names. -/
def State.sizeOf (s : State) (pid : BitVec 16) (x : Nat) : Word :=
  if regionOf x != .spad then 0 else match s.allocAt pid x with
    | some a => BitVec.ofNat 48 a.size
    | none => 0

/-- An SPM operation performed at its core: 5 `spal`, 6 `spfree`, 7 `spsz`. -/
def State.spmOp (s : State) (c fn : Nat) (id : StrandId) (pid : BitVec 16) (x : Nat) : State × Word :=
  if fn = 5 then s.allocate c id pid x else if fn = 6 then (s.release c id.lid pid x, 0) else (s, s.sizeOf pid x)

/-- `spal` (R290). -/
def execSpal (d a : BitVec 5) (h m : BitVec 1) (t : BitVec 3) (s : State) : Out :=
  issue { use (.spal d a h m t) with srcs := [(a, m)], dsts := [d], st := t } s fun s =>
    let x := s.src a
    let home := (s.homeOf s.me.id).getD s.core
    if home = s.core then
      let r := s.allocate home s.me.id s.me.pid x.toNat
      .retire (r.1.dst d r.2 h 1) none
    else .retire (s.sendAwait (s.toScratch home 9 5 0 (x.setWidth 64) 0) (.result d (h == 1))) none

/-- `spfree` (R290). -/
def execSpfree (a : BitVec 5) (m : BitVec 1) (t : BitVec 3) (s : State) : Out :=
  issue { use (.spfree a m t) with srcs := [(a, m)], st := t } s fun s =>
    let x := s.src a
    if spmCore x.toNat = s.core || regionOf x.toNat != .spad then
      .retire (s.release s.core s.me.id.lid s.me.pid x.toNat) none
    else .retire (s.sendAwait (s.toScratch (spmCore x.toNat) 9 6 0 (x.setWidth 64) 0) .done) none

/-- `spsz` (R290). -/
def execSpsz (d a : BitVec 5) (h m : BitVec 1) (t : BitVec 3) (s : State) : Out :=
  issue { use (.spsz d a h m t) with srcs := [(a, m)], dsts := [d], st := t } s fun s =>
    let x := s.src a
    if spmCore x.toNat = s.core || regionOf x.toNat != .spad then .retire (s.dst d (s.sizeOf s.me.pid x.toNat) h 1) none
    else .retire (s.sendAwait (s.toScratch (spmCore x.toNat) 9 7 0 (x.setWidth 64) 0) (.result d (h == 1))) none

/-! ## Launch (R291, R292) -/

/-- The physical address of a launch record at an address of the issuing slot (R291). -/
def State.recordAddress (s : State) (a : Word) : State × Except Cause Nat :=
  match regionOf a.toNat with
  | .local_ => match s.regionCheck s.core s.slot a.toNat with
    | (s, some c) => (s, .error c)
    | (s, none) => (s, .ok (s.core * 2 ^ 28 + a.toNat))
  | .spad => (s, .error .prot)
  | .global => s.translate (s.who s.core s.slot) s.me.pid (s.privileged s.core s.slot) a.toNat .read

/-- A launch message enters the inbox of a core that has room (R292). -/
def State.deliver (s : State) (c : Nat) (m : BitVec 128) : State :=
  (s.onCore c fun k => { k with inbox := k.inbox ++ [m] }).stir c

/-- Whether a posted store of a strand to a core's vault or scratchpad, or one whose owner no station has found yet, has still to be
performed: a launch message does not overtake it (R176). -/
def State.storesTo (s : State) (id : StrandId) (c : Nat) : Bool :=
  s.mesh.any fun m => m.storing && m.pendingOf id && (m.stage != .toOwner || m.dst == c)

/-- `lnch` (R291): acceptance by the inbox and retirement are one event, a round trip after the message left; a full inbox has
the strand yield with its pc at the instruction. -/
def execLnch (a b : BitVec 5) (o sc w : BitVec 2) (s : State) : Out :=
  issue { use (.lnch a b o sc w) with srcs := [(a, 0), (b, 0)] } s fun s =>
    let root := (s.src b).toNat
    if 1023 < root then .trap s .prot (s.src b)
    else if (s.src a).toNat % 128 != 0 then .trap s .align (s.src a)
    else match s.recordAddress (s.src a) with
      | (s, .error c) => .trap s c (s.src a)
      | (s, .ok pa) =>
        if s.posted s.core (orderWait o w) || s.storesTo s.me.id root then .stall s
        else
          let late (v : Slot) : Slot := { v with turnNext := max v.turnNext ((s.now + 4 * distance s.core root + 7) / 8) }
          if (s.coreAt root).killed then .trap (s.onMe late) .refused (s.src a)
          else if 16 ≤ (s.coreAt root).inbox.length then
            if s.me.handler || s.mustWait then .stall (s.onMe late)
            else match s.suspend s.core s.slot id s.me.pc s.core 0 with
              | (t, .error f) => .trap t f.1 f.2
              | (t, .ok p) => .settled ((t.countIssue s.core s.me.acct).makeReady s.core p)
          else
            let msg := launchMessage s.me.pid s.me.acct s.core (s.privileged s.core s.slot) pa
            .retire ((((s.deliver root msg).countSent s.core s.me.id.lid).countRecv root s.me.id.lid).onMe late) none

/-! ## Groups, task handles, the inbox (R53, R293 to R295) -/

/-- The number of members of a group below COUNT (R53). -/
def Group.size (g : Group) (count : Nat) : Nat :=
  if g.gcnt = 0 ∨ count ≤ g.first then 0
  else if g.stride = 0 then g.gcnt
  else min g.gcnt ((count - 1 - g.first) / g.stride + 1)

/-- The rank of a strand in a group (R53). -/
def Group.rank (g : Group) (sid : Nat) : Option Nat :=
  if g.gcnt = 0 ∨ sid < g.first then none
  else if g.stride = 0 then if sid = g.first then some 0 else none
  else
    let i := (sid - g.first) / g.stride
    if g.first + i * g.stride = sid ∧ i < g.gcnt then some i else none

/-- The strand's rank in one of the groups recorded at its birth, or 2^48 − 1 (R293). -/
def State.groupRank (s : State) (id : StrandId) (g : Nat) : Word :=
  match s.unfoldedAt id, s.launchAt id.lid with
  | some u, some l =>
    if u.groups.contains g then
      match (l.groups.find? (·.num == g)).bind fun x => x.rank id.sid with
      | some r => BitVec.ofNat 48 r
      | none => BitVec.allOnes 48
    else BitVec.allOnes 48
  | _, _ => BitVec.allOnes 48

/-- The size of a group as the root computed it; 0 for an unused entry (R293). -/
def State.groupSize (s : State) (lid : BitVec 16) (g : Nat) : Word :=
  match s.launchAt lid with
  | none => 0
  | some l => match l.groups.find? (·.num == g) with
    | some x => if g ≤ 255 then BitVec.ofNat 48 (x.size l.count) else 0
    | none => 0

/-- `grank` (R293). -/
def execGrank (d b : BitVec 5) (sc w : BitVec 2) (s : State) : Out :=
  issue { use (.grank d b sc w) with srcs := [(b, 0)], dsts := [d] } s fun s =>
    if s.posted s.core w.toNat then .stall s
    else .retire (s.dst d (s.groupRank s.me.id (s.src b).toNat) 0 1) none

/-- `gsize` (R293). -/
def execGsize (d b : BitVec 5) (sc w : BitVec 2) (s : State) : Out :=
  issue { use (.gsize d b sc w) with srcs := [(b, 0)], dsts := [d] } s fun s =>
    if s.posted s.core w.toNat then .stall s
    else .retire (s.dst d (s.groupSize s.me.id.lid (s.src b).toNat) 0 1) none

/-- The packet count of the strand's launch, less one. -/
def State.packetLimit (s : State) : Nat := match s.launchAt s.me.id.lid with | some l => l.npkt | none => 0

/-- `task`: sets HANDLE and has the shadow registers reloaded before the next instruction (R49, R294). -/
def execTask (a : BitVec 5) (sc w : BitVec 2) (s : State) : Out :=
  issue { use (.task a sc w) with srcs := [(a, 0)] } s fun s =>
    let x := s.src a
    if s.posted s.core w.toNat then .stall s
    else if s.packetLimit < x.toNat then .trap s .prot x
    else .retire (s.onMe fun v => { v with
        strand := v.strand.map fun b => { b with handle := x.setWidth 12 }, needShadow := true }) none

/-- `inq` (R295). -/
def execInq (d : BitVec 5) (sc w : BitVec 2) (s : State) : Out :=
  issue { use (.inq d sc w) with dsts := [d] } s fun s =>
    if s.posted s.core w.toNat then .stall s
    else .retire (s.dst d (BitVec.ofNat 48 (64 * s.here.launches.length + s.here.inbox.length)) 0 1) none

end Sys2Proof.Machine
end

