-- ==== Sys2Proof/Machine/Power.lean ====
section
/-! DEFINITION. Energy and current: the charge and the load of a cluster, leaves, and the energy counters (R202, R210, R211,
R215, R221, R224, R342, R349). -/

namespace Sys2Proof.Machine

/-- The leave a strand holds on a core. -/
def Core.leaveOf (k : Core) (id : StrandId) : Option Leave := k.leaves.find? fun (l : Leave) => l.owner == id

/-- The end of a strand's leave: nothing is refunded, and its current leaves the load (R349). -/
def Core.endLeave (k : Core) (id : StrandId) : Core := { k with leaves := k.leaves.filter fun (l : Leave) => l.owner != id }

/-- The load of a cluster: the tasks in execution and the leaves in force (R210). -/
def State.loadOf (s : State) (g : Nat) : Nat :=
  sumBy (·.ipk) (s.clusterAt g).running +
    sumBy (fun c => sumBy (fun (l : Leave) => l.current) (s.coreAt c).leaves) (clusterCores g)

/-- EBUD in effect: scaled under the PCAP throttle, less the last interval's overspending (R221). -/
def Cluster.budget (g : Cluster) : Nat := g.ebud * g.scale.1 / g.scale.2 - g.deduct

/-- Whether a request still has the strand that makes it stalled in its slot. -/
def State.standing (s : State) (r : LeaveReq) : Bool :=
  let v := s.slotAt r.core r.slot
  v.run == some .leave && (v.strand.map fun b => b.id) == some r.owner

/-- The issuing slot's pending request. -/
def State.asking (s : State) : Bool :=
  s.me.run == some .leave && (s.clusterAt (clusterOf s.core)).leaves.any fun (r : LeaveReq) =>
    r.core == s.core && r.slot == s.slot && r.owner == s.me.id

/-- The issuing strand requests a leave, with its effective priority, and stalls (R210, R349). -/
def State.askLeave (s : State) (energy current : Nat) : State :=
  let prio := match s.me.strand with | some b => b.eff.toNat | none => 0
  let r : LeaveReq := { core := s.core, slot := s.slot, owner := s.me.id, energy := energy, current := current, prio := prio,
                        order := s.orders }
  let s := s.onCluster (clusterOf s.core) fun g =>
    { g with leaves := (g.leaves.filter fun (q : LeaveReq) => !(q.core == s.core && q.slot == s.slot)) ++ [r] }
  { s.onMe fun v => { v with run := some .leave } with orders := s.orders + 1 }

/-- What is left of a leave that a charge is drawn from; a leave whose energy is spent ends (R215). -/
def Core.drawLeave (k : Core) (id : StrandId) (n : Nat) : Core :=
  let left := k.leaves.map fun (l : Leave) => if l.owner == id then { l with energy := l.energy - n } else l
  { k with leaves := left.filter fun (l : Leave) => 0 < l.energy }

/-- Energy charged to an accounting tag, in halves of a nanojoule (R224). -/
def State.due (s : State) (g : Nat) (tag : BitVec 16) (halves : Nat) : State :=
  s.onCluster g fun c => { c with dues := put tag.toNat ((look tag.toNat c.dues).getD 0 + halves) c.dues }

/-- A leave granted: its energy enters the interval's charge, its current the load, and it replaces the strand's leave
(R224, R349). -/
def State.grantLeave (s : State) (g : Nat) (r : LeaveReq) : State :=
  let s := s.onCluster g fun c => { c with charge := c.charge + r.energy,
                                           leaves := c.leaves.filter fun (q : LeaveReq) => q.order != r.order }
  let s := s.onCore r.core fun k =>
    { k.endLeave r.owner with leaves := (k.endLeave r.owner).leaves ++ [{ owner := r.owner, energy := r.energy, current := r.current }] }
  s.due g (s.slotAt r.core r.slot).acct (2 * r.energy)

/-! ## `leave` and `leave.rel` (R349) -/

/-- `leave`: ends a held leave, requests another and stalls until it is granted. -/
def execLeave (a b : BitVec 5) (t : BitVec 3) (s : State) : Out :=
  issue { use (.leave a b t) with st := t, srcs := [(a, 0), (b, 0)] } s fun s =>
    let e := (s.src a).toNat
    let i := (s.src b).toNat
    let g := s.clusterAt (clusterOf s.core)
    if s.me.run == some .leave then if s.asking then .stall s else .retire s none
    else if e = 0 ∨ 2 ^ 20 ≤ e ∨ g.ebud < e ∨ g.ibud < i then .trap s .prot (s.src a)
    else .stall ((s.onHere fun k => k.endLeave s.me.id).askLeave e i)

/-- `leave.rel`. -/
def execLeaveRel (t : BitVec 3) (s : State) : Out :=
  issue { use (.leaveRel t) with st := t } s fun s => .retire (s.onHere fun k => k.endLeave s.me.id) none

end Sys2Proof.Machine
end

