-- ==== Sys2Proof/Machine/Record.lean ====
section
/-! DEFINITION. A tile-task record, the operation it describes, and the memory that its events reach (R206, R207, R214, R338, R348). -/

namespace Sys2Proof.Machine

/-! ## The record (R206) -/

/-- A command word's fields in the X layout (R226). -/
structure Cmd where
  major : Nat
  fn : Nat
  td : Nat
  ra : Nat
  rb : Nat
  rc : Nat
deriving DecidableEq, Repr

/-- The fields of a command word. -/
def cmdOf (w : Nat) : Cmd :=
  { major := bitsOf w 31 26, fn := bitsOf w 25 21, td := bitsOf w 20 18, ra := bitsOf w 17 13, rb := bitsOf w 12 8,
    rc := bitsOf w 7 3 }

/-- The task-eligible forms of R329. -/
inductive TaskForm where
  | tzero | tfill | tdrain | tld | bld | mma (zero fromTile : Bool) | ckVer | ckFix | ckVerg | ckFixg
deriving DecidableEq, Repr

/-- The form a command word names, if a record may carry it; a dashed field of R329 that is not zero makes it none. -/
def Cmd.form (c : Cmd) : Option TaskForm :=
  let no (l : List Nat) (f : TaskForm) := if l.all (· == 0) then some f else none
  match c.major, c.fn with
  | 0x31, 2 => no [c.ra, c.rb, c.rc] .tzero
  | 0x31, 3 => no [c.rb, c.rc] .tfill
  | 0x31, 4 => no [c.rb, c.rc] .tdrain
  | 0x32, 2 => no [c.td / 2] .tld
  | 0x32, 3 => no [c.td] .bld
  | 0x33, 0 => no [c.ra, c.rb, c.rc] (.mma false false)
  | 0x33, 1 => no [c.ra, c.rb, c.rc] (.mma true false)
  | 0x33, 2 => no [c.ra, c.rb, c.rc] (.mma false true)
  | 0x34, 0 => no [c.ra, c.rb] .ckVer
  | 0x34, 1 => no [c.ra, c.rb, c.rc] .ckFix
  | 0x34, 4 => no [c.td, c.rb] .ckVerg
  | 0x34, 5 => no [c.td, c.rb, c.rc] .ckFixg
  | _, _ => none

/-- Whether a form is one of the MMA forms. -/
def TaskForm.isMma : TaskForm → Bool
  | .mma .. => true
  | _ => false

/-- CMD, CTL and the other words of a record. -/
def recWord (bs : List Byte) (o : Nat) : Nat := fieldAt bs o 4
/-- The command of a record. -/
def recCmd (bs : List Byte) : Cmd := cmdOf (recWord bs 0)
/-- OPDn. -/
def recOpd (bs : List Byte) (n : Nat) : Nat := fieldAt bs (8 + 8 * n) 8
/-- PRIO of a record. -/
def recPrio (bs : List Byte) : Nat := bitsOf (recWord bs 4) 31 27
/-- ANY. -/
def recAny (bs : List Byte) : Bool := bitAt (recWord bs 4) 26
/-- CLU. -/
def recClu (bs : List Byte) : Nat := bitsOf (recWord bs 4) 21 16
/-- The core that CORE and CLU name. -/
def recCore (bs : List Byte) : Nat :=
  let i := bitsOf (recWord bs 4) 25 22
  32 * (4 * (recClu bs / 8) + i / 4) + 4 * (recClu bs % 8) + i % 4
/-- KEY. -/
def recKey (bs : List Byte) : Nat := recWord bs 0x34
/-- ENJ. -/
def recEnj (bs : List Byte) : Nat := recWord bs 0x38 % 2 ^ 20
/-- IPK. -/
def recIpk (bs : List Byte) : Nat := fieldAt bs 0x3C 2

/-! ## A task's operation (R207, R213, R348) -/

/-- The context of a task on a core. -/
def Task.ctx (t : Task) (c : Nat) : Ctx := { core := c, pid := t.pid, prv := t.prv, id := t.id, acct := t.acct }

/-- The value of a register code of the command. -/
def Task.opd (t : Task) (n : Nat) : Word := BitVec.ofNat 48 (recOpd t.rec_ n)

/-- The engine operation of an MMA task. -/
def Task.op (t : Task) (now : Nat) (zero fromTile : Bool) (lut : List (BitVec 8)) : MmaOp :=
  { cmd := BitVec.ofNat 32 (recWord t.rec_ 0), td := (recCmd t.rec_).td, zero := zero, fromTile := fromTile, word := t.opd 0, fmt := t.fmt, sca := t.sca, scb := t.scb,
    fpc := t.fpc, acct := t.acct, lut := lut, pid := t.pid, prv := t.prv, id := t.id, slot := 0, bar := 0, started := now,
    blocks := t.resume, resumed := true, entry := none, group := none, got := 0, task := some t.num, scales := t.scales }

/-- Bits of one element of B's arrays, and the stride of its columns. -/
def strideOf (fmt k : Nat) : Nat := 64 * ((k * elemBits fmt + 511) / 512)

/-! ## What a task reads and writes (R200, R207, R214, R338, R348) -/

/-- The bytes that a load of B reads, and its scale words, from an address on. -/
def rangesOfB (fmt k : Nat) (scb a : Word) : List (Word × Nat) :=
  (a, 32 * strideOf fmt k) :: if fmt = 2 ∨ fmt = 3 then [(scb, 128 * ((k + 31) / 32))] else []

/-- The scale words of A. -/
def MmaOp.scaleRanges (o : MmaOp) : List (Word × Nat) := if o.scaled then [(o.sca, 4 * o.m * o.b)] else []

/-- The ranges of memory that the events of a task reach: what its form reads and writes, and its result. -/
def Task.ranges (t : Task) : List (Word × Nat) :=
  let m := recCmd t.rec_
  let at_ (n size : Nat) : List (Word × Nat) := if t.opd n = 0 then [] else [(t.opd n, size)]
  match m.form with
  | some .tfill | some .tdrain | some .ckFixg => at_ m.ra 4096
  | some .ckVerg => at_ m.ra 4096 ++ at_ m.rc 8
  | some .ckVer => at_ m.rc 8
  | some .tld => at_ m.ra (min 8192 (t.opd m.rb).toNat)
  | some .bld => rangesOfB (bitsOf t.fmt.toNat 7 4) (min 1024 (t.opd m.rb).toNat) t.scb (t.opd m.ra)
  | some (.mma z fromTile) =>
    let o := t.op 0 z fromTile []
    at_ 1 (256 * o.m) ++ at_ 2 4608 ++ rangesOfB o.bfmt (min 1024 (32 * (o.kb0 + o.b))) t.scb (t.opd 3) ++ o.scaleRanges
  | _ => []

end Sys2Proof.Machine
end

