-- ==== Sys2Proof/Machine/Stream.lean ====
section
/-! DEFINITION. Vector loads and stores, streams, scratchpad tile regions and the code table (R86 to R88, R98, R189, R299, R313 to
R318, R323 to R325). -/

namespace Sys2Proof.Machine

/-! ## Loads and stores (R313) -/

/-- A row as its 128 bytes. -/
def rowBytes (r : Row) : List Byte := leBytes 128 r.toNat

/-- A row from bytes. -/
def rowOfBytes (bs : List Byte) : Row := BitVec.ofNat 1024 (leNat bs)

/-- The maximal runs of enabled bytes, with their offsets. -/
def runsFrom : Nat → List (Byte × Bool) → List (Nat × List Byte)
  | _, [] => []
  | o, (_, false) :: r => runsFrom (o + 1) r
  | o, (b, true) :: r =>
    match runsFrom (o + 1) r with
    | (p, l) :: t => if p = o + 1 then (o, b :: l) :: t else (o, [b]) :: (p, l) :: t
    | [] => [(o, [b])]

/-- The enabled runs of a row's bytes. -/
def maskRuns (mask : BitVec 128) (bs : List Byte) : List (Nat × List Byte) :=
  runsFrom 0 (bs.zipIdx.map fun p => (p.1, mask.getLsbD p.2))

/-- Writes enabled runs of a row in the local window or the own scratchpad, until one fails. -/
def State.runsWrite (x : Ctx) (va : Nat) : List (Nat × List Byte) → State → State × Option Cause
  | [], s => (s, none)
  | p :: r, s =>
    match s.ctxWrite x (va + p.1) p.2 with
    | (s, some cause) => (s, some cause)
    | (s, none) => State.runsWrite x va r s

/-- The granules of a row that an enabled byte touches. -/
def maskGranules (mask : BitVec 128) : List Nat := (List.range 4).filter fun g => mask.extractLsb' (32 * g) 32 != 0

/-- A row written where no message is needed: one access, whose miss is counted once (R123). -/
def State.rowWrite (s : State) (c j va : Nat) (mask : BitVec 128) (bs : List Byte) : State × Option Cause :=
  let x := s.ctx c j
  if regionOf va == .spad then
    if (s.allocAt x.pid va).isNone then (s.spmMiss (spmCore va), none) else State.runsWrite x va (maskRuns mask bs) s
  else State.runsWrite x va (maskRuns mask bs) (s.chargeGranules c x.acct (32 * (maskGranules mask).length))

/-- The requests of a posted row write: one for each granule it touches; a miss counts once, with the first (R123, R276, R299). -/
def State.rowMsgs (s : State) (ea : Word) (mask : BitVec 128) (bs : List Byte) : List Msg :=
  (maskGranules mask).zipIdx.map fun p =>
    let m := { s.blank s.core s.slot with
               va := ea + BitVec.ofNat 48 (32 * p.1), data := (bs.drop (32 * p.1)).take 32,
               mask := (mask.extractLsb' (32 * p.1) 32).setWidth 128, proc := 1, cls := .moot, size := 3,
               opb := if p.2 = 0 then 0 else 1 }
    if regionOf ea.toNat == .spad then
      { m with dst := spmCore ea.toNat, proc := 9, paddr := s.spadPlace m.pid m.va, stage := .toOwner, cls := .two }
    else m

/-- A row write posted: its entry, and its requests; a row with no enabled byte sends nothing. -/
def State.postRow (s : State) (ea : Word) (mask : BitVec 128) (bs : List Byte) : State :=
  if mask = 0 then s
  else s.postAll (s.rowMsgs ea mask bs) (if regionOf ea.toNat == .spad then .two else .moot) (.vector ea mask bs)

/-- `vld`: one aligned row into the enabled lanes of vd. A tile row takes it under a busy mark; an output stream is given it when the
instruction issues again with it. -/
def execVld (d : BitVec 6) (a : BitVec 5) (t : BitVec 3) (s : State) : Out :=
  let u : VUse := { use := { use (.vld d a t) with st := t, srcs := [(a, 0)] }, write := some (d, 1) }
  vissue u true false s fun s0 s _ =>
    let ea := s.src a
    let mask := enabledBytes s.me.lanes (s.tyOf d)
    if ea.toNat % 128 != 0 then .trap s .align ea
    else if isLocal s.core ea.toNat || (s.me.stream d).isSome then
      tableRead s ea 128 fun s bs => u.finish s0 s { rows := [(rowOfBytes bs, mask)] } 1
    else match s.regionCheck s.core s.slot ea.toNat with
      | (s, some cause) => .trap s cause ea
      | (s, none) => .retire (s.sendAwaited (s.granuleReads ea 128) ea (.row d mask []) false) none

/-- The row of a `vld` is here: it is written for the slot's strand, and can be read. -/
def State.landRow (s : State) (c j : Nat) (d : BitVec 6) (mask : BitVec 128) (bs : List Byte) : State :=
  let t := (State.storeRows { s with core := c, slot := j } d [(rowOfBytes bs, mask)]).rowsReady d [mask] s.turn
  { t with core := s.core, slot := s.slot }

/-- `vst`: the bytes of the enabled lanes of vd; posted when it leaves the core. -/
def execVst (d : BitVec 6) (a : BitVec 5) (t : BitVec 3) (s : State) : Out :=
  let u : VUse := { use := { use (.vst d a t) with st := t, srcs := [(a, 0)] }, reads := [(d, 1)] }
  vissue u true false s fun s0 s rows =>
    let ea := s.src a
    let bs := rowBytes ((rows.getD 0 []).headD 0)
    let mask := enabledBytes s.me.lanes (s.tyOf d)
    if ea.toNat % 128 != 0 then .trap s0 .align ea
    else match s.regionCheck s.core s.slot ea.toNat with
      | (_, some c) => .trap (s0.regionCheck s0.core s0.slot ea.toNat).1 c ea
      | (s, none) =>
        if isLocal s.core ea.toNat then
          if regionOf ea.toNat == .local_ && s.vaultBusy (s.core * 2 ^ 28 + ea.toNat) 128 then
            .stall (s0.vaultWait (s.core * 2 ^ 28 + ea.toNat) 128)
          else match s.rowWrite s.core s.slot ea.toNat mask bs with
            | (_, some c) => .trap s0 c ea
            | (s, none) => .retire s none
        else if s.boardFull then .stall s0
        else .retire (s.postRow ea mask bs) none

/-! ## Binding streams (R314, R315) -/

/-- A stream from a descriptor's 32 bytes; nothing for one that breaks the constraints of R314. -/
def streamOf (d : BitVec 6) (bs : List Byte) : Option Stream :=
  let base := fieldAt bs 0 8
  let ctl := fieldAt bs 8 4
  let cnt := fieldAt bs 12 4
  let icnt := fieldAt bs 16 4
  let istr := fieldAt bs 24 4
  let ostr := fieldAt bs 28 4
  let kind := bitsOf ctl 3 2
  let dir := bitsOf ctl 5 4
  let chan := 2 ≤ kind
  let ok := bitsOf ctl 31 6 == 0 && fieldAt bs 20 4 == 0 &&
    (if chan then base == 0 && cnt == 0 && icnt == 0 && istr == 0 && ostr == 0
     else bitsOf base 63 48 == 0 && base % 128 == 0 && decide (1 ≤ cnt) && decide (cnt < 2 ^ 24) && decide (1 ≤ icnt) &&
       decide (icnt < 2 ^ 24) && istr % 128 == 0 && ostr % 128 == 0 && dir == 0)
  if !ok then none
  else some {
    num := ctl % 4, vd := d, dir := dir, base := BitVec.ofNat 48 base, cnt := cnt, icnt := icnt, istr := sx 32 istr,
    ostr := sx 32 ostr, ahead := 0, done := 0, fifo := [], tag := none,
    kind := if kind = 0 then .inPattern else if kind = 1 then .outPattern else if kind = 2 then .inChannel else .outChannel }

/-- The neighbour of a core in a direction of R314. -/
def neighbour (c dir : Nat) : Option Nat :=
  if dir = 0 then if colOf c = 0 then none else some (c - 1)
  else if dir = 1 then if colOf c = 31 then none else some (c + 1)
  else if dir = 2 then if rowOf c = 0 then none else some (c - 32)
  else if rowOf c = 31 then none else some (c + 32)

/-- Whether a stream is of a channel. -/
def Stream.isChannel (t : Stream) : Bool := t.kind == .inChannel || t.kind == .outChannel

/-- Whether a channel may not be bound: it leads off the mesh, or another slot of the core binds it (R315). -/
def State.channelTaken (s : State) (t : Stream) : Bool :=
  t.isChannel && ((neighbour s.core t.dir).isNone || (List.range 8).any fun j =>
    j != s.slot && (s.slotAt s.core j).streams.any fun (x : Stream) => x.kind == t.kind && x.dir == t.dir)

/-- Whether a stream holds entries that its end must first drain (R318). -/
def Stream.undrained (t : Stream) : Bool := t.kind == .outPattern && !t.fifo.isEmpty

/-- A stream is bound: one of the same number has ended; an inbound channel loses the entries of other processes that it holds, and none
that is still on its way to it (R88, R315; notes/assumptions/121.md). -/
def State.bindStream (s : State) (t : Stream) : State :=
  let s := s.onMe fun v => { v with streams := (v.streams.filter fun (x : Stream) => x.num != t.num) ++ [t] }
  if t.kind = .inChannel then
    s.onHere fun k => { k with inChan := put t.dir (((look t.dir k.inChan).getD []).filter fun e => e.pid == s.me.pid) k.inChan }
  else s

/-- `strbind`, with its checks in the order of R315. -/
def execStrbind (d : BitVec 6) (a : BitVec 5) (t : BitVec 3) (s : State) : Out :=
  let u : Use := { use (.strbind d a t) with srcs := [(a, 0)], st := t, legal := s.binding.isSome }
  issue u s fun s =>
    let ea := s.src a
    if ea.toNat % 32 != 0 then .trap s .align ea
    else tableRead s ea 32 fun s bs =>
        match streamOf d bs with
        | none => .trap s .illegal u.eva
        | some x =>
          if s.me.streams.any fun (y : Stream) => y.vd == d && y.num != x.num then .trap s .illegal u.eva
          else if s.channelTaken x then .trap s .refused ea
          else if s.me.streams.any fun (y : Stream) => y.num == x.num && y.undrained then .stall s
          else .retire (s.bindStream x) none

/-- `strend` (R318). -/
def execStrend (d : BitVec 6) (t : BitVec 3) (s : State) : Out :=
  issue { use (.strend d t) with st := t, legal := s.binding.isSome } s fun s =>
    match s.me.stream d with
    | none => .retire s none
    | some x =>
      if x.undrained then .stall s
      else .retire (s.onMe fun v => { v with streams := v.streams.filter fun (y : Stream) => y.num != x.num }) none

/-! ## Scratchpad tile regions (R183, R323, R324) -/

/-- The scratchpad byte of a tile region at an address, under the address checks of R323. -/
def State.regionByte (s : State) (x : Ctx) (ea : Word) : Except Cause Nat :=
  if regionOf ea.toNat != .spad || spmCore ea.toNat != x.core then .error .prot
  else match s.allocAt x.pid ea.toNat with
    | none => .error .prot
    | some a =>
      if a.size < 4096 then .error .prot
      else if spmOff ea.toNat % 4096 != 0 then .error .align
      else .ok (a.base + spmOff ea.toNat % a.size)

/-- The declared region of a number. -/
def Core.region (k : Core) (n : Nat) : Option Region := k.regions.find? fun (r : Region) => r.num == n

/-- A declared region as a checksummed tile: its rows are scratchpad bytes. -/
def State.regionTile (s : State) (c : Nat) (r : Region) : Tile :=
  { rows := (List.range 32).map fun i => rowOfBytes (s.spm.readBytes (spmAt c (4096 * r.num + 128 * i)) 128),
    side := r.side, drift := r.drift, err := r.err, stale := r.stale, prov := r.prov, ty := r.ty, writer := 0 }

/-- The shadow store of a region after a check or a move: its sideband and TKS. -/
def Core.putRegion (k : Core) (n : Nat) (t : Tile) : Core :=
  let r : Region := { num := n, side := t.side, drift := t.drift, err := t.err, stale := t.stale, prov := t.prov, ty := t.ty,
                      wrote := (k.region n).bind (·.wrote) }
  { k with regions := (k.regions.filter fun (x : Region) => x.num != n) ++ [r] }

/-- A region's tile written back: its bytes where they differ, and its shadow store; it returns no waiter on a word of it (R149;
notes/assumptions/154.md). -/
def State.putRegionTile (s : State) (c n : Nat) (t : Tile) : State :=
  let s := { s with spm := (t.rows.zipIdx).foldl (fun (m : Memory) (p : Row × Nat) => m.write (spmAt c (4096 * n + 128 * p.2)) (rowBytes p.1)) s.spm }
  s.onCore c fun k => k.putRegion n t

/-- The bytes of a declared region read under ECC, as a tile; nothing when a word is uncorrectable. -/
def State.loadRegion (s : State) (c : Nat) (r : Region) (w : Who) : State × Option Tile :=
  match s.spmRead w c (4096 * r.num) 4096 with
  | (s, none) => (s, none)
  | (s, some _) => (s, some (s.regionTile c r))

/-- The EVA of CKSUM for a region: the window address of its allocation with OFF = 0 (R198). -/
def regionEva (ea : Word) : Word := spmAddress (idxOf ea.toNat) (spmCore ea.toNat)

/-- Contents whose checksums are formed; an MR64 tile without moduli is left stale (R186). -/
def Tile.formed (t : Tile) (mq : Moduli) : Tile :=
  if t.ty = 5 && mq.isNone then { t with stale := true, err := false, prov := false, drift := 0 }
  else { t.reform mq with err := false, prov := false }

/-- Whether a range that a process reaches through the scratchpad window has bytes in region `n` of a core. -/
def State.reachesRegion (s : State) (pid : BitVec 16) (c n : Nat) (r : Word × Nat) : Bool :=
  regionOf r.1.toNat == .spad && spmCore r.1.toNat == c && (s.allocAt pid r.1.toNat).any fun a =>
    (a.spans (r.2 + 1) (spmOff r.1.toNat) r.2).any fun p => decide (p.1 < 4096 * n + 4096) && decide (4096 * n < p.1 + p.2)

/-- Whether an engine operation, a task in execution or a direct one, reads or writes a region (R200, R206). -/
def State.regionInUse (s : State) (c n : Nat) : Bool :=
  (s.clusters.any fun g => g.2.running.any fun r => r.task.ranges.any fun p => s.reachesRegion r.task.pid c n p) ||
    s.cores.any fun k => k.2.engine.queue.any fun o => o.task.isNone && o.scaleRanges.any fun p => s.reachesRegion o.pid c n p

/-- `ftile` (R323): the contents it forms checksums from are read under SEC-DED (R406, R411). -/
def execFtile (a : BitVec 5) (y : BitVec 6) (t : BitVec 3) (s : State) : Out :=
  issue { use (.ftile a y t) with srcs := [(a, 0)], st := t, legal := y.toNat ≤ 5 } s fun s =>
    let ea := s.src a
    match s.regionByte (s.ctx s.core s.slot) ea with
    | .error c => .trap s c ea
    | .ok b =>
      let n := b / 4096
      let declare (r : Region) : Act := match s.loadRegion s.core r (s.who s.core s.slot) with
        | (s, none) => .trap s .eccue ea
        | (s, some x) => .retire (s.onHere fun k => k.putRegion n (x.formed s.me.mq)) none
      if s.regionInUse s.core n then .stall s
      else match s.here.region n with
      | some r =>
        if r.ty.toNat = y.toNat then declare r
        else if r.err then .trap s .cksum (regionEva ea)
        else .retire (s.onHere fun k => k.putRegion n
          { s.regionTile s.core r with ty := y.setWidth 3, stale := true, prov := false }) none
      | none => declare { num := n, side := List.replicate 64 0, drift := 0, err := false, stale := false, prov := false,
                          ty := y.setWidth 3, wrote := none }

/-- `ftrel` (R324). -/
def execFtrel (a : BitVec 5) (t : BitVec 3) (s : State) : Out :=
  issue { use (.ftrel a t) with srcs := [(a, 0)], st := t } s fun s =>
    let ea := s.src a
    match s.regionByte (s.ctx s.core s.slot) ea with
    | .error c => .trap s c ea
    | .ok b => .retire (s.onHere fun k => { k with regions := k.regions.filter fun (r : Region) => r.num != b / 4096 }) none

/-! ## The code table (R325) -/

/-- `lutld`: the sixteen entries, the tag and its owner in one step. -/
def execLutld (a b : BitVec 5) (t : BitVec 3) (s : State) : Out :=
  let u : Use := { use (.lutld a b t) with srcs := [(a, 0), (b, 0)], st := t }
  issue u s fun s =>
    let ea := s.src a
    let tag := (s.src b).toNat % 4096
    if tag = 0 then .trap s .illegal u.eva
    else if ea.toNat % 16 != 0 then .trap s .align ea
    else tableRead s ea 16 fun s bs =>
        .retire (s.onHere fun k => { k with lut := bs, ltag := BitVec.ofNat 32 (s.me.pid.toNat * 4096 + tag),
                                            lutWas := some (s.now, k.lut, k.ltag) }) none

end Sys2Proof.Machine
end

