-- ==== Sys2Proof/Machine/Tiles.lean ====
section
/-! DEFINITION. Tiles, rows and operand loads: binding, moving and checking tiles, opening rows, loading the A buffers and B
(R84, R85, R138 to R142, R189, R192, R193, R327 to R338, R344 to R346). -/

namespace Sys2Proof.Machine

/-! ## Tiles named by number (R85, R193, R200, R328) -/

/-- Whether another strand holds a tile. -/
def Core.heldByOther (k : Core) (id : StrandId) (t : Nat) : Bool :=
  k.bound.any fun (b : StrandId × Binding) => b.1 != id && (b.2.lo == t || b.2.hi == t)

/-- `tzero`'s effect, which keeps TYPE; it clears STALE whatever the strand's moduli are (R186, R189, R332; notes/assumptions/63.md). -/
def Tile.zeroed (t : Tile) (pid : BitVec 16) : Tile := { Tile.reset with ty := t.ty, writer := pid }

/-- A tile last written under another process id is zeroed with its sideband (R85). -/
def Tile.claimed (t : Tile) (pid : BitVec 16) : Tile := if t.writer = pid then t else t.zeroed pid

/-- REFUSED for a tile that another strand holds, and CKSUM for one with ERR = 1 that R85 does not zero; the exempt forms take
no CKSUM. -/
def State.tileBlock (s : State) (t : Nat) (exempt : Bool) : Option (Cause × Word) :=
  if s.here.heldByOther s.me.id t then some (.refused, BitVec.ofNat 48 t)
  else if !exempt && (s.tileAt s.core t).err && (s.tileAt s.core t).writer == s.me.pid then some (.cksum, tileEva t)
  else none

/-- The first block among several tiles. -/
def State.tilesBlock (s : State) (l : List Nat) (exempt : Bool) : Option (Cause × Word) :=
  l.findSome? fun t => s.tileBlock t exempt

/-- The engine's last result is no longer recomputable: its operands change, or another operation takes its place (R197). -/
def State.loseProv (s : State) (c : Nat) : State :=
  match (s.coreAt c).engine.prov with
  | none => s
  | some p =>
    let s := s.onCore c fun k => { k with engine := { k.engine with prov := none } }
    s.putTile c p.tile { s.tileAt c p.tile with prov := false }

/-- The tiles of an MMA task's command: td, and ATILE of an `mma.m` (R206, R339). -/
def Task.namesTile (x : Task) (t : Nat) : Bool :=
  let w := fieldAt x.rec_ 0 4
  bitsOf w 20 18 == t || (bitsOf w 31 21 == 0x33 * 32 + 2 && bitsOf (fieldAt x.rec_ 8 8) 30 28 == t)

/-- Whether a frozen operation uses a tile: a stopped entry of a slot, or a stopped task (R334, R397). -/
def State.frozenTile (s : State) (c t : Nat) : Bool :=
  let of (o : MmaOp) := o.td == t || (o.fromTile && o.atile == t)
  ((List.range 8).any fun j => (s.slotAt c j).board.any fun (e : SbEntry) => match e.work with
    | .matrix o => e.stop && e.state == 3 && e.cause.isNone && of o
    | _ => false) ||
  (s.clusterAt (clusterOf c)).queue.any fun (x : Task) => x.home == some c && x.namesTile t

/-- An X form that names one tile: the holder, the engine's use and ERR are tested, R85 is applied, then its effect. -/
def onTile (u : Use) (t : Nat) (exempt : Bool) (s : State) (f : State → Act) : Out :=
  issue u s fun s =>
    match s.tileBlock t exempt with
    | some x => .trap s x.1 x.2
    | none =>
      if s.here.usesTile t then .stall s
      else f (s.putTile s.core t ((s.tileAt s.core t).claimed s.me.pid))

/-! ## Binding (R331) -/

/-- A tile as a binding leaves it: R85, then the re-typing row of R189. -/
def Tile.bound (t : Tile) (pid : BitVec 16) (ty : BitVec 3) : Tile :=
  let t := t.claimed pid
  if t.ty = ty then t else { t with ty := ty, stale := true, prov := false }

/-- `tbind`, with its checks in the order of R331. -/
def execTbind (d h l y t : BitVec 3) (s : State) : Out :=
  let ok := l.toNat ≤ 5 && y.toNat ≤ 5 && (d != h || l == y)
  issue { use (.tbind d h l y t) with st := t, legal := ok } s fun s =>
    match s.tilesBlock [d.toNat, h.toNat] true, s.tilesBlock [d.toNat, h.toNat] false with
    | some x, _ => .trap s x.1 x.2
    | none, some x => .trap s x.1 x.2
    | none, none =>
      if s.here.usesTile d.toNat || s.here.usesTile h.toNat then .stall s
      else
        let s := s.putTile s.core d.toNat ((s.tileAt s.core d.toNat).bound s.me.pid l)
        let s := s.putTile s.core h.toNat ((s.tileAt s.core h.toNat).bound s.me.pid y)
        let b : Binding := { lo := d.toNat, hi := h.toNat, tyl := l, tyh := y }
        let s := s.onHere fun k =>
          { k with bound := (k.bound.filter fun (e : StrandId × Binding) => e.1 != s.me.id) ++ [(s.me.id, b)] }
        .retire (s.onMe fun v => { v with lanes := BitVec.allOnes 128 }) none

/-- `tfree`. -/
def execTfree (t : BitVec 3) (s : State) : Out :=
  issue { use (.tfree t) with st := t } s fun s =>
    .retire (s.onHere fun k => { k with bound := k.bound.filter fun (e : StrandId × Binding) => e.1 != s.me.id }) none

/-- `tzero` (R332). -/
def execTzero (d t : BitVec 3) (s : State) : Out :=
  onTile { use (.tzero d t) with st := t } d.toNat true s fun s =>
    .retire (s.putTile s.core d.toNat ((s.tileAt s.core d.toNat).zeroed s.me.pid)) none

/-! ## Whole-tile moves (R189, R333, R334) -/

/-- The declared region an address names, under the address checks of R323; an undeclared one is PROT. -/
def State.regionAt (s : State) (x : Ctx) (ea : Word) : Except Cause Region :=
  match s.regionByte x ea with
  | .error c => .error c
  | .ok b => match (s.coreAt x.core).region (b / 4096) with
    | none => .error .prot
    | some r => .ok r

/-- A tile carried into the scratchpad: its bytes are engine writes, and sideband and TKS go to the shadow store; a vector store into the
region in the same cycle leaves it stale (R351). -/
def State.drainTile (s : State) (c n : Nat) (t : Tile) : State :=
  let met := ((s.coreAt c).region n).bind (·.wrote) == some s.now
  (s.spmPut c (4096 * n) (t.rows.flatMap rowBytes)).onCore c fun k => k.putRegion n { t with prov := false, stale := t.stale || met }

/-- The slot issues no earlier than some cycles from now. -/
def State.busyFor (s : State) (cycles : Nat) : State :=
  s.onMe fun v => { v with turnNext := max v.turnNext ((s.now + cycles + 7) / 8) }

/-- A move between a tile and a region: the address checks, PRIV for a program strand that names a frozen operation's tile,
REFUSED, and the stall of R200. -/
def moveForm (u : Use) (t : Nat) (a : BitVec 5) (s : State) (f : State → Region → Act) : Out :=
  issue u s fun s =>
    let ea := s.src a
    match s.regionAt (s.ctx s.core s.slot) ea with
    | .error c => .trap s c ea
    | .ok r =>
      if s.frozenTile s.core t && !s.privileged s.core s.slot then .trap s .priv u.eva
      else match s.tileBlock t true with
        | some x => .trap s x.1 x.2
        | none => if s.here.usesTile t then .stall s else f s r

/-- `tfill`. -/
def execTfill (d : BitVec 3) (a : BitVec 5) (t : BitVec 3) (s : State) : Out :=
  moveForm { use (.tfill d a t) with srcs := [(a, 0)], st := t } d.toNat a s fun s r =>
    match s.loadRegion s.core r (s.who s.core s.slot) with
    | (s, none) => .trap s .eccue (s.src a)
    | (s, some x) => .retire ((s.putTile s.core d.toNat { x with writer := s.me.pid, prov := false }).busyFor 72) none

/-- `tdrain`: a privileged strand moves a frozen operation's tile as it stands (R328, R334). -/
def execTdrain (d : BitVec 3) (a : BitVec 5) (t : BitVec 3) (s : State) : Out :=
  moveForm { use (.tdrain d a t) with srcs := [(a, 0)], st := t } d.toNat a s fun s r =>
    let x := s.tileAt s.core d.toNat
    if s.frozenTile s.core d.toNat then .retire ((s.drainTile s.core r.num x).busyFor 72) none
    else
      let x := x.claimed s.me.pid
      .retire (((s.putTile s.core d.toNat x).drainTile s.core r.num x).busyFor 72) none

/-! ## Rows (R138, R140, R335) -/

/-- The checks of a range of the local window: below the reserved MiB, and every page of it passes R118. -/
def State.rangeCheck (s : State) (w : Who) (c a n : Nat) : State × Option Cause :=
  if a + n ≤ 0x0FF00000 then State.ownerChecks w w.pid (pagesOf c a n) s else (s, some .prot)

/-- A request to the vault controller, which holds eight tags (R136). -/
def rowForm (u : Use) (a : BitVec 5) (p : Nat → CtlPacket) (s : State) : Out :=
  issue u s fun s =>
    let ea := s.src a
    match s.rangeCheck (s.who s.core s.slot) s.core ea.toNat 1 with
    | (s, some cause) => .trap s cause ea
    | (s, none) =>
      if !s.tagFree s.core s.me.place then .stall s.awaitTag
      else .retire (s.onHere fun k => { k with ctl := k.ctl ++ [p (s.core * 2 ^ 28 + ea.toNat)] }) none

/-- `rowact`. -/
def execRowact (a : BitVec 5) (t : BitVec 3) (s : State) : Out :=
  rowForm { use (.rowact a t) with srcs := [(a, 0)], st := t } a .act s

/-- `rowpre`. -/
def execRowpre (a : BitVec 5) (t : BitVec 3) (s : State) : Out :=
  rowForm { use (.rowpre a t) with srcs := [(a, 0)], st := t } a .pre s

/-- tREFI (R137, R141). -/
def State.trefi (s : State) : Nat := if s.quince.hot.isEmpty then 6825 else 3412

/-- One refresh of a bank: its row is closed, and the next one falls due an interval later (R140). -/
def State.refreshBank (s : State) (c b : Nat) : State :=
  let x := s.bankAt c b
  s.putBank c b { x with openRow := none, due := x.due + s.trefi, waiting := false }

/-! ## `tld` (R139, R140, R142, R336, R337) -/

/-- 64 bytes enter an A buffer at a byte offset. -/
def Engine.putBeat (e : Engine) (buf o : Nat) (bs : List Byte) : Engine :=
  let f (l : List (BitVec 2048)) := l.set (o / 256) (setField (l.getD (o / 256) 0) (8 * (o % 256)) 512 (leNat bs))
  if buf = 0 then { e with abuf0 := f e.abuf0 } else { e with abuf1 := f e.abuf1 }

/-- Whether an operation of the engine queue reads an A buffer. -/
def Engine.readsBuf (e : Engine) (buf : Nat) : Bool := e.queue.any fun (o : MmaOp) => !o.fromTile && o.abuf == buf

/-- A row segment ends: a refresh that waited for it is performed, and counted when a later segment lies in that bank (R140,
R144). -/
def State.endSegment (s : State) (c a : Nat) (later : Bool) : State :=
  if (s.bankAt c (bankOf a)).waiting then
    let s := s.refreshBank c (bankOf a)
    if later then s.onCore c fun k => { k with vevt := bump k.vevt 32 16 1 } else s
  else s

/-- B is no longer resident; PROV of the engine's last result is lost with it (R197, R327). -/
def State.dropB (s : State) (c : Nat) : State :=
  (s.loseProv c).onCore c fun k => { k with engine := { k.engine with bk := 0, bkey := 0, bcols := [], braw := [] } }

/-- A parity error of the A buffers or of the macros is found: it is logged, and B is no longer resident (R406). -/
def State.parityError (s : State) (c array : Nat) (w : Who) : State :=
  ((s.logError c array 1 Cause.eccue.code 0 0 w false).dropB c).onCore c fun k =>
    { k with engine := { k.engine with badA := k.engine.badA && array != 5, badB := k.engine.badB && array != 6 } }

/-- Beats of a `tld` from beat `j` on, at most as many as the fuel: the beat reached, or the vault offset of the granule that
failed. -/
def State.beats (w : Who) (c buf a o n : Nat) : Nat → State → Nat → State × Nat × Option Nat
  | 0, s, j => (s, j, none)
  | f + 1, s, j =>
    if n / 64 ≤ j then (s, j, none)
    else
      let b := a + 64 * j
      let r0 := s.vaultRead w (c * 2 ^ 28 + b) 32
      if r0.2.1 != 0 then (r0.1, j, some b)
      else
        let r1 := r0.1.vaultRead w (c * 2 ^ 28 + b + 32) 32
        if r1.2.1 != 0 then (r1.1, j, some (b + 32))
        else
          let s := r1.1.onCore c fun k => { k with engine := k.engine.putBeat buf (o + 64 * j) (r0.2.2 ++ r1.2.2) }
          let last := (b + 64) % 2048 = 0 || n / 64 ≤ j + 1
          let later := j + 1 < n / 64 && bankOf (b + 64) == bankOf b
          State.beats w c buf a o n f (if last then s.endSegment c b later else s) (j + 1)

/-- Where a `tld` has got to: its next beat, and whether the throttle has stopped it. -/
def Slot.tldAt (v : Slot) : Nat × Bool :=
  match v.run with
  | some (.tld j _ stopped) => (j, stopped)
  | _ => (if v.tldp.getLsbD 31 then v.tldp.toNat % 128 else 0, false)

/-- TLDP of a stopped `tld`. -/
def tldpOf (beats : Nat) : BitVec 32 := BitVec.ofNat 32 (2 ^ 31 + beats % 128)

/-- `tld`: eight beats in each of its slot's turns. -/
def execTld (d : BitVec 3) (a b c : BitVec 5) (t : BitVec 3) (s : State) : Out :=
  let u : Use := { use (.tld d a b c t) with srcs := [(a, 0), (b, 0), (c, 0)], st := t,
                                             legal := d.toNat ≤ 1 }
  issue u s fun s =>
    let ea := s.src a
    let n := (s.src b).toNat
    let o := (s.src c).toNat
    let rows := (ea.toNat + n + 2047) / 2048 - ea.toNat / 2048
    let begun := match s.me.run with | some (.tld ..) => true | _ => false
    if ea.toNat % 64 != 0 || n % 64 != 0 || o % 64 != 0 then .trap s .align ea
    else if n = 0 || 8192 < o + n then .trap s .prot ea
    else if 4 < rows then .trap s .prot ea
    else match (if begun then (s, none) else s.rangeCheck (s.who s.core s.slot) s.core ea.toNat n) with
    | (s, some cause) => .trap s cause ea
    | (s, none) =>
    if !begun && s.here.engine.readsBuf d.toNat then .stall s
    else if !begun && s.vaultBusy (s.core * 2 ^ 28 + ea.toNat) n then .stall (s.vaultWait (s.core * 2 ^ 28 + ea.toNat) n)
    else if s.here.engine.badA then .trap (s.parityError s.core 5 (s.who s.core s.slot)) .eccue ea
    else
      let at_ := s.me.tldAt
      if at_.2 then .trap (s.onMe fun v => { v with tldp := tldpOf at_.1 }) .tldtherm ea
      else
        let s := s.loseProv s.core
        match State.beats (s.who s.core s.slot) s.core d.toNat ea.toNat o n 8 s at_.1 with
        | (s, j, some bad) => .trap (s.onMe fun v => { v with tldp := tldpOf j }) .eccue (BitVec.ofNat 48 bad)
        | (s, j, none) =>
          let s := s.chargeGranules s.core s.me.acct (64 * (j - at_.1))
          if n / 64 ≤ j then .retire (s.onMe fun v => { v with tldp := setField v.tldp 31 1 0 }) none
          else .stall (s.onMe fun v => { v with run := some (.tld j (ea.toNat + 64 * j) false) })

/-! ## `bld` (R111, R112, R192, R338) -/

/-- Reads bytes in pieces that 64-byte boundaries cut, or the cause and the address of the piece that failed. -/
def State.readCut (x : Ctx) : Nat → Word → Nat → State → State × Except (Cause × Word) (List Byte)
  | 0, _, _, s => (s, .ok [])
  | f + 1, a, n, s =>
    if n = 0 then (s, .ok [])
    else
      let m := min n (64 - a.toNat % 64)
      match s.ctxRead x a.toNat m with
      | (s, .error c) => (s, .error (c, a))
      | (s, .ok bs) => match State.readCut x f (a + BitVec.ofNat 48 m) (n - m) s with
        | (s, .ok r) => (s, .ok (bs ++ r))
        | (s, .error e) => (s, .error e)

/-- Reads `n` bytes from an address on. -/
def State.readSpan (s : State) (x : Ctx) (a : Word) (n : Nat) : State × Except (Cause × Word) (List Byte) :=
  State.readCut x (n / 64 + 2) a n s

/-- The vault byte that an address of a context reaches, where it reaches one. -/
def State.vaultByte (s : State) (x : Ctx) (va : Nat) : Option Nat :=
  match regionOf va with
  | .local_ => some (x.core * 2 ^ 28 + va)
  | .spad => none
  | .global => match (s.translate x.who x.pid x.prv va .write).2 with
    | .ok pa => if spaceOf pa == .vault then some pa else none
    | .error _ => none

/-- A write by an engine sets full every 8-byte vault word it touches (R145). -/
def State.engineStore (s : State) (x : Ctx) (va : Nat) (bs : List Byte) : State × Option Cause :=
  match s.ctxWrite x va bs with
  | (s, some c) => (s, some c)
  | (s, none) => match s.vaultByte x va with
    | some pa => (s.setFull pa bs.length, none)
    | none => (s, none)

/-- Writes bytes in pieces that 64-byte boundaries cut, until one fails. -/
def State.writeCut (x : Ctx) : Nat → Word → List Byte → State → State × Option (Cause × Word)
  | 0, _, _, s => (s, none)
  | f + 1, a, bs, s =>
    if bs.isEmpty then (s, none)
    else
      let m := 64 - a.toNat % 64
      match s.engineStore x a.toNat (bs.take m) with
      | (s, some c) => (s, some (c, a))
      | (s, none) => State.writeCut x f (a + BitVec.ofNat 48 m) (bs.drop m) s

/-- An engine writes bytes from an address on. -/
def State.writeSpan (s : State) (x : Ctx) (a : Word) (bs : List Byte) : State × Option (Cause × Word) :=
  State.writeCut x (bs.length / 64 + 2) a bs s

/-- The scale words of a column of B, for a KB format. -/
def State.scalesOf (s : State) (x : Ctx) (fmt : Nat) (sc : Word) (i blocks : Nat) : State × Except (Cause × Word) (List Nat) :=
  if fmt = 2 ∨ fmt = 3 then s.scaleRow x sc i blocks else (s, .ok [])

/-- The columns of B from its bytes, each with its scale words, or the fault of a scale read. -/
def State.columnsOf (s : State) (x : Ctx) (fmt k : Nat) (scb : Word) (bs : List Byte) :
    State × Except (Cause × Word) (List (Nat × List Nat)) :=
  let st := strideOf fmt k
  (List.range 32).foldl (fun acc i =>
    match acc with
    | (s, .error f) => (s, .error f)
    | (s, .ok l) => match s.scalesOf x fmt scb i ((k + 31) / 32) with
      | (s, .error f) => (s, .error f)
      | (s, .ok sc) => (s, .ok (l ++ [(fieldAt bs (st * i) st, sc)]))) (s, .ok [])

/-- Whether a range leaves the region it begins in, and the first address beyond: the local window's end, or that of the core's part of
the scratchpad window, or of the address space. -/
def leavesWindow (a : Word) (n : Nat) : Option Word :=
  let last := match regionOf a.toNat with
    | .local_ => 2 ^ 28
    | .spad => (a.toNat / 2 ^ 17 + 1) * 2 ^ 17
    | .global => 2 ^ 48
  if last < a.toNat + n then some (BitVec.ofNat 48 last) else none

/-- B enters the macros of a core from an address, for a context: the load of R338 after its checks. -/
def State.loadB (s : State) (x : Ctx) (fmt k : Nat) (key : BitVec 32) (lut : List (BitVec 8)) (scb a : Word) :
    State × Option (Cause × Word) :=
  let n := 32 * strideOf fmt k
  match leavesWindow a n with
  | some e => (s, some (.prot, e))
  | none => match s.readSpan x a n with
    | (s, .error f) => (s, some f)
    | (s, .ok bs) => match s.columnsOf x fmt k scb bs with
      | (s, .error f) => (s, some f)
      | (s, .ok cols) =>
        let s := s.chargeGranules x.core x.acct n
        (s.onCore x.core fun c => { c with engine := { c.engine with
            bcols := cols.map fun p => blocksOf fmt 20 k lut p.2 p.1, braw := cols, bk := k, bfmt := BitVec.ofNat 4 fmt, bkey := key } },
         none)

/-- The declared region that a range is exactly, and its core: a task may name a region of another one (R338, R348). -/
def State.exactRegion (s : State) (x : Ctx) (a : Word) (n : Nat) : Option (Nat × Region) :=
  let c := spmCore a.toNat
  if n != 4096 || (s.coreAt c).killed then none
  else match s.regionAt { x with core := c } a with
    | .ok r => some (c, r)
    | .error _ => none

/-- The lane moduli of a check that no slot performs, a tile task's: free (notes/assumptions/122.md). -/
def freeModuli (free : Nat) : Moduli := some ((List.range 16).map fun i => (Config.freeXword (free + i)).toNat)

/-- The check of a region of a core at its use as a B source (R192): the state, and CKSUM when it fails. -/
def State.checkRegion (s : State) (x : Ctx) (c : Nat) (r : Region) (ea : Word) (mq : Moduli) : State × Option (Cause × Word) :=
  match s.loadRegion c r x.who with
    | (s, none) => (s, some (.eccue, ea))
    | (s, some t) =>
      let k := t.check mq fun _ _ => none
      let s := (s.putRegionTile c r.num k.tile).noteCheck c k true r.num x.who
      (s, if k.ok then none else some (.cksum, regionEva ea))

/-- The first checks of R338 on what a load of B names: K, the alignment of its address, and the region it lies in. -/
def bldRefused (c k : Nat) (a : Word) : Option Cause :=
  if k = 0 ∨ 1024 < k then some .prot
  else if a.toNat % 64 != 0 then some .align
  else if regionOf a.toNat == .local_ || (regionOf a.toNat == .spad && spmCore a.toNat == c) then none
  else some .prot

/-- The load of B that `bld` makes once its key has missed: ERR of a declared region first (R193), then BK and BKEY are zero, the region
is checked under R192, and B is read (R338). -/
def State.bring (s : State) (x : Ctx) (fmt k : Nat) (key : BitVec 32) (lut : List (BitVec 8)) (scb a : Word) (mq : Moduli) :
    State × Option (Cause × Word) :=
  let region := s.exactRegion x a (32 * strideOf fmt k)
  if region.any (·.2.err) then (s, some (.cksum, regionEva a))
  else if (s.coreAt x.core).engine.badB then (s.parityError x.core 6 x.who, some (.eccue, a))
  else
    let s := s.dropB x.core
    let r := match region with
      | some (c, r) => s.checkRegion x c r a mq
      | none => (s, none)
    match r with
    | (s, some f) => (s, some f)
    | (s, none) => s.loadB x fmt k key lut scb a

/-- Whether the resident B is what a load names by its key. -/
def Engine.hasB (e : Engine) (fmt k : Nat) (key : BitVec 32) : Bool := key != 0 && key == e.bkey && k == e.bk && fmt == e.bfmt.toNat

/-- Whether a task that uses no engine queue runs on a core. -/
def State.plainTask (s : State) (c : Nat) : Bool :=
  (s.clusterAt (clusterOf c)).running.any (fun (r : Running) => r.core == c) &&
    !(s.coreAt c).engine.queue.any fun (o : MmaOp) => o.task.isSome

/-- `bld`, with its checks in the order of R338. -/
def execBld (a b c : BitVec 5) (t : BitVec 3) (s : State) : Out :=
  let f := bitsOf s.me.fmt.toNat 7 4
  let u : Use := { use (.bld a b c t) with srcs := [(a, 0), (b, 0), (c, 0)], st := t,
                                           legal := fmtOk s.me.fmt && f ≤ 5 }
  issue u s fun s =>
    let ra := s.src a
    let k := (s.src b).toNat
    let key := (s.src c).setWidth 32
    let table := s.here.seen s.now
    match bldRefused s.core k ra with
    | some cause => .trap s cause ra
    | none => match (if f = 5 then table.tagCheck (ctagOf s.me.fmt) s.me.pid else none) with
      | some eva => .trap s .luttag eva
      | none =>
        if !s.here.engine.queue.isEmpty || s.plainTask s.core ||
            (regionOf ra.toNat == .local_ && s.behind s.me.id false (s.core * 2 ^ 28 + ra.toNat) (32 * strideOf f k)) then .stall s
        else if s.here.engine.hasB f k key then .retire s none
        else match s.bring (s.ctx s.core s.slot) f k key table.lut s.me.scb ra (some s.me.laneModuli) with
          | (s, some q) => .trap s q.1 q.2
          | (s, none) => .retire (s.busyFor (strideOf f k / 2)) none

/-! ## Checksum instructions (R186, R192 to R201, R344 to R346) -/

/-- The result of a verify (R344). -/
def Checked.code (r : Checked) (before : Tile) : Nat :=
  if r.formed then 3 else if r.fixes = 0 then 0 else if r.tile.rows = before.rows then 1 else 2

/-- A sideband read under a selector (R346). -/
def Tile.readSide (t : Tile) (v : Nat) : Word :=
  if v < 64 then (t.side.getD v 0).setWidth 48
  else if v < 128 then BitVec.ofNat 48 ((t.side.getD (v - 64) 0).toNat / 2 ^ 48)
  else if v = 128 then BitVec.ofNat 48 t.tks
  else 0

/-- Checksums formed without a comparison; ERR, STALE and DRIFT are cleared (R345). -/
def Tile.fixed (t : Tile) (mq : Moduli) : Tile := { t.reform mq with err := false }

/-- A verify, fix or signature form on a tile: ILLEGAL on an MR64 tile without moduli, whose reload it awaits as a modular instruction does
(R89, R186; notes/assumptions/155.md). -/
def ckTile (u : Use) (d : BitVec 3) (exempt : Bool) (s : State) (f : State → Tile → Act) : Out :=
  let mr := (s.tileAt s.core d.toNat).ty == 5
  onTile { u with legal := !mr || s.me.mqValid } d.toNat exempt s fun s =>
    if mr && !s.me.modLoaded then
      match s.reloadModuli s.core s.slot with
      | (s, some q) => .trap s q.1 q.2
      | (s, none) => .stall s
    else f s (s.tileAt s.core d.toNat)

/-- `ck.ver`. -/
def execCkVer (d : BitVec 3) (c : BitVec 5) (t : BitVec 3) (s : State) : Out :=
  ckTile { use (.ckVer d c t) with dsts := [c], st := t } d false s fun s x =>
    let r := x.check s.me.mq (s.recompute s.core d.toNat)
    let s := (s.putTile s.core d.toNat r.tile).noteCheck s.core r false d.toNat (s.who s.core s.slot)
    if r.ok then .retire (s.dst c (BitVec.ofNat 48 (r.code x)) 0 1) none else .trap s .cksum (tileEva d.toNat)

/-- `ck.fix`. -/
def execCkFix (d t : BitVec 3) (s : State) : Out :=
  ckTile { use (.ckFix d t) with st := t } d true s fun s x =>
    .retire (s.putTile s.core d.toNat (x.fixed s.me.mq)) none

/-- `ck.rd`. -/
def execCkRd (d : BitVec 3) (b c : BitVec 5) (t : BitVec 3) (s : State) : Out :=
  onTile { use (.ckRd d b c t) with srcs := [(b, 0)], dsts := [c], st := t } d.toNat true s fun s =>
    .retire (s.dst c ((s.tileAt s.core d.toNat).readSide (s.src b).toNat) 0 1) none

/-- The signature of a tile, whose checksums are formed first when they are stale (R201). -/
def signed_ (t : Tile) (mq : Moduli) : Checked :=
  if t.stale then t.check mq fun _ _ => none else { tile := t, fixes := 0, formed := false, ok := true }

/-- `ck.sig`. -/
def execCkSig (d : BitVec 3) (c : BitVec 5) (t : BitVec 3) (s : State) : Out :=
  ckTile { use (.ckSig d c t) with dsts := [c], st := t } d false s fun s x =>
    let r := signed_ x s.me.mq
    let s := (s.putTile s.core d.toNat r.tile).noteCheck s.core r false d.toNat (s.who s.core s.slot)
    .retire (s.dst c (BitVec.ofNat 48 r.tile.signature) 0 1) none

/-- A checksum form on a region: the address checks, then, for a form that
reads the contents, ILLEGAL on an MR64 region without moduli, then ERR. -/
def ckRegion (u : Use) (a : BitVec 5) (exempt : Bool) (mr : Bool) (s : State) (f : State → Region → Tile → Act) : Out :=
  issue u s fun s =>
    let ea := s.src a
    match s.regionAt (s.ctx s.core s.slot) ea with
    | .error c => .trap s c ea
    | .ok r =>
      if mr && r.ty == 5 && !s.me.mqValid then .trap s .illegal u.eva
      else if mr && r.ty == 5 && !s.me.modLoaded then
        match s.reloadModuli s.core s.slot with
        | (s, some q) => .trap s q.1 q.2
        | (s, none) => .stall s
      else if r.err && !exempt then .trap s .cksum (regionEva ea)
      else if !mr then f s r (s.regionTile s.core r)
      else match s.loadRegion s.core r (s.who s.core s.slot) with
        | (s, none) => .trap s .eccue ea
        | (s, some t) => f s r t

/-- `ck.verg`. -/
def execCkVerg (a c : BitVec 5) (t : BitVec 3) (s : State) : Out :=
  ckRegion { use (.ckVerg a c t) with srcs := [(a, 0)], dsts := [c], st := t } a false true s fun s g x =>
    let r := x.check s.me.mq fun _ _ => none
    let s := (s.putRegionTile s.core g.num r.tile).noteCheck s.core r true g.num (s.who s.core s.slot)
    if r.ok then .retire (s.dst c (BitVec.ofNat 48 (r.code x)) 0 1) none else .trap s .cksum (regionEva (s.src a))

/-- `ck.fixg`. -/
def execCkFixg (a : BitVec 5) (t : BitVec 3) (s : State) : Out :=
  ckRegion { use (.ckFixg a t) with srcs := [(a, 0)], st := t } a true true s fun s g x =>
    .retire (s.onHere fun k => k.putRegion g.num (x.fixed s.me.mq)) none

/-- `ck.rdg`. -/
def execCkRdg (a b c : BitVec 5) (t : BitVec 3) (s : State) : Out :=
  ckRegion { use (.ckRdg a b c t) with srcs := [(a, 0), (b, 0)], dsts := [c], st := t } a true false s
    fun s _ x => .retire (s.dst c (x.readSide (s.src b).toNat) 0 1) none

/-- `ck.sigg`. -/
def execCkSigg (a c : BitVec 5) (t : BitVec 3) (s : State) : Out :=
  ckRegion { use (.ckSigg a c t) with srcs := [(a, 0)], dsts := [c], st := t } a false true s fun s g x =>
    let r := signed_ x s.me.mq
    let s := (s.putRegionTile s.core g.num r.tile).noteCheck s.core r true g.num (s.who s.core s.slot)
    .retire (s.dst c (BitVec.ofNat 48 r.tile.signature) 0 1) none

end Sys2Proof.Machine
end

