-- ==== Sys2Proof/Machine/Matrix.lean ====
section
/-! DEFINITION. Matrix multiply: issue under a leave, the engine's completion, and cooperative products
(R110, R192 to R200, R215, R339 to R343). -/

namespace Sys2Proof.Machine

/-! ## Issue (R340) -/

/-- The ILLEGAL conditions of R340 and R110, for the types of C's tile and A's tile. -/
def MmaOp.legal (o : MmaOp) (e : Engine) (tyC tyA : Nat) : Bool :=
  fmtOk o.fmt && o.afmt ≤ 5 && o.bfmt ≤ 5 && isFloatFmt o.afmt == isFloatFmt o.bfmt &&
  e.bk != 0 && o.bfmt == e.bfmt.toNat && o.k != 0 && o.kb0 + o.b ≤ (e.bk + 31) / 32 &&
  o.k * o.wA ≤ (if o.fromTile then 1024 else 2048) && tyC == (if o.flt then 0 else 1) &&
  (!o.fromTile || (o.atile != o.td && tyA == (if o.afmt = 0 then 2 else 4)))

/-- The operation that a form of the issuing slot names, with its captured values (R106). -/
def State.opOf (s : State) (cmd : BitVec 32) (td : Nat) (zero fromTile : Bool) (word bar : Word) (group : Option (Nat × Nat × Nat)) : MmaOp :=
  let v := s.me
  { cmd := cmd, td := td, zero := zero, fromTile := fromTile, word := word, fmt := v.fmt, sca := v.sca, scb := v.scb, fpc := v.fpc,
    acct := v.acct, lut := (s.here.seen s.now).lut, pid := v.pid, prv := s.privileged s.core s.slot, id := v.id, slot := s.slot, bar := bar,
    started := s.now, blocks := 0, resumed := false, entry := none, group := group, got := 0, task := none, scales := [] }

/-- The tiles an operation names. -/
def MmaOp.tiles (o : MmaOp) : List Nat := if o.fromTile then [o.td, o.atile] else [o.td]

/-- An operation enters an engine's queue; a free engine that is not frozen starts it at once. -/
def Engine.push (e : Engine) (o : MmaOp) : Engine := { e with queue := e.queue ++ [o] }

/-- The checks of R340 in their order and then those of R193 and R200 (notes/assumptions/54.md), the charge of R342 from a leave, then the queue: one operation runs and one waits. -/
def mmaIssue (u : Use) (o : MmaOp) (s : State) : Act :=
  let e := s.here.engine
  if !o.legal e (s.tileAt s.core o.td).ty.toNat (s.tileAt s.core o.atile).ty.toNat then .trap s .illegal u.eva
  else match (if o.bar = 0 then none else s.barAddressCheck s.me.pid o.bar) with
    | some c => .trap s c o.bar
    | none => match (if o.afmt = 5 then (s.here.seen s.now).tagCheck (ctagOf o.fmt) s.me.pid else none) with
      | some eva => .trap s .luttag eva
      | none => match s.tilesBlock o.tiles false with
        | some x => .trap s x.1 x.2
        | none =>
          if 2 ≤ e.queue.length || s.boardFull || s.asking then .stall s
          else if o.charge ≤ (match s.here.leaveOf s.me.id with | some l => l.energy | none => 0) then
            let s := s.onHere fun k => k.drawLeave s.me.id o.charge
            let q := s.takeSeq s.core
            let r := q.1.addEntry (.matrix o) .zero q.2 1
            .retire (r.1.onHere fun k => { k with engine := k.engine.push { o with entry := r.2 } }) none
          else .stall (s.askLeave o.charge 4)

/-- An MMA form. -/
def mmaForm (i : Instr) (zero fromTile : Bool) (d : BitVec 3) (a b : BitVec 5) (t : BitVec 3) (s : State) : Out :=
  let u : Use := { use i with srcs := [(a, 0), (b, 0)], st := t }
  issue u s fun s => mmaIssue u (s.opOf u.word d.toNat zero fromTile (s.src a) (s.src b) none) s

/-- `mma`. -/
def execMma (d : BitVec 3) (a b : BitVec 5) (t : BitVec 3) (s : State) : Out := mmaForm (.mma d a b t) false false d a b t s

/-- `mma.z`. -/
def execMmaZ (d : BitVec 3) (a b : BitVec 5) (t : BitVec 3) (s : State) : Out := mmaForm (.mmaZ d a b t) true false d a b t s

/-- `mma.m`. -/
def execMmaM (d : BitVec 3) (a b : BitVec 5) (t : BitVec 3) (s : State) : Out := mmaForm (.mmaM d a b t) false true d a b t s

/-! ## Cooperative products (R343) -/

/-- The tile and the part of a strand in a group product, or nothing where the form takes GROUP. -/
def State.partOf (s : State) (g parts : Nat) : Option (Nat × Nat) :=
  match s.launchAt s.me.id.lid with
  | none => none
  | some l =>
    let r := (s.groupRank s.me.id g).toNat
    let z := (s.groupSize s.me.id.lid g).toNat
    if !l.cores || s.homeOf s.me.id != some s.core || r = 2 ^ 48 - 1 then none
    else if min (z / parts) 2048 ≤ r / parts then none
    else some (r / parts, r % parts)

/-- An `mmag` form: every part but the owner's computes from +0, as `mma.z` does. -/
def mmagForm (i : Instr) (zero : Bool) (d : BitVec 3) (a b c : BitVec 5) (t : BitVec 3) (s : State) : Out :=
  let u : Use := { use i with srcs := [(a, 0), (b, 0), (c, 0)], st := t }
  issue u s fun s =>
    let g := (s.src b).toNat
    match s.partOf g (bitsOf (s.src a).toNat 27 22 + 1) with
    | none => .trap s .group (s.src b)
    | some p => mmaIssue u (s.opOf u.word d.toNat (zero || p.2 != 0) false (s.src a) (s.src c) (some (g, p.1, p.2))) s

/-- `mmag`. -/
def execMmag (d : BitVec 3) (a b c : BitVec 5) (t : BitVec 3) (s : State) : Out := mmagForm (.mmag d a b c t) false d a b c t s

/-- `mmag.z`. -/
def execMmagZ (d : BitVec 3) (a b c : BitVec 5) (t : BitVec 3) (s : State) : Out := mmagForm (.mmagZ d a b c t) true d a b c t s

/-! ## The engine at work (R192, R194, R197, R198, R341) -/

/-- The start of an operation: R85 on its tiles, then the zeroing of `mma.z` or the input check of R192; CKSUM when that fails. ERR that
came since the issue is met here in the accumulator alone (R193; notes/assumptions/159.md). -/
def State.beginOp (s : State) (c : Nat) (o : MmaOp) : State × Option (Cause × Word) :=
  if o.resumed then (s, none)
  else
    let s := o.tiles.foldl (fun s t => s.putTile c t ((s.tileAt c t).claimed o.pid)) s
    let x := s.tileAt c o.td
    if o.zero then (s.putTile c o.td (x.zeroed o.pid), none)
    else if x.err then (s, some (.cksum, tileEva o.td))
    else
      let r := x.check none (s.recompute c o.td)
      let s := (s.putTile c o.td r.tile).noteCheck c r false o.td { core := c, pid := o.pid, id := o.id }
      (s, if r.ok then none else some (.cksum, tileEva o.td))

/-- Whether the first `m` rows of a tile are +0. -/
def Tile.zeroRows (t : Tile) (m : Nat) : Bool := (t.rows.take m).all (· == 0)

/-- The array whose parity fails an operation, if one does (R341, R406). -/
def Engine.unsound (e : Engine) (o : MmaOp) : Option Nat := if e.badA && !o.fromTile then some 5 else if e.badB then some 6 else none

/-- The product through K-block `upto`: the operation with the scale words it has read, the tile with its predicted sideband, the blocks
completed, and the fault that stopped it: of a scale read, or of the parity of the buffers and macros, whose address is free (R113,
R194, R341; notes/assumptions/126.md). -/
def State.runOp (s : State) (c : Nat) (o : MmaOp) (upto : Nat) : State × MmaOp × Tile × Nat × Option (Cause × Word) :=
  match (s.coreAt c).engine.unsound o with
  | some array => ({ s with free := s.free + 1 }.parityError c array (o.ctx c).who, o, s.tileAt c o.td, o.blocks,
      some (.eccue, (Config.freeXword s.free).setWidth 48))
  | none =>
    let r := s.withScales c o upto
    let n := max o.blocks (min upto r.2.1.formed)
    let t := multiply o.flt o.mode o.wA o.blocks n (r.1.aMatrix c r.2.1) ((r.1.coreAt c).engine.columnsFrom o.kb0) (r.1.tileAt c o.td)
    (r.1, r.2.1, { t with stale := false, prov := false, writer := o.pid }, n, if n < upto then r.2.2 else none)

/-- The prediction check of R194 after `blocks` K-blocks: the formed checksums are stored, and a mismatch fault sets ERR (R188,
R195, R197, R198). -/
def State.checkOp (s : State) (c : Nat) (o : MmaOp) (t : Tile) (blocks : Nat) (prov : Bool) : State × Bool :=
  let t := { t with prov := prov }
  let s := s.loseProv c
  let s := s.onCore c fun k => { k with engine := { k.engine with prov := if prov then some { tile := o.td, op := o } else none } }
  let n := 32 * (blocks + 1)
  let r := t.compare none n (n + t.drift) (s.recompute c o.td)
  let x := if r.ok then r.tile.reform none else { t.reform none with err := true, prov := false }
  let s := (s.putTile c o.td x).noteCheck c r false o.td { core := c, pid := o.pid, id := o.id }
  if r.ok then (s, true)
  else (s.onCore c fun k => { k with engine := { k.engine with prov := none } }, false)

/-- The whole of an operation's own part: its start, its product, and its check when `last`; the operation as it has run, with the blocks it
has performed, and the failure that stopped it. PROV is for an operation that ran from +0 without a stop between (R197;
notes/assumptions/158.md). -/
def State.product (s : State) (c : Nat) (o : MmaOp) (last : Bool) : State × MmaOp × Option (Cause × Word) :=
  match s.beginOp c o with
  | (s, some f) => (s, o, some f)
  | (s, none) =>
    let prov := o.blocks == 0 && (s.tileAt c o.td).zeroRows o.m
    match s.runOp c o o.b with
    | (s, o, t, n, some f) => ((s.loseProv c).putTile c o.td t, { o with blocks := n }, some f)
    | (s, o, t, n, none) =>
      if last then
        let r := s.checkOp c o t o.b prov
        (r.1, { o with blocks := n }, if r.2 then none else some (.cksum, tileEva o.td))
      else ((s.loseProv c).putTile c o.td t, { o with blocks := n }, none)

/-- The bytes of C an operation counts on its barrier (R341). -/
def MmaOp.bytes (o : MmaOp) : Nat := if o.zero then 4096 else 128 * o.m

/-- An operation ends: its barrier, and its scoreboard entry; a mismatch fault without a barrier is reported by R193 alone (R152, R198,
R341, R385). -/
def State.signalOp (s : State) (c : Nat) (o : MmaOp) (fail : Option (Cause × Word)) : State :=
  let s := if o.bar = 0 then s else
    s.barSend c o.id.lid (spmCore o.bar.toNat) (barSlot o.bar) (match fail with
      | none => .finish o.bytes
      | some f => .fail f.1.code c f.2.toNat o.bytes)
  let alone := o.bar != 0 || (match fail with | some f => f.1 == .cksum | none => false)
  s.endWork c o.slot o.id o.entry fail (if alone then .alone else .entry) 4 0 (o.blocks != 0)

/-- The head of an engine's queue leaves it, and the next operation starts (R341). -/
def State.popOp (s : State) (c : Nat) : State :=
  s.onCore c fun k =>
    let q := match k.engine.queue.drop 1 with
      | o :: r => { o with started := s.now } :: r
      | [] => []
    { k with engine := { k.engine with queue := q } }

/-- Replaces the head of an engine's queue. -/
def Engine.setHead (e : Engine) (o : MmaOp) : Engine := { e with queue := o :: e.queue.drop 1 }

/-- An operation is over: signalled, and out of the queue. -/
def State.closeOp (s : State) (c : Nat) (o : MmaOp) (fail : Option (Cause × Word)) : State := (s.signalOp c o fail).popOp c

/-- The member of rank `r` of a group of a launch, and its home core. -/
def State.memberHome (s : State) (lid : BitVec 16) (g r : Nat) : Option Nat :=
  match s.launchAt lid with
  | none => none
  | some l => match l.groups.find? (·.num == g) with
    | none => none
    | some x => s.homeOf { lid := lid, sid := x.first + r * x.stride }

/-- The engine operation of a core, if one is running: the head of its queue while the engine is not frozen. -/
def Core.runningOp (k : Core) : Option MmaOp := if k.engine.frozen then none else k.engine.queue.head?

/-- Whether an operation must wait for posted stores that its strand made before, to the scale words it reads or to its barrier (R173). -/
def State.opBehind (s : State) (c : Nat) (o : MmaOp) : Bool :=
  s.rangesBehind (o.ctx c) o.scaleRanges || (o.bar != 0 && s.barBehind o.id (spmCore o.bar.toNat) (barSlot o.bar))

/-- A part of a cooperative product whose partial has been sent. -/
def MmaOp.sent (o : MmaOp) : Bool := o.got == 1 && o.group.any fun g => g.2.2 != 0

/-- The direct operation of a core that has run its cycles and is due to write C. -/
def State.dueOp (s : State) (c : Nat) : Option MmaOp :=
  match (s.coreAt c).runningOp with
  | none => none
  | some o =>
    if o.task.isSome || s.plainTask c || s.now < o.started + o.cycles || s.opBehind c o then none
    else match o.group with
      | none => some o
      | some (_, _, p) => if p = 0 then (if o.blocks < o.b then some o else none) else if o.got = 0 then some o else none

/-- MMA_COMPLETION: an operation writes C, checks its predictions and signals; a part of a cooperative product is sent to its
owner, or awaits its partials (R194, R341, R343). -/
def State.completeMma (s : State) (c : Nat) : State :=
  match s.dueOp c with
  | none => s
  | some o =>
    match o.group with
    | none => let r := s.product c o true; r.1.closeOp c r.2.1 r.2.2
    | some (g, t, p) =>
      if p = 0 ∧ o.parts = 1 then let r := s.product c o true; r.1.closeOp c r.2.1 r.2.2
      else match s.product c o false with
        | (s, o, some f) => s.closeOp c o (some f)
        | (s, o, none) =>
          if p = 0 then
            s.onCore c fun k => { k with engine := k.engine.setHead { o with resumed := true } }
          else match s.memberHome o.id.lid g (t * o.parts) with
            | none => s.closeOp c o (some (.refused, 0))
            | some h =>
              let x := s.tileAt c o.td
              let m : Partial := { owner := h, sender := c, lid := o.id.lid, group := g, tile := t, op := o, rows := x.rows.take o.m,
                                   preds := x.side, held := false }
              let s := { s with partials := s.partials ++ [m] }
              s.onCore c fun k => { k with engine := k.engine.setHead { o with got := 1, resumed := true } }

/-! ## Partials (R343) -/

/-- The owner's operation for a partial, where it is the one running on the owner's core. -/
def State.ownerOp (s : State) (m : Partial) : Option MmaOp :=
  (s.coreAt m.owner).runningOp.filter fun o => o.id.lid == m.lid && o.group == some (m.group, m.tile, 0)

/-- Whether a partial agrees with the owner's operation. -/
def MmaOp.agrees (o p : MmaOp) : Bool :=
  o.word == p.word && o.fmt.toNat % 256 == p.fmt.toNat % 256 && o.fpc.toNat % 8 == p.fpc.toNat % 8

/-- One addition of a partial to an element or a prediction. -/
def addTo (flt : Bool) (mode : Mode) (a b : Nat) : Nat := if flt then addIn mode a b else (a + b) % 2 ^ 32

/-- A partial added to the owner's tile, its predictions to the tile's. -/
def Tile.addPartial (t : Tile) (o : MmaOp) (m : Partial) : Tile :=
  let ty := t.ty.toNat
  let f := addTo o.flt o.mode
  let rows := t.rows.zipIdx.map fun p => match m.rows[p.2]? with
    | none => p.1
    | some r => ofLanes ty ((lanesOf ty p.1).zipWith f (lanesOf ty r))
  let side := upTo o.m (fun side i => putRow side i (f (sideRow side i) (sideRow m.preds i))) t.side
  { t with rows := rows, side := upTo 32 (fun side j => putCol ty side j (f (sideCol ty side j) (sideCol ty m.preds j))) side }

/-- The sender's operation ends once its partial has been accepted, or refused, frozen or not: it has no block left to run. -/
def State.partSent (s : State) (m : Partial) (fail : Option (Cause × Word)) : State :=
  match (s.coreAt m.sender).engine.queue.head? with
  | some o =>
    if o.group == m.op.group && o.got == 1 then
      let r := s.checkOp m.sender o (s.tileAt m.sender o.td) o.b (m.op.blocks == 0)
      r.1.closeOp m.sender o (match fail with
        | some f => some f
        | none => if r.2 then none else some (.cksum, tileEva o.td))
    else s
  | none => s

/-- Whether a partial is one of a product's that its owner holds. -/
def Partial.with_ (m x : Partial) : Bool := x.held && x.owner == m.owner && x.lid == m.lid && x.group == m.group && x.tile == m.tile

/-- MMAG_PARTIAL: partial `k` is accepted by the owner's engine, which holds four until its own part runs, or, the first to arrive of
those held, is added once that part is done; the owner's operation ends with the last. -/
def State.acceptPartial (s : State) (k : Nat) : State :=
  match s.partials[k]? with
  | none => s
  | some m =>
    let drop (s : State) := { s with partials := dropAt s.partials k }
    let c := m.owner
    if (s.coreAt c).killed then (drop s).partSent m (some (.refused, 0))
    else if !m.held then
      let n := (s.partials.filter fun (x : Partial) => x.held && x.owner == c).length
      if 4 ≤ n && (s.ownerOp m).isNone then s
      else { s with partials := dropAt s.partials k ++ [{ m with held := true }] }.partSent m none
    else match s.ownerOp m with
      | none => s
      | some o =>
        if o.blocks < o.b || (s.partials.take k).any m.with_ then s
        else if !o.agrees m.op then
          let s := { s with partials := s.partials.filter fun (x : Partial) => !m.with_ x }
          s.closeOp c o (some (.group, BitVec.ofNat 48 m.group))
        else
          let s := drop s
          let t := (s.tileAt c o.td).addPartial o m
          let o := { o with got := o.got + 1 }
          if o.got + 1 < o.parts then
            (s.putTile c o.td t).onCore c fun k => { k with engine := k.engine.setHead o }
          else
            let r := s.checkOp c o t (o.parts * o.b) false
            r.1.closeOp c o (if r.2 then none else some (.cksum, tileEva o.td))

end Sys2Proof.Machine
end

