-- ==== Sys2Proof/Machine/Kv.lean ====
section
/-! DEFINITION. What a vault agent does for the attention and embedding forms: KV tables, appends, look-ups, selection, plans and
embedding bags (R352 to R371, R373, R374). -/

namespace Sys2Proof.Machine

/-! ## The agent's accesses (R352, R373) -/

/-- A piece of agent work: it changes the device and answers a value or a reply status of R135 and R360. -/
abbrev Job (α : Type) := ExceptT Nat (StateM State) α

/-- The agent at work: its vault, the process and strand of the request, and its accounting tag. -/
structure Agent where
  vault : Nat
  who   : Who
  acct  : BitVec 16
deriving DecidableEq, Repr

/-- Runs a job. -/
def runJob {α : Type} (j : Job α) (s : State) : State × Except Nat α := let r := j.run s; (r.2, r.1)

/-- The status of a vault range for the request's process: 6 beyond the vault offsets, 1 for a page it does not own, 2 where the owner
map cannot be read. -/
def State.agentCheck (s : State) (a : Agent) (o n : Nat) : State × Nat :=
  if 0x0FF00000 < o + n then (s, 6)
  else match State.ownerChecks a.who a.who.pid (pagesOf a.vault o n) s with
    | (s, none) => (s, 0)
    | (s, some cause) => (s, refusalStatus cause)

/-- Reads bytes at a vault offset. -/
def rd (a : Agent) (o n : Nat) : Job (List Byte) := do
  let q := (← get).agentCheck a o n
  set q.1
  if q.2 != 0 then throw q.2
  let r := (q.1.chargeGranules a.vault a.acct n).vaultRead a.who (a.vault * 2 ^ 28 + o) n
  set r.1
  if r.2.1 != 0 then throw r.2.1
  return r.2.2

/-- Reads a number at a vault offset. -/
def rdNat (a : Agent) (o n : Nat) : Job Nat := do return leNat (← rd a o n)

/-- Writes bytes at a vault offset. -/
def wr (a : Agent) (o : Nat) (bs : List Byte) : Job Unit := do
  let q := (← get).agentCheck a o bs.length
  set q.1
  if q.2 != 0 then throw q.2
  let r := (q.1.chargeGranules a.vault a.acct bs.length).vaultWrite a.who (a.vault * 2 ^ 28 + o) bs
  set r.1
  if r.2 != 0 then throw r.2

/-- A malformed header, entry or descriptor. -/
def bad {α : Type} : Job α := throw 6

/-- A condition without which the structure is malformed. -/
def require (b : Bool) : Job Unit := if b then pure () else throw 6

/-! ## The table (R354, R355) -/

/-- The end of a list of blocks. -/
def nilBlock : Nat := 0xFFFFFF

/-- The fixed fields of a table header. -/
structure KvTable where
  at_    : Nat
  tbase  : Nat
  kbase  : Nat
  vbase  : Nat
  rbase  : Nat
  nblk   : Nat
  sqbase : Nat
  nseq   : Nat
  win    : Nat
deriving DecidableEq, Repr

/-- Reads and checks a header. -/
def header (a : Agent) (o : Nat) : Job KvTable := do
  let h ← rd a o 64
  let f (i : Nat) := fieldAt h (8 * i) 8
  let w (i : Nat) := fieldAt h i 4
  require (f 0 < 2 ^ 28 && f 0 % 16 == 0 && f 1 < 2 ^ 28 && f 1 % 256 == 0 && f 2 < 2 ^ 28 && f 2 % 256 == 0)
  require (f 3 < 2 ^ 28 && f 3 % 64 == 0 && f 6 < 2 ^ 28 && f 6 % 8 == 0)
  require (1 ≤ w 0x20 && w 0x20 ≤ 2 ^ 24 && w 0x24 < 2 ^ 24 && w 0x28 < 2 ^ 24 && w 0x2C < 2 ^ 25)
  require (1 ≤ w 0x38 && w 0x38 ≤ 2 ^ 24)
  return { at_ := o, tbase := f 0, kbase := f 1, vbase := f 2, rbase := f 3, nblk := w 0x20, sqbase := f 6, nseq := w 0x38,
           win := w 0x3C }

/-- A block entry. -/
structure KvEntry where
  next  : Nat
  v     : Bool
  free  : Bool
  ovf   : Bool
  ntok  : Nat
  vfrom : Nat
  lblk  : Nat
  seq   : Nat
deriving DecidableEq, Repr

/-- Reads block entry `b`; one that breaks R355 is malformed. -/
def entryOf (a : Agent) (t : KvTable) (b : Nat) : Job KvEntry := do
  let x ← rdNat a (t.tbase + 16 * b) 16
  let e : KvEntry := { next := bitsOf x 87 64, v := bitAt x 63, free := bitAt x 62, ovf := bitAt x 61, ntok := bitsOf x 58 53,
                       vfrom := bitsOf x 52 48, lblk := bitsOf x 47 24, seq := bitsOf x 23 0 }
  require (bitsOf x 127 88 == 0 && bitsOf x 60 59 == 0 && e.ntok ≤ 32 && !(e.v && e.free) && (e.v || !e.ovf))
  return e

/-- Writes block entry `b`. -/
def putEntry (a : Agent) (t : KvTable) (b : Nat) (e : KvEntry) : Job Unit :=
  wr a (t.tbase + 16 * b) (leBytes 16 (e.next * 2 ^ 64 + bit e.v * 2 ^ 63 + bit e.free * 2 ^ 62 + bit e.ovf * 2 ^ 61 +
    e.ntok % 64 * 2 ^ 53 + e.vfrom % 32 * 2 ^ 48 + e.lblk % 2 ^ 24 * 2 ^ 24 + e.seq % 2 ^ 24))

/-- FREEH, OVFH and FREEN as they stand. -/
def freeHead (a : Agent) (t : KvTable) : Job Nat := rdNat a (t.at_ + 0x24) 4
/-- The head of the overflow list. -/
def ovfHead (a : Agent) (t : KvTable) : Job Nat := rdNat a (t.at_ + 0x28) 4
/-- The blocks on the free list. -/
def freeCount (a : Agent) (t : KvTable) : Job Nat := rdNat a (t.at_ + 0x2C) 4

/-- The length of a sequence. -/
def seqLen (a : Agent) (t : KvTable) (id : Nat) : Job Nat := do
  let l ← rdNat a (t.sqbase + 8 * id) 8
  require (l ≤ 2 ^ 29)
  return l

/-! ## Look-up, install and free (R356, R357) -/

/-- The home of a pair. -/
def KvTable.home (t : KvTable) (id lb : Nat) : Nat := (id * 0x9E3779B1 + lb * 0x85EBCA77) % 2 ^ 32 % t.nblk

/-- The first matching block of the probe window, from place `i` on. -/
def probe (a : Agent) (t : KvTable) (id lb : Nat) : Nat → Nat → Job (Option Nat)
  | 0, _ => return none
  | n + 1, i => do
    let b := (t.home id lb + i) % t.nblk
    let e ← entryOf a t b
    if e.v && !e.ovf && e.seq == id && e.lblk == lb then return some b else probe a t id lb n (i + 1)

/-- The first matching block of the overflow list from a link on. -/
def walkList (a : Agent) (t : KvTable) (id lb : Nat) : Nat → Nat → Job (Option Nat)
  | 0, b => if b = nilBlock then return none else bad
  | n + 1, b => do
    if b = nilBlock then return none
    require (b < t.nblk)
    let e ← entryOf a t b
    if e.v && e.seq == id && e.lblk == lb then return some b else walkList a t id lb n e.next

/-- A look-up. -/
def lookup (a : Agent) (t : KvTable) (id lb : Nat) : Job (Option Nat) := do
  match ← probe a t id lb 8 0 with
  | some b => return some b
  | none => walkList a t id lb t.nblk (← ovfHead a t)

/-- Takes the head of the free list for a pair. -/
def install (a : Agent) (t : KvTable) (id lb : Nat) : Job Nat := do
  let b ← freeHead a t
  require (b < t.nblk)
  let e ← entryOf a t b
  require e.free
  let n ← freeCount a t
  require (0 < n)
  wr a (t.at_ + 0x24) (leBytes 4 e.next)
  wr a (t.at_ + 0x2C) (leBytes 4 (n - 1))
  let near := (b + t.nblk - t.home id lb) % t.nblk < 8
  let h ← ovfHead a t
  putEntry a t b { next := if near then e.next else h, v := true, free := false, ovf := !near, ntok := 0, vfrom := 0, lblk := lb,
                   seq := id }
  if !near then wr a (t.at_ + 0x28) (leBytes 4 b)
  return b

/-- Unlinks a block from the overflow list, whose links from `p` on are followed. -/
def unlink (a : Agent) (t : KvTable) (b next : Nat) : Nat → Nat → Job Unit
  | 0, _ => bad
  | n + 1, p => do
    require (p < t.nblk)
    let e ← entryOf a t p
    if e.next = b then putEntry a t p { e with next := next } else unlink a t b next n e.next

/-- Frees a block. -/
def freeBlock (a : Agent) (t : KvTable) (b : Nat) : Job Unit := do
  let e ← entryOf a t b
  if e.ovf then
    let h ← ovfHead a t
    if h = b then wr a (t.at_ + 0x28) (leBytes 4 e.next) else unlink a t b e.next t.nblk h
  let h ← freeHead a t
  let n ← freeCount a t
  putEntry a t b { e with v := false, free := true, ovf := false, ntok := 0, next := h }
  wr a (t.at_ + 0x24) (leBytes 4 b)
  wr a (t.at_ + 0x2C) (leBytes 4 (n + 1))

/-- Frees the block of a pair if there is one; answers how many it freed. -/
def freePair (a : Agent) (t : KvTable) (id lb : Nat) : Job Nat := do
  match ← lookup a t id lb with
  | some b => freeBlock a t b; return 1
  | none => return 0

/-- The edge of a sequence of some length (R358). -/
def KvTable.edge (t : KvTable) (l : Nat) : Nat := if 0 < t.win ∧ t.win < l then l - t.win else 0

/-- The first live block and the number of live blocks of a length. -/
def KvTable.live (t : KvTable) (l : Nat) : Nat × Nat :=
  if l = 0 then (0, 0) else (t.edge l / 32, (l - 1) / 32 + 1 - t.edge l / 32)

/-! ## `kv.app` (R353, R362, R363) -/

/-- The fields of a batch descriptor. -/
structure Batch where
  soff : Nat
  ksrc : Nat
  vsrc : Nat
  first : Nat
  n : Nat
deriving DecidableEq, Repr

/-- Reads a batch descriptor. -/
def batchOf (a : Agent) (o : Nat) : Job Batch := do
  let d ← rd a o 32
  let f (i : Nat) := fieldAt d (8 * i) 8
  let first := fieldAt d 0x18 4
  let n := fieldAt d 0x1C 4
  require (f 0 < 2 ^ 28 && f 1 < 2 ^ 28 && f 1 % 256 == 0 && f 2 < 2 ^ 28 && f 2 % 256 == 0)
  require (first < 2 ^ 24 && n < 2 ^ 24 && first ≤ n)
  return { soff := f 0, ksrc := f 1, vsrc := f 2, first := first, n := n }

/-- Entry `i` of a sequence-id list. -/
def seqId (a : Agent) (soff i : Nat) : Job Nat := do
  let x ← rdNat a (soff + 4 * i) 4
  require (x < 2 ^ 24)
  return x

/-- Whether a BF16 encoding is a NaN. -/
def nanBf (x : Nat) : Bool := 0x7F80 < x % 0x8000

/-- The order of BF16 encodings in which −0 lies below +0 (R353). -/
def bfKey (x : Nat) : Int := if x < 0x8000 then x else -((x % 0x8000 : Nat) : Int) - 1

/-- A rind bound with one more channel value: the lesser or the greater; a NaN stays (R353). -/
def rindWith (lesser : Bool) (old k : Nat) : Nat :=
  if nanBf old || nanBf k then 0x7FC0 else if lesser == decide (bfKey k < bfKey old) then k else old

/-- The 128 channels of a row. -/
def channels (bs : List Byte) : List Nat := (List.range 128).map fun c => fieldAt bs (2 * c) 2

/-- The bytes of channels. -/
def channelBytes (l : List Nat) : List Byte := l.flatMap fun x => leBytes 2 x

/-- The rind of a block with a key row added; the first row stands for itself. -/
def updateRind (a : Agent) (t : KvTable) (b : Nat) (first : Bool) (k : List Byte) : Job Unit := do
  let ks := channels k
  let o := t.rbase + 512 * b
  if first then
    let c := ks.map fun x => if nanBf x then 0x7FC0 else x
    wr a o (channelBytes c ++ channelBytes c)
  else
    let r ← rd a o 512
    wr a o (channelBytes (List.zipWith (rindWith true) (channels r) ks) ++
      channelBytes (List.zipWith (rindWith false) (channels (r.drop 256)) ks))

/-- Why a batch stops before a sequence. -/
inductive Stopped where
  | dry | bad
deriving DecidableEq, Repr

/-- One append of a batch: list entry `i`, or the reason to stop before it. -/
def appendOne (a : Agent) (t : KvTable) (d : Batch) (i : Nat) : Job (Option Stopped) := do
  let id ← seqId a d.soff i
  if t.nseq ≤ id then return some .bad
  let l ← seqLen a t id
  if l = 2 ^ 29 then return some .bad
  let lb := l / 32
  let o := l % 32
  let e := t.edge (l + 1)
  let out := 0 < e && e % 32 == 0
  let here ← if o = 0 then pure none else lookup a t id lb
  if o != 0 && here.isNone then return some .bad
  let gone ← if out then lookup a t id (e / 32 - 1) else pure none
  if o = 0 && (← freeCount a t) = 0 && gone.isNone then return some .dry
  match gone with
  | some b => freeBlock a t b
  | none => pure ()
  let b ← match here with
    | some b => pure b
    | none => install a t id lb
  let k ← rd a (d.ksrc + 256 * i) 256
  let v ← rd a (d.vsrc + 256 * i) 256
  wr a (t.kbase + 8192 * b + 256 * o) k
  wr a (t.vbase + 8192 * b + 256 * o) v
  updateRind a t b (o = 0) k
  let x ← entryOf a t b
  putEntry a t b { x with ntok := o + 1 }
  if 0 < e then
    match ← lookup a t id (e / 32) with
    | some c =>
      let y ← entryOf a t c
      putEntry a t c { y with vfrom := e % 32 }
    | none => pure ()
  wr a (t.sqbase + 8 * id) (leBytes 8 (l + 1))
  return none

/-- What agent work has written is taken back: the bytes, and the granules whose errors its writes replaced. -/
def State.undo (t s : State) : State := { t with mem := s.mem, badGran := s.badGran }

/-- The appends of a batch from an entry on; one that cannot be finished is undone. -/
def appendFrom (a : Agent) (t : KvTable) (d : Batch) : Nat → Nat → State → State × Except Nat Nat
  | 0, _, s => (s, .ok d.n)
  | f + 1, i, s =>
    match runJob (appendOne a t d i) s with
    | (s, .ok none) => appendFrom a t d f (i + 1) s
    | (s', .ok (some r)) => (s'.undo s, .ok (i + match r with | .dry => 2 ^ 47 | .bad => 2 ^ 46))
    | (s', .error e) => (s'.undo s, .error e)

/-- A form that leaves nothing changed when it fails. -/
def whole {α : Type} (r : State → State × Except Nat α) (s : State) : State × Except Nat α :=
  match r s with
  | (t, .error e) => (t.undo s, .error e)
  | r => r

/-- `kv.app`: the appends before a malformation remain, as those before a stop do (R363). -/
def kvApp (a : Agent) (h o : Nat) (s : State) : State × Except Nat Nat :=
  match runJob (do let t ← header a h; let d ← batchOf a o; return (t, d)) s with
  | (s, .error e) => (s, .error e)
  | (s, .ok (t, d)) =>
    match appendFrom a t d (d.n - d.first) d.first s with
    | (s', .error 6) => (s', .error 6)
    | (s', .error e) => (s'.undo s, .error e)
    | r => r

/-! ## `kv.find`, `kv.free` (R364, R365, R368) -/

/-- A gather-list entry of a block. -/
def gatherEntry (b : Nat) (e : KvEntry) : Nat := e.lblk * 2 ^ 40 + e.vfrom * 2 ^ 30 + e.ntok * 2 ^ 24 + b

/-- `kv.find`. -/
def kvFind (a : Agent) (h x : Nat) : Job Nat := do
  let t ← header a h
  let id := bitsOf x 23 0
  require (id < t.nseq)
  match ← lookup a t id (bitsOf x 47 24) with
  | some b => return gatherEntry b (← entryOf a t b) % 2 ^ 35
  | none => return 2 ^ 48 - 1

/-- Frees the blocks of a sequence from a logical block on. -/
def freeFrom (a : Agent) (t : KvTable) (id : Nat) : Nat → Nat → Nat → Job Nat
  | 0, _, n => return n
  | f + 1, lb, n => do
    let k ← freePair a t id lb
    freeFrom a t id f (lb + 1) (n + k)

/-- `kv.free`. -/
def kvFree (a : Agent) (h x : Nat) : Job Nat := do
  let t ← header a h
  let id := bitsOf x 23 0
  require (id < t.nseq)
  let l ← seqLen a t id
  let n ← freeFrom a t id (if l = 0 then 0 else (l - 1) / 32 + 1) 0 0
  wr a (t.sqbase + 8 * id) (leBytes 8 0)
  return n

/-! ## `rb.sel`, `rb.seln` (R366, R367) -/

/-- The bound of a page (R367), as a binary32 encoding. -/
def boundOf (q lo hi : List Nat) : Nat :=
  let p (c : Nat) : Fp × Fp := ((mulFp (decode16 (q.getD c 0)) (decode16 (lo.getD c 0))).1,
                                (mulFp (decode16 (q.getD c 0)) (decode16 (hi.getD c 0))).1)
  let ps := (List.range 128).map p
  if (q ++ lo ++ hi).any nanBf || ps.any fun x => x.1.isNan || x.2.isNan then 0x7F800000
  else
    let up (x y : Fp) : Fp := decode32 (encodeFloat fp32 .rup false (addFp .rup x y).1).1
    match treeOf up 7 (ps.map fun x => (maxFp x.1 x.2).1) with
    | r :: _ => if r.isNan then 0x7F800000 else (encodeFloat fp32 .rup false r).1
    | [] => 0

/-- The present live blocks of a sequence with their bounds, from a logical block on. -/
def boundsFrom (a : Agent) (t : KvTable) (id : Nat) (q : List Nat) : Nat → Nat → Job (List (Nat × Nat))
  | 0, _ => return []
  | f + 1, lb => do
    match ← lookup a t id lb with
    | none => boundsFrom a t id q f (lb + 1)
    | some b =>
      let r ← rd a (t.rbase + 512 * b) 512
      let rest ← boundsFrom a t id q f (lb + 1)
      return (b, boundOf q (channels r) (channels (r.drop 256))) :: rest

/-- The numeric order of binary32 encodings that are not NaNs: both zeros are equal. -/
def f32Key (x : Nat) : Int := if x < 2 ^ 31 then x else -((x % 2 ^ 31 : Nat) : Int)

/-- The `n` blocks of greatest bound, the earlier among equals, in list order. -/
def topBlocks (n : Nat) (l : List (Nat × Nat)) : List (Nat × Nat) :=
  (l.zipIdx.filter fun p =>
    (l.zipIdx.filter fun o => f32Key p.1.2 < f32Key o.1.2 || (f32Key o.1.2 == f32Key p.1.2 && o.2 < p.2)).length < n).map (·.1)

/-- Writes gather-list entries. -/
def writeList (a : Agent) (t : KvTable) : Nat → List (Nat × Nat) → Job Unit
  | _, [] => pure ()
  | o, p :: r => do
    let e ← entryOf a t p.1
    wr a o (leBytes 8 (gatherEntry p.1 e))
    writeList a t (o + 8) r

/-- `rb.sel` and `rb.seln`. -/
def rbSelect (greatest_ : Bool) (a : Agent) (h o : Nat) : Job Nat := do
  let t ← header a h
  let d ← rd a o 32
  let f (i : Nat) := fieldAt d (8 * i) 8
  let w (i : Nat) := fieldAt d i 4
  let maxl := w 0x14
  let selv := w 0x18
  require (f 0 < 2 ^ 28 && f 0 % 64 == 0 && f 1 < 2 ^ 28 && f 1 % 8 == 0 && w 0x10 < t.nseq && w 0x10 < 2 ^ 24)
  require (1 ≤ maxl && maxl < 2 ^ 24 && w 0x1C == 0)
  require (if greatest_ then selv ≤ maxl else !(decode32 selv).isNan)
  let q ← rd a (f 0) 256
  let l ← seqLen a t (w 0x10)
  let lv := t.live l
  let bs ← boundsFrom a t (w 0x10) (channels q) lv.2 lv.1
  if greatest_ then
    let sel := topBlocks selv bs
    writeList a t (f 1) sel
    return sel.length
  else
    let sel := bs.filter fun p => decide (f32Key selv ≤ f32Key p.2)
    writeList a t (f 1) (sel.take maxl)
    return (min maxl sel.length + bit (decide (maxl < sel.length)) * 2 ^ 47)

/-! ## `dp.plan` (R371) -/

/-- The live blocks of the listed sequences: list index, first live block, count. -/
def planList (a : Agent) (t : KvTable) (soff : Nat) : Nat → Nat → Job (List (Nat × Nat × Nat))
  | 0, _ => return []
  | f + 1, i => do
    let id ← seqId a soff i
    require (id < t.nseq)
    let l ← seqLen a t id
    let rest ← planList a t soff f (i + 1)
    return (i, (t.live l).1, (t.live l).2) :: rest

/-- The sequence and the logical block of a numbered block. -/
def planAt (ns : Nat) : List (Nat × Nat × Nat) → Nat → Nat × Nat
  | [], _ => (ns, 0)
  | (i, lb, n) :: r, k => if k < n then (i, lb + k) else planAt ns r (k - n)

/-- Writes the entries of a plan. -/
def writePlan (a : Agent) (poff ns p total : Nat) (l : List (Nat × Nat × Nat)) : Nat → Nat → Job Unit
  | 0, _ => pure ()
  | f + 1, r => do
    let lo := r * total / p
    let n := (r + 1) * total / p - lo
    let x := if n = 0 then (ns, 0) else planAt ns l lo
    wr a (poff + 16 * r) (leBytes 8 (x.1 + x.2 * 2 ^ 24) ++ leBytes 4 n ++ leBytes 4 0)
    writePlan a poff ns p total l f (r + 1)

/-- `dp.plan`. -/
def dpPlan (a : Agent) (h o : Nat) : Job Nat := do
  let t ← header a h
  let d ← rd a o 32
  let soff := fieldAt d 0 8
  let ns := fieldAt d 8 4
  let p := fieldAt d 0xC 4
  let poff := fieldAt d 0x10 8
  require (soff < 2 ^ 28 && 1 ≤ ns && ns < 2 ^ 24 && 1 ≤ p && p ≤ 4096 && poff < 2 ^ 28 && poff % 16 == 0 && fieldAt d 0x18 8 == 0)
  let l ← planList a t soff ns 0
  let total := sumBy (fun x => x.2.2) l
  writePlan a poff ns p total l p 0
  return total

/-! ## `emb.red` (R373, R374) -/

/-- A bag descriptor. -/
structure Bag where
  toff : Nat
  nrow : Nat
  rlen : Nat
  ioff : Nat
  nidx : Nat
  woff : Nat
  dst  : Nat
  ctag : Nat
  efmt : Nat
  dkind : Bool
  dist : Bool
  pol  : Nat
  op   : Nat
deriving DecidableEq, Repr

/-- Reads a bag descriptor; a scratchpad destination outside the window is malformed. -/
def bagOf (a : Agent) (o : Nat) : Job Bag := do
  let d ← rd a o 64
  let f (i : Nat) := fieldAt d (8 * i) 8
  let c := fieldAt d 0x30 4
  let b : Bag := { toff := f 0, nrow := bitsOf (f 1) 31 0, rlen := bitsOf (f 1) 47 32, ioff := f 2, nidx := f 3, woff := f 4, dst := f 5,
                   ctag := bitsOf c 23 12, efmt := bitsOf c 8 6, dkind := bitAt c 5, dist := bitAt c 4, pol := bitsOf c 3 2,
                   op := bitsOf c 1 0 }
  require (f 0 < 2 ^ 28 && f 0 % 64 == 0 && 1 ≤ b.nrow && bitsOf (f 1) 63 48 == 0 && 1 ≤ b.rlen && b.rlen ≤ 4096)
  require (f 2 < 2 ^ 28 && f 2 % 4 == 0 && f 3 < 65536 && f 4 < 2 ^ 28 && f 4 % 4 == 0 && f 5 % 64 == 0)
  require (if b.dkind then f 5 < 2 ^ 28 else f 5 < 2 ^ 48 && regionOf (f 5) == .spad)
  require (bitsOf c 31 24 == 0 && bitsOf c 11 9 == 0 && b.efmt ≤ 3 && b.pol ≤ 2 && fieldAt d 0x34 8 == 0 && fieldAt d 0x3C 4 == 0)
  require (b.efmt != 3 || b.rlen % 2 == 0)
  return b

/-- Bits of an element. -/
def Bag.bits (b : Bag) : Nat := if b.efmt = 0 then 32 else if b.efmt = 1 then 16 else if b.efmt = 2 then 8 else 4

/-- Whether the elements are integers. -/
def Bag.isInt (b : Bag) : Bool := 2 ≤ b.efmt

/-- The stride of rows. -/
def Bag.stride (b : Bag) : Nat := 64 * ((b.rlen * b.bits + 511) / 512)

/-- An element's exact value. -/
def Bag.value (b : Bag) (lut : List (BitVec 8)) (x : Nat) : Fp :=
  if b.efmt = 0 then decode32 x else if b.efmt = 1 then decode16 x
  else ofInt (if b.efmt = 2 then sx 8 x else c4Value lut x)

/-- One FP32 rounding. -/
def round32 (mode : Mode) (x : Fp) : Fp := decode32 (encodeFloat fp32 mode false x).1

/-- One element added to an accumulator, with its weight. -/
def Bag.accumulate (b : Bag) (mode : Mode) (w : Fp) (acc : Option Fp) (x : Fp) : Fp :=
  if b.op = 3 then round32 mode (fmaFp mode w x (acc.getD (.fin false 0 0))).1
  else match acc with
    | none => x
    | some y =>
      if b.op = 2 then
        if x.isNan || y.isNan then .nan false
        else if ltFp y x || (eqFp x y && y.neg && !x.neg) then x else y
      else if b.op = 0 && !b.isInt then round32 mode (addFp mode y x).1
      else (addFp mode y x).1

/-- The exact integer of an accumulator of integers. -/
def Fp.toInt : Fp → Int
  | .fin n m e => signed n (scaleDown m e)
  | _ => 0

/-- A quotient rounded once. -/
def quotient32 (mode : Mode) (x : Fp) (n : Nat) : Nat :=
  let q := divFp x (ofInt n)
  (encodeFloat fp32 mode q.2.1 q.1).1

/-- An output lane. -/
def Bag.lane (b : Bag) (mode : Mode) (n : Nat) (acc : Option Fp) : Nat :=
  match acc with
  | none => 0
  | some x =>
    if b.op = 1 then quotient32 mode x n
    else if b.isInt && b.op != 3 then (x.toInt % 2 ^ 32).toNat
    else (encodeFloat fp32 mode false x).1

/-- What a bag has reduced so far: rows seen, the counts, the accumulators. -/
structure BagState where
  seen : List Nat
  n    : Nat
  miss : Nat
  acc  : List (Option Fp)
  fault : Option Nat
deriving DecidableEq, Repr

/-- One position of a bag. -/
def bagStep (a : Agent) (b : Bag) (mode : Mode) (lut : List (BitVec 8)) (r : BagState) (p : Nat) : Job BagState := do
  if r.fault.isSome then return r
  let i ← rdNat a (b.ioff + 4 * p) 4
  let out := decide (b.nrow ≤ i)
  let r := { r with miss := r.miss + bit out }
  if out && b.pol = 0 then return r
  if out && b.pol = 2 then return { r with fault := some (b.ioff + 4 * p) }
  let i := if out then b.nrow - 1 else i
  if b.dist && r.seen.contains i then return r
  let row ← rd a (b.toff + i * b.stride) b.stride
  let w ← if b.op = 3 then rdNat a (b.woff + 4 * p) 4 else pure 0
  let x := leNat row
  let acc := r.acc.zipIdx.map fun e => some (b.accumulate mode (decode32 w) e.1 (b.value lut (elemAt b.bits e.2 x)))
  return { r with seen := i :: r.seen, n := r.n + 1, acc := acc }

/-- Every position of a bag. -/
def bagAll (a : Agent) (b : Bag) (mode : Mode) (lut : List (BitVec 8)) : Nat → Nat → BagState → Job BagState
  | 0, _, r => return r
  | f + 1, p, r => do bagAll a b mode lut f (p + 1) (← bagStep a b mode lut r p)

/-- The agent as the one that makes an access. -/
def Agent.ctx (a : Agent) : Ctx := { core := a.vault, pid := a.who.pid, prv := false, id := a.who.id, acct := a.acct }

/-- A write of an agent through the scratchpad window, in one core's part under one index: to another core by messages, which it
counts (R64, R134, R374). -/
def State.agentPart (s : State) (a : Agent) (va : Nat) (bs : List Byte) : State × Nat :=
  let s := if spmCore va = a.vault then s else s.countPairs { a.who with core := a.vault } (spmCore va) va bs.length
  if (s.coreAt (spmCore va)).killed then (s, 4)
  else
    let r := s.windowWrite a.who a.who.pid va bs
    (r.1, if r.2 then 0 else 2)

/-- The parts of a range of the scratchpad window: bytes past bit 16 of OFF have another CORE or IDX (R121). -/
def windowParts (va : Nat) (bs : List Byte) : List (Nat × List Byte) :=
  let m := 2 ^ 17 - va % 2 ^ 17
  if bs.length ≤ m then [(va, bs)] else [(va, bs.take m), (va + m, bs.drop m)]

/-- A write of an agent through the scratchpad window: status 1 where an index holds no allocation space, else the first failure. -/
def State.agentWrite (s : State) (a : Agent) (va : Nat) (bs : List Byte) : State × Nat :=
  let l := windowParts va bs
  if l.any fun p => idxOf p.1 < 2 || idxOf p.1 == 31 then (s, 1)
  else l.foldl (fun (r : State × Nat) p => if r.2 = 0 then r.1.agentPart a p.1 p.2 else r) (s, 0)

/-- The lanes written at the destination: in the agent's vault, or to a scratchpad (R374). -/
def bagWrite (a : Agent) (b : Bag) (bs : List Byte) : Job Unit := do
  if b.dkind then wr a b.dst bs
  else
    let r := (← get).agentWrite a b.dst bs
    set r.1
    if r.2 != 0 then throw r.2

/-- `emb.red`: the counts, or the offset of the index that the trap policy stops at. -/
def embReduce (a : Agent) (o : Nat) (fpc : BitVec 32) : Job (Nat ⊕ Nat) := do
  let b ← bagOf a o
  let s ← get
  let k := (s.coreAt a.vault).seen s.now
  if b.efmt = 3 && (k.tagCheck b.ctag a.who.pid).isSome then throw 7
  let mode := modeOf fpc
  let r ← bagAll a b mode k.lut b.nidx 0 { seen := [], n := 0, miss := 0, acc := List.replicate b.rlen none, fault := none }
  match r.fault with
  | some at_ => return .inr at_
  | none =>
    bagWrite a b (r.acc.flatMap fun x => leBytes 4 (b.lane mode r.n x))
    return .inl (r.n + r.miss * 2 ^ 24)

end Sys2Proof.Machine
end

