-- ==== Sys2Proof/Machine/Copy.lean ====
section
/-! DEFINITION. The copy engine and the gathers of `kv.gath`: chunks as they land, segments toward other vaults, completion,
failure and stop (R145, R152 to R154, R189, R286 to R289, R369, R370, R389). -/

namespace Sys2Proof.Machine

/-! ## Copy commands -/

/-- The context a command captured. -/
def CopyCmd.ctx (x : CopyCmd) (c : Nat) : Ctx := { core := c, pid := x.pid, prv := x.prv, id := x.id, acct := x.acct }

/-- Bytes of the chunk at an offset. -/
def CopyCmd.size (x : CopyCmd) (off : Nat) : Nat := min 64 (x.desc.len - off)

/-- AUX: the bytes written in ascending order (R386). -/
def CopyCmd.prefixLen (x : CopyCmd) : Nat :=
  match lowestBelow (x.landed.length + 1) fun i => !x.landed.contains (x.base + 64 * i) with
  | some i => min x.desc.len (x.base + 64 * i)
  | none => x.desc.len

/-- The bytes of chunks on their way. -/
def CopyCmd.inFlight (x : CopyCmd) : Nat := sumBy x.size x.sent.eraseDups

/-- Whether the virtual ranges overlap (R153). -/
def CopyDesc.overlaps (d : CopyDesc) : Bool :=
  d.src.toNat < d.dst.toNat + d.len && d.dst.toNat < d.src.toNat + d.len

/-- The declared region whose base an address is: its core and its entry. -/
def State.regionBase (s : State) (pid : BitVec 16) (ea : Word) : Option (Nat × Region) :=
  if regionOf ea.toNat != .spad then none
  else match s.allocAt pid ea.toNat with
    | none => none
    | some a =>
      if a.size < 4096 || spmOff ea.toNat % 4096 != 0 then none
      else ((s.coreAt (spmCore ea.toNat)).region ((a.base + spmOff ea.toNat % a.size) / 4096)).map fun r => (spmCore ea.toNat, r)

/-- Whether an address lies in vault space. -/
def State.inVault (s : State) (x : Ctx) (va : Nat) (acc : Acc) : State × Bool :=
  match regionOf va with
  | .local_ => (s, true)
  | .spad => (s, false)
  | .global => match s.translate x.who x.pid x.prv va acc with
    | (s, .ok pa) => (s, spaceOf pa == .vault)
    | (s, .error _) => (s, false)

/-- The shapes of R288: bytes only, a region to vault, vault to a region, region to region, or none that is allowed. -/
inductive CopyShape where
  | plain
  | out (core : Nat) (r : Region)
  | into (core : Nat) (r : Region)
  | regions (core : Nat) (r : Region) (core' : Nat) (r' : Region)
  | refused
deriving DecidableEq, Repr

/-- The shape of a command. -/
def State.copyShape (s : State) (c : Nat) (x : CopyCmd) : State × CopyShape :=
  let from_ := s.regionBase x.pid x.desc.src
  let dest := s.regionBase x.pid x.desc.dst
  if x.desc.overlaps then (s, .refused)
  else if x.desc.sbf then
    if x.desc.len != 4608 then (s, .refused)
    else match from_, dest with
      | some p, none => match s.inVault (x.ctx c) x.desc.dst.toNat .write with
        | (s, true) => (s, .out p.1 p.2)
        | (s, false) => (s, .refused)
      | none, some q => match s.inVault (x.ctx c) x.desc.src.toNat .read with
        | (s, true) => (s, .into q.1 q.2)
        | (s, false) => (s, .refused)
      | _, _ => (s, .refused)
  else if x.desc.len != 4096 then (s, .plain)
  else match from_, dest with
    | some p, some q => (s, .regions p.1 p.2 q.1 q.2)
    | _, _ => (s, .plain)

/-- Replaces a command of a core. -/
def Core.putCopy (k : Core) (x : CopyCmd) : Core :=
  { k with copies := k.copies.map fun (y : CopyCmd) => if y.num = x.num then x else y }

/-- An update of the barrier that counts a command (CMODE 1). -/
def State.copyBar (s : State) (c : Nat) (x : CopyCmd) (op : BarOp) : State :=
  if x.desc.cmode = 1 then s.barSend c x.id.lid (spmCore x.desc.caddr.toNat) (barSlot x.desc.caddr) op else s

/-- A chunk has landed: its bytes leave TX (R151, R287), its entry records it (R386), and its granules are charged (R224). -/
def State.chunkLanded (s : State) (c : Nat) (x : CopyCmd) (off : Nat) : State :=
  let x := { x with landed := off :: x.landed, sent := x.sent.filter (· != off) }
  let s := (s.onCore c fun k => k.putCopy x).noteWork c x.slot x.id x.entry fun e => { e with aux := x.prefixLen, part := true }
  (s.copyBar c x (.finish (x.size off))).chargeGranules c x.acct (x.size off)

/-- A chunk fails, and with it the command: every byte that is neither written nor on its way leaves TX (R152). The first failure
is the one recorded. -/
def State.chunkFailed (s : State) (c : Nat) (x : CopyCmd) (off : Nat) (cause : Cause) (addr : Word) : State :=
  let again := x.failed.isSome
  let x := { x with sent := x.sent.filter (· != off), failed := x.failed <|> some (cause, addr) }
  let n := if again then x.size off else x.left - x.inFlight
  (s.onCore c fun k => k.putCopy x).copyBar c x (.fail cause.code c addr.toNat n)

/-- A segment of procedure 5: a write with its bytes, or a read (FN 1) of as many bytes as OPA says, at a vault, over a link, or at
another core's scratchpad (R123, R134, R153; notes/assumptions/127.md). -/
def State.segment (s : State) (c : Nat) (x : CopyCmd) (off dst pa : Nat) (va : Word) (fn : BitVec 4) (n : Nat) (bs : List Byte) : Msg :=
  { s.blank c x.slot with
    pid := x.pid, prv := x.prv, acct := x.acct, lid := x.id.lid, src := c, dst := dst,
    proc := 5, fn := fn, paddr := pa, va := va, opa := BitVec.ofNat 64 n, data := bs, sc := x.desc.csc, stage := .toOwner,
    client := .copy c x.num off }

/-- Whether a link toward an address of host or fabric space is up. -/
def State.linkUp (s : State) (pa : Nat) : Bool :=
  if spaceOf pa == .host then s.medlar.up else (s.linkAt (pa / 2 ^ 38 % 16)).up

/-- How a copy reaches an address: by the core's own accesses, in its vault, its scratchpad, system or host space; or by segments to a
core and address, in another vault, over a link, or in another core's scratchpad (R123, R153, R424). -/
inductive Reach where
  | here
  | away (dst pa : Nat)

/-- The way of a copy to an address, or its fault; a link that is down refuses a new segment at once, with a failure reply (R64,
R425). -/
def State.reach (s : State) (c : Nat) (x : CopyCmd) (va : Word) (acc : Acc) : State × Except Cause Reach :=
  let y := x.ctx c
  match regionOf va.toNat with
  | .local_ => (s, .ok .here)
  | .spad =>
    if spmCore va.toNat = c then (s, .ok .here)
    else match s.regionFor y va.toNat with
      | (s, some cause) => (s, .error cause)
      | (s, none) => (s, .ok (.away (spmCore va.toNat) (s.spadPlace y.pid va)))
  | .global => match s.translate y.who y.pid y.prv va.toNat acc with
    | (s, .error cause) => (s, .error cause)
    | (s, .ok pa) =>
      if spaceOf pa == .vault then (s, .ok (if vaultOf pa = c then .here else .away (vaultOf pa) pa))
      else if spaceOf pa != .fabric then (s, .ok .here)
      else if s.linkUp pa then (s, .ok (.away noCore pa))
      else ((s.countSent c x.id.lid).countRecv c x.id.lid, .error .refused)

/-- Writes part of a chunk that one 256-byte segment holds, at once or by a message. Answers whether it was sent. -/
def State.pieceWrite (s : State) (c : Nat) (x : CopyCmd) (off : Nat) (va : Word) (bs : List Byte) : State × Except Cause Bool :=
  match s.reach c x va .write with
  | (s, .error cause) => (s, .error cause)
  | (s, .ok (.away dst pa)) => ((s.send (s.segment c x off dst pa va 0 bs.length bs)).1, .ok true)
  | (s, .ok .here) => match s.engineStore (x.ctx c) va.toNat bs with
    | (s, some cause) => (s, .error cause)
    | (s, none) => (s, .ok false)

/-- Reads part of a chunk that one 256-byte segment holds: its bytes, or nothing yet where a message went for them. -/
def State.pieceRead (s : State) (c : Nat) (x : CopyCmd) (off : Nat) (va : Word) (n : Nat) : State × Except Cause (Option (List Byte)) :=
  match s.reach c x va .read with
  | (s, .error cause) => (s, .error cause)
  | (s, .ok (.away dst pa)) => ((s.send (s.segment c x off dst pa va 1 n [])).1, .ok none)
  | (s, .ok .here) => match s.ctxRead (x.ctx c) va.toNat n with
    | (s, .error cause) => (s, .error cause)
    | (s, .ok bs) => (s, .ok (some bs))

/-- The parts of a range that 256-byte boundaries cut (R134). -/
def pieces (va : Word) (n : Nat) : List (Word × Nat) :=
  let m := 256 - va.toNat % 256
  if n ≤ m then [(va, n)] else [(va, m), (va + BitVec.ofNat 48 m, n - m)]

/-- Writes the parts of a chunk, counting those sent; the first failure ends it. -/
def State.piecesWrite (c : Nat) (x : CopyCmd) (off : Nat) :
    List (Word × Nat) → List Byte → Nat → State → State × Except (Cause × Word) Nat
  | [], _, n, s => (s, .ok n)
  | p :: r, bs, n, s => match s.pieceWrite c x off p.1 (bs.take p.2) with
    | (s, .error cause) => (s, .error (cause, p.1))
    | (s, .ok sent) => State.piecesWrite c x off r (bs.drop p.2) (n + bit sent) s

/-- Reads the parts of a chunk: those that are here, and the count of those sent for. -/
def State.piecesRead (c : Nat) (x : CopyCmd) (off : Nat) :
    List (Word × Nat) → Nat → State → State × Except (Cause × Word) (List (Nat × Word × List Byte) × Nat)
  | [], n, s => (s, .ok ([], n))
  | p :: r, n, s => match s.pieceRead c x off p.1 p.2 with
    | (s, .error cause) => (s, .error (cause, p.1))
    | (s, .ok here) => match State.piecesRead c x off r (n + bit here.isNone) s with
      | (s, .ok (l, n)) => (s, .ok (match here with | some bs => (off, p.1, bs) :: l | none => l, n))
      | o => o

/-- The bytes of a chunk from the parts that have been read. -/
def CopyCmd.bytesOf (x : CopyCmd) (off : Nat) : List Byte :=
  (pieces (x.desc.src + BitVec.ofNat 48 off) (x.size off)).flatMap fun p =>
    match x.got.find? fun (g : Nat × Word × List Byte) => g.1 == off && g.2.1 == p.1 with
    | some g => g.2.2
    | none => []

/-- The bytes of a chunk are written, or their messages leave. -/
def State.writeChunk (s : State) (c : Nat) (x : CopyCmd) (shape : CopyShape) (off : Nat) (bs : List Byte) : State :=
    let side := match shape with | .into tc r => if 4096 ≤ off then some (tc, r.num) else none | _ => none
    match side with
    | some (tc, n) =>
      let s := s.onCore tc fun k => { k with regions := k.regions.map fun (r : Region) =>
        if r.num = n then { r with side := sideOf (patch (sideBytes r.side) (off - 4096) bs) } else r }
      s.chunkLanded c x off
    | none =>
      match State.piecesWrite c x off (pieces (x.desc.dst + BitVec.ofNat 48 off) bs.length) bs 0 s with
      | (s, .error f) => s.chunkFailed c x off f.1 f.2
      | (s, .ok 0) => s.chunkLanded c x off
      | (s, .ok n) => s.onCore c fun k => k.putCopy { x with sent := x.sent ++ List.replicate n off }

/-- A chunk is read, and written once all of it is here. -/
def State.moveChunk (s : State) (c : Nat) (x : CopyCmd) (shape : CopyShape) (off : Nat) : State :=
  let side := match shape with
    | .out _ r => if 4096 ≤ off then some (((sideBytes r.side).drop (off - 4096)).take 64) else none
    | _ => none
  match side with
  | some bs => s.writeChunk c x shape off bs
  | none => match State.piecesRead c x off (pieces (x.desc.src + BitVec.ofNat 48 off) (x.size off)) 0 s with
    | (s, .error f) => s.chunkFailed c x off f.1 f.2
    | (s, .ok (l, 0)) => s.writeChunk c x shape off ({ x with got := l }.bytesOf off)
    | (s, .ok (l, n)) => s.onCore c fun k => k.putCopy { x with got := x.got ++ l, sent := x.sent ++ List.replicate n off }

/-- Whether what tells a command's end must wait for posted stores that its strand made before: its barrier, or the word at CADDR. -/
def State.copyEndBehind (s : State) (c : Nat) (x : CopyCmd) : Bool :=
  (x.desc.cmode == 1 && s.barBehind x.id (spmCore x.desc.caddr.toNat) (barSlot x.desc.caddr)) ||
    (x.desc.cmode == 2 && s.engineBehind (x.ctx c) x.desc.caddr.toNat 8 .write)

/-- Whether a chunk must wait for posted stores that its strand made before the command, to the words it reads or writes and to the
barrier it updates (R163, R173). -/
def State.chunkBehind (s : State) (c : Nat) (x : CopyCmd) (off : Nat) : Bool :=
  let wait (a : Word) (acc : Acc) := (pieces (a + BitVec.ofNat 48 off) (x.size off)).any fun p =>
    s.engineBehind (x.ctx c) p.1.toNat p.2 acc
  wait x.desc.src .read || wait x.desc.dst .write || s.copyEndBehind c x

/-- Whether a chunk reads or writes the vault of its own core, whose agent gives each request a tag (R136). -/
def State.chunkHere (s : State) (x : CopyCmd) (off c : Nat) : Bool :=
  let at_ (a : Word) (acc : Acc) := (s.wherePut (x.ctx c) (a + BitVec.ofNat 48 off).toNat acc).any fun pa => spaceOf pa == .vault && vaultOf pa == c
  at_ x.desc.src .read || at_ x.desc.dst .write

/-- COPY_CHUNK: the chunk of a command at an offset of its range (R153, R287). -/
def State.copyChunk (s : State) (c n off : Nat) : State :=
  match (s.coreAt c).copies.find? fun (x : CopyCmd) => x.num == n with
  | none => s
  | some x =>
    if x.stopped || x.failed.isSome || off % 64 != 0 || off < x.base || x.desc.len ≤ off || x.landed.contains off || x.sent.contains off ||
        s.chunkBehind c x off
    then s
    else if s.chunkHere x off c && !s.tagFree c x.tag then
      if x.tag.isSome then s else { s.onCore c fun k => k.putCopy { x with tag := some s.orders } with orders := s.orders + 1 }
    else
      let x := { x with tag := none }
      match s.copyShape c x with
      | (s, .refused) => s.chunkFailed c x off .illegal x.desc.src
      | (s, shape) => s.moveChunk c x shape off

/-- The reply to a segment of a chunk: the last read has it written, unless the command has failed or was stopped meanwhile, and the
last write has it landed. -/
def State.segmentReply (s : State) (c n off : Nat) (m : Msg) : State :=
  match (s.coreAt c).copies.find? fun (x : CopyCmd) => x.num == n with
  | none => s
  | some x => match m.cause with
    | some k => if x.sent.contains off then s.chunkFailed c x off k m.va else s
    | none =>
      let rest := x.sent.erase off
      if m.fn = 1 then
        let y := { x with sent := rest, got := x.got ++ [(off, m.va, m.data)] }
        if !x.sent.contains off then s
        else if rest.contains off then s.onCore c fun k => k.putCopy y
        else
          let z := { y with got := y.got.filter fun (g : Nat × Word × List Byte) => g.1 != off }
          match x.failed with
          | some f => s.chunkFailed c z off f.1 f.2
          | none =>
            if x.stopped then s.onCore c fun k => k.putCopy z
            else
              let r := s.copyShape c z
              (r.1.onCore c fun k => k.putCopy z).writeChunk c z r.2 off (y.bytesOf off)
      else
      if rest.contains off then s.onCore c fun k => k.putCopy { x with sent := rest }
      else if x.sent.contains off then s.chunkLanded c x off else s

/-- The shadow store of a region that a whole copy has written (R189). -/
def State.carryRegion (s : State) (shape : CopyShape) : State :=
  match shape with
  | .into c r => s.onCore c fun k => { k with regions := k.regions.map fun (y : Region) =>
      if y.num = r.num then { y with stale := false, err := false, prov := false, drift := 0 } else y }
  | .regions c r c' r' =>
    match (s.coreAt c).region r.num with
    | none => s
    | some x => s.onCore c' fun k => { k with regions := k.regions.map fun (y : Region) =>
        if y.num = r'.num then { x with num := r'.num, prov := false } else y }
  | _ => s

/-- The failure that a finished command ended with: a stopped one that is not whole counts as refused (R389). -/
def CopyCmd.outcome (x : CopyCmd) : Option (Cause × Word) :=
  if x.left = 0 then none
  else match x.failed with
    | some f => some f
    | none => some (.refused, x.desc.dst + BitVec.ofNat 48 x.prefixLen)

/-- COPY_COMPLETION: a command with nothing on its way that is whole, has failed or was stopped signals its end and leaves the
engine (R154, R287). -/
def State.copyComplete (s : State) (c n : Nat) : State :=
  match (s.coreAt c).copies.find? fun (x : CopyCmd) => x.num == n with
  | none => s
  | some x =>
    if !x.sent.isEmpty || (x.left != 0 && x.failed.isNone && !x.stopped) || s.copyEndBehind c x then s
    else
      let fail := x.outcome
      let cut := x.stopped && x.failed.isNone && x.left != 0
      let r := s.copyShape c x
      let s := if fail.isNone then r.1.carryRegion r.2 else r.1
      let s := match fail with
        | some f => if cut then s.copyBar c x (.fail f.1.code c f.2.toNat x.left) else s
        | none => s
      let s := if x.desc.cmode = 2 then
          let v := if fail.isSome then x.desc.cval ^^^ (1 <<< 63) else x.desc.cval
          (s.engineStore (x.ctx c) x.desc.caddr.toNat (leBytes 8 v.toNat)).1
        else s
      let s := match fail with
        | some f => if x.desc.cmode = 0 then s.logError c 8 1 f.1.code f.2.toNat 0 (x.ctx c).who false else s
        | none => s
      let s := s.onCore c fun k => { k with copies := k.copies.filter fun (y : CopyCmd) => y.num != n }
      if cut then s.markStopped c x.slot x.entry x.prefixLen (!x.landed.isEmpty || x.base != 0)
      else s.endWork c x.slot x.id x.entry fail (if x.desc.cmode = 0 then .alone else .both) 8 x.prefixLen (!x.landed.isEmpty || x.base != 0)

/-! ## Gathers (R369, R370) -/

/-- The agent of a gather. -/
def GatherCmd.agent (g : GatherCmd) (c : Nat) : Agent := { vault := c, who := g.who, acct := g.acct }

/-- One page of 32 rows with every row outside a span of tokens written as zero. -/
def pagePart (a : Agent) (base lo hi o : Nat) : Job (List Byte) := do
  let t := o / 256
  if lo ≤ t ∧ t < hi then rd a (base + o) 64 else return List.replicate 64 0

/-- The 64 bytes of a gather's records at an offset. -/
def gatherBytes (g : GatherCmd) (a : Agent) (off : Nat) : Job (List Byte) := do
  let t ← header a g.head
  let e ← rdNat a (g.list + 8 * (off / g.esz)) 8
  let b := bitsOf e 23 0
  let hi := bitsOf e 29 24
  let lo := bitsOf e 34 30
  require (bitsOf e 39 35 == 0 && b < t.nblk && hi ≤ 32)
  let o := off % g.esz
  let vo := if g.keys then o - 8192 else o
  if g.keys && o < 8192 then pagePart a (t.kbase + 8192 * b) lo hi o
  else if g.vals && vo < 8192 then pagePart a (t.vbase + 8192 * b) lo hi vo
  else
    return (List.range 16).flatMap fun i =>
      let lane := o % 128 / 4 + i
      leBytes 4 (if lo ≤ lane && lane < hi then 0 else 0xFF800000)

/-- Where a chunk lands: the table vault, or a scratchpad window. -/
def State.gatherWrite (s : State) (c : Nat) (g : GatherCmd) (off : Nat) (bs : List Byte) : State × Option Cause :=
  let w := (g.agent c).who
  let d := (g.dst.toNat + off) % 2 ^ 48
  if g.toVault then
    match s.agentCheck (g.agent c) d 64 with
    | (s, 0) => let r := s.engineWrite w (c * 2 ^ 28 + d) bs; (r.1, statusCause r.2)
    | (s, k) => (s, statusCause (if k = 6 then 5 else k))
  else
    let r := s.agentWrite (g.agent c) d bs
    (r.1, statusCause r.2)

/-- Whether a chunk must wait for posted stores that the strand made before the gather, to the words it writes or to its barrier (R163,
R173). -/
def State.gatherBehind (s : State) (c : Nat) (g : GatherCmd) (off : Nat) : Bool :=
  let d := (g.dst.toNat + off) % 2 ^ 48
  (if g.toVault then s.behind g.id true (c * 2 ^ 28 + d) 64 else s.engineBehind (g.agent c).ctx d 64 .write) ||
    (g.cb != 0 && s.barBehind g.id (spmCore g.cb.toNat) (bitsOf g.cb.toNat 9 4))

/-- GATHER_CHUNK: one 64-byte chunk of a record lands, and the last ends the gather. -/
def State.gatherChunk (s : State) (c n off : Nat) : State :=
  match (s.coreAt c).gathers.find? fun (g : GatherCmd) => g.num == n with
  | none => s
  | some g =>
    if off % 64 != 0 || g.total ≤ off || g.landed.contains off || s.gatherBehind c g off then s
    else match runJob (gatherBytes g (g.agent c) off) s with
      | (s, .error k) => s.endGather c g ((statusCause (if k = 6 then 5 else k)).map fun e => (e, g.address off))
      | (s, .ok bs) => match s.gatherWrite c g off bs with
        | (s, some e) => s.endGather c g (some (e, g.address off))
        | (s, none) =>
          let h := { g with landed := off :: g.landed }
          let s := s.onCore c fun k => { k with gathers := k.gathers.map fun (x : GatherCmd) => if x.num = n then h else x }
          let s := s.noteWork g.from_ g.slot g.id g.entry fun e => { e with part := true }
          let s := (s.gatherBar c h (.finish 64)).chargeGranules c g.acct 64
          if h.left = 0 then s.endGather c h none else s

/-- A gather stopped by `settle`: a failure with the cause REFUSED at its first unwritten byte (R389). -/
def State.stopGather (s : State) (c : Nat) (g : GatherCmd) : State :=
  let s := if g.cb = 0 then s.logError c 8 1 Cause.refused.code (g.address g.next).toNat 0 (g.agent c).who false
    else s.gatherBar c g (.fail Cause.refused.code c (g.address g.next).toNat g.left)
  (s.dropGather c g.num).markStopped g.from_ g.slot g.entry 0 (!g.landed.isEmpty)

/-- The gather of a descriptor's 32 bytes (R369), or a status of R135 and R360: a malformed one is status 6. -/
def gatherOf (a : Agent) (head : Nat) (d : List Byte) : Job GatherCmd := do
  let _ ← header a head
  let f (i : Nat) := fieldAt d (8 * i) 8
  let ctl := bitsOf (f 1) 35 32
  require (f 0 < 2 ^ 28 && bitsOf (f 1) 63 36 == 0 && bitsOf (f 1) 31 24 == 0 && 1 ≤ bitsOf (f 1) 23 0 && ctl % 8 != 0)
  require (f 2 % 128 == 0 && if bitAt ctl 3 then f 2 < 2 ^ 28 else f 2 < 2 ^ 48 && regionOf (f 2) == .spad && 2 ≤ idxOf (f 2) && idxOf (f 2) ≤ 30)
  require (f 3 < 2 ^ 48)
  return { num := 0, from_ := a.who.core, slot := 0, id := a.who.id, entry := none, pid := a.who.pid, prv := false, acct := a.acct, head := head,
           list := f 0, nl := bitsOf (f 1) 23 0, ctl := BitVec.ofNat 4 ctl, dst := BitVec.ofNat 64 (f 2), cb := BitVec.ofNat 48 (f 3),
           landed := [], failed := none, stopped := false }

end Sys2Proof.Machine
end

