-- ==== Sys2Proof/Machine/Remote.lean ====
section
/-! DEFINITION. Remote-procedure messages on their way: translation at a station, the walk of a missing page, each procedure at its
owner, and the reply at the originator (R64, R123, R126, R129 to R136, R146, R276, R279, R280, R285, R360, R370, R387, R422,
R425). -/

namespace Sys2Proof.Machine

/-- The bytes a store writes, with their offsets. -/
def Msg.runs (m : Msg) : List (Nat × List Byte) :=
  if m.data.isEmpty then [(0, leBytes m.bytes m.opa.toNat)] else maskRuns m.mask m.data

/-! ## Classes -/

/-- The class of an entry becomes known (R170, R386). -/
def State.classify (s : State) (m : Msg) (cls : Cls) : State :=
  match m.client, m.entry with
  | .slot c j _, some n => s.onSlot c j fun v => v.onEntry n fun e => { e with cls := cls }
  | _, _ => s

/-! ## Outside vault space -/

/-- Whether the space of an address takes a procedure (R276, R424). -/
def carries (pa : Nat) (proc : BitVec 4) : Bool :=
  if spaceOf pa == .host then proc == 0 || proc == 1 else proc == 0 || proc == 1 || proc == 2 || proc == 5

/-- A message that no core accepts is performed: one that succeeds counts as received by the core that sent it, whose totals would not
balance otherwise; one that fails counts with its reply (R64; notes/assumptions/128.md). -/
def State.putAway (s : State) (k : Nat) (m : Msg) : State :=
  (if m.cause.isNone && !m.fromPeer then s.countRecv m.src m.lid else s).putMsg k { m with dst := noCore }

/-- The reply to a read: a value, or the bytes of a granule (R299). -/
def Msg.answerRead (m : Msg) (status : Nat) (bs : List Byte) : Msg :=
  if m.mask = 0 then m.answer status (BitVec.ofNat 64 (leNat bs)) else { m.answer status 0 with data := bs }

/-- A message served in system space, beneath its station (R126). -/
def State.systemServe (s : State) (m : Msg) (pa : Nat) : State × Msg :=
  if m.proc = 0 then
    let r := s.sysLoad pa m.length
    (s, m.answerRead r.1 r.2)
  else if m.proc = 1 then
    let r := m.runs.foldl (fun (r : State × Nat) p =>
      let t := r.1.sysStore (pa + p.1) p.2
      (t.1, if r.2 = 0 then t.2 else r.2)) (s, 0)
    (r.1, m.answer r.2 0)
  else (s, m.answer 1 0)

/-! ## STATION_REQUEST and TABLE_WALK -/

/-- A translated message goes on to its owner; its class is known from then on. -/
def State.forward (s : State) (k : Nat) (m : Msg) (r : Except Cause Nat) : State :=
  match r with
  | .error cause => s.putMsg k (m.refuseAway cause)
  | .ok pa =>
    match spaceOf pa with
    | .vault =>
      let m := { m with paddr := pa, dst := vaultOf pa, stage := .toOwner, cls := if m.storing then .one else m.cls }
      (s.classify m .one).putMsg k m
    | .system =>
      if s.blocked k { m with paddr := pa, stage := .toOwner } then s.putMsg k { m with stage := .toStation }
      else let t := s.systemServe m pa; t.1.putAway k t.2
    | .unassigned => s.putMsg k (m.refuseAway .xlate)
    | _ =>
      let m := { m with paddr := pa, cls := if m.storing then .three else m.cls }
      let s := s.classify m .three
      if !carries pa m.proc then s.putMsg k (m.answerAway 1 0)
      else if !s.linkUp pa then s.putMsg k (m.answerAway 4 0)
      else s.putMsg k { m with dst := noCore, stage := .toOwner }

/-- STATION_REQUEST: a station accepts a request, and translates it from its cache or has it wait for a walk (R126, R130). -/
def State.stationRequest (s : State) (k : Nat) : State :=
  match s.mesh[k]? with
  | none => s
  | some m =>
    if m.stage != .toStation then s
    else if !s.stpt.getLsbD 0 then s.putMsg k (m.refuseAway .xlate)
    else
      let n := stationOf m.src
      let va := m.va.toNat
      match s.probe n m.pid va with
      | (s, some e) => s.forward k m (leafAddress e.level e.frame e.w e.x m.prv va m.access)
      | (s, none) =>
        let t := s.stationAt n
        let page := BitVec.ofNat 48 (va / 65536 * 65536)
        if t.walks.any fun (w : Walk) => w.pid == m.pid && w.va == page then s.putMsg k { m with stage := .walking }
        else if 256 ≤ t.walks.length then s
        else (s.putStation n { t with walks := t.walks ++ [{ pid := m.pid, va := page }] }).putMsg k { m with stage := .walking }

/-- TABLE_WALK: walk `i` of a station completes: its leaf is cached, and every request that waits for it goes on or is refused. -/
def State.tableWalk (s : State) (n i : Nat) : State :=
  match (s.stationAt n).walks[i]? with
  | none => s
  | some w =>
    let s := s.putStation n { s.stationAt n with walks := dropAt (s.stationAt n).walks i }
    let who : Who := { core := stationCore n, pid := w.pid, id := { lid := 0, sid := 0 } }
    let r := if s.stpt.getLsbD 0 then s.walk who w.pid w.va.toNat else (s, .error .xlate)
    let s := match r with
      | (s, .ok f) => s.putStation n ((s.stationAt n).keep w.pid w.va.toNat f)
      | (s, .error _) => s
    upTo s.mesh.length (fun s k => match s.mesh[k]? with
      | none => s
      | some m =>
        if m.stage == .walking && stationOf m.src == n && m.pid == w.pid && m.va.toNat / 65536 * 65536 == w.va.toNat then
          match r.2 with
          | .ok f => s.forward k m (leafAddress f.level f.frame f.w f.x m.prv m.va.toNat m.access)
          | .error cause => s.putMsg k (m.refuseAway cause)
        else s) s

/-! ## Procedures at their owners -/

/-- A vault agent accepts one mesh request in a cycle: a second one is accepted in the next (R132). -/
def State.agentTurn (s : State) (c : Nat) : State :=
  let t := if (s.coreAt c).meshAt = some s.now then { s with now := s.now + 1 } else s
  t.onCore c fun k => { k with meshAt := some t.now }

/-- Whether a segment of a copy is for a scratchpad (R123, R153). -/
def Msg.toSpad (m : Msg) : Bool := m.proc == 5 && !m.fromPeer && regionOf m.va.toNat == .spad

/-- Whether a message is for the vault agent of its core. -/
def Msg.atVault (m : Msg) : Bool := decide (m.proc.toNat < 8) && !m.toSpad

/-- Message `k` at its owner, for a procedure: one that may reach a word of an older message of its strand waits for it, and a request
to a vault for a tag, in the order of arrival (R136, R163); a killed core answers status 4 (R416); otherwise the core counts the message and the procedure is
performed. -/
def State.serve (s : State) (k : Nat) (p : Msg → Bool) (f : State → Msg → State) : State :=
  match s.mesh[k]? with
  | none => s
  | some m =>
    if m.stage != .toOwner || m.rec_.isSome || !p m || (m.tag.isNone && s.blocked k m) then s
    else if m.dst = noCore then f s m
    else if (s.coreAt m.dst).killed then s.putMsg k (m.answerAway 4 0)
    else if m.atVault && !s.tagFree m.dst m.tag then
      if m.tag.isSome then s else { s.putMsg k { m with tag := some s.orders } with orders := s.orders + 1 }
    else
      let s := if m.atVault then s.agentTurn m.dst else s
      f (if m.fromPeer then s else s.countRecv m.dst m.lid) { m with tag := none }

/-- A message answered by a step that gives its reply, charged for its granules where its tag is known (R224). -/
def State.answer (k : Nat) (m : Msg) (r : State × Msg) : State :=
  let s := r.1.chargeGranules (if m.fromPeer then m.dst else m.src) m.acct m.length
  if m.dst = noCore then s.putAway k r.2 else s.putMsg k r.2

/-- LOAD: a read of vault space, or of host or fabric space through its link. -/
def State.doLoad (s : State) (k : Nat) : State :=
  s.serve k (·.proc == 0) fun s m =>
    State.answer k m <|
      if spaceOf m.paddr != .vault then
        if s.linkUp m.paddr then (s, m.answerRead 0 (s.mem.readBytes m.paddr m.length)) else (s, m.answer 4 0)
      else
        let r := s.vaultRead m.who m.paddr m.length
        (r.1, m.answerRead r.2.1 r.2.2)

/-- Writes of the runs of a store, until one fails. -/
def State.storeRuns (w : Who) (a : Nat) : List (Nat × List Byte) → State → State × Nat
  | [], s => (s, 0)
  | p :: r, s =>
    if spaceOf a != .vault then State.storeRuns w a r { s with mem := s.mem.write (a + p.1) p.2 }
    else match s.vaultWrite w (a + p.1) p.2 with
      | (s, 0) => State.storeRuns w a r s
      | (s, n) => (s, n)

/-- STORE. -/
def State.doStore (s : State) (k : Nat) : State :=
  s.serve k (·.proc == 1) fun s m =>
    State.answer k m <|
      if spaceOf m.paddr != .vault && !s.linkUp m.paddr then (s, m.answer 4 0)
      else let r := State.storeRuns m.who m.paddr m.runs s; (r.1, m.answer r.2 0)

/-- ATOMIC: one read and write (R280). -/
def State.doAtomic (s : State) (k : Nat) : State :=
  s.serve k (·.proc == 2) fun s m =>
    State.answer k m <|
      if spaceOf m.paddr != .vault then
        if !s.linkUp m.paddr then (s, m.answer 4 0)
        else
          let old := BitVec.ofNat 64 (s.mem.readNat m.paddr 8)
          ({ s with mem := s.mem.writeNat m.paddr 8 (atomicOf m.fn.toNat old m.opa m.opb).toNat }, m.answer 0 old)
      else
        let r := s.atomicAccess m.who m.paddr m.fn.toNat m.opa m.opb
        (r.1, m.answer r.2.1 r.2.2)

/-- A full/empty request at its bank: performed if its condition holds or its word is lost, else status 5 (R156, R279). -/
def State.doFullEmpty (isLoad : Bool) (s : State) (k : Nat) : State :=
  s.serve k (fun m => m.proc == if isLoad then 3 else 4) fun s m =>
    State.answer k m <|
      if s.feReady m.paddr isLoad m.fn.toNat then
        let r := s.fePerform m.who m.paddr isLoad m.fn.toNat m.opa
        (r.1, m.answer r.2.1 r.2.2)
      else (s, m.answer 5 0)

/-- PARKED_CONTINUATION: the bank enlists a continuation and tests its condition again (R146); a killed core sends it back with
REFUSED. -/
def State.doParked (s : State) (k : Nat) : State :=
  match s.mesh[k]? with
  | none => s
  | some m =>
    match m.cont with
    | none => s
    | some w =>
      if m.stage != .toOwner || m.proc != 10 then s
      else
        let s := s.dropMsg k
        if (s.coreAt m.dst).killed then (s.countRecv m.src m.lid).releaseWaiter m.src w (some (.refused, w.ea))
        else ((s.agentTurn m.dst).countRecv m.dst m.lid).parkAt w m.paddr

/-- A segment of a copy at a scratchpad: its answer (R123). -/
def State.spadSegment (s : State) (m : Msg) (n : Nat) : State × Msg :=
  if m.fn = 1 then match s.windowRead m.who m.pid m.va.toNat n with
    | (s, some bs) => (s, { m.answer 0 0 with data := bs })
    | (s, none) => (s, m.answer 2 0)
  else match s.windowWrite m.who m.pid m.va.toNat m.data with
    | (s, true) => (s, m.answer 0 0)
    | (s, false) => (s, m.answer 2 0)

/-- COPY_SEGMENT: bytes of a copy written at the vault, each word set full, or read there (FN 1); or written or read over a link, or in a
scratchpad. A peer's segment is charged here, another's to its command as the chunk lands (R145, R153, R224, R424). -/
def State.doSegment (s : State) (k : Nat) : State :=
  s.serve k (·.proc == 5) fun s m =>
    let n := if m.fn = 1 then m.opa.toNat else m.data.length
    let s := if m.fromPeer then s.chargeGranules m.dst m.acct n else s
    if m.toSpad then
      let r := s.spadSegment m n
      r.1.putMsg k r.2
    else if spaceOf m.paddr != .vault then
      if !s.linkUp m.paddr then s.putAway k (m.answer 4 0)
      else if m.fn = 1 then s.putAway k { m.answer 0 0 with data := s.mem.readBytes m.paddr n }
      else { s with mem := s.mem.write m.paddr m.data }.putAway k (m.answer 0 0)
    else if m.fn = 1 then
      let r := s.vaultRead m.who m.paddr n
      r.1.putMsg k { m.answer r.2.1 0 with data := r.2.2 }
    else
      let r := s.engineWrite m.who m.paddr m.data
      r.1.putMsg k (m.answer r.2 0)

/-- The agent that serves a message of PROC 6 or 7. -/
def Msg.agent (m : Msg) : Agent := { vault := m.dst, who := m.who, acct := m.acct }

/-- GATHER_REDUCE: `emb.red` at the agent; status 8 carries the offset of the index (R360, R374). -/
def State.doReduce (s : State) (k : Nat) : State :=
  s.serve k (·.proc == 6) fun s m =>
    match whole (runJob (embReduce m.agent (m.paddr % 2 ^ 28) (m.opb.setWidth 32))) s with
    | (s, .error e) => s.putMsg k (m.answer e 0)
    | (s, .ok (.inl rc)) => s.putMsg k (m.answer 0 (BitVec.ofNat 64 rc))
    | (s, .ok (.inr o)) => s.putMsg k (m.answer 8 (BitVec.ofNat 64 o))

/-- The barrier of a gather whose descriptor is refused, and its bytes: CB where it names an owned slot. -/
def State.refusedGather (s : State) (m : Msg) (d : List Byte) : Option (Word × Nat) :=
  let ctl := bitsOf (fieldAt d 8 8) 35 32
  let cb := BitVec.ofNat 48 (fieldAt d 0x18 8)
  if fieldAt d 0x18 8 = 0 || 2 ^ 48 ≤ fieldAt d 0x18 8 || (s.barAddressCheck m.pid cb).isSome then none
  else some (cb, bitsOf (fieldAt d 8 8) 23 0 * (8192 * (bit (bitAt ctl 0) + bit (bitAt ctl 1)) + 128 * bit (bitAt ctl 2)))

/-- A gather whose request fails at the agent with a status: at its barrier where its descriptor gives one, and in its entry. -/
def State.failGather (s : State) (m : Msg) (c j : Nat) (id : StrandId) (e : Nat) (bar : Option (Word × Nat)) : State :=
  let o := m.opa.toNat
  let cause := (statusCause (if e = 6 then 5 else e)).getD .illegal
  let f := (cause, BitVec.ofNat 48 o)
  match bar with
  | some b =>
    (s.barSend m.dst m.lid (spmCore b.1.toNat) (barSlot b.1) (.fail cause.code m.dst o b.2)).endWork c j id m.entry (some f) .both 8 0 false
  | none => (s.logError m.dst 8 1 cause.code o 0 m.who false).endWork c j id m.entry (some f) .alone 8 0 false

/-- A gather request at the agent: its descriptor is read, or for a retry is the one captured, and recorded in the entry; then the gather
is under way, or has failed (R370, R386, R388). -/
def State.startGather (s : State) (m : Msg) : State :=
  match m.client with
  | .slot c j id =>
    let q := if m.data.isEmpty then runJob (rd m.agent m.opa.toNat 32) s else (s, .ok m.data)
    match q with
    | (s, .error e) => s.failGather m c j id e none
    | (s, .ok d) =>
    let s := s.noteWork c j id m.entry fun e => match e.work with
      | .gather g => { e with work := .gather { g with bytes := d } }
      | _ => e
    match runJob (gatherOf m.agent (m.paddr % 2 ^ 28) d) s with
    | (s, .error e) => s.failGather m c j id e (s.refusedGather m d)
    | (s, .ok g) =>
      let cb := if g.cb = 0 || (s.barAddressCheck m.pid g.cb).isSome then 0 else g.cb
      s.onCore m.dst fun q => { q with
        cmdNext := q.cmdNext + 1,
        gathers := q.gathers ++ [{ g with num := q.cmdNext, slot := j, entry := m.entry, prv := m.prv, cb := cb }] }
  | _ => s

/-- KV_TABLE_OPERATION: one sub-operation as an indivisible step (R361). -/
def State.doKv (s : State) (k : Nat) : State :=
  s.serve k (·.proc == 7) fun s m =>
    let a := m.agent
    let h := m.paddr % 2 ^ 28
    let x := m.opa.toNat
    let r : State × Except Nat Nat := match m.fn.toNat with
      | 0 => kvApp a h x s
      | 1 => whole (runJob (kvFind a h x)) s
      | 2 => whole (runJob (kvFree a h x)) s
      | 3 => (s.startGather m, .ok 0)
      | 4 => whole (runJob (rbSelect false a h x)) s
      | 5 => whole (runJob (rbSelect true a h x)) s
      | 6 => whole (runJob (dpPlan a h x)) s
      | _ => (s, .error 4)
    match r with
    | (s, .ok n) => s.putMsg k (m.answer 0 (BitVec.ofNat 64 n))
    | (s, .error e) => s.putMsg k (m.answer e 0)

/-! ## The scratchpad's procedures (R123, R285) -/

/-- SCRATCHPAD_LOAD: FN 0 a load, 4 `cb.test`, 5 the phase test of a `cb.wait` in handler state. -/
def State.doSpadLoad (s : State) (k : Nat) : State :=
  s.serve k (·.proc == 8) fun s m =>
    if m.fn = 0 then
      State.answer k m <|
        if (s.allocAt m.pid m.va.toNat).isNone && m.opb != 0 then (s, m.answerRead 0 (List.replicate m.length 0))
        else match s.windowRead m.who m.pid m.va.toNat m.length with
          | (s, none) => (s, m.answer 2 0)
          | (s, some bs) => (s, m.answerRead 0 bs)
    else
      let b := barSlot m.va
      if !s.barOwned m.dst b m.pid then s.putMsg k (m.answer 1 0)
      else match s.barLook m.who m.dst b with
        | (s, none) => s.putMsg k (m.answer 2 0)
        | (s, some bar) =>
          if m.fn = 4 then s.putMsg k (m.answer 0 (BitVec.ofNat 64 bar.status))
          else s.putMsg k (m.answer (if bit bar.phase = m.opa.toNat then 0 else 5) 0)

/-- The runs of a store into a scratchpad window, until one fails. -/
def State.windowRuns (w : Who) (pid : BitVec 16) (va : Nat) : List (Nat × List Byte) → State → State × Bool
  | [], s => (s, true)
  | p :: r, s => match s.windowWrite w pid (va + p.1) p.2 with
    | (s, true) => State.windowRuns w pid va r s
    | (s, false) => (s, false)

/-- A store through the scratchpad window: a miss discards it, and is counted with the first request of its access (R123). -/
def State.windowStore (s : State) (m : Msg) : State × Bool :=
  if (s.allocAt m.pid m.va.toNat).isSome then State.windowRuns m.who m.pid m.va.toNat m.runs s
  else (if m.data.isEmpty || m.opb = 0 then s.spmMiss (spmCore m.va.toNat) else s, true)

/-- SCRATCHPAD_STORE: FN 0 a store; 5 to 7 `spal`, `spfree` and `spsz` at the core their operand names. -/
def State.doSpadStore (s : State) (k : Nat) : State :=
  s.serve k (fun m => m.proc == 9 && (m.fn == 0 || decide (5 ≤ m.fn.toNat))) fun s m =>
    if m.fn = 0 then
      State.answer k m <|
        match s.windowStore m with
        | (s, true) => (s, m.answer 0 0)
        | (s, false) => (s, m.answer 2 0)
    else
      let r := s.spmOp m.dst m.fn.toNat m.strand m.pid m.opa.toNat
      r.1.putMsg k (m.answer 0 (r.2.setWidth 64))

/-- BARRIER_UPDATE: FN 1 to 3, after the check of R283 at the barrier's core. -/
def State.doBarrier (s : State) (k : Nat) : State :=
  s.serve k (fun m => m.proc == 9 && decide (1 ≤ m.fn.toNat) && decide (m.fn.toNat ≤ 3)) fun s m =>
    let b := barSlot m.va
    if !s.barOwned m.dst b m.pid then s.putMsg k (m.answer 1 0)
    else match s.barTry m.who m.dst b (barOpOf m.fn.toNat m.opa) with
      | (s, true) => s.putMsg k (m.answer 0 0)
      | (s, false) => s.putMsg k (m.answer 2 0)

/-- WAIT_ON_ADDRESS: the continuation of a remote `cb.wait` is checked, released at once, or parked (R285). -/
def State.doWait (s : State) (k : Nat) : State :=
  match s.mesh[k]? with
  | none => s
  | some m =>
    match m.cont with
    | none => s
    | some w =>
      if m.stage != .toOwner || m.proc != 9 || m.fn != 4 then s
      else
        let s := s.dropMsg k
        let b := barSlot m.va
        if (s.coreAt m.dst).killed then (s.countRecv m.src m.lid).releaseWaiter m.src w (some (.refused, w.ea))
        else
          let s := s.countRecv m.dst m.lid
          if !s.barOwned m.dst b m.pid then s.releaseWaiter m.dst w (some (.prot, w.ea))
          else match s.barLook m.who m.dst b with
            | (s, none) => s.releaseWaiter m.dst w (some (.eccue, w.ea))
            | (s, some bar) => if bit bar.phase = m.opa.toNat then s.releaseWaiter m.dst w.served none else s.enlist m.dst w

/-- UNKNOWN_PROCEDURE: refused with status 4 (R134). -/
def State.doUnknown (s : State) (k : Nat) : State :=
  s.serve k (fun m => decide (11 ≤ m.proc.toNat)) fun s m => s.putMsg k (m.answer 4 0)

/-! ## REPLY (R135) -/

/-- A full/empty form that was not served parks: it and what issued behind it are undone, and its continuation goes to the bank (R146,
R279). Where the strand may not suspend yet the form issues again. -/
def State.parkRemote (s : State) (c j : Nat) (m : Msg) (isLoad : Bool) (rd : BitVec 5) : State :=
  let s := s.onSlot c j Slot.undone
  let v := s.slotAt c j
  if v.handler || s.posted c 3 || v.draining then s
  else match s.suspend c j id v.pc c 0 with
    | (s, .error f) => s.enterTrap c j f.1 f.2 false 0
    | (s, .ok p) =>
      let w := feWaiter p m.paddr isLoad m.fn.toNat rd m.opa m.va c s.now (bitsOf v.wlim.toNat 47 0) m.acct
      (s.send { s.blank c j with pid := m.pid, prv := m.prv, acct := m.acct, lid := m.lid, proc := 10, dst := vaultOf m.paddr,
                                 paddr := m.paddr, va := m.va, stage := .toOwner, client := .none, cont := some w }).1

/-- The bytes that a reply brings an access of several requests, by granule. -/
def AwaitAct.got (a : AwaitAct) (m : Msg) : AwaitAct :=
  let g := (m.va.toNat / 32, m.data)
  match a with
  | .row d mask l => .row d mask (l ++ [g])
  | .table n l => .table n (l ++ [g])
  | a => a

/-- The last reply of an awaited access: a row is written, a table is kept for its instruction, which issues again, and a result reaches
its register. -/
def State.awaitDone (s : State) (c j i : Nat) (a : Await) (x : XWord) : State :=
  match a.act with
  | .row d mask got => (s.landRow c j d mask (gathered a.ea 128 got)).finishAwait c j i none
  | .table n got => (s.onSlot c j fun v => { v with fetched := some (a.ea, gathered a.ea n got) }).finishAwait c j i none
  | act => s.finishAwait c j i (act.write x)

/-- A reply to awaited access `i` of a slot. -/
def State.awaitReply (s : State) (c j i : Nat) (a : Await) (m : Msg) : State :=
  if m.status = 5 && m.cause == some .illegal then
    match a.act with
    | .fullEmpty isLoad rd => s.parkRemote c j m isLoad rd
    | _ => s.onSlot c j Slot.undone
  else match m.cause with
    | some cause => s.failAwait c j i cause (if m.status = 8 then lowWord m.result else a.ea)
    | none =>
      let b := { a with seqs := a.seqs.filter (· != m.seq), act := a.act.got m }
      let s := s.onSlot c j fun v => { v with awaits := v.awaits.set i b }
      if b.seqs.isEmpty then s.awaitDone c j i b m.result else s

/-- The reply to a posted access: a gather's entry stays until the gather ends. A strand that has left its slot has its failure written
to an error log (notes/assumptions/22.md); the slot's count of unacknowledged requests goes down all the same (R390, R391). -/
def State.postedReply (s : State) (c j : Nat) (id : StrandId) (m : Msg) : State :=
  let v := s.slotAt c j
  let present := (v.strand.map fun b => b.id) == some id
  if m.proc = 7 then
    let s := if m.entry.isNone then s.onSlot c j fun v => { v with unack := v.unack - 1 } else s
    match m.cause with
    | none => s
    | some cause => s.endWork c j id m.entry (some (cause, m.va)) .entry 8 0 false
  else if present then s.putEntry c j (m.entry.getD v.boardNext) (v.acknowledge m s.now)
  else
    let s := if m.entry.isNone then s.onSlot c j fun v => { v with unack := v.unack - 1 } else s
    match m.cause with
    | none => s
    | some cause => s.logError c 8 1 cause.code m.va.toNat 0 m.who false

/-- The reply to a request of a stream's read: its granule enters the row, or its fault is held there, at the entry's address (R299,
R316). -/
def FifoEntry.take (e : FifoEntry) (granule : Nat) (m : Msg) : FifoEntry :=
  if !e.wait.contains (granule, m.seq) then e
  else
    let e := { e with wait := e.wait.filter (· != (granule, m.seq)) }
    match m.cause with
    | some c => { e with fault := e.fault <|> some c }
    | none => { e with row := BitVec.ofNat 1024 (leNat (patch (rowBytes e.row) (32 * granule) m.data)) }

/-- REPLY: reply `k` reaches its originator. -/
def State.doReply (s : State) (k : Nat) : State :=
  match s.mesh[k]? with
  | none => s
  | some m =>
    if m.stage != .replied then s
    else
      let s := s.dropMsg k
      let s := if m.dst = noCore && m.cause.isSome && !m.fromPeer then s.countRecv m.src m.lid else s
      match m.client with
      | .slot c j id =>
        let v := s.slotAt c j
        if m.storing then s.postedReply c j id m
        else if (v.strand.map fun b => b.id) != some id then s
        else match v.awaits.zipIdx.find? fun p => p.1.seqs.contains m.seq with
          | none => s
          | some p => s.awaitReply c j p.2 p.1 m
      | .stream c j id num granule =>
        s.onSlot c j fun v => if (v.strand.map fun b => b.id) != some id then v
          else v.onStream num fun (t : Stream) => { t with fifo := t.fifo.map fun e => e.take granule m }
      | .copy c n off => s.segmentReply c n off m
      | _ => s

/-! ## VAULT_CONTROLLER_PACKET (R136, R138) -/

/-- A request packet of `rowact` or `rowpre` reaches the controller, the oldest of its bank: the row is opened, or the bank closed. -/
def State.doPacket (s : State) (c n : Nat) : State :=
  match (s.coreAt c).ctl[n]? with
  | none => s
  | some p =>
    if ((s.coreAt c).ctl.take n).any fun q => bankOf q.addr == bankOf p.addr then s
    else
    let s := s.onCore c fun k => { k with ctl := dropAt k.ctl n }
    match p with
    | .act a => if s.isLost a then s else s.openRow a
    | .pre a => s.putBank (vaultOf a) (bankOf a) { s.bankAt (vaultOf a) (bankOf a) with openRow := none }

/-! ## The events -/

/-- STATION_REQUEST. -/
def execStationRequest (k : Nat) (s : State) : Out := .next (s.stationRequest k)
/-- TABLE_WALK. -/
def execTableWalk (station n : Nat) (s : State) : Out := .next (s.tableWalk station n)
/-- LOAD. -/
def execLoad (k : Nat) (s : State) : Out := .next (s.doLoad k)
/-- STORE. -/
def execStore (k : Nat) (s : State) : Out := .next (s.doStore k)
/-- ATOMIC. -/
def execAtomic (k : Nat) (s : State) : Out := .next (s.doAtomic k)
/-- FULL_EMPTY_LOAD. -/
def execFullEmptyLoad (k : Nat) (s : State) : Out := .next (State.doFullEmpty true s k)
/-- FULL_EMPTY_STORE. -/
def execFullEmptyStore (k : Nat) (s : State) : Out := .next (State.doFullEmpty false s k)
/-- PARKED_CONTINUATION. -/
def execParkedContinuation (k : Nat) (s : State) : Out := .next (s.doParked k)
/-- COPY_SEGMENT. -/
def execCopySegment (k : Nat) (s : State) : Out := .next (s.doSegment k)
/-- GATHER_REDUCE. -/
def execGatherReduce (k : Nat) (s : State) : Out := .next (s.doReduce k)
/-- KV_TABLE_OPERATION. -/
def execKvTableOperation (k : Nat) (s : State) : Out := .next (s.doKv k)
/-- SCRATCHPAD_LOAD. -/
def execScratchpadLoad (k : Nat) (s : State) : Out := .next (s.doSpadLoad k)
/-- SCRATCHPAD_STORE. -/
def execScratchpadStore (k : Nat) (s : State) : Out := .next (s.doSpadStore k)
/-- BARRIER_UPDATE. -/
def execBarrierUpdate (k : Nat) (s : State) : Out := .next (s.doBarrier k)
/-- WAIT_ON_ADDRESS. -/
def execWaitOnAddress (k : Nat) (s : State) : Out := .next (s.doWait k)
/-- UNKNOWN_PROCEDURE. -/
def execUnknownProcedure (k : Nat) (s : State) : Out := .next (s.doUnknown k)
/-- REPLY. -/
def execReply (k : Nat) (s : State) : Out := .next (s.doReply k)
/-- VAULT_CONTROLLER_PACKET. -/
def execVaultControllerPacket (core n : Nat) (s : State) : Out := .next (s.doPacket core n)
/-- COPY_CHUNK. -/
def execCopyChunk (core n off : Nat) (s : State) : Out := .next (s.copyChunk core n off)
/-- COPY_COMPLETION. -/
def execCopyCompletion (core n : Nat) (s : State) : Out := .next (s.copyComplete core n)
/-- GATHER_CHUNK. -/
def execGatherChunk (core n off : Nat) (s : State) : Out := .next (s.gatherChunk core n off)

end Sys2Proof.Machine
end

