-- ==== Sys2Proof/Machine/Replay.lean ====
section
/-! DEFINITION. Repeat frames: which words a frame admits, the rotation of their register fields, the capture of `rpt`, and the
word a slot issues next (R236 to R238). -/

namespace Sys2Proof.Machine

/-! ## Admissible words (R237) -/

/-- The words a frame admits, by major and minor: the scalar majors 0x06 to 0x13, `nop`, the vector majors 0x28 to 0x2E but `mqset`, and
the VMISC minors 0 to 6, 9 and 10 (R237). -/
def admissible (w : BitVec 32) : Bool :=
  let op := bitsOf w.toNat 31 26
  let fn := bitsOf w.toNat 7 3
  decide (0x06 ≤ op) && decide (op ≤ 0x13) || w.toNat / 8 == 0x20000 ||
    decide (0x28 ≤ op) && decide (op ≤ 0x2E) && !(op == 0x2D && fn == 5) || op == 0x30 && (decide (fn ≤ 6) || fn == 9 || fn == 10)

/-- What the bits of a register position of a captured word hold: a vector name, a scalar code, a predicate index or an immediate,
or nothing the form reads. -/
inductive Role where
  | vec | code | index | absent
deriving DecidableEq, Repr

/-- The positions of rd or vd, ra or va, rb or vb of an admissible instruction; nothing for one a frame does not admit. -/
def rolesOf : Instr → Option (Role × Role × Role)
  | .add .. | .sub .. | .and .. | .or .. | .xor .. | .andn .. | .shl .. | .shr .. | .sar .. | .mul .. | .mulh ..
  | .mulhn .. | .div .. | .divn .. | .rem .. | .remn .. | .min .. | .max .. | .minn .. | .maxn .. | .sel ..
  | .seln .. | .lea1 .. | .lea2 .. | .lea4 .. | .lea8 .. | .bfx .. | .bfxs .. | .bfi .. => some (.code, .code, .code)
  | .clz .. | .ctz .. | .popc .. | .addi .. | .andi .. | .ori .. | .xori .. | .shli .. | .shri .. | .sari .. => some (.code, .code, .absent)
  | .li .. | .lui .. => some (.code, .absent, .absent)
  | .cmpEq .. | .cmpNe .. | .cmpLt .. | .cmpGe .. | .cmpLtn .. | .cmpGen .. | .cmpTst .. | .cmpTstz .. => some (.index, .code, .code)
  | .cmpiEq .. | .cmpiNe .. | .cmpiLt .. | .cmpiGe .. | .cmpiLtn .. | .cmpiGen .. => some (.index, .code, .absent)
  | .vadd .. | .vsub .. | .vmul .. | .vfma .. | .vfms .. | .vmin .. | .vmax .. | .vdiv .. | .viadd .. | .visub ..
  | .viadds .. | .visubs .. | .viaddn .. | .visubn .. | .vimul .. | .vimulh .. | .vimac .. | .vimin .. | .vimax ..
  | .viminn .. | .vimaxn .. | .vand .. | .vor .. | .vxor .. | .vshl .. | .vshr .. | .vsar .. | .vsel .. | .vcvtKb8 ..
  | .vcvtKb4 .. | .vcvtF32 .. | .vlse .. | .vmadd .. | .vmsub .. | .vmmul .. | .vmmac .. | .bflyCt .. | .bflyGs ..
  | .vshuf .. => some (.vec, .vec, .vec)
  | .vabs .. | .vneg .. | .vsqrt .. | .vcvtBf .. | .vcvtF8 .. | .vcvtInt .. | .vcvtFlt .. | .vnarrow ..
  | .vnarrows .. | .vcvtMr .. | .vexp2 .. | .vlog2 .. | .vrcp .. | .vrsqrt .. | .vsin .. | .vcos .. | .vtanh ..
  | .vexp .. | .vmneg .. | .vrev .. | .vmov .. => some (.vec, .vec, .absent)
  | .vcmpEq .. | .vcmpNe .. | .vcmpLt .. | .vcmpLe .. | .vcmpUn .. | .vicmpEq .. | .vicmpLt .. | .vicmpLtn .. => some (.absent, .vec, .vec)
  | .vmsk .. => some (.absent, .vec, .absent)
  | .vmskall .. => some (.absent, .absent, .absent)
  | .vbst .. => some (.vec, .vec, .index)
  | .vrsum .. | .vrmax .. | .vrmin .. | .vrprod .. => some (.code, .vec, .absent)
  | .vbcast .. => some (.vec, .code, .absent)
  | .vrand .. => some (.vec, .absent, .absent)
  | .vseed .. => some (.absent, .code, .code)
  | .vext .. => some (.code, .vec, .code)
  | _ => none

/-- Whether a word of major 0x10 is one of its forms, with the positions it reads: unused bits are zero and every index is
below 12 (R227, R228, R240). -/
def predRoles (w : BitVec 32) : Option (Role × Role × Role) :=
  let fn := bitsOf w.toNat 10 6
  let used := if fn ≤ 3 then 3 else if fn = 4 then 2 else 1
  let f := [bitsOf w.toNat 25 21, bitsOf w.toNat 20 16, bitsOf w.toNat 15 11]
  if 6 < fn || bitsOf w.toNat 5 3 != 0 || (f.take used).any (fun x => decide (12 ≤ x)) || (f.drop used).any (· != 0) then none
  else some (.index, if 2 ≤ used then .index else .absent, if 3 ≤ used then .index else .absent)

/-- A legal word of the majors that `fieldsPlain` covers. -/
def plainWord (w : BitVec 32) : Option Instr :=
  match fieldsPlain w with
  | none => none
  | some i => if encode i = w && legal i then some i else none

/-- The positions of an admissible word; `nop` reads none. -/
def rolesOfWord (w : BitVec 32) : Option (Role × Role × Role) :=
  if w.toNat / 8 = 0x20000 then some (.absent, .absent, .absent)
  else if w.toNat / 2 ^ 26 = 0x10 then predRoles w
  else (plainWord w).bind rolesOf

/-! ## Rotation (R236) -/

/-- The lowest bits of the three positions: those of the V layout from major 0x28 on, else of R, I and U. -/
def positions (w : BitVec 32) : Nat × Nat × Nat := if 0x28 ≤ w.toNat / 2 ^ 26 then (20, 14, 8) else (21, 16, 11)

/-- One position moved by a number of strides. -/
def rotateField (r : Role) (lo : Nat) (by_ : Int) (w : BitVec 32) : BitVec 32 :=
  match r with
  | .vec => setField w lo 6 ((((bitsOf w.toNat (lo + 5) lo : Nat) : Int) + by_) % 64).toNat
  | .code =>
    let f := bitsOf w.toNat (lo + 4) lo
    if f < 8 then setField w lo 5 (((f : Int) + by_) % 8).toNat else w
  | _ => w

/-- A captured word as replay `k` issues it; `drops` says of the word with its first two positions moved that it does not use the third,
which then stays as captured. -/
def rotateWord (w : BitVec 32) (sd sa sb : Int) (k : Nat) (drops : BitVec 32 → Bool) : BitVec 32 :=
  match rolesOfWord w with
  | none => w
  | some r =>
    let p := positions w
    let x := rotateField r.2.1 p.2.1 (k * sa) (rotateField r.1 p.1 (k * sd) w)
    if drops x then x else rotateField r.2.2 p.2.2 (k * sb) x

/-- Whether a word does not use its vb as it issues: a `vcvt.f32` whose source is BF16, FP8 E4M3 or C4 (R307). -/
def State.dropsVb (s : State) (c j : Nat) (w : BitVec 32) : Bool :=
  match plainWord w with
  | some (.vcvtF32 _ a _ _) =>
    let fmt := bitsOf (s.slotAt c j).fmt.toNat 3 0
    { s with core := c, slot := j }.tyOf a == 2 || fmt == 1 || fmt == 5
  | _ => false

/-- Whether a stride may not be applied to a position: one that holds an index or an immediate, or a scalar code of 8 or more. -/
def strideBad (r : Role) (lo : Nat) (s : Int) (w : BitVec 32) : Bool :=
  s != 0 && match r with
    | .index => true
    | .code => decide (8 ≤ bitsOf w.toNat (lo + 4) lo)
    | _ => false

/-! ## Capture (R236) -/

/-- Why a word may not enter a frame: it is not admissible (R237), it is otherwise no legal word, a stride may not be applied to it, or
it needs a privilege or a unit that is not there (R236). -/
def State.refuseWord (s : State) (c j : Nat) (w : BitVec 32) (sd sa sb : Int) : Option Cause :=
  if !admissible w then some .illegal
  else match rolesOfWord w with
  | none => some .illegal
  | some r =>
    let p := positions w
    if strideBad r.1 p.1 sd w || strideBad r.2.1 p.2.1 sa w || strideBad r.2.2 p.2.2 sb w then some .illegal
    else match plainWord w with
      | none => none
      | some i =>
        if (use i).priv && !s.privileged c j then some .priv
        else if !(s.coreAt c).hasUnit (use i).unit then some .feature
        else none

/-- The words of a frame, from an address on, each checked as it is fetched; or the cause and the address of the first that is
refused. -/
def State.captureFrom (c j : Nat) (sd sa sb : Int) : Nat → Word → State → State × Except (Cause × Word) (List (BitVec 32))
  | 0, _, s => (s, .ok [])
  | n + 1, a, s =>
    match s.fetchWord c j a with
    | (s, .error cause) => (s, .error (cause, a))
    | (s, .ok w) =>
      match s.refuseWord c j w sd sa sb with
      | some cause => (s, .error (cause, a))
      | none =>
        match State.captureFrom c j sd sa sb n (a + 4) s with
        | (s, .error f) => (s, .error f)
        | (s, .ok l) => (s, .ok (w :: l))

/-- `rpt`: the frame is captured at once and its words issue from the next turn on. -/
def execRpt (len : BitVec 4) (cnt : BitVec 6) (sd sa sb : BitVec 4) (t : BitVec 3) (s : State) : Out :=
  issue { use (.rpt len cnt sd sa sb t) with st := t } s fun s =>
    let p := s.me.pc
    match State.captureFrom s.core s.slot sd.toInt sa.toInt sb.toInt (len.toNat + 1) (p + 4) s with
    | (s, .error f) => .trap s f.1 f.2
    | (s, .ok ws) => .retire (s.onMe fun v => { v with frame := some {
        addr := p, words := ws, cnt := cnt.toNat + 1, sd := sd.toInt, sa := sa.toInt, sb := sb.toInt, pos := 0, rep := 0 } }) (some p)

/-- The word that a slot's frame issues next. -/
def State.frameWord (s : State) (c j : Nat) (f : Frame) : BitVec 32 :=
  rotateWord (f.words.getD f.pos 0) f.sd f.sa f.sb f.rep (s.dropsVb c j)

/-- A frame as a trap frame records it, with the words given (R386). -/
def Frame.recorded (p : Word) (rpts : Nat) (ws : List (BitVec 32)) : Frame :=
  let st (lo : Nat) : Int := sx 4 (rpts / 2 ^ lo)
  { addr := p, words := ws, cnt := bitsOf rpts 9 4 + 1, sd := st 10, sa := st 14, sb := st 18, pos := bitsOf rpts 25 22, rep := bitsOf rpts 31 26 }

/-- A recorded frame before its words are fetched: as long as it was. -/
def Frame.unread (p : Word) (rpts : Nat) : Frame := Frame.recorded p rpts (List.replicate (bitsOf rpts 3 0 + 1) 0)

/-- A recorded frame, resumed by `rte`: its words are fetched and checked again, and it goes on at its position (R238). -/
def State.resumeFrame (s : State) (c j : Nat) (p : Word) (rpts : Nat) : State × Except (Cause × Word) Frame :=
  let f := Frame.unread p rpts
  match State.captureFrom c j f.sd f.sa f.sb f.words.length (p + 4) s with
  | (s, .error e) => (s, .error e)
  | (s, .ok ws) => (s, .ok (Frame.recorded p rpts ws))

end Sys2Proof.Machine
end

