-- ==== Sys2Proof/Machine/TaskOps.lean ====
section
/-! DEFINITION. The checks of tile-task records and their enqueue, and the format shadow registers (R106, R110, R206 to R209, R347, R348,
R350). -/

namespace Sys2Proof.Machine

/-! ## The checks of a record (R207, R348) -/

/-- A waited barrier lies outside a cluster. -/
def waitOutside (w clu : Nat) : Bool := bitAt w 31 && clusterOf (bitsOf w 15 6) != clu

/-- Whether a record is malformed (R207, R348). -/
def malformed (bs : List Byte) : Bool :=
  let w0 := recWord bs 0x28
  let w1 := recWord bs 0x2C
  let sg := recWord bs 0x30
  let cmd := recCmd bs
  let rsvd := recWord bs 4 % 65536 != 0 || (List.range 4).any (fun n => 2 ^ 48 ≤ recOpd bs n) ||
    bitsOf w0 29 16 != 0 || bitsOf w1 29 16 != 0 || bitsOf sg 30 16 != 0 || 2 ^ 20 ≤ recWord bs 0x38 || fieldAt bs 0x3E 2 != 0
  rsvd || waitOutside w0 (recClu bs) || waitOutside w1 (recClu bs) ||
  match cmd.form with
  | none => true
  | some f =>
    3 < cmd.ra || 3 < cmd.rb || 3 < cmd.rc || (f.isMma && recKey bs = 0) ||
    (recAny bs && match f with
      | .mma _ true => true
      | .mma _ false => recOpd bs 1 = 0 || recOpd bs 2 = 0
      | .bld => false
      | _ => true)

/-- A format word whose pair R110 refuses; its rsvd bits are tested at execution (R109). -/
def pairRefused (fmt : BitVec 32) : Bool :=
  let a := bitsOf fmt.toNat 3 0
  let b := bitsOf fmt.toNat 7 4
  5 < a || 5 < b || isFloatFmt a != isFloatFmt b

/-- The status of an enqueue (R208). -/
def State.enqStatus (s : State) (bs : List Byte) (fmt : BitVec 32) : Nat :=
  let g := s.clusterAt (recClu bs)
  if malformed bs then 2
  else if (match (recCmd bs).form with | some f => f.isMma | none => false) && pairRefused fmt then 2
  else if g.ebud < recEnj bs ∨ g.ibud < recIpk bs then 1
  else if 1024 ≤ g.queue.length then 3
  else 0

/-- A wait that is not in use counts as found. -/
def unwaited (w : Nat) : Bool := !bitAt w 31

/-- A barrier found by a new task's waits as it stands, read under SEC-DED; one that cannot be read is not found (R406, R411;
notes/assumptions/109.md). -/
def State.noteNow (s : State) (t : Task) (w : Nat) : State × Task :=
  if unwaited w then (s, t)
  else
    let c := bitsOf w 15 6
    let b := bitsOf w 5 0
    match s.barLook { core := c, pid := t.pid, id := t.id } c b with
    | (s, none) => (s, t)
    | (s, some bar) => (s, t.note c b bar (BitVec.ofNat 64 (bar.ecause % 64 * 2 ^ 58 + bar.ecore % 1024 * 2 ^ 48 + bar.eaddr % 2 ^ 48)))

/-- A record with what its enqueue captures (R106, R208). -/
def State.taskOf (s : State) (bs : List Byte) : Task :=
  let v := s.me
  { num := 0, rec_ := bs, pid := v.pid, prv := s.privileged s.core s.slot, id := v.id, acct := v.acct, fpc := v.fpc,
    fmt := v.fmt, sca := v.sca, scb := v.scb, got0 := unwaited (recWord bs 0x28), got1 := unwaited (recWord bs 0x2C),
    bad := none, readyAt := none, resume := 0, home := none, audit := none, c0 := [], scales := [] }

/-- A record at its cluster: its status, and with status 0 its place in the queue (R208, R209). -/
def State.enqueue (s : State) (t : Task) : State × Nat :=
  let st := s.enqStatus t.rec_ t.fmt
  if st != 0 then (s, st)
  else
    let r := s.noteNow { t with num := s.orders } (recWord t.rec_ 0x28)
    let (s, t) := r.1.noteNow r.2 (recWord t.rec_ 0x2C)
    let s := s.onCluster (recClu t.rec_) fun g => { g with queue := g.queue ++ [t] }
    ({ s with orders := s.orders + 1 }.orderTasks (recClu t.rec_), 0)

/-- The oldest record on its way to a cluster is taken into it, and its status goes back (R347; notes/assumptions/125.md). -/
def State.takeRecord (s : State) (g : Nat) : State :=
  match s.mesh.zipIdx.findSome? fun p =>
      if p.1.stage == .toOwner then (p.1.rec_.filter fun t => recClu t.rec_ == g).map fun t => (p.2, p.1, t) else none with
  | none => s
  | some (k, m, t) =>
    let r := (s.countRecv m.dst m.lid).enqueue t
    r.1.putMsg k (m.answer 0 (BitVec.ofNat 64 r.2))

/-- `tt.enq`: the record is read, awaited, and enters its own cluster's queue at once, another's with the message that carries it
(R347). -/
def execTtEnq (a c : BitVec 5) (t : BitVec 3) (s : State) : Out :=
  issue { use (.ttEnq a c t) with srcs := [(a, 0)], dsts := [c], st := t } s fun s =>
    let ea := s.src a
    if ea.toNat % 64 != 0 then .trap s .align ea
    else tableRead s ea 64 fun s bs =>
      let t := s.taskOf bs
      if recClu bs = clusterOf s.core then
        let r := s.enqueue t
        .retire (r.1.dst c (BitVec.ofNat 48 r.2) 0 1) none
      else .retire (s.sendAwait { s.blank s.core s.slot with
                      dst := (clusterCores (recClu bs)).headD 0, stage := .toOwner, va := ea, rec_ := some t } (.result c false)) none

/-- `fmtw` (R350). -/
def execFmtw (a b c : BitVec 5) (t : BitVec 3) (s : State) : Out :=
  issue { use (.fmtw a b c t) with srcs := [(a, 0), (b, 0), (c, 0)], st := t } s fun s =>
    .retire (s.onMe fun v => { v with fmt := (s.src a).setWidth 32, sca := s.src b, scb := s.src c }) none

end Sys2Proof.Machine
end

