-- ==== Sys2Proof/Machine/Tasks.lean ====
section
/-! DEFINITION. The cluster scheduler and its tile tasks: admission, execution on an engine, completion or failure, and the replay
auditor (R99, R201, R206 to R214, R334, R348, R397, R412 to R414). -/

namespace Sys2Proof.Machine

/-! ## Engines and items (R210 to R213) -/

/-- Whether an engine is free (R213): a direct `tld` in progress uses it too; a frozen one starts nothing (R334). -/
def State.engineFree (s : State) (c : Nat) : Bool :=
  let k := s.coreAt c
  !k.vacated && !k.killed && bitAt k.feat.toNat 2 && k.engine.queue.isEmpty && !k.engine.frozen &&
    !((s.clusterAt (clusterOf c)).running.any fun (r : Running) => r.core == c) &&
    !k.slots.any fun e => match e.2.run with | some (.tld _ _ _) => true | _ => false

/-- The engines that may run a task: the one whose tile holds its partial C, its own core's, or any of the cluster. -/
def Task.engines (t : Task) (g : Nat) : List Nat :=
  match t.home with
  | some c => [c]
  | none => if t.audit.isSome || recAny t.rec_ then clusterCores g else [recCore t.rec_]

/-- The engine a task is given: one whose resident B carries its key first, then the lowest core id. -/
def State.engineFor (s : State) (g : Nat) (t : Task) : Option Nat :=
  let free := (t.engines g).filter s.engineFree
  match free.find? fun c => recKey t.rec_ != 0 && (s.coreAt c).engine.bkey.toNat == recKey t.rec_ with
  | some c => some c
  | none => free.head?

/-- What admission considers: a ready task or a pending leave request. -/
inductive Item where
  | task (t : Task)
  | leave (r : LeaveReq)
deriving DecidableEq, Repr

/-- Priority. -/
def Item.prio : Item → Nat
  | .task t => if t.audit.isSome then 0 else recPrio t.rec_
  | .leave r => r.prio
/-- Place in the order of readiness. -/
def Item.order : Item → Nat
  | .task t => t.readyAt.getD 0
  | .leave r => r.order
/-- Declared energy. -/
def Item.energy : Item → Nat
  | .task t => recEnj t.rec_
  | .leave r => r.energy
/-- Declared current. -/
def Item.current : Item → Nat
  | .task t => recIpk t.rec_
  | .leave r => r.current

/-- Its name in a reservation. -/
def Item.name : Item → Bool × Nat
  | .task t => (true, t.num)
  | .leave r => (false, r.order)

/-- Whether every core that may run a task has been killed. -/
def State.doomedTask (s : State) (g : Nat) (t : Task) : Bool := (t.engines g).all fun c => (s.coreAt c).killed

/-- The ready tasks and pending leave requests of a cluster. -/
def State.items (s : State) (g : Nat) : List Item :=
  let c := s.clusterAt g
  ((c.queue.filter fun (t : Task) => t.readyAt.isSome && !s.doomedTask g t).map Item.task) ++
    (c.leaves.filter s.standing).map Item.leave

/-- The conditions of R210, with amounts set aside. -/
def State.fits (s : State) (g : Nat) (i : Item) (energy current : Nat) : Bool :=
  let c := s.clusterAt g
  c.charge + i.energy + energy ≤ c.budget && s.loadOf g + i.current + current ≤ c.ibud &&
    match i with
    | .task t => (s.engineFor g t).isSome
    | .leave _ => true

/-- The oldest of several items. -/
def oldest (l : List Item) : Option Item := leastBy Item.order l

/-- The item that holds the reservation: the one that held it while it waits, else the oldest that fails (R211). -/
def State.reserved (s : State) (g : Nat) : Option Item :=
  let l := s.items g
  match (s.clusterAt g).reserve.bind fun n => l.find? fun i => i.name == n with
  | some i => some i
  | none => oldest (l.filter fun i => !s.fits g i 0 0)

/-- The item to admit: the reserved one once it fits, else the first, by priority and then by age, that fits beside the reserved
amounts (R210, R211). -/
def State.chosen (s : State) (g : Nat) : Option Item :=
  let l := s.items g
  let r := s.reserved g
  let c := s.clusterAt g
  if c.noAdmit || c.switching || c.power != .up then none
  else match r.filter fun i => s.fits g i 0 0 with
    | some i => some i
    | none =>
      let e := match r with | some i => i.energy | none => 0
      let a := match r with | some i => i.current | none => 0
      leastBy (fun i => (31 - i.prio) * 2 ^ 64 + i.order) (l.filter fun i => s.fits g i e a)

/-! ## The loads of an MMA task (R189, R213, R348) -/

/-- The bytes of a C image: the tile, then its sideband (R189). -/
def Tile.image (t : Tile) : List Byte := t.rows.flatMap rowBytes ++ sideBytes t.side

/-- A tile installed from a C image (R189). -/
def Tile.install (bs : List Byte) (pid : BitVec 16) (ty : BitVec 3) : Tile :=
  { Tile.reset with rows := (List.range 32).map fun i => rowOfBytes ((bs.drop (128 * i)).take 128), side := sideOf (bs.drop 4096),
                    ty := ty, writer := pid }

/-- A tile of an engine is held by some strand. -/
def Core.heldTile (k : Core) (t : Nat) : Bool := k.bound.any fun (b : StrandId × Binding) => b.2.lo == t || b.2.hi == t

/-- A buffer's rows loaded from A's rows of 256 bytes. -/
def State.loadA (s : State) (c : Nat) (x : Ctx) (a : Word) (buf m : Nat) : State × Option (Cause × Word) :=
  match s.readSpan x a (256 * m) with
  | (s, .error f) => (s, some f)
  | (s, .ok bs) =>
    let s := (s.loseProv c).chargeGranules c x.acct (256 * m)
    (s.onCore c fun k => { k with engine := upTo (4 * m) (fun e j => e.putBeat buf (64 * j) ((bs.drop (64 * j)).take 64)) k.engine },
     none)

/-- Sequences two parts of a task: the second runs unless the first failed. -/
def andThen (r : State × Option (Cause × Word)) (f : State → State × Option (Cause × Word)) : State × Option (Cause × Word) :=
  match r with
  | (s, some e) => (s, some e)
  | (s, none) => f s

/-- The load of B that an MMA task makes on an engine whose key differs, from any readable address (R213, R338, R348). -/
def State.taskB (s : State) (c : Nat) (t : Task) (o : MmaOp) : State × Option (Cause × Word) :=
  let k := 32 * (o.kb0 + o.b)
  if (s.coreAt c).engine.bkey.toNat = recKey t.rec_ then (s, none)
  else if k = 0 ∨ 1024 < k then (s, some (.prot, t.opd 3))
  else if (t.opd 3).toNat % 64 != 0 then (s, some (.align, t.opd 3))
  else { s with free := s.free + 16 }.bring (t.ctx c) o.bfmt k (BitVec.ofNat 32 (recKey t.rec_)) o.lut t.scb (t.opd 3) (freeModuli s.free)

/-- What an MMA task meets at the tiles it names before any effect: a strand that holds one, then ERR, but for a tile that its C image
replaces (R193, R328). -/
def State.taskTiles (s : State) (c : Nat) (t : Task) (o : MmaOp) : Option (Cause × Word) :=
  match o.tiles.find? (s.coreAt c).heldTile with
  | some n => some (.refused, BitVec.ofNat 48 n)
  | none => ((o.tiles.filter fun n => n != o.td || o.zero || t.opd 2 == 0).find? fun n =>
      (s.tileAt c n).err && (s.tileAt c n).writer == t.pid).map fun n => (.cksum, tileEva n)

/-- What an MMA task does before it computes: the code-table tags, its tiles, B by its key, A, C from its image, the checks of R340 and
the input check (R99, R192, R193, R213, R348). The image of C at its start is kept for an audit (R413). -/
def State.startMma (s : State) (c : Nat) (t : Task) (zero fromTile : Bool) : State × Option (Cause × Word) :=
  let x := t.ctx c
  let table := (s.coreAt c).seen s.now
  let o := t.op s.now zero fromTile table.lut
  let reload := (s.coreAt c).engine.bkey.toNat != recKey t.rec_
  let tag := if o.afmt = 5 || (reload && o.bfmt = 5) then table.tagCheck (ctagOf t.fmt) t.pid else none
  match tag, (if t.resume = 0 then s.taskTiles c t o else none) with
  | some eva, _ => (s, some (.luttag, eva))
  | none, some f => (s, some f)
  | none, none =>
    let r := s.taskB c t o
    let r := andThen r fun s => if t.opd 1 = 0 then (s, none) else s.loadA c x (t.opd 1) o.abuf o.m
    let r := andThen r fun s => if t.resume != 0 || t.opd 2 = 0 then (s, none)
      else
        let ty : BitVec 3 := if o.flt then 0 else 1
        if zero then (s.putTile c o.td { s.tileAt c o.td with ty := ty }, none)
        else match (s.chargeGranules c x.acct 4608).readSpan x (t.opd 2) 4608 with
          | (s, .error f) => (s, some f)
          | (s, .ok bs) => (s.putTile c o.td (Tile.install bs t.pid ty), none)
    andThen r fun s =>
      if !o.legal (s.coreAt c).engine (s.tileAt c o.td).ty.toNat (s.tileAt c o.atile).ty.toNat then
        (s, some (.illegal, BitVec.ofNat 48 (recWord t.rec_ 0)))
      else
        let r := if t.resume = 0 then s.beginOp c { o with resumed := false } else (s, none)
        andThen r fun s =>
          let c0 := if t.resume = 0 then (s.tileAt c o.td).image else t.c0
          let s := s.onCluster (clusterOf c) fun g => { g with running := g.running.map fun (r : Running) =>
            if r.task.num = t.num then { r with task := { r.task with c0 := c0 } } else r }
          (s.onCore c fun k => { k with engine := k.engine.push o }, none)

/-- The result of a form, stored at the address its rc code names (R207). -/
def State.storeResult (s : State) (x : Ctx) (a : Word) (v : Nat) : State × Option (Cause × Word) :=
  if a = 0 then (s, none) else if a.toNat % 8 != 0 then (s, some (.align, a))
  else (s.chargeGranules x.core x.acct 8).writeSpan x a (leBytes 8 v)

/-- A checked tile or region of a task, with its result stored. -/
def State.verified (s : State) (x : Ctx) (r : Checked) (before : Tile) (dst eva : Word) : State × Option (Cause × Word) :=
  if r.ok then s.storeResult x dst (r.code before) else (s, some (.cksum, eva))

/-- The tile of a task's tile form: REFUSED while a strand holds it, CKSUM for ERR, then R85. -/
def State.taskTile (s : State) (c : Nat) (t : Task) (td : Nat) (exempt : Bool) : Except (Cause × Word) Tile :=
  let k := s.tileAt c td
  if (s.coreAt c).heldTile td then .error (.refused, BitVec.ofNat 48 td)
  else if !exempt && k.err && k.writer == t.pid then .error (.cksum, tileEva td)
  else .ok (k.claimed t.pid)

/-- Changes a task in execution. -/
def State.onRunning (s : State) (g : Nat) (num : Nat) (f : Running → Running) : State :=
  s.onCluster g fun k => { k with running := k.running.map fun (r : Running) => if r.task.num = num then f r else r }

/-- What `tld` checks before it begins, as a task does on its engine's core. -/
def State.tldRefused (s : State) (c : Nat) (t : Task) (m : Cmd) : State × Option (Cause × Word) :=
  let a := t.opd m.ra
  let n := (t.opd m.rb).toNat
  let o := (t.opd m.rc).toNat
  if a.toNat % 64 != 0 || n % 64 != 0 || o % 64 != 0 then (s, some (.align, a))
  else if n = 0 || 8192 < o + n || 4 < (a.toNat + n + 2047) / 2048 - a.toNat / 2048 then (s, some (.prot, a))
  else match s.rangeCheck (t.ctx c).who c a.toNat n with
    | (s, some cause) => (s, some (cause, a))
    | (s, none) => (s, none)

/-- The next eight beats of a task's `tld` from beat `j` on: nothing while more follow, else how it ends. -/
def State.taskBeats (s : State) (c : Nat) (t : Task) (m : Cmd) (j : Nat) : State × Option (Option (Cause × Word)) :=
  let a := (t.opd m.ra).toNat
  let n := (t.opd m.rb).toNat
  if (s.coreAt c).engine.badA then (s.parityError c 5 (t.ctx c).who, some (some (.eccue, t.opd m.ra)))
  else match State.beats (t.ctx c).who c m.td a (t.opd m.rc).toNat n 8 (s.loseProv c) j with
    | (s, i, some bad) => (s.chargeGranules c t.acct (64 * (i - j)), some (some (.eccue, BitVec.ofNat 48 bad)))
    | (s, i, none) =>
      let s := s.chargeGranules c t.acct (64 * (i - j))
      if n / 64 ≤ i then (s, some none)
      else (s.onRunning (clusterOf c) t.num fun r =>
        { r with tag := none, tld := some { beats := i, next := a + 64 * i, from_ := s.now + 8, stopped := false } }, none)

/-- `tld` as a task: eight beats in eight cycles, as a slot's are, with a tag of the vault agent. The DRAM throttle stops it at its next
beat, which is its failure with TLDTHERM (R136, R139, R140, R142, R213; notes/assumptions/147.md). -/
def State.stepTld (s : State) (r : Running) (m : Cmd) : State × Option (Option (Cause × Word)) :=
  let c := r.core
  let t := r.task
  match r.tld with
  | some q =>
    if q.stopped then (s.onCore c fun k => { k with vevt := bump k.vevt 16 8 1 }, some (some (.tldtherm, t.opd m.ra)))
    else if s.now < q.from_ then (s, none)
    else s.taskBeats c t m q.beats
  | none => match s.tldRefused c t m with
    | (s, some f) => (s, some (some f))
    | (s, none) =>
      if s.tagFree c r.tag then s.taskBeats c t m 0
      else if r.tag.isSome then (s, none)
      else ({ s.onRunning (clusterOf c) t.num fun r => { r with tag := some s.orders } with orders := s.orders + 1 }, none)

/-- The issue of a `bld` task to its engine: the checks of R338, the comparison of code-table tags, and the table it captures (R99). -/
def State.issueBld (s : State) (c : Nat) (t : Task) (m : Cmd) : Except (Cause × Word) (List (BitVec 8)) :=
  let a := t.opd m.ra
  let f := bitsOf t.fmt.toNat 7 4
  let table := (s.coreAt c).seen s.now
  if !fmtOk t.fmt || 5 < f then .error (.illegal, BitVec.ofNat 48 (recWord t.rec_ 0))
  else match bldRefused c (t.opd m.rb).toNat a with
    | some cause => .error (cause, a)
    | none => match (if f = 5 then table.tagCheck (ctagOf t.fmt) t.pid else none) with
      | some eva => .error (.luttag, eva)
      | none => .ok table.lut

/-- `bld` as a task, with the code table it captured. -/
def State.taskBld (s : State) (c : Nat) (t : Task) (m : Cmd) (lut : List (BitVec 8)) : State × Option (Cause × Word) :=
  let k := (t.opd m.rb).toNat
  let key := (t.opd m.rc).setWidth 32
  let f := bitsOf t.fmt.toNat 7 4
  if (s.coreAt c).engine.hasB f k key then (s, none)
  else { s with free := s.free + 16 }.bring (t.ctx c) f k key lut t.scb (t.opd m.ra) (freeModuli s.free)

/-- A task form other than an MMA form and `tld`, performed, with the code table that a `bld` captured. -/
def State.taskForm (s : State) (c : Nat) (t : Task) (m : Cmd) (f : TaskForm) (lut : List (BitVec 8)) : State × Option (Cause × Word) :=
  let x := t.ctx c
  let illegal : Cause × Word := (.illegal, BitVec.ofNat 48 (recWord t.rec_ 0))
  let onTile (exempt : Bool) (g : Tile → State × Option (Cause × Word)) := match s.taskTile c t m.td exempt with
    | .error e => (s, some e)
    | .ok k => g k
  let onRegion (g : Region → State × Option (Cause × Word)) := match s.regionAt x (t.opd m.ra) with
    | .error e => (s, some (e, t.opd m.ra))
    | .ok r => g r
  match f with
  | .tzero => onTile true fun k => (s.putTile c m.td (k.zeroed t.pid), none)
  | .tfill => onTile true fun _ => onRegion fun r => match s.loadRegion c r x.who with
    | (s, none) => (s, some (.eccue, t.opd m.ra))
    | (s, some k) => (s.putTile c m.td { k with writer := t.pid, prov := false }, none)
  | .tdrain => onTile true fun k => onRegion fun r => ((s.putTile c m.td k).drainTile c r.num k, none)
  | .bld => s.taskBld c t m lut
  | .tld | .mma .. => (s, none)
  | .ckVer => onTile false fun k =>
    if k.ty = 5 then (s, some illegal)
    else
      let r := k.check none (s.recompute c m.td)
      ((s.putTile c m.td r.tile).noteCheck c r false m.td x.who).verified x r k (t.opd m.rc) (tileEva m.td)
  | .ckFix => onTile true fun k => if k.ty = 5 then (s, some illegal) else (s.putTile c m.td (k.fixed none), none)
  | .ckVerg => onRegion fun g =>
    if g.ty = 5 then (s, some illegal)
    else if g.err then (s, some (.cksum, regionEva (t.opd m.ra)))
    else match s.loadRegion c g x.who with
      | (s, none) => (s, some (.eccue, t.opd m.ra))
      | (s, some k) =>
        let r := k.check none fun _ _ => none
        ((s.putRegionTile c g.num r.tile).noteCheck c r true g.num x.who).verified x r k (t.opd m.rc) (regionEva (t.opd m.ra))
  | .ckFixg => onRegion fun g =>
    if g.ty = 5 then (s, some illegal)
    else match s.loadRegion c g x.who with
      | (s, none) => (s, some (.eccue, t.opd m.ra))
      | (s, some k) => (s.onCore c fun h => h.putRegion g.num (k.fixed none), none)

/-! ## The end of a task (R213) -/

/-- SIG: a success makes an arrival; a failure applies R152 and then makes its arrival, from the core whose engine ran the task. Without
SIG a failure is only logged. -/
def State.signalTask (s : State) (c : Nat) (t : Task) (fail : Option (Cause × Word)) : State :=
  let sg := recWord t.rec_ 0x30
  let send (s : State) (op : BarOp) : State := s.barSend c t.id.lid (bitsOf sg 15 6) (bitsOf sg 5 0) op
  match t.bad, fail with
  | none, none => if bitAt sg 31 then send s .arrive else s
  | some w, _ =>
    if bitAt sg 31 then send (send s (.fail (bitsOf w.toNat 63 58) (bitsOf w.toNat 57 48) (bitsOf w.toNat 47 0) 0)) .arrive
    else s.logError c 4 1 (bitsOf w.toNat 63 58) (bitsOf w.toNat 43 0) 0 (t.ctx c).who false
  | none, some f =>
    if bitAt sg 31 then send (send s (.fail f.1.code c f.2.toNat 0)) .arrive
    else s.logError c 4 1 f.1.code f.2.toNat 0 (t.ctx c).who false

/-- A task leaves its engine. -/
def State.dropTask (s : State) (g c : Nat) (t : Task) : State :=
  let s := s.onCluster g fun k => { k with running := k.running.filter fun (r : Running) => r.task.num != t.num }
  s.onCore c fun k => { k with engine := { k.engine with queue := k.engine.queue.filter fun (o : MmaOp) => o.task != some t.num } }

/-- A task ends. -/
def State.endTask (s : State) (g c : Nat) (t : Task) (fail : Option (Cause × Word)) : State :=
  (s.dropTask g c t).signalTask c t fail

/-! ## The replay auditor (R412 to R414) -/

/-- The cluster's audit slot in AUDB's buffer. -/
def State.auditSlot (s : State) (g : Nat) : Nat := bitsOf s.audb.toNat 43 23 * 2 ^ 23 + g * 2 ^ 17

/-- AUDC.K. -/
def State.auditK (s : State) : Nat := s.audc.toNat % 32

/-- The first 256 bytes of a slot: the record and the captured values; the code table follows them. -/
def Task.auditHead (t : Task) (lut : List (BitVec 8)) : List Byte :=
  padTo 256 (t.rec_ ++ leBytes 4 t.fpc.toNat ++ leBytes 4 t.fmt.toNat ++ leBytes 8 t.sca.toNat ++ leBytes 8 t.scb.toNat ++
    leBytes 2 t.pid.toNat ++ leBytes 2 t.acct.toNat ++ leBytes 4 0 ++ lut)

/-- Writes bytes to the audit slot. -/
def State.auditWrite (s : State) (g c o : Nat) (bs : List Byte) : State := (s.vaultWrite (Who.none c) (s.auditSlot g + o) bs).1

/-- The columns of B as they were read, cut to the elements that the macros hold and laid out for the blocks an operation uses. -/
def Engine.bytesOfB (e : Engine) (o : MmaOp) : List Byte :=
  let fmt := e.bfmt.toNat
  e.braw.flatMap fun p => leBytes (strideOf fmt (32 * (o.kb0 + o.b))) (p.1 % 2 ^ (e.bk * elemBits fmt))

/-- What a chosen task's engine has read: the record and its captured values, C at the start, the rows of A, B, and the scale words of A
row by row and of B column by column (R413). -/
def State.auditBefore (s : State) (g c : Nat) (t : Task) (o : MmaOp) : State :=
  let e := (s.coreAt c).engine
  let a := (if o.abuf = 0 then e.abuf0 else e.abuf1).flatMap fun r => leBytes 256 r.toNat
  let rows := if o.fromTile then padTo 8192 ((s.tileAt c o.atile).rows.flatMap fun r => padTo 256 (rowBytes r)) else a
  let sa := if !o.scaled then [] else (List.range o.m).flatMap fun i => o.scales.flatMap fun l => leBytes 4 (l.getD i 0)
  let sb := e.braw.flatMap fun p => (p.2.take (o.kb0 + o.b)).flatMap (leBytes 4)
  let s := s.auditWrite g c 0 (t.auditHead o.lut)
  let s := s.auditWrite g c 0x100 t.c0
  let s := s.auditWrite g c 0x2000 rows
  let s := s.auditWrite g c 0x4000 (e.bytesOfB o)
  s.auditWrite g c 0x14000 (sa ++ sb)

/-- What it writes once the task has its result: the image and its signature. -/
def State.auditAfter (s : State) (g c : Nat) (t : Tile) : State :=
  s.auditWrite g c 0x19200 (t.image ++ leBytes 4 t.signature)

/-- Whether the next finished MMA task of a cluster is chosen. -/
def State.auditDue (s : State) (g : Nat) : Bool :=
  bitAt s.audc.toNat 5 && ((s.clusterAt g).finished + 1) % 2 ^ s.auditK == 0

/-- The first cluster from (g + 32) mod 64 on whose queue accepts the replay of a task: its budgets allow it, it has room, and a core that
is not killed (R208, R413). -/
def State.auditHost (s : State) (g : Nat) (t : Task) : Option Nat :=
  ((List.range 64).map fun i => (g + 32 + i) % 64).find? fun h =>
    let k := s.clusterAt h
    recEnj t.rec_ ≤ k.ebud && recIpk t.rec_ ≤ k.ibud && k.queue.length < 1024 && (clusterCores h).any fun c => !(s.coreAt c).killed

/-- The replay of a chosen task of core `c` is queued in another cluster, ready at once (R413; notes/assumptions/124.md). -/
def State.queueReplay (s : State) (g c : Nat) (t : Task) : State :=
  match s.auditHost g t with
  | none => s
  | some h =>
    let r := { t with num := s.orders, got0 := true, got1 := true, bad := none, readyAt := some s.orders, resume := 0, home := none,
                      audit := some g }
    let s := s.onCluster h fun k => { k with queue := k.queue ++ [r] }
    let s := s.onCluster g fun k => { k with audit := some (c, h) }
    { s with orders := s.orders + 1 }.wakeRequest h

/-- The replayed tile: the product of a slot's A rows and B on its first C, as the captured record says, from the bytes of the slot
(R413). -/
def replayTile (mem : List Byte) : Tile :=
  let rd (o n : Nat) := (mem.drop o).take n
  let t : Task := { num := 0, rec_ := rd 0 64, pid := 0, prv := true, id := { lid := 0, sid := 0 }, acct := 0, fpc := BitVec.ofNat 32 (fieldAt (rd 64 4) 0 4),
                    fmt := BitVec.ofNat 32 (fieldAt (rd 68 4) 0 4), sca := 0, scb := 0, got0 := true, got1 := true, bad := none,
                    readyAt := none, resume := 0, home := none, audit := none, c0 := [], scales := [] }
  let fromTile := (recCmd t.rec_).fn == 2
  let o := t.op 0 ((recCmd t.rec_).fn == 1) fromTile (rd 96 16)
  let kb := o.kb0 + o.b
  let scale (at_ i n j : Nat) : Nat := fieldAt (rd (at_ + 4 * (i * n + j)) 4) 0 4
  let arows := (List.range o.m).map fun i =>
    blocksOf o.afmt o.wA o.k o.lut ((List.range o.b).map (scale 0x14000 i o.b)) (leNat (rd (0x2000 + 256 * i) 256))
  let atB := 0x14000 + if o.scaled then 4 * o.m * o.b else 0
  let st := strideOf o.bfmt (32 * kb)
  let cols := (List.range 32).map fun i =>
    (blocksOf o.bfmt 20 (32 * kb) o.lut ((List.range kb).map (scale atB i kb)) (leNat (rd (0x4000 + st * i) st))).drop
      o.kb0
  let c0 := Tile.install (rd 0x100 4608) 0 (if o.flt then 0 else 1)
  (multiply o.flt o.mode o.wA 0 o.b arows cols c0).reform none

/-- A mismatch found by the auditor: AUDIT waits for a strand of the core that acts as the cluster's supervisor (R414, R415). -/
def State.auditMismatch (s : State) (g c : Nat) : State :=
  let s := { s with audc := bump s.audc 32 16 1 }
  let s := s.logError c 4 2 Cause.audit.code (s.auditSlot g) 0 (Who.none c) false
  let s := s.onCluster g fun k => { k with raised := some (BitVec.ofNat 48 (s.auditSlot g)) }
  if bitAt s.audc.toNat 6 then s.callKill c 4 Cause.audit.code else s

/-- AUDIT_REPLAY: the replay for a cluster's slot completes and signatures are compared; a match frees the slot at once. A granule of
the slot that cannot be read ends the audit as a mismatch (R411; notes/assumptions/124.md). -/
def State.finishReplay (s : State) (g : Nat) : State :=
  match (s.clusterAt g).audit with
  | none => s
  | some (c, h) =>
    match (s.clusterAt h).running.find? fun (r : Running) => r.task.audit == some g with
    | none => s
    | some r =>
      let q := s.vaultRead (r.task.ctx r.core).who (s.auditSlot g) 0x20000
      let t := replayTile q.2.2
      let s := q.1.auditWrite g r.core 0x18000 t.image
      let s := s.dropTask h r.core r.task
      if q.2.1 = 0 && t.signature = fieldAt q.2.2 0x1A400 4 then s.onCluster g fun k => { k with audit := none } else s.auditMismatch g c

/-! ## Completion (R213, R348) -/

/-- The end of an MMA task's product: C written back as an image, and the audit of a chosen task. -/
def State.finishMma (s : State) (g c : Nat) (t : Task) (o : MmaOp) : State :=
  let due := s.auditDue g
  let free := (s.clusterAt g).audit.isNone
  let p := s.product c o true
  let r := andThen (p.1, p.2.2) fun s =>
    if t.opd 2 = 0 then (s, none) else (s.chargeGranules c t.acct 4608).writeSpan (t.ctx c) (t.opd 2) (s.tileAt c o.td).image
  match r with
  | (s, some f) => s.endTask g c t (some f)
  | (s, none) =>
    let s := s.onCluster g fun k => { k with finished := k.finished + 1 }
    let s := if !due then s
      else if free then ((s.auditBefore g c t p.2.1).auditAfter g c (s.tileAt c o.td)).queueReplay g c t
      else { s with audc := bump s.audc 48 16 1 }
    s.endTask g c t none

/-- An admitted task issues to its engine: a waited barrier's error, or a failure before it computes, ends it at once; an MMA task loads
and enters the engine's queue, and a `bld` captures the code table (R99, R209, R213; notes/assumptions/156.md). -/
def State.issueTask (s : State) (g c : Nat) (t : Task) : State :=
  let m := recCmd t.rec_
  if t.bad.isSome then s.endTask g c t none
  else match m.form with
    | some (.mma z fromTile) => match s.startMma c t z fromTile with
      | (s, some f) => s.endTask g c t (some f)
      | (s, none) => s
    | some .bld => match s.issueBld c t m with
      | .error f => s.endTask g c t (some f)
      | .ok lut => s.onRunning g t.num fun r => { r with lut := lut }
    | _ => s

/-- Whether a task's events must still wait for posted stores that its strand made before its `tt.enq`, to a word they reach or to its
barrier (R163, R214; notes/assumptions/120.md). -/
def State.taskBehind (s : State) (c : Nat) (t : Task) : Bool :=
  let sg := recWord t.rec_ 0x30
  s.rangesBehind (t.ctx c) t.ranges || (bitAt sg 31 && s.barBehind t.id (bitsOf sg 15 6) (bitsOf sg 5 0))

/-- A task whose events may begin issues to its engine. -/
def State.beginTask (s : State) (g c : Nat) (t : Task) : State :=
  if s.taskBehind c t then s else (s.onRunning g t.num fun r => { r with begun := true }).issueTask g c t

/-- TILE_TASK_COMPLETION: the task on an engine begins if it has not, performs its next beats if it is a `tld`, or performs its last write
and arrives on SIG, or fails. -/
def State.completeTask (s : State) (c : Nat) : State :=
  let g := clusterOf c
  match (s.clusterAt g).running.find? fun (r : Running) => r.core == c && r.task.audit.isNone with
  | none => s
  | some r =>
    let t := r.task
    if (s.coreAt c).killed then s.endTask g c t (some (.refused, 0))
    else if !r.begun then s.beginTask g c t
    else match (recCmd t.rec_).form with
      | none => s.endTask g c t (some (.illegal, BitVec.ofNat 48 (recWord t.rec_ 0)))
      | some (.mma ..) =>
        match (s.coreAt c).runningOp with
        | none => s
        | some o => if s.now < o.started + o.cycles then s else s.finishMma g c t o
      | some .tld => match s.stepTld r (recCmd t.rec_) with
        | (s, none) => s
        | (s, some f) => s.endTask g c t f
      | some f => let q := s.taskForm c t (recCmd t.rec_) f r.lut; q.1.endTask g c t q.2

/-! ## ADMISSION -/

/-- An admitted task is given to its engine, and issues there as soon as its events may begin. -/
def State.startTask (s : State) (g : Nat) (t : Task) : State :=
  match s.engineFor g t with
  | none => s
  | some c =>
    let s := s.onCluster g fun k => { k with
      charge := k.charge + recEnj t.rec_, queue := k.queue.filter fun (q : Task) => q.num != t.num,
      claimPrio := max k.claimPrio (Item.task t).prio, active := true, activeRefill := true,
      running := k.running ++ [{ task := t, core := c, ipk := recIpk t.rec_, begun := false, lut := [], tld := none, tag := none }] }
    let s := s.due g t.acct (2 * recEnj t.rec_)
    if t.audit.isSome then s else s.beginTask g c t

/-- A queued task of which every allowed core is killed fails with REFUSED (R213, R417). -/
def State.failDoomed (s : State) (g : Nat) : State :=
  match (s.clusterAt g).queue.find? fun (t : Task) => s.doomedTask g t with
  | none => s
  | some t =>
    let s := s.onCluster g fun k => { k with queue := k.queue.filter fun (q : Task) => q.num != t.num }
    match t.audit.bind fun h => (s.clusterAt h).audit.map fun a => (h, a.1) with
    | some (h, c) => (s.onCluster h fun k => { k with audit := none }).queueReplay h c t
    | none => s.signalTask ((t.engines g).headD 0) t (some (.refused, 0))

/-- ADMISSION: a record that has come is taken, then one step of a cluster's scheduler (R210, R211, R347). -/
def State.admitNext (s : State) (g : Nat) : State :=
  let s := s.takeRecord g
  if (s.clusterAt g).queue.any (s.doomedTask g) then s.failDoomed g
  else
    let hold := (s.reserved g).map Item.name
    match s.chosen g with
    | none => s.onCluster g fun k => { k with reserve := hold }
    | some i =>
      let s := s.onCluster g fun k => { k with reserve := if hold = some i.name then none else hold }
      match i with
      | .task t => s.startTask g t
      | .leave r => s.grantLeave g r

/-! ## Freezing an engine (R334, R397) -/

/-- Whether a freeze must first let the running operation finish: it is no task's, and its strand is not in handler state. -/
def State.mustFinish (s : State) (c : Nat) : Bool :=
  match (s.coreAt c).runningOp with
  | none => false
  | some o => o.task.isNone && !((s.slotAt c o.slot).handler && (s.slotAt c o.slot).strand.any fun b => b.id == o.id)

/-- The K-blocks an operation will have completed at its next block boundary. -/
def State.blocksBy (s : State) (o : MmaOp) : Nat := min o.b (o.blocks + (s.now - o.started) / o.blockCycles + 1)

/-- An operation that a freeze finds failing ends: a task's as its task does, with SIG, a direct one with its entry and barrier. -/
def State.failOp (s : State) (c : Nat) (o : MmaOp) (f : Cause × Word) : State :=
  let g := clusterOf c
  match o.task.bind fun num => (s.clusterAt g).running.find? fun (r : Running) => r.task.num == num with
  | some r => s.endTask g c r.task (some f)
  | none => s.closeOp c o (some f)

/-- The running operation stops at a block boundary. A part of a cooperative product that only waits for partials has nothing to
stop. -/
def State.stopOp (s : State) (c : Nat) : State :=
  match (s.coreAt c).runningOp with
  | none => s
  | some o =>
    if o.sent then s
    else match s.beginOp c o with
      | (s, some f) => s.failOp c o f
      | (s, none) =>
        match s.runOp c o (s.blocksBy o) with
        | (s, o, t, n, some f) => ((s.loseProv c).putTile c o.td t).failOp c { o with blocks := n } f
        | (s, o, t, n, none) =>
          let p := { o with blocks := n, resumed := true }
          let s := (s.loseProv c).putTile c o.td t
          let s := match o.task, o.entry with
            | some num, _ => s.onCluster (clusterOf c) fun g =>
                match g.running.find? fun (r : Running) => r.task.num == num with
                | none => g
                | some r => { g with running := g.running.filter fun (q : Running) => q.task.num != num,
                                     queue := { r.task with resume := n, home := some c, readyAt := some 0, scales := o.scales } :: g.queue }
            | none, some e => s.onSlot c o.slot fun v => v.onEntry e fun (x : SbEntry) =>
                { x with stop := true, state := 3, aux := n, part := true, work := .matrix p }
            | none, none => s
          s.popOp c

/-- A task that uses no engine queue stops before any effect and goes back to the head of its priority list. -/
def State.stopTask (s : State) (c : Nat) : State :=
  if !s.plainTask c then s
  else s.onCluster (clusterOf c) fun g =>
    let here := g.running.filter fun (r : Running) => r.core == c
    { g with running := g.running.filter fun (r : Running) => r.core != c,
             queue := here.map (fun (r : Running) => { r.task with readyAt := some 0 }) ++ g.queue }

/-- The running operation or task stops, nothing more starts, and B is no longer resident. -/
def State.freezeEngine (s : State) (c : Nat) : State :=
  (((s.stopTask c).stopOp c).dropB c).onCore c fun k => { k with engine := { k.engine with frozen := true } }

/-- A thawed engine starts its queue. -/
def State.thawEngine (s : State) (c : Nat) : State :=
  s.onCore c fun k =>
    if !k.engine.frozen then k else
      let q := match k.engine.queue with
        | o :: r => { o with started := s.now } :: r
        | [] => []
      { k with engine := { k.engine with frozen := false, queue := q } }

end Sys2Proof.Machine
end

