-- ==== Sys2Proof/Machine/System.lean ====
section
/-! DEFINITION. System instructions: `trap`, `brk`, control registers, the register stack, `halt`, `idle`, `freeze`, `thaw`, `kill`
and `stinv` (R58, R131, R245, R381 to R384, R391, R397 to R404, R410, R411, R416). -/

namespace Sys2Proof.Machine

/-! ## `trap` and `brk` (R399) -/

/-- `trap`: retires, then the strand takes SYSCALL. -/
def execTrap (i : BitVec 7) (t : BitVec 3) (s : State) : Out :=
  let u : Use := { use (.trap i t) with st := t }
  issue u s fun s => .settled ((s.retire u none).trap .syscall (i.setWidth 48))

/-- `brk`: does not retire. -/
def execBrk (i : BitVec 7) (t : BitVec 3) (s : State) : Out :=
  issue { use (.brk i t) with st := t } s fun s => .trap s .brk (i.setWidth 48)

/-! ## Control registers (R245, R400) -/

/-- PRIO (R58). -/
def Slot.prio (v : Slot) : Nat :=
  match v.strand with
  | some b => b.eff.toNat * 2 ^ 5 + b.base.toNat
  | none => 0

/-- Bits 47:0 of a control register as a slot reads it. -/
def State.creg (s : State) (c j n : Nat) : Word :=
  let v := s.slotAt c j
  let k := s.coreAt c
  match n with
  | 0 => v.fpc.setWidth 48
  | 1 => v.wlim.setWidth 48
  | 2 => k.mode.setWidth 48
  | 3 => v.fmt.setWidth 48
  | 4 => v.sca
  | 5 => v.scb
  | 6 => v.mqb.setWidth 48
  | 7 => k.ltag.setWidth 48
  | 8 => v.acct.setWidth 48
  | 9 => BitVec.ofNat 48 v.prio
  | 16 => v.epc
  | 17 => v.ecs
  | 18 => v.eva
  | 19 => v.epw.setWidth 48
  | 20 => v.esb
  | 21 => v.tldp.setWidth 48
  | 24 => k.vevt.setWidth 48
  | 25 => k.ckev.setWidth 48
  | 26 => k.eia
  | 27 => k.eic
  | _ => 0

/-- `crd`. -/
def execCrd (d : BitVec 5) (i : BitVec 7) (t : BitVec 3) (s : State) : Out :=
  issue { use (.crd d i t) with dsts := [d], st := t } s fun s =>
    .retire (s.dst d (s.creg s.core s.slot i.toNat) 0 1) none

/-- The key of the unit an armed error of a core names, or nothing when EIA names none (R410). -/
def Core.armKey (k : Core) (c : Nat) : Option Nat :=
  let a := k.eia.toNat % 2 ^ 44
  if k.eic.getLsbD 2 then (if 2 ^ 18 ≤ a then none else some (spmKey c (a / 8)))
  else if a < 2 ^ 38 then some (a / 32)
  else none

/-- An error is armed as EIA and EIC say; a core has one armed error at a time (R411). -/
def State.arm (s : State) (c : Nat) : State :=
  let k := s.coreAt c
  let s := { s with injected := s.injected.filter fun e => e.1 != c }
  match k.armKey c with
  | none => s.putCore c { k with eic := setField k.eic 0 1 0 }
  | some key =>
    { s.putCore c { k with eic := setField k.eic 0 1 1 } with
      injected := s.injected ++ [(c, key, bitsOf k.eic.toNat 15 8, k.eic.getLsbD 1)] }

/-- A write of EIC: FIRED clears where written as 1, and the write arms or disarms (R410). -/
def State.writeEic (s : State) (c x : Nat) : State :=
  let k := s.coreAt c
  let fired := k.eic.getLsbD 3 && !bitAt x 3
  let s := s.putCore c { k with eic := BitVec.ofNat 48 (bitsOf x 15 8 * 2 ^ 8 + bit fired * 8 + bitsOf x 2 1 * 2) }
  if bitAt x 0 then s.arm c else { s with injected := s.injected.filter fun e => e.1 != c }

/-- A write of ESB outside its range is ignored (R383). -/
def Slot.writeEsb (v : Slot) (x : Nat) : Slot :=
  let o := bitsOf x 27 12 * 4096
  if 0x0FF52000 ≤ o then { v with esb := BitVec.ofNat 48 o } else v

/-- The writable fields of a control register, written from bits 47:0 of a scalar; read-only ones ignore it. -/
def State.cregPut (s : State) (c j n : Nat) (w : Word) : State :=
  let x := w.toNat
  let v := s.slotAt c j
  let k := s.coreAt c
  match n with
  | 0 => s.putSlot c j { v with fpc := fpcWrite v.fpc x }
  | 1 => s.putSlot c j { v with wlim := w.setWidth 64 }
  | 2 => s.putCore c { k with mode := BitVec.ofNat 32 (x % 4) }
  | 8 => s.putSlot c j { v with acct := w.setWidth 16 }
  | 16 => s.putSlot c j { v with epc := w }
  | 17 => s.putSlot c j { v with ecs := setField (setField v.ecs 26 3 (bitsOf x 28 26)) 16 10 (bitsOf x 25 16) }
  | 18 => s.putSlot c j { v with eva := w }
  | 19 => s.putSlot c j { v with epw := w.setWidth 32 }
  | 20 => s.putSlot c j (v.writeEsb x)
  | 21 => s.putSlot c j { v with tldp := BitVec.ofNat 32 (bitsOf x 31 31 * 2 ^ 31 + bitsOf x 6 0) }
  | 24 => s.putCore c { k with vevt := w.setWidth 64 }
  | 25 => s.putCore c { k with ckev := w.setWidth 64 }
  | 26 => s.putCore c { k with eia := BitVec.ofNat 48 (x % 2 ^ 44) }
  | 27 => s.writeEic c x
  | _ => s

/-- Whether no slot of a core has a posted request not acknowledged, of its present strand or of one that has left, or a scoreboard
entry (R391). -/
def State.boardsEmpty (s : State) (c : Nat) : Bool :=
  !(s.mesh.any fun m => m.storing && m.src == c) &&
    (List.range 8).all fun j => let v := s.slotAt c j; v.unack == 0 && v.board.isEmpty

/-- `cwr`: it is counted under the tag it issued with, and the value acts from the next instruction on (R400); a change of MODE.STRICT
waits until the core has nothing in flight (R391). -/
def execCwr (a : BitVec 5) (i : BitVec 7) (t : BitVec 3) (s : State) : Out :=
  let u : Use := { use (.cwr a i t) with srcs := [(a, 0)], st := t }
  issue u s fun s =>
    let x := s.src a
    if i = 2 && x.getLsbD 0 != s.here.strict && !s.boardsEmpty s.core then .stall s
    else .settled ((s.retire u none).cregPut s.core s.slot i.toNat x)

/-- EIC_ARM: the armed error of a core is placed, as the write that armed it does. -/
def execEicArm (core : Nat) (s : State) : Out := .next (s.arm core)

/-! ## The register stack (R401) -/

/-- A register of an older window as `xrd` reads it. -/
def Slot.olderReg (v : Slot) (now w i : Nat) : Word :=
  if w = 0 then 0 else match v.older[w - 1]? with
  | none => 0
  | some o => (o.quad.get i).flushed now

/-- The save address of an older window. -/
def Slot.saveOf (v : Slot) (w : Nat) : Word :=
  if w = 0 then 0 else match v.older[w - 1]? with
  | none => 0
  | some o => o.save

/-- Changes an older window; a number out of range changes nothing. -/
def Slot.onOlder (v : Slot) (w : Nat) (f : OldWin → OldWin) : Slot :=
  { v with older := v.older.zipIdx.map fun p => if p.2 + 1 = w then f p.1 else p.1 }

/-- An older window is accessed. -/
def OldWin.touch (o : OldWin) (now : Nat) : OldWin := { o with quad := { o.quad with touched := now } }

/-- A register of an older window written: live, without a mark, its bank on. -/
def OldWin.write (o : OldWin) (now i : Nat) (x : Word) : OldWin :=
  { o with quad := { o.quad.set i (Reg.written x none 0) with power := .on, touched := now } }

/-- A window of four zero registers with save address 0, in the window file, in a bank with so many failures, or in the stack store. -/
def OldWin.zero (now : Nat) (inFile : Bool) (fails : Nat) : OldWin :=
  let r := Reg.written 0 none 0
  { quad := { r0 := r, r1 := r, r2 := r, r3 := r, power := .on, touched := now, fails := fails, poison := false }, save := 0,
    inFile := inFile, spoilt := false, flawed := false }

/-- The number of older windows written: deepest ones are dropped, and leave their banks free, or one zero window is added. -/
def Slot.setDepth (v : Slot) (now n : Nat) : Slot :=
  if n ≤ v.older.length then
    { v with older := v.older.take n, spare := ((v.older.drop n).filter (·.inFile)).map (·.quad.fails) ++ v.spare }
  else if n = v.older.length + 1 ∧ n ≤ 31 then
    if v.inFile = v.older.length && v.inFile < 3 then
      { v with older := v.older ++ [OldWin.zero now true (v.spare.headD 0)], spare := v.spare.tail }
    else { v with older := v.older ++ [OldWin.zero now false 0] }
  else v

/-- What an access to older window `w` meets first: a window that was uncorrectable in the stack store is POISON when it is read, and one
there with a lesser error is corrected; a bank is woken, with POISON where its parity fails (R81, R406). -/
def State.olderAccess (s : State) (w : Nat) (reads : Bool) (go : Act) : Act :=
  match (if w = 0 then none else s.me.older[w - 1]?) with
  | none => go
  | some o =>
    let woken : State := { s.onMe fun v => { v.onOlder w fun o => { o with quad := o.quad.wake s.now s.free true } with
      turnNext := max v.turnNext ((s.now + wakeCycles o.quad.power + 7) / 8) } with free := s.free + 4 }
    if reads && o.spoilt then .trap (s.logError s.core 3 1 5 0x20 0 (s.who s.core s.slot) false) .poison 0x20
    else if !o.inFile then (if reads then go.also fun t => t.readStored s.core s.slot (w - 1) else go)
    else match o.quad.poisoned 0 with
      | some i => .trap (woken.logError s.core 2 1 5 i 0 (s.who s.core s.slot) false) .poison (BitVec.ofNat 48 i)
      | none => if o.quad.power != .on then .stall woken else go

/-- `xrd`. -/
def execXrd (d a : BitVec 5) (i : BitVec 7) (t : BitVec 3) (s : State) : Out :=
  issue { use (.xrd d a i t) with srcs := [(a, 0)], dsts := [d], st := t } s fun s =>
    let w := (s.src a).toNat
    if i.toNat ≤ 3 then
      s.olderAccess w true (.retire ((s.onMe fun v => v.onOlder w (·.touch s.now)).dst d (s.me.olderReg s.now w i.toNat) 0 1) none)
    else if i = 4 then .retire (s.dst d (s.me.saveOf w) 0 1) none
    else if i = 5 then .retire (s.dst d (BitVec.ofNat 48 s.me.older.length) 0 1) none
    else match s.ownerCore (s.src a) .route with
      | (s, .error _) => .retire (s.dst d (BitVec.allOnes 48) 0 1) none
      | (s, .ok (owner, _)) => .retire (s.dst d (BitVec.ofNat 48 owner) 0 1) none

/-- `xwr`: its rd field is a source. -/
def execXwr (d a : BitVec 5) (i : BitVec 7) (t : BitVec 3) (s : State) : Out :=
  issue { use (.xwr d a i t) with srcs := [(a, 0), (d, 0)], st := t } s fun s =>
    let w := (s.src a).toNat
    let x := s.src d
    if i.toNat ≤ 3 then s.olderAccess w false (.retire (s.onMe fun v => v.onOlder w fun o => o.write s.now i.toNat x) none)
    else .retire (s.onMe fun v =>
      if i = 4 then v.onOlder w fun o => { o with save := x } else v.setDepth s.now x.toNat) none

/-! ## `halt`, `idle` and `kill` (R403, R404) -/

/-- `halt`: no slot of the core issues until Quince restarts it. -/
def execHalt (t : BitVec 3) (s : State) : Out :=
  issue { use (.halt t) with st := t } s fun s => .retire (s.onHere fun k => { k with halted := true }) none

/-- `idle`: retires, and its strand issues nothing until an event of R403. -/
def execIdle (t : BitVec 3) (s : State) : Out :=
  let u : Use := { use (.idle t) with legal := !s.me.handler, st := t }
  issue u s fun s => .settled ((s.retire u none).onMe fun v => { v with run := some (.idle false) })

/-- `kill`. -/
def execKill (a : BitVec 5) (t : BitVec 3) (s : State) : Out :=
  issue { use (.kill a t) with srcs := [(a, 0)], st := t } s fun s =>
    let x := (s.src a).toNat
    if x = s.core ∨ 1023 < x then .trap s .prot (s.src a) else .retire (s.callKill x 10 0) none

/-! ## `freeze` and `thaw` (R397) -/

/-- `freeze`: waits for a running operation that may not be stopped. -/
def execFreeze (a : BitVec 5) (t : BitVec 3) (s : State) : Out :=
  issue { use (.freeze a t) with srcs := [(a, 0)], st := t } s fun s =>
    let x := (s.src a).toNat
    if 1023 < x ∨ clusterOf x ≠ clusterOf s.core then .trap s .prot (s.src a)
    else if (s.coreAt x).engine.frozen then .retire s none
    else if s.mustFinish x then .stall s
    else .retire (s.freezeEngine x) none

/-- `thaw`. -/
def execThaw (a : BitVec 5) (t : BitVec 3) (s : State) : Out :=
  issue { use (.thaw a t) with srcs := [(a, 0)], st := t } s fun s =>
    let x := (s.src a).toNat
    if 1023 < x ∨ clusterOf x ≠ clusterOf s.core then .trap s .prot (s.src a) else .retire (s.thawEngine x) none

/-! ## `stinv` (R131, R402) -/

/-- Hops from a core to a station, which stands beyond the end of its row (R29, R126). -/
def hopsTo (c n : Nat) : Nat := gap (rowOf c) (n / 2) + if n % 2 = 0 then colOf c + 1 else 32 - colOf c

/-- Hops to the farthest station. -/
def farthest (c : Nat) : Nat := upTo 64 (fun m n => max m (hopsTo c n)) 0

/-- `stinv`: waits for all classes, sends an invalidation to each station, and waits for their acknowledgements. -/
def execStinv (d a : BitVec 5) (t : BitVec 3) (s : State) : Out :=
  issue { use (.stinv d a t) with srcs := [(a, 0), (d, 0)], st := t } s fun s =>
    if s.me.run == some .stinv then
      if s.invs.any fun m => m.core == s.core && m.slot == s.slot then .stall s else .retire s none
    else if s.posted s.core 3 then .stall s
    else
      let x := (s.src d).toNat
      let inv (n : Nat) : InvMsg :=
        { station := n, core := s.core, slot := s.slot, pid := BitVec.ofNat 16 x, page := (s.src a).extractLsb' 16 32,
          allv := bitAt x 16, allp := bitAt x 17 }
      let due := (s.now + 4 * farthest s.core + 12 + 7) / 8
      .stall { s.onMe fun v => { v with run := some .stinv, turnNext := max v.turnNext due } with
        invs := s.invs ++ (List.range 64).map inv }

/-- A cached translation or walk that an invalidation selects (R131). -/
def InvMsg.selects (m : InvMsg) (pid : BitVec 16) (level vpage : Nat) : Bool :=
  m.allp || (m.pid == pid && (m.allv || m.page.toNat * 65536 / 2 ^ pageBits level == vpage))

/-- STATION_INVALIDATION: a station drops the matching entries, and acknowledges once no request under a dropped translation is
in flight. A walk reads the tables in one event and a waiting walk has read nothing, so that none has to be restarted (R131). -/
def execStationInvalidation (k : Nat) (s : State) : Out :=
  match s.invs[k]? with
  | none => .next s
  | some m =>
    let t := s.stationAt m.station
    let s := s.putStation m.station { t with cache := t.cache.filter fun e => !m.selects e.pid e.level e.vpage }
    let inFlight := s.mesh.any fun x =>
      x.stage == .toOwner && regionOf x.va.toNat == .global && stationOf x.src == m.station &&
        m.selects x.pid 2 (x.va.toNat / 2 ^ 30)
    if inFlight then .next s else .next { s with invs := dropAt s.invs k }

end Sys2Proof.Machine
end

