-- ==== Sys2Proof/Machine/Settle.lean ====
section
/-! DEFINITION. Settling outstanding work and leaving a trap: `settle` and `rte` (R49, R50, R82, R385 to R394). -/

namespace Sys2Proof.Machine

/-! ## Stopping work (R388, R389) -/

/-- Whether an operation is the one of a slot's entry. -/
def MmaOp.ofEntry (o : MmaOp) (slot n : Nat) : Bool := o.task.isNone && o.slot == slot && o.entry == some n

/-- An operation of a slot that waits in an engine's queue leaves it, with the blocks it has behind it (R388). -/
def State.unqueue (s : State) (c j n : Nat) : State :=
  let q := (s.coreAt c).engine.queue
  let done := match q.find? fun (o : MmaOp) => o.ofEntry j n with
    | some o => o.blocks
    | none => 0
  (s.onCore c fun k => { k with engine := { k.engine with queue := q.filter fun (o : MmaOp) => !o.ofEntry j n } }).markStopped
    c j (some n) done (done != 0)

/-- The work of an entry is stopped: a copy takes no more chunks, a gather ends, a matrix operation stops at its K-block boundary.
An access already sent is not stopped, nor a part of a cooperative product whose partial is on its way: it has no block left. -/
def State.stopWork (s : State) (c j : Nat) (e : SbEntry) : State :=
  match e.work with
  | .copy _ => s.onCore c fun k => { k with
      copies := k.copies.map fun (x : CopyCmd) =>
        if x.slot == j && x.entry == some e.num then { x with stopped := true } else x }
  | .gather g =>
    match (s.coreAt g.vault).gathers.find? fun (x : GatherCmd) => x.from_ == c && x.slot == j && x.entry == some e.num with
    | none => s
    | some x => s.stopGather g.vault x
  | .matrix _ =>
    if (s.coreAt c).engine.queue.any fun (o : MmaOp) => o.ofEntry j e.num && o.sent then s
    else match (s.coreAt c).runningOp with
    | some o =>
      if o.ofEntry j e.num then s.stopOp c else s.unqueue c j e.num
    | none => s.unqueue c j e.num
  | _ => s

/-- STATE of an entry whose work has stopped. -/
def SbEntry.decided (e : SbEntry) : SbEntry :=
  if e.state != 0 then e else { e with state := if e.cause.isNone then 1 else if e.part then 3 else 2 }

/-! ## Retries (R388) -/

/-- Whether an entry may be retried: a matrix operation that failed with no block completed may not. -/
def SbEntry.retryable (e : SbEntry) : Bool :=
  (e.state == 2 || e.state == 3) && match e.work with
    | .matrix _ => !(e.aux == 0 && e.cause.isSome)
    | _ => true

/-- An entry whose work is under way again, under a new number, with so many replies to come. -/
def SbEntry.again (e : SbEntry) (seq : BitVec 16) (left : Nat) : SbEntry :=
  { e with state := 0, stop := false, cause := none, part := false, sub := 0, eva := 0, seq := seq, left := left }

/-- The requests of a posted access sent again, for the same entry and in its class. -/
def State.repost (s : State) (ms : List Msg) (e : SbEntry) : State × SbEntry :=
  ((s.sendAll (ms.map fun m => { m with entry := some e.num, storing := true, cls := e.cls })).1, e.again s.here.seq ms.length)

/-- A vault or scratchpad access of the issuing slot again, with a procedure for each. -/
def State.accessMsg (s : State) (va : Word) (size : Nat) (proc : BitVec 4) : Msg :=
  let m := { s.blank s.core s.slot with size := sizeCode size, va := va, proc := proc }
  if regionOf va.toNat == .spad then { m with dst := spmCore va.toNat, proc := 9, paddr := s.spadPlace m.pid va, stage := .toOwner } else m

/-- The remainder of an entry's work, issued again from the captured values; nothing while its engine has no room. A gather whose
table no longer translates fails at once. -/
def State.retry (s : State) (e : SbEntry) : Option (State × SbEntry) :=
  match e.work with
  | .scalar va size fn x y =>
    if fn < 16 then some (s.repost [{ s.accessMsg va size 1 with opa := x }] e)
    else some (s.repost [{ s.accessMsg va 8 2 with opa := x, opb := y, fn := BitVec.ofNat 4 (fn - 16) }] e)
  | .vector va mask bs => some (s.repost (s.rowMsgs va mask bs) e)
  | .message va fn x => some (s.repost [s.toScratch (spmCore va.toNat) 9 fn (barByte (barSlot va)) x va] e)
  | .copy d =>
    if 16 ≤ s.here.copies.length then none
    else let q := s.takeSeq s.core; some (q.1.startCopy s.core s.slot d e.aux (some e.num), e.again q.2 1)
  | .matrix o =>
    if 2 ≤ s.here.engine.queue.length then none
    else
      let p := { o with blocks := e.aux, resumed := o.resumed || e.aux != 0, started := s.now, entry := some e.num }
      let q := s.takeSeq s.core
      some (q.1.onHere fun k => { k with engine := k.engine.push p }, e.again q.2 1)
  | .gather g =>
    match s.agentAddress g.va with
    | (s, .error cause) =>
      let q := s.takeSeq s.core
      some (q.1, { e.again q.2 0 with stop := true, cause := some cause, eva := g.va })
    | (s, .ok pa) => some (s.repost [{ s.agentRequest 7 3 pa g.va (BitVec.ofNat 48 g.desc) with data := g.bytes }] e)

/-- `settle` retires: the entry as decided in the scoreboard and in the frame, and CTL in rd. A frame that cannot be written kills
the core, as at trap entry. -/
def State.settled (s : State) (j : Nat) (e : SbEntry) (d : BitVec 5) : Act :=
  let s := s.onMe fun v => { v with board := v.board.set j e }
  let r := s.vaultWrite (s.who s.core s.slot) (s.frameAddress s.core s.slot + 0x100 + 192 * j) e.bytes
  if r.2 = 0 then .retire (r.1.dst d (BitVec.ofNat 48 (bitsOf e.ctl 63 16)) 0 1) none
  else .settled (r.1.callKill s.core 10 0)

/-- `settle` (R388). -/
def execSettle (d a : BitVec 5) (t : BitVec 3) (s : State) : Out :=
  issue { use (.settle d a t) with srcs := [(a, 0)], dsts := [d], st := t } s fun s =>
    let x := (s.src a).toNat
    let j := bitsOf x 3 0
    let act := bitsOf x 5 4
    match s.me.board[j]? with
    | none => .retire (s.dst d 0 0 1) none
    | some e =>
      if act = 0 then s.settled j e d
      else if act = 3 then
        if !e.retryable then s.settled j e d
        else match s.retry e with
          | none => .stall s
          | some (s, e) => s.settled j e d
      else
        let s := if act = 2 && !e.stop then s.stopWork s.core s.slot e else s
        let e := s.me.board.getD j e
        if e.stop then s.settled j e.decided d else .stall s

/-! ## `rte` (R392) -/

/-- The scratch of a fresh start: FPC, WLIM and MQB at reset, and the strand control block written with them (R82). A write that fails
gives its cause at the strand's next instruction, as a load does (notes/assumptions/136.md). -/
def State.freshBlock (s : State) (c j : Nat) : State :=
  let v := { s.slotAt c j with fpc := 0, wlim := 0, mqb := 0 }
  let s := s.putSlot c j v
  let a := s.scbAddress v.id
  match s.dataWrite c j a v.scbBytes with
  | (s, none) => s
  | (s, some cause) => s.onSlot c j fun v => { v with first := v.first ++ [(cause, BitVec.ofNat 48 a)] }

/-- The slot that leaves handler state at its EPC: no entry, no cause of an entry, p1 to p11 as EPW holds them. -/
def Slot.leaving (v : Slot) : Slot :=
  { v with board := [], pend := v.pend.filter (·.entry.isNone), ecs := setField v.ecs 10 1 0, preds := v.epw.extractLsb' 1 11, pc := v.epc }

/-- The repeat frame that a trap frame records, where RPT is set: its address and RPTS (R238, R386). -/
def State.frameRecord (s : State) (c j : Nat) : State × Except (Cause × Word) (Option (Word × Nat)) :=
  let v := s.slotAt c j
  if !v.ecs.getLsbD 9 then (s, .ok none)
  else match s.vaultRead (s.who c j) (s.frameAddress c j) 16 with
    | (s, 0, bs) => (s, .ok (some (BitVec.ofNat 48 (fieldAt bs 0 8), fieldAt bs 8 8)))
    | (s, _, _) => (s, .error (.eccue, v.esb))

/-- A strand restarted from its work packet in its own slot (R50). -/
def State.restartHere (s : State) (c j : Nat) : State :=
  match (s.slotAt c j).strand with
  | none => s
  | some b =>
    match s.restartCont c b.id b.handle with
    | (s, .error f) => (s.leaveSlot c j true).noRestart c b.id b.pid f
    | (s, .ok k) =>
      let s := s.onSlot c j fun v => { v.load s.now b k with needShadow := true }
      s.freshBlock c j

/-- `rte`'s moves, once every entry has been settled: ACT 1 and 2 migrate, ACT 5 suspends into the ring. -/
def State.rteMove (s : State) (u : Use) (act : Nat) : Act :=
  let v := s.me
  let dst := if act = 5 then s.core else bitsOf v.ecs.toNat 25 16
  let kind : BitVec 3 := if act = 1 then 1 else if act = 2 then 3 else 0
  if s.mustWait then .stall s
  else match s.suspend s.core s.slot Slot.leaving v.epc dst kind with
    | (s, .error f) => .trap s f.1 f.2
    | (s', .ok p) => let t := s'.issued u; .settled (if act = 5 then t.makeReady s.core p else t.sendPacket p)

/-- `rte` once its entries are settled, with the oldest that it found undone or partial: its cause is taken before the resumed
instruction issues, and no move is made. A recorded frame is fetched again outside handler state; where that fails, its cause is taken
there, and the new trap frame records it again (R238; notes/assumptions/130.md). -/
def State.rteEnd (s : State) (u : Use) (act : Nat) (failed : Option SbEntry) : Act :=
  if act = 3 then .settled ((s.issued u).restartHere s.core s.slot)
  else if act = 4 then .settled ((s.issued u).endStrand s.core s.slot false)
  else if act != 0 && failed.isNone then s.rteMove u act
  else match s.frameRecord s.core s.slot with
    | (s, .error f) => .trap s f.1 f.2
    | (s, .ok r) =>
      let t := s.onMe fun v => { v.leaving with board := failed.toList, frame := r.map fun p => Frame.unread p.1 p.2 }
      match failed, r with
      | some e, _ => .settled ((t.issued u).enterTrap s.core s.slot (e.cause.getD .refused) e.eva true e.sub)
      | none, none => .retire t (some s.me.epc)
      | none, some p => match t.resumeFrame s.core s.slot p.1 p.2 with
        | (t, .ok f) => .retire (t.onMe fun v => { v with frame := some f }) (some s.me.epc)
        | (t, .error f) => .settled ((t.issued u).enterTrap s.core s.slot f.1 f.2 false 0)

/-- Every unsettled entry decided, in the scoreboard and in the frame, as `settle` does it; false where the frame cannot be written
(R388, R392). -/
def State.decideAll (s : State) : State × Bool :=
  let l := s.me.board.zipIdx.filter fun p => p.1.state == 0
  let s := s.onMe fun v => { v with board := v.board.map SbEntry.decided }
  l.foldl (fun (acc : State × Bool) p =>
    let r := acc.1.vaultWrite (s.who s.core s.slot) (s.frameAddress s.core s.slot + 0x100 + 192 * p.2) p.1.decided.bytes
    (r.1, acc.2 && r.2 == 0)) (s, true)

/-- `rte`: outside handler state ILLEGAL; it waits until every unsettled entry has stopped. -/
def execRte (t : BitVec 3) (s : State) : Out :=
  let u : Use := { use (.rte t) with legal := s.me.handler, st := t }
  issue u s fun s =>
    let v := s.me
    let act := bitsOf v.ecs.toNat 28 26
    if 5 < act || ((act = 1 || act = 2 || act = 5) && v.ecs.getLsbD 9) then .trap s .illegal u.eva
    else if v.board.any fun (e : SbEntry) => e.state == 0 && !e.stop then .stall s
    else
      let fresh := (v.board.filter fun (e : SbEntry) => e.state == 0).map SbEntry.decided
      match s.decideAll with
      | (s, true) => s.rteEnd u act (fresh.find? fun (e : SbEntry) => e.state == 2 || e.state == 3)
      | (s, false) => .settled (s.callKill s.core 10 0)

end Sys2Proof.Machine
end

