-- ==== Sys2Proof/Machine/Launch.lean ====
section
/-! DEFINITION. Launches at their root: inboxes, acceptance of a launch record, the completion word, co-residency, unfolding and
placement (R41 to R47, R51 to R55, R61, R64, R71, R82, R292, R420). -/

namespace Sys2Proof.Machine

/-! ## Inboxes (R292, R416, R420) -/

/-- TASK_INBOX_ACCEPT: message `k` on its way to an inbox enters it when it has room. A killed core's messages go to its acting
supervisor. -/
def State.inboxAccept (s : State) (k : Nat) : State :=
  match s.notes[k]? with
  | none => s
  | some (c, m) =>
    if (s.coreAt c).killed then
      match s.supervisorFor (clusterOf c) with
      | none => { s with notes := dropAt s.notes k }
      | some p => { s with notes := s.notes.set k (p, m) }
    else if 16 ≤ (s.coreAt c).inbox.length then s
    else { s with notes := dropAt s.notes k }.deliver c m

/-- LAUNCH_MESSAGE_FORWARD: the oldest message that the Medlar port holds enters core 0's inbox. -/
def State.forwardLaunch (s : State) : State :=
  match s.medlar.held with
  | [] => s
  | m :: r =>
    if (s.coreAt 0).killed || 16 ≤ (s.coreAt 0).inbox.length then s
    else { s with medlar := { s.medlar with held := r } }.deliver 0 m

/-! ## The completion word (R44, R45) -/

/-- The physical address of a launch's completion word, if it translates to vault space for writing. -/
def State.doneWord (s : State) (c : Nat) (pid : BitVec 16) (a : Word) : State × Option Nat :=
  if a.toNat % 8 != 0 || regionOf a.toNat != .global then (s, none)
  else match s.translate { core := c, pid := pid, id := { lid := 0, sid := 0 } } pid (pid == s.spid) a.toNat .write with
    | (s, .ok pa) => if spaceOf pa == .vault && !(s.coreAt (vaultOf pa)).killed then (s, some pa) else (s, none)
    | (s, .error _) => (s, none)

/-- Fills a completion word with a status and a count in one store that sets it full; false when it cannot be written. -/
def State.fillDone (s : State) (c : Nat) (pid : BitVec 16) (a : Word) (status ndone : Nat) : State × Bool :=
  match s.doneWord c pid a with
  | (s, none) => (s, false)
  | (s, some pa) =>
    let r := s.vaultWrite { core := c, pid := pid, id := { lid := 0, sid := 0 } } pa (leBytes 8 (status * 2 ^ 56 + ndone % 2 ^ 25))
    if r.2 = 0 then (r.1.setFull pa 8, true) else (r.1, false)

/-- The log entry of a launch that cannot be reported in its completion word: the launch unit's event (R44, R409). -/
def State.logLaunch (s : State) (c : Nat) (pid lid : BitVec 16) (rec_ : Nat) : State :=
  s.logError c 9 2 0 rec_ 0 { core := c, pid := pid, id := { lid := lid, sid := 0 } } false

/-- Refuses a launch with a status. -/
def State.refuseLaunch (s : State) (c : Nat) (l : Launch) (status : Nat) : State :=
  match s.fillDone c l.pid l.done status 0 with
  | (s, true) => s
  | (s, false) => s.logLaunch c l.pid (BitVec.ofNat 16 (c * 64 + l.index)) l.lrec.toNat

/-! ## The launch record (R43) and groups (R52, R53) -/

/-- The launch that a record describes. -/
def launchOf (index rec_ : Nat) (bs : List Byte) : Launch :=
  let q (o : Nat) := fieldAt bs o 8
  let w (o : Nat) : Word := BitVec.ofNat 48 (q o)
  let p := q 0x78
  let x0 := bitsOf p 4 0
  let y0 := bitsOf p 9 5
  let x1 := bitsOf p 14 10
  let y1 := bitsOf p 19 15
  { index := index, lrec := BitVec.ofNat 48 rec_, pid := BitVec.ofNat 16 (fieldAt bs 0x0C 2), entry := w 0,
    count := bitsOf (fieldAt bs 8 4) 24 0, prio := BitVec.ofNat 5 (fieldAt bs 0x0E 1), feat := BitVec.ofNat 3 (fieldAt bs 0x0F 1),
    consts := (List.range 8).map fun i => w (0x10 + 8 * i), wpkt := w 0x58, done := w 0x60, cont := w 0x68, stkb := w 0x70,
    vac := bitAt p 57, barn := bitsOf p 56 53, spmn := bitsOf p 52 43, npkt := bitsOf p 42 31, stks := bitsOf p 30 26,
    cores := bitAt p 25, rad := bitsOf p 24 22, mode := bitsOf p 21 20, groups := [],
    allowed := (List.range 1024).filter fun c => x0 ≤ colOf c && colOf c ≤ x1 && y0 ≤ rowOf c && rowOf c ≤ y1,
    nextSid := 0, queue := [], last := none, plan := [], strands := [], ndone := 0, dead := false, ending := false, swept := none,
    heir := none }

/-- Whether a record is malformed by its own fields: a reserved field that is not zero, a field outside its range, an empty
rectangle, or a misaligned ENTRY (R43, R44). -/
def recordBad (rec_ : Nat) (bs : List Byte) : Bool :=
  let q (o : Nat) := fieldAt bs o 8
  let p := q 0x78
  let count := fieldAt bs 8 4
  rec_ % 128 != 0 || 2 ^ 48 ≤ q 0 || q 0 % 4 != 0 || 2 ^ 25 ≤ count || count = 0 || 2 ^ 24 < count ||
    32 ≤ fieldAt bs 0x0E 1 || 8 ≤ fieldAt bs 0x0F 1 || (List.range 8).any (fun i => decide (2 ^ 48 ≤ q (0x10 + 8 * i))) ||
    [0x50, 0x58, 0x60, 0x68, 0x70].any (fun o => decide (2 ^ 48 ≤ q o)) || q 0x50 % 16 != 0 || q 0x58 % 64 != 0 || q 0x60 % 8 != 0 ||
    q 0x68 % 128 != 0 || 2 ^ 58 ≤ p || 768 < bitsOf p 52 43 || bitsOf p 30 26 < 12 || 20 < bitsOf p 30 26 || 1 < bitsOf p 21 20 ||
    bitsOf p 14 10 < bitsOf p 4 0 || bitsOf p 19 15 < bitsOf p 9 5

/-- An entry of the group table; nothing for an unused one, and an error for a malformed one (R52). A used entry with a reserved bit set
is malformed too (notes/assumptions/135.md). -/
def groupOf (num count : Nat) (bs : List Byte) : Except Unit (Option Group) :=
  let a := fieldAt bs 0 8
  let b := fieldAt bs 8 8
  let gcnt := bitsOf a 47 24
  let stride := bitsOf b 23 0
  if gcnt = 0 then .ok none
  else if 2 ^ 48 ≤ a ∨ 2 ^ 34 ≤ b ∨ (stride = 0 ∧ 1 < gcnt) ∨ count ≤ bitsOf a 23 0 then .error ()
  else .ok (some { num := num, first := bitsOf a 23 0, gcnt := gcnt, stride := stride, hx := bitsOf b 28 24, hy := bitsOf b 33 29 })

/-- The used entries of a group table, read under the launch's process id. -/
def State.readGroups (c : Nat) (pid : BitVec 16) (table count : Nat) : List Nat → State → State × Option (List Group)
  | [], s => (s, some [])
  | g :: r, s =>
    match s.readGlobal { core := c, pid := pid, id := { lid := 0, sid := 0 } } pid (pid == s.spid) ((table + 16 * g) % 2 ^ 48) 16 .read with
    | (s, .error _) => (s, none)
    | (s, .ok bs) =>
      match groupOf g count bs, State.readGroups c pid table count r s with
      | .ok (some x), (s, some l) => (s, some (x :: l))
      | .ok none, (s, some l) => (s, some l)
      | _, (s, _) => (s, none)

/-- The groups that contain a strand, in ascending number (R53). -/
def Launch.groupsOf (l : Launch) (sid : Nat) : List Nat := (l.groups.filter fun g => (g.rank sid).isSome).map (·.num)

/-- A strand as its launch unit records it at birth: its first four groups, and the fifth, which takes GROUP (R53, R434). -/
def Launch.birth (l : Launch) (sid : Nat) : Unfolded :=
  let g := l.groupsOf sid
  { sid := sid, home := none, groups := g.take 4, gfault := g[4]?, left := 0, bars := [], slot := none, done := false }

/-- The lowest group of a strand: 256 when it is in none. -/
def Unfolded.lowest (u : Unfolded) : Nat := u.groups.headD 256

/-! ## Resources of a core (R54, R55) -/

/-- Whether a slot is idle and free of any reservation. -/
def Slot.idle (v : Slot) : Bool := v.strand.isNone && v.reserved.isNone && v.inbound.isNone

/-- The barrier slots of a core that nothing reserves, in ascending number. -/
def Core.freeBars (k : Core) : List Nat := (List.range 64).filter fun b => k.bars.all fun e => e.1 != b

/-- The lowest idle slot of a core of the allowed set that has the scratchpad and barrier slots of one strand. -/
def State.fitSlot (s : State) (l : Launch) (c : Nat) : Option Nat :=
  if !l.allowed.contains c || (s.coreAt c).killed || (s.coreAt c).freeBars.length < l.barn || s.spmFree c < 256 * l.spmn then none
  else lowestBelow 8 fun j => (s.slotAt c j).idle

/-- The reservation of a strand on a core: barrier slots, scratchpad bytes and the slot (R54). -/
def State.reserve (s : State) (l : Launch) (id : StrandId) (c j : Nat) : State :=
  let bars := (s.coreAt c).freeBars.take l.barn
  let s := s.onCore c fun k => { k with bars := k.bars ++ bars.map fun b => (b, id) }
  s.onUnfolded id fun u => { u with home := some c, left := 256 * l.spmn, bars := bars, slot := some j }

/-- The fit count of a core for a co-resident launch (R55). -/
def State.fitCount (s : State) (l : Launch) (c : Nat) : Nat :=
  let idle := ((List.range 8).filter fun j => (s.slotAt c j).idle).length
  let taken := ((List.range 8).filter fun j => (s.slotAt c j).reserved.isSome).length
  let f := min idle (7 - taken)
  let f := if l.spmn = 0 then f else min f (s.spmFree c / (256 * l.spmn))
  if l.barn = 0 then f else min f ((s.coreAt c).freeBars.length / l.barn)

/-- The cores of a co-resident launch's strands, in ascending sid: round-robin over the allowed set, passing by the cores that
hold their fit count. -/
def State.deal (s : State) (l : Launch) : List Nat :=
  let fits := l.allowed.map fun c => (c, s.fitCount l c)
  ((List.range 7).flatMap fun p => (fits.filter fun e => p < e.2).map (·.1)).take l.count

/-- Reserves everything of a co-resident launch at once; the clusters of its slots are not idle (R55, R219). -/
def State.reserveAll (s : State) (l : Launch) (lid : BitVec 16) (cores : List Nat) : State :=
  cores.zipIdx.foldl (fun (s : State) p =>
    let id : StrandId := { lid := lid, sid := p.2 }
    match lowestBelow 8 fun j => (s.slotAt p.1 j).idle with
    | none => s
    | some j =>
      let s := (s.onSlot p.1 j fun v => { v with reserved := some id }).onCluster (clusterOf p.1) fun g => { g with active := true }
      let s := s.onLaunch lid fun m => { m with strands := m.strands ++ [m.birth p.2], plan := m.plan ++ [(p.1, j)] }
      s.reserve l id p.1 j) s

/-! ## Acceptance (R44) -/

/-- Steps 3 to 5 for a well-formed record: the allowed set, the co-residency check, and the launch goes live. -/
def State.admitLaunch (s : State) (c : Nat) (l : Launch) : State :=
  let inSet (c : Nat) : Bool :=
    let k := s.coreAt c
    !k.killed && !k.vacating && k.vacated == l.vac && k.feat &&& l.feat == l.feat
  let l := { l with allowed := l.allowed.filter inSet }
  let lid := BitVec.ofNat 16 (c * 64 + l.index)
  if l.allowed.isEmpty then s.refuseLaunch c l 3
  else if l.cores then
    let cores := s.deal l
    if cores.length < l.count then s.refuseLaunch c l 1
    else (s.onCore c fun k => { k with launches := k.launches ++ [l] }).reserveAll l lid cores
  else s.onCore c fun k => { k with launches := k.launches ++ [l] }

/-- Step 2: the completion word becomes empty with value 0. -/
def State.openDone (s : State) (c : Nat) (l : Launch) : State × Bool :=
  match s.doneWord c l.pid l.done with
  | (s, none) => (s, false)
  | (s, some pa) =>
    let r := s.vaultWrite { core := c, pid := l.pid, id := { lid := 0, sid := 0 } } pa (leBytes 8 0)
    if r.2 = 0 then ({ r.1 with empties := insertNat (pa / 8) r.1.empties }, true) else (r.1, false)

/-- A launch message at the launch unit of a core: the record is read at its physical address, in whatever space that lies. -/
def State.acceptMessage (s : State) (c : Nat) (m : BitVec 128) (index : Nat) : State :=
  let rec_ := bitsOf m.toNat 43 0
  let pid := m.extractLsb' 112 16
  let lid := BitVec.ofNat 16 (c * 64 + index)
  let w : Who := { core := c, pid := pid, id := { lid := lid, sid := 0 } }
  match s.readPhys w rec_ 128 with
    | (s, .error _) => s.logLaunch c pid lid rec_
    | (s, .ok bs) =>
      let l := launchOf index rec_ bs
      let table := fieldAt bs 0x50 8
      let bad := recordBad rec_ bs || (!m.getLsbD 85 && l.pid != pid)
      let g := if bad || table = 0 then (s, some []) else State.readGroups c l.pid table l.count (List.range 256) s
      match g with
      | (s, none) => s.refuseLaunch c l 2
      | (s, some groups) =>
        if bad then s.refuseLaunch c l 2
        else
          let l := { l with groups := groups }
          match s.openDone c l with
          | (s, false) => s.logLaunch c l.pid lid rec_
          | (s, true) => s.admitLaunch c l

/-- LAUNCH_ACCEPTANCE: a launch unit with a free entry takes the oldest message of its inbox. -/
def State.acceptLaunch (s : State) (c : Nat) : State :=
  let k := s.coreAt c
  match k.inbox, lowestBelow 64 fun i => k.launches.all fun l => l.index != i with
  | m :: r, some index => if k.killed then s else if k.spoilt then s.failCore c else (s.putCore c { k with inbox := r }).acceptMessage c m index
  | _, _ => s

/-! ## Unfolding (R46, R47) -/

/-- The launches of a core that unfold or dispatch, in descending PRIO and then in order of acceptance. -/
def Core.byPrio (k : Core) : List Launch :=
  let live := k.launches.filter fun l => !l.ending
  (List.range 32).reverse.flatMap fun p => live.filter fun l => l.prio.toNat == p

/-- The first core that takes the head of the fallback queue: ascending core id from after the last dispatch, wrapping (R54). Each launch
keeps its own last dispatch, and its first scan starts at the lowest core of its allowed set (notes/assumptions/132.md). -/
def State.fallbackCore (s : State) (l : Launch) : Option (Nat × Nat) :=
  let after := match l.last with
    | none => l.allowed
    | some c => l.allowed.filter (c < ·) ++ l.allowed.filter (· ≤ c)
  (after.find? fun c => (s.fitSlot l c).isSome).bind fun c => (s.fitSlot l c).map fun j => (c, j)

/-- Whether the placement rule of the next strand has a place for it: its hint walk, its reserved slot, or a core of the
fallback that fits. -/
def State.canUnfold (s : State) (l : Launch) : Bool :=
  l.nextSid < l.count &&
    (l.cores || (l.mode = 1 && (l.birth l.nextSid).lowest < 256) || (s.fallbackCore l).isSome)

/-- The packet of a strand at birth (R46, R54, R59). -/
def Launch.packet (l : Launch) (lid : BitVec 16) (u : Unfolded) (root dst : Nat) (slot : Option Nat) (hint : Option Nat) : Packet :=
  { cont := { a := List.replicate 8 0, pc := l.entry, fl := BitVec.ofNat 48 (l.stkb.toNat + (u.sid + 1) * 2 ^ l.stks), preds := 0,
              handle := BitVec.ofNat 12 (u.sid % (l.npkt + 1)), hops := 0, id := { lid := lid, sid := u.sid },
              pend := u.gfault.map fun g => (.group, BitVec.ofNat 48 g), fresh := true },
    pid := l.pid, dst := dst, org := root, bpri := l.prio, epri := l.prio, kind := 2, hint := hint.isSome,
    hx := colOf (hint.getD 0), hy := rowOf (hint.getD 0), rad := l.rad, lrec := l.lrec, at_ := root, slot := slot, ahead := false,
    wrote := root, park := none }

/-- A packet leaves a root for its strand's place. -/
def State.emit (s : State) (root : Nat) (p : Packet) : State :=
  { s with packets := s.packets ++ [p] }.countSent root p.cont.id.lid

/-- The hint of a strand's lowest group; a vacated one is redirected (R54). -/
def State.hintOf (s : State) (l : Launch) (u : Unfolded) : Option Nat :=
  if l.mode != 1 then none
  else (l.groups.find? fun g => g.num == u.lowest).map fun g =>
    let h := 32 * g.hy + g.hx
    let k := s.coreAt h
    if (k.vacated || k.vacating) && !l.vac then (s.nearestAvailable h).getD h else h

/-- A strand joins the fallback queue at its place: ascending lowest group, then ascending sid (R54). -/
def joinQueue (e : Nat × Nat) (q : List (Nat × Nat)) : List (Nat × Nat) :=
  q.takeWhile (fun x => x.1 < e.1 || (x.1 == e.1 && x.2 < e.2)) ++ [e] ++
    q.dropWhile (fun x => x.1 < e.1 || (x.1 == e.1 && x.2 < e.2))

/-- UNFOLDING: the next strand of the first launch that has a place for one: a launch of higher PRIO whose next strand has none does not
hold the others up (notes/assumptions/133.md). -/
def State.unfold (s : State) (c : Nat) : State :=
  if (s.coreAt c).spoilt then s.failCore c
  else match (s.coreAt c).byPrio.find? fun l => s.canUnfold l with
  | none => s
  | some l =>
    let lid := BitVec.ofNat 16 (c * 64 + l.index)
    let sid := l.nextSid
    let s := s.onLaunch lid fun m => { m with nextSid := sid + 1 }
    if l.cores then
      match l.plan[sid]?, s.unfoldedAt { lid := lid, sid := sid } with
      | some (d, j), some u => s.emit c (l.packet lid u c d (some j) none)
      | _, _ => s
    else
      let u := l.birth sid
      let s := s.onLaunch lid fun m => { m with strands := m.strands ++ [u] }
      match s.hintOf l u with
      | some h => s.emit c (l.packet lid u c h none (some h))
      | none => s.onLaunch lid fun m => { m with queue := joinQueue (u.lowest, sid) m.queue }

/-- ROUND_ROBIN_FALLBACK: the head of the first queue that has a place is dispatched, its place reserved at once (R54). -/
def State.dispatch (s : State) (c : Nat) : State :=
  match (s.coreAt c).byPrio.find? fun l => !l.queue.isEmpty && (s.fallbackCore l).isSome with
  | none => s
  | some l =>
    match l.queue, s.fallbackCore l with
    | (_, sid) :: r, some (d, j) =>
      let lid := BitVec.ofNat 16 (c * 64 + l.index)
      let id : StrandId := { lid := lid, sid := sid }
      let s := s.onLaunch lid fun m => { m with queue := r, last := some d }
      let s := (s.reserve l id d j).onSlot d j fun v => { v with inbound := some id }
      match s.unfoldedAt id with
      | none => s
      | some u => s.emit c (l.packet lid u c d (some j) none)
    | _, _ => s

/-! ## Placement (R40, R54, R61, R64) -/

/-- The launch constants reach a core with the first strand of the launch that it takes up (R71). -/
def State.bringConsts (s : State) (c : Nat) (lid : BitVec 16) : State :=
  match s.launchAt lid with
  | none => s
  | some l => s.onCore c fun k => { k with consts := k.consts.filter (fun e => e.1 != lid) ++ [(lid, l.consts)] }

/-- A strand starts in a slot from a packet, with an effective priority (R57, R58); its cluster is not idle (R219). -/
def State.startStrand (s : State) (c j : Nat) (p : Packet) (eff : BitVec 5) : State :=
  let b : Bound := { id := p.cont.id, pid := p.pid, base := p.bpri, eff := eff, handle := p.cont.handle, hops := p.cont.hops, lrec := p.lrec }
  ((s.onSlot c j fun v => { v.load s.now b p.cont with needShadow := true }).onCluster (clusterOf c) fun g => { g with active := true }).bringConsts
    c p.cont.id.lid

/-- Whether a cluster's cores run: not gated and not switching rails (R219, R220). -/
def Cluster.isUp (g : Cluster) : Bool := g.power == .up && !g.switching

/-- A strand is placed: it runs in the slot held for it, its control block at reset (R54, R82). -/
def State.place (s : State) (c j : Nat) (p : Packet) : State :=
  ((s.countRecv c p.cont.id.lid).startStrand c j p p.epri).freshBlock c j

/-- Packet `k` has a slot at a core: its strand is placed there, once the core's cluster is up (R219, R220). -/
def State.settlePacket (s : State) (k c j : Nat) (p : Packet) : State :=
  let s := s.wakeRequest (clusterOf c)
  if (s.clusterAt (clusterOf c)).isUp then { s with packets := dropAt s.packets k }.place c j p
  else { s with packets := s.packets.set k { p with hint := false, slot := some j, dst := c } }

/-- A placement packet has passed through the cores between two: each counts it as received and sent, but for a killed one (R54, R64). -/
def State.passThrough (s : State) (a b : Nat) (lid : BitVec 16) : State :=
  (((route a b).drop 1).dropLast).foldl (fun s c => if (s.coreAt c).killed then s else (s.countRecv c lid).countSent c lid) s

/-- A placement packet goes back to its root and its strand to the fallback queue; what it had reserved lapses. -/
def State.backToRoot (s : State) (p : Packet) : State :=
  let s := s.passThrough p.at_ p.org p.cont.id.lid
  let id := p.cont.id
  let u := (s.unfoldedAt id).map Unfolded.lowest
  let s := match s.homeOf id with
    | none => s
    | some h => (s.onCore h fun k => { k with bars := k.bars.filter fun b => b.2 != id }).freeReserved h id
  let s := s.onUnfolded id fun u => { u with home := none, left := 0, bars := [], slot := none }
  (s.countRecv p.org id.lid).onLaunch id.lid fun l => { l with queue := joinQueue (u.getD 256, id.sid) l.queue }

/-- The core after one on the route of a walk. -/
def nextOn (a b at_ : Nat) : Option Nat :=
  match (route a b).dropWhile (· != at_) with
  | _ :: c :: _ => some c
  | _ => none

/-- One core of a hint walk: it takes the packet, or the packet goes on, or back from the hint (R54). -/
def State.walkStep (s : State) (k : Nat) (p : Packet) : State :=
  match s.launchAt p.cont.id.lid with
  | none => { s with packets := dropAt s.packets k }
  | some l =>
    let hint := 32 * p.hy + p.hx
    let taken := if distance p.at_ hint ≤ p.rad then s.fitSlot l p.at_ else none
    match taken with
    | some j =>
      ((s.reserve l p.cont.id p.at_ j).onSlot p.at_ j fun v => { v with inbound := some p.cont.id }).settlePacket k p.at_ j p
    | none =>
      let pass (s : State) : State :=
        if p.at_ = p.org || (s.coreAt p.at_).killed then s
        else (s.countRecv p.at_ p.cont.id.lid).countSent p.at_ p.cont.id.lid
      match nextOn p.org hint p.at_ with
      | some c => { pass s with packets := (pass s).packets.set k { p with at_ := c } }
      | none => { pass s with packets := dropAt s.packets k }.backToRoot p

/-- A dispatched packet at its core: in its slot; back to its root when the core has been killed; on as any migration packet when the core
has been vacated; and into the core's ring where the core has been vacated and released since, so that nothing holds the slot any more
(R54, R55, R61; notes/assumptions/39.md). -/
def State.settleAt (s : State) (k : Nat) (p : Packet) (j : Nat) : State :=
  let d := s.coreAt p.dst
  let id := p.cont.id
  let v := s.slotAt p.dst j
  if d.killed then { s with packets := dropAt s.packets k }.backToRoot p
  else if (d.vacating || (d.vacated && !s.onVacated id.lid)) then
    { s.freeReserved p.dst id with packets := s.packets.set k { p with slot := none } }
  else if v.reserved != some id && v.inbound != some id then { s with packets := s.packets.set k { p with slot := none } }
  else s.settlePacket k p.dst j p

/-- A dispatched packet reaches its core, having passed through those between. -/
def State.landPacket (s : State) (k : Nat) (p : Packet) (j : Nat) : State :=
  if p.at_ = p.dst then s.settleAt k p j
  else
    let q := { p with at_ := p.dst }
    { s.passThrough p.at_ p.dst p.cont.id.lid with packets := s.packets.set k q }.settleAt k q j

/-- PLACEMENT_PACKET: packet `k`, if it is one, at the next core of its way. -/
def State.placementPacket (s : State) (k : Nat) : State :=
  match s.packets[k]? with
  | none => s
  | some p =>
    if p.hint then s.walkStep k p
    else match p.slot with
      | some j => s.landPacket k p j
      | none => s

/-! ## Migration packets (R38, R59, R61, R64) -/

/-- MIGRATION_PACKET_ARRIVAL: packet `k` at its destination enters the ring, or parks there for the time it has left (R272), goes on from
a vacated core, or returns from a killed one. -/
def State.migrationArrival (s : State) (k : Nat) : State :=
  match s.packets[k]? with
  | none => s
  | some p =>
    let lid := p.cont.id.lid
    let d := s.coreAt p.dst
    let rest : State := { s with packets := dropAt s.packets k }
    if p.hint || p.slot.isSome then s
    else if d.killed then
      let q := { p with cont := { p.cont with pend := some (.refused, BitVec.ofNat 48 p.dst) }, park := none }
      if (s.coreAt p.org).killed then
        match s.nearestAvailable p.dst with
        | none => rest.strandDone p.cont.id false
        | some n => (rest.countRecv n lid).makeReady n q
      else (rest.countRecv p.org lid).makeReady p.org q
    else if d.vacating || (d.vacated && !s.onVacated lid) then
      match s.nearestAvailable p.dst with
      | some n => { ((s.countRecv p.dst lid).countSent p.dst lid) with packets := s.packets.set k { p with dst := n } }
      | none =>
        match (rest.countRecv p.dst lid).saveSlot p.dst p (slotLink none) with
        | (s, false) => s
        | (s, true) => s.onCore p.dst fun c => { c with held := c.held ++ [{ pkt := p, since := s.now, w0 := 0, pos := 0 }] }
    else
      (rest.countRecv p.dst lid).arrive p.dst p

/-! ## The events -/

/-- TASK_INBOX_ACCEPT. -/
def execTaskInboxAccept (k : Nat) (s : State) : Out := .next (s.inboxAccept k)
/-- LAUNCH_MESSAGE_FORWARD. -/
def execLaunchMessageForward (s : State) : Out := .next s.forwardLaunch
/-- LAUNCH_ACCEPTANCE. -/
def execLaunchAcceptance (core : Nat) (s : State) : Out := .next (s.acceptLaunch core)
/-- UNFOLDING. -/
def execUnfolding (core : Nat) (s : State) : Out := .next (s.unfold core)
/-- PLACEMENT_PACKET. -/
def execPlacementPacket (k : Nat) (s : State) : Out := .next (s.placementPacket k)
/-- ROUND_ROBIN_FALLBACK. -/
def execRoundRobinFallback (core : Nat) (s : State) : Out := .next (s.dispatch core)
/-- MIGRATION_PACKET_ARRIVAL. -/
def execMigrationPacketArrival (k : Nat) (s : State) : Out := .next (s.migrationArrival k)

end Sys2Proof.Machine
end

