-- ==== Sys2Proof/Machine/Schedule.lean ====
section
/-! DEFINITION. Slots and strands over time: take-up, the loads that follow it, quantum expiry, wait limits, the end of a launch and
spatial pre-emption (R49, R55 to R57, R61, R64 to R67, R71, R82, R89, R146, R148, R272, R395, R396). -/

namespace Sys2Proof.Machine

/-! ## Take-up (R57) -/

/-- The effective priority of a ring entry at a cycle. -/
def RingEntry.eff (e : RingEntry) (now : Nat) : Nat := min 31 (e.pkt.bpri.toNat + (now - e.since + e.w0) / 65536)

/-- Whether a slot of a core is reserved to a strand. -/
def State.hasReserved (s : State) (c : Nat) (id : StrandId) : Bool := (List.range 8).any fun j => (s.slotAt c j).reserved == some id

/-- The ring entry a slot takes up: its own strand's if it is reserved; else the entry of highest effective priority, displaced
strands first and then the oldest, among those that have no slot of their own here. -/
def State.choice (s : State) (c j : Nat) : Option RingEntry :=
  let ring := (s.coreAt c).ring
  match (s.slotAt c j).reserved with
  | some id => ring.find? fun e => e.pkt.cont.id == id
  | none =>
    leastBy (fun (e : RingEntry) => (31 - e.eff s.now) * 2 + bit (!e.pkt.ahead)) (ring.filter fun e => !s.hasReserved c e.pkt.cont.id)

/-- A displaced strand of a co-resident launch holds its new slot as it held its old one (R67). -/
def State.regain (s : State) (c j : Nat) (p : Packet) : State :=
  let taken := ((List.range 8).filter fun i => (s.slotAt c i).reserved.isSome).length
  match s.launchAt p.cont.id.lid with
  | none => s
  | some l => if p.ahead && l.cores && taken < 7 then s.onSlot c j fun v => { v with reserved := some p.cont.id } else s

/-- TAKE_UP: an idle slot takes up a continuation of its core's ring, as its record then is. One that starts afresh has its control block
at reset, every other one loads it (R35, R82). -/
def State.takeUp (s : State) (c j : Nat) : State :=
  let v := s.slotAt c j
  let k := s.coreAt c
  if v.strand.isSome || v.inbound.isSome || k.killed || k.vacating || !(s.clusterAt (clusterOf c)).isUp then s
  else match s.choice c j with
    | none => s
    | some e => match s.leaveRing c e with
      | (s, none) => s
      | (s, some p) =>
        let s := s.startStrand c j p (BitVec.ofNat 5 (e.eff s.now))
        let s := if p.cont.fresh then s.freshBlock c j else s.onSlot c j fun v => { v with needScb := true }
        s.regain c j p

/-- SHADOW_REGISTER_LOAD: the work packet of the strand's HANDLE fills FMT, SCA and SCB; a failure is taken at its next
instruction. WPKT is a global address: one that lies in a window is walked like any other (notes/assumptions/134.md). -/
def State.loadShadow (s : State) (c j : Nat) : State :=
  let v := s.slotAt c j
  let s := s.putSlot c j { v with needShadow := false }
  let fail (s : State) (cause : Cause) (a : Nat) : State := s.onSlot c j fun v => { v with first := v.first ++ [(cause, BitVec.ofNat 48 a)] }
  if v.strand.isNone || !v.needShadow then s
  else match s.launchAt v.id.lid with
    | none => s
    | some l =>
      let a := l.packetAddress (match v.strand with | some b => b.handle | none => 0)
      match s.readGlobal (s.who c j) v.pid (v.pid == s.spid) a 64 .read with
      | (s, .error cause) => fail s cause a
      | (s, .ok bs) =>
        if packetReserved bs then fail s .illegal a
        else s.onSlot c j fun v => { v with
          fmt := BitVec.ofNat 32 (fieldAt bs 0 4), sca := BitVec.ofNat 48 (fieldAt bs 8 8), scb := BitVec.ofNat 48 (fieldAt bs 16 8) }

/-- STRAND_CONTROL_BLOCK_LOAD: FPC, WLIM and MQB from the strand control block; its reserved bits are ignored (notes/assumptions/131.md),
and a load that fails leaves the three as they stand in the slot (notes/assumptions/152.md). -/
def State.loadBlock (s : State) (c j : Nat) : State :=
  let v := s.slotAt c j
  let s := s.putSlot c j { v with needScb := false }
  if v.strand.isNone || !v.needScb then s
  else
    let a := s.scbAddress v.id
    match s.dataRead c j a 64 with
    | (s, .error cause) => s.onSlot c j fun v => { v with first := v.first ++ [(cause, BitVec.ofNat 48 a)] }
    | (s, .ok bs) => s.onSlot c j fun v => { v with
        fpc := fpcWrite 0 (fieldAt bs 0 4), wlim := BitVec.ofNat 64 (fieldAt bs 8 6),
        mqb := BitVec.ofNat 64 (fieldAt bs 16 8 % 2 ^ 48 + bit (bitAt (fieldAt bs 16 8) 63) * 2 ^ 63) }

/-- LANE_MODULUS_RELOAD: the table at MQB, ahead of the first modular instruction, which takes a failure itself (R89). -/
def State.reloadAhead (s : State) (c j : Nat) : State :=
  let v := s.slotAt c j
  if v.strand.isNone || v.modLoaded || !v.mqValid then s
  else match s.reloadModuli c j with
    | (s, none) => s
    | _ => s

/-! ## Quantum expiry (R37, R57, R238) -/

/-- Whether a slot stands between instructions where asynchronous causes are taken: outside a frame and outside handler state, with
nothing begun but the wait for a leave, and the loads of its take-up made (R49, R82, R238, R349, R378). -/
def Slot.between (v : Slot) : Bool :=
  v.strand.isSome && (v.run.isNone || v.run == some .leave) && v.frame.isNone && !v.handler && !v.needShadow && !v.needScb

/-- Whether a slot takes asynchronous causes now: between instructions, every access performed (R231, R377). -/
def Slot.atBoundary (v : Slot) : Bool := v.between && v.awaits.isEmpty

/-- The AUDIT cause that a slot's strand takes: it is system software's in slot 0 of the supervisor of a cluster that has one raised; the
cluster, and the address of the audit slot (R414, R415). -/
def State.auditCause (s : State) (c j : Nat) : Option (Nat × Word) :=
  let v := s.slotAt c j
  if j != 0 || v.strand.isNone || v.pid != s.spid then none
  else (s.clusters.filterMap fun e => e.2.raised.map fun a => (e.1, a)).find? fun p => s.supervisorFor p.1 == some c

/-- Whether posted stores of a core or output patterns of a slot must drain before a suspension. -/
def State.draining (s : State) (c j : Nat) : Bool := s.posted c 3 || (s.slotAt c j).draining

/-- QUANTUM_EXPIRY: a strand that has held an unreserved slot for 2^18 cycles goes back to the ring when a continuation of at least
its base priority waits. What is due at the boundary is taken first (R377). A flush that faults abandons it. -/
def State.expireQuantum (s : State) (c j : Nat) : State :=
  let v := s.slotAt c j
  let base := match v.strand with | some b => b.base.toNat | none => 0
  if (s.coreAt c).halted || !v.atBoundary || !v.pend.isEmpty || !v.first.isEmpty || v.preempt || v.reserved.isSome || s.now < v.takenAt + 2 ^ 18 ||
      (s.auditCause c j).isSome || s.draining c j then s
  else if (s.coreAt c).ring.any fun (e : RingEntry) => base ≤ e.eff s.now then
    match s.suspend c j id v.pc c 0 with
    | (s, .error f) => s.onSlot c j fun v => { v with
        takenAt := s.now, pend := v.pend ++ [{ cause := f.1, eva := f.2, sub := 0, entry := none }] }
    | (s, .ok p) => s.makeReady c p
  else s

/-! ## Wait limits (R148, R272) -/

/-- Whether a waiter has waited longer than its limit (R148). -/
def Waiter.over (w : Waiter) (now : Nat) : Bool := 0 < w.limit && w.since + w.limit < now

/-- Waiter `n` of a core leaves its list. -/
def State.dropWaiter (s : State) (c : Nat) (w : Waiter) (pend : Option (Cause × Word)) : State :=
  match s.takeWaiter c w with
  | (s, some w) => s.releaseWaiter c w pend
  | (s, none) => s

/-- WAIT_LIMIT_EXPIRY: waiter `n` of a core goes back to its ring with WAITLIM pending. -/
def State.expireWait (s : State) (c n : Nat) : State :=
  match (s.coreAt c).waiters[n]? with
  | none => s
  | some w =>
    if w.kind == .timed || !w.over s.now then s
    else s.dropWaiter c w (some (.waitlim, w.ea))

/-- PARK_WAKE: a strand that `park` suspended goes back to its ring when its limit has passed. -/
def State.wakePark (s : State) (c n : Nat) : State :=
  match (s.coreAt c).waiters[n]? with
  | none => s
  | some w =>
    if w.kind != .timed || !w.over s.now then s
    else s.dropWaiter c w none

/-! ## The end of a launch (R45, R64, R65, R416) -/

/-- The messages of a launch sent and received over all cores. -/
def State.totals (s : State) (lid : BitVec 16) : Nat × Nat :=
  let t := s.cores.flatMap fun (e : Nat × Core) => e.2.traffic.filter fun t => t.lid == lid
  (sumBy (·.sent) t, sumBy (·.recv) t)

/-- Whether a core holds a running, ready, parked or held strand of a launch. -/
def Core.busyFor (k : Core) (lid : BitVec 16) : Bool :=
  k.slots.any (fun e => match e.2.strand with | some b => b.id.lid == lid | none => false) ||
    (k.ring ++ k.overflow ++ k.held).any (fun e => e.pkt.cont.id.lid == lid) || k.waiters.any fun w => w.pkt.cont.id.lid == lid

/-- Whether every core is idle for a launch; the root also has no unborn or queued strand of it. -/
def State.idleFor (s : State) (l : Launch) (lid : BitVec 16) : Bool :=
  l.nextSid = l.count && l.queue.isEmpty && !s.cores.any fun (e : Nat × Core) => e.2.busyFor lid

/-- The waiting strands of a launch leave a core: its lists close up, and what waits in memory moves on chip (R56, R147). -/
def State.purgeCore (s : State) (c : Nat) (lid : BitVec 16) : State :=
  let s := ((s.coreAt c).waiters.filter fun x => x.pkt.cont.id.lid == lid).foldl (fun s w => (s.takeWaiter c w).1) s
  let k := s.coreAt c
  let left := k.overflow.filter fun x => x.pkt.cont.id.lid != lid
  let s := s.putCore c { k with
    ring := k.ring.filter fun x => x.pkt.cont.id.lid != lid, overflow := left, held := k.held.filter fun x => x.pkt.cont.id.lid != lid }
  (if left.length = k.overflow.length then s else State.relink c left s).refill c

/-- A launch that a kill ends: what waits of it anywhere ends now, and nothing more of it is born (R416). -/
def State.purge (s : State) (lid : BitVec 16) : State :=
  let gone := s.cores.flatMap fun (e : Nat × Core) =>
    (e.2.ring ++ e.2.overflow ++ e.2.held).map (·.pkt.cont.id) ++ e.2.waiters.map (·.pkt.cont.id)
  let s := (gone.filter fun id => id.lid == lid).foldl (fun s id => s.strandDone id false) s
  let s := s.cores.foldl (fun (s : State) e => s.purgeCore e.1 lid) s
  s.onLaunch lid fun l => { l with nextSid := l.count, queue := [] }

/-- Everything of a launch that its cores hold is freed. -/
def State.freeLaunch (s : State) (lid : BitVec 16) : State :=
  let s := s.cores.foldl (fun (s : State) e =>
    let s := (e.2.allocs.filter fun a => a.lid == lid).foldl (fun s a => s.freeAlloc e.1 a) s
    let s := upTo 8 (fun s j =>
      let v := s.slotAt e.1 j
      if v.reserved.any (fun i => i.lid == lid) || v.inbound.any (fun i => i.lid == lid) then
        s.putSlot e.1 j { v with reserved := none, inbound := none } else s) s
    s.onCore e.1 fun k => { k with
      bars := k.bars.filter fun b => b.2.lid != lid, bound := k.bound.filter fun b => b.1.lid != lid,
      leaves := k.leaves.filter fun l => l.owner.lid != lid, consts := k.consts.filter fun x => x.1 != lid,
      traffic := k.traffic.filter fun t => t.lid != lid }) s
  s.onCore (rootOf lid) fun k => { k with launches := k.launches.filter fun l => l.index != lid.toNat % 64 }

/-- The root, or the supervisor that ends the launch for it, fills the completion word and frees the entry. -/
def State.endLaunch (s : State) (l : Launch) (lid : BitVec 16) : State :=
  let c := l.heir.getD (rootOf lid)
  match s.fillDone c l.pid l.done (if l.dead then 4 else 0) l.ndone with
  | (s, true) => s.freeLaunch lid
  | (s, false) => (s.logLaunch c l.pid lid l.lrec.toNat).freeLaunch lid

/-- One sweep of one launch. -/
def State.sweepOne (s : State) (lid : BitVec 16) : State :=
  let s := match s.launchAt lid with
    | some l => if l.ending then s.purge lid else s
    | none => s
  match s.launchAt lid with
  | none => s
  | some l =>
    let t := s.totals lid
    if !s.idleFor l lid || t.1 != t.2 then s.onLaunch lid fun l => { l with swept := none }
    else if l.swept = some t.1 then s.endLaunch l lid
    else s.onLaunch lid fun l => { l with swept := some t.1 }

/-- LAUNCH_SWEEP: every live launch, in ascending id. -/
def State.sweep (s : State) : State :=
  (s.cores.flatMap fun (e : Nat × Core) => e.2.launches.map fun l => BitVec.ofNat 16 (e.1 * 64 + l.index)).foldl State.sweepOne s

/-! ## Spatial pre-emption (R66, R67, R395, R396) -/

/-- The occupied slots of a core. -/
def Core.occupied (k : Core) : Nat := (k.slots.filter fun e => e.2.strand.isSome).length

/-- The cores of the rectangle of a request word. -/
def rectangle (w : Nat) : List Nat :=
  (List.range 1024).filter fun c =>
    bitsOf w 15 11 ≤ colOf c && colOf c ≤ bitsOf w 25 21 && bitsOf w 20 16 ≤ rowOf c && rowOf c ≤ bitsOf w 30 26

/-- The first `n` cores in ascending number of occupied slots and then in ascending id. -/
def State.leastOccupied (s : State) : Nat → List Nat → List Nat
  | 0, _ => []
  | n + 1, l => match leastBy (fun c => (s.coreAt c).occupied * 1024 + c) l with
    | none => []
    | some c => c :: s.leastOccupied n (l.filter (· != c))

/-- The cores a request selects, or nothing when it is refused. -/
def State.selected (s : State) (w issuer : Nat) : Option (List Nat) :=
  let k := bitsOf w 10 0
  if k = 0 ∨ 1024 < k then none
  else if bitAt w 31 then
    let l := (rectangle w).filter fun c => (s.coreAt c).vacated
    if l.isEmpty then none else some (l.take k)
  else
    let l := (rectangle w).filter fun c => !(s.coreAt c).vacated && !(s.coreAt c).killed && c != issuer
    if l.length < k then none else some (s.leastOccupied k l)

/-- A continuation of a vacated core's ring leaves it as its record is, with the effective priority it has. -/
def State.moveReady (s : State) (c : Nat) (e : RingEntry) : State :=
  match s.readRing c e with
  | (s, none) => s
  | (s, some p) => s.moveAway c { p with epri := BitVec.ofNat 5 (e.eff s.now) }

/-- A continuation that waits in its slot of the continuation area leaves a vacated core as its record there is. -/
def State.moveSaved (s : State) (c : Nat) (e : RingEntry) : State :=
  match s.readSlot c e.pkt with
  | (s, none) => s
  | (s, some p) => s.moveAway c p

/-- A strand that `park` suspended moves with its limit, which runs on (R272, R384). -/
def State.moveParked (s : State) (c : Nat) (w : Waiter) : State :=
  match s.takeWaiter c w with
  | (s, none) => s
  | (s, some w) => s.moveAway c { w.pkt with park := some (w.since, w.limit) }

/-- The core is vacated: what it held moves away. -/
def State.finishVacate (s : State) (c : Nat) : State :=
  let k := s.coreAt c
  if !k.vacating || 0 < k.occupied then s
  else
    let parked := k.waiters.filter fun w => w.kind == .timed
    let s := s.putCore c { k with ring := [], overflow := [], held := [], vacating := false, vacated := true }
    let s := k.held.foldl (fun s e => s.moveSaved c e) s
    let s := k.ring.foldl (fun s e => s.moveReady c e) s
    let s := k.overflow.foldl (fun s e => s.moveSaved c e) s
    parked.foldl (fun s w => s.moveParked c w) s

/-- A selected core leaves every allowed set with VAC = 0, its co-resident reservations lapse (what becomes of a strand not yet placed:
notes/assumptions/151.md), and its strands have PREEMPT pending. -/
def State.beginVacate (s : State) (c : Nat) : State :=
  let s := { s with cores := s.cores.map fun (e : Nat × Core) => (e.1, { e.2 with
    launches := e.2.launches.map fun (l : Launch) => if l.vac then l else { l with allowed := l.allowed.filter (· != c) } }) }
  let s := upTo 8 (fun s j => s.onSlot c j fun v => { v with reserved := none, preempt := v.strand.isSome }) s
  (s.onCore c fun k => { k with vacating := true }).finishVacate c

/-- A continuation that waited for a release is sent from the core it left; where that core alone is available, it enters its own ring
(notes/assumptions/137.md). -/
def State.sendHeld (s : State) (c : Nat) (e : RingEntry) : State :=
  let k := s.coreAt c
  if (s.nearestAvailable c).isNone && !k.vacated && !k.vacating && !k.killed then
    match s.readSlot c e.pkt with
    | (s, none) => s
    | (s, some p) => s.arrive c p
  else s.moveSaved c e

/-- Released cores are no longer vacated; then every continuation that waited for a release, at any core, is sent. -/
def State.releaseCores (s : State) (l : List Nat) : State :=
  let s := l.foldl (fun (s : State) c => s.onCore c fun k => { k with vacated := false }) s
  s.cores.foldl (fun (s : State) e =>
    (s.coreAt e.1).held.foldl (fun s x => s.sendHeld e.1 x) (s.onCore e.1 fun k => { k with held := [] })) s

/-- A request: the cores selected and whether it is a release, or nothing when it is refused. -/
def State.request (s : State) (w issuer : Nat) : State × List Nat :=
  match s.selected w issuer with
  | none => (s, [])
  | some l => (if bitAt w 31 then s.releaseCores l else l.foldl State.beginVacate s, l)

/-- `preempt`: stalls until every selected core is vacated, or has been killed (R417). -/
def execPreempt (d a : BitVec 5) (t : BitVec 3) (s : State) : Out :=
  issue { use (.preempt d a t) with srcs := [(a, 0)], dsts := [d], st := t } s fun s =>
    match s.me.run with
    | some (.preempt cores _) =>
      if cores.any fun c => (s.coreAt c).vacating then .stall s
      else .retire (s.dst d (BitVec.ofNat 48 (cores.filter fun c => (s.coreAt c).vacated && !(s.coreAt c).killed).length) 0 1) none
    | _ =>
      let w := (s.src a).toNat % 2 ^ 32
      let r := s.request w s.core
      if bitAt w 31 || r.2.isEmpty then .retire (r.1.dst d (BitVec.ofNat 48 r.2.length) 0 1) none
      else .stall (r.1.onMe fun v => { v with run := some (.preempt r.2 false) })

/-- Whether a strand's work still drains before its save: the posted stores of its core, entries that have not stopped, unacknowledged
posted requests, engine operations, and output patterns (R170, R395). -/
def State.unsaved (s : State) (c j : Nat) : Bool :=
  let v := s.slotAt c j
  s.posted c 3 || v.board.any (fun (e : SbEntry) => !e.stop) || v.unack != 0 || v.draining ||
    (s.coreAt c).engine.queue.any fun (o : MmaOp) => o.id == v.id && o.task.isNone

/-- A failure found while a strand's work drains ends it as a double trap does. -/
def State.failSave (s : State) (c j : Nat) (cause : Cause) : State := (s.endTwice c j cause Cause.preempt.code).finishVacate c

/-- PREEMPT_SAVE: with no strand to save, the core may be vacated. PREEMPT is taken at an instruction boundary with no older cause; then,
once the strand's work has drained, its continuation is written. -/
def State.saveStrand (s : State) (c j : Nat) : State :=
  let v := s.slotAt c j
  if !v.preempt then s.finishVacate c
  else if v.run = some .saving then
    match v.pend with
    | p :: _ => s.failSave c j p.cause
    | [] =>
      if s.unsaved c j then s
      else match s.suspend c j (fun v => { v with run := none }) v.pc c 4 with
        | (s, .error f) => s.failSave c j f.1
        | (s, .ok p) =>
          match s.saveSlot c p (slotLink none) with
          | (s, false) => s.finishVacate c
          | (s, true) =>
            (s.onCore c fun k => { k with held := k.held ++ [{ pkt := { p with ahead := true }, since := s.now, w0 := 0, pos := 0 }] }).finishVacate c
  else if v.atBoundary && v.pend.isEmpty && (s.auditCause c j).isNone then s.onSlot c j fun v => { v with run := some .saving }
  else s

/-! ## The events -/

/-- TAKE_UP. -/
def execTakeUp (core slot : Nat) (s : State) : Out := .next (s.takeUp core slot)
/-- SHADOW_REGISTER_LOAD. -/
def execShadowRegisterLoad (core slot : Nat) (s : State) : Out := .next (s.loadShadow core slot)
/-- STRAND_CONTROL_BLOCK_LOAD. -/
def execStrandControlBlockLoad (core slot : Nat) (s : State) : Out := .next (s.loadBlock core slot)
/-- LANE_MODULUS_RELOAD. -/
def execLaneModulusReload (core slot : Nat) (s : State) : Out := .next (s.reloadAhead core slot)
/-- QUANTUM_EXPIRY. -/
def execQuantumExpiry (core slot : Nat) (s : State) : Out := .next (s.expireQuantum core slot)
/-- LAUNCH_SWEEP. -/
def execLaunchSweep (s : State) : Out := .next s.sweep
/-- SPATIAL_PREEMPTION_REQUEST by host software: no core issues it. -/
def execSpatialPreemptionRequest (w : BitVec 32) (s : State) : Out := .next (s.request w.toNat 1024).1
/-- PREEMPT_SAVE. -/
def execPreemptSave (core slot : Nat) (s : State) : Out := .next (s.saveStrand core slot)
/-- WAIT_LIMIT_EXPIRY. -/
def execWaitLimitExpiry (core n : Nat) (s : State) : Out := .next (s.expireWait core n)
/-- PARK_WAKE. -/
def execParkWake (core n : Nat) (s : State) : Out := .next (s.wakePark core n)

end Sys2Proof.Machine
end

