-- ==== Sys2Proof/Machine/Happenings.lean ====
section
/-! DEFINITION. Happenings of the arrays, streams and engines of a core: DRAM refresh, hot mode, throttle and loss, register banks
and marks, stream patterns and channels, and the ends of engine work (R76, R78, R79, R81, R86, R140 to R142, R156, R157, R194,
R210, R213, R314, R316, R343, R407, R413). -/

namespace Sys2Proof.Machine

/-! ## DRAM (R140 to R142, R156, R157, R407) -/

/-- Whether a `tld` of a core, a slot's or a tile task's, is transferring from a bank. -/
def State.transferring (s : State) (c b : Nat) : Bool :=
  ((s.coreAt c).slots.any fun e => match e.2.run with
    | some (.tld _ next _) => bankOf next == b
    | _ => false) ||
  (s.clusterAt (clusterOf c)).running.any fun r => r.core == c && r.tld.any fun q => bankOf q.next == b

/-- REFRESH: the refresh that is due, or one that waited; while a segment of a `tld` transfers in the bank it waits. -/
def State.refresh (s : State) (c b : Nat) : State :=
  let x := s.bankAt c b
  if s.now < x.due && !x.waiting then s
  else if s.transferring c b then s.putBank c b { x with waiting := true }
  else s.refreshBank c b

/-- HOT_MODE: a layer passes or falls below its limit; entry and exit of the mode are logged (R141, R430). -/
def State.hotMode (s : State) (layer : Nat) (hot : Bool) : State :=
  let l := if hot then insertNat layer s.quince.hot else s.quince.hot.filter (· != layer)
  let t := { s with quince := { s.quince with hot := l } }
  if l.isEmpty == s.quince.hot.isEmpty then t else t.quinceLog 6 none (bit (!l.isEmpty))

/-- A throttle reason begins in a cluster: NOW, SEEN and the event log (R222). -/
def State.onset (s : State) (g reason : Nat) : State :=
  let k := s.clusterAt g
  if k.now.getLsbD reason then s
  else (s.putCluster g { k with now := setField k.now reason 1 1, seen := setField k.seen reason 1 1 }).quinceLog 1 (some g) reason

/-- DRAM_THERMAL_THROTTLE: every `tld` in progress in the cluster, a slot's or a tile task's, stops at its next beat (R142;
notes/assumptions/147.md). -/
def State.dramThrottle (s : State) (g : Nat) : State :=
  if (s.clusterAt g).now.getLsbD 1 then s
  else
    let s := (s.onset g 1).onCluster g fun k => { k with
      running := k.running.map fun (r : Running) => { r with tld := r.tld.map fun q => { q with stopped := true } } }
    (clusterCores g).foldl (fun (s : State) c => upTo 8 (fun s j =>
      match (s.slotAt c j).run with
      | some (.tld beats next _) => s.onSlot c j fun v => { v with run := some (.tld beats next true) }
      | _ => s) s) s

/-- The banks of a part: a bank, a vertical bus with its whole vault, or the two banks of a layer in every vault. -/
def partBanks (kind core part : Nat) : List (Nat × Nat) :=
  if kind = 0 then [(core, part % 32)]
  else if kind = 1 then (List.range 32).map fun b => (core, b)
  else (List.range 1024).flatMap fun c => [(c, 2 * part % 32), (c, (2 * part + 1) % 32)]

/-- A continuation of a lost ring restarts from its work packet (R157). -/
def State.restartEntry (s : State) (c : Nat) (e : RingEntry) : State :=
  match s.restartPacket c e.pkt with
  | (s, some p) => s.makeReady c p
  | (s, none) => s

/-- The reserved region of a vault is rebuilt where it now lies: the owner map with the pages displaced there retired (R157). -/
def State.rebuild (s : State) (c old : Nat) : State :=
  let base := s.reservedBase c
  let from_ := c * 2 ^ 28 + old + 0x50000
  let to_ := c * 2 ^ 28 + base
  let map := patch (s.mem.readBytes from_ 8192) (2 * (base / 65536)) (List.replicate 32 0xFF)
  let clear := s.mem.filter fun (e : Nat × Byte) => !(to_ ≤ e.1 && e.1 < to_ + 2 ^ 20)
  let s := { s with mem := Memory.write clear (to_ + 0x50000) map, badGran := s.badGran.filter fun g => !(to_ ≤ 32 * g && 32 * g < to_ + 2 ^ 20) }
  let ring := (s.coreAt c).ring
  (ring.foldl (fun s e => s.restartEntry c e) (s.onCore c fun k => { k with ring := [] })).refill c

/-- LOSS_OF_MEMORY: Quince marks a part lost and logs it; a reserved region that lay in it is rebuilt, and a vault with nothing
left kills its core. -/
def State.lose (s : State) (kind core part : Nat) : State :=
  let banks := (partBanks kind core part).filter fun p => !s.quince.lost.contains p
  let vaults := (banks.map (·.1)).eraseDups
  let olds := vaults.map fun c => (c, s.reservedBase c)
  let s := { s with quince := { s.quince with
    lost := s.quince.lost ++ banks, failing := s.quince.failing.filter fun p => !banks.contains p } }
  let s := if banks.isEmpty then s else s.quinceLog 3 (if kind < 2 then some (clusterOf core) else none) (kind * 2 ^ 32 + core * 2 ^ 16 + part)
  olds.foldl (fun (s : State) p =>
    if (List.range 32).all fun b => s.quince.lost.contains (p.1, b) then s.callKill p.1 0 0
    else if s.reservedBase p.1 = p.2 then s
    else s.rebuild p.1 p.2) s

/-! ## Register banks and marks (R76, R78, R79, R81, R407) -/

/-- Changes a quad bank of a slot: 0 and 1 the window's, from 2 on those of the older windows. -/
def Slot.onBank (v : Slot) (n : Nat) (f : Quad → Quad) : Slot :=
  if n = 0 then { v with lo := f v.lo }
  else if n = 1 then { v with hi := f v.hi }
  else { v with older := v.older.zipIdx.map fun p => if p.2 + 2 = n && p.1.inFile then { p.1 with quad := f p.1.quad } else p.1 }

/-- RETENTION: a bank not accessed for 4,096 cycles, unless its parity has failed three times. -/
def Quad.retain (q : Quad) (now : Nat) : Quad :=
  if q.power == .on && q.touched + 4096 ≤ now && q.fails < 3 then { q with power := .retention } else q

/-- SHORT_LIVED_LAPSE: the guarantee of a marked register lapses at 2,048 cycles of age. -/
def Reg.lapse (r : Reg) (now : Nat) : Reg := if r.expired now then { r with lapsed := true } else r

/-! ## Streams (R86, R314, R316) -/

/-- An access of a pattern to its own vault takes its place among those that wait for a tag (R136). -/
def State.patternWait (s : State) (c j : Nat) (t : Stream) : State :=
  if t.tag.isSome then s
  else { s.onSlot c j fun v => v.onStream t.num fun (t : Stream) => { t with tag := some s.orders } with orders := s.orders + 1 }

/-- STREAM_PATTERN_READ: the next entry of an input pattern is read into its FIFO, as a plain load: after what the strand has stored
there, and by a request for each granule where it is not local (R163, R180, R299); a fault is held there. -/
def State.patternRead (s : State) (c j n : Nat) : State :=
  match (s.slotAt c j).streams.find? fun (t : Stream) => t.num == n && t.kind == .inPattern with
  | none => s
  | some t =>
    if 4 ≤ t.fifo.length || t.cnt ≤ t.ahead then s
    else
      let a := t.address t.ahead
      let x := s.ctx c j
      let add (s : State) (e : FifoEntry) : State :=
        s.onSlot c j fun v => v.onStream n fun (t : Stream) => { t with ahead := t.ahead + 1, fifo := t.fifo ++ [e], tag := none }
      match s.regionCheck c j a.toNat with
      | (s, some cause) => add s { row := 0, fault := some cause, addr := a, wait := [] }
      | (s, none) =>
        if t.tag.isNone && s.engineBehind x a.toNat 128 .read then s
        else if isLocal c a.toNat then
          if regionOf a.toNat == .local_ && !s.tagFree c t.tag then s.patternWait c j t
          else match s.dataRead c j a.toNat 128 with
            | (s, .ok bs) => add s { row := rowOfBytes bs, fault := none, addr := a, wait := [] }
            | (s, .error cause) => add s { row := 0, fault := some cause, addr := a, wait := [] }
        else
          let ms := ({ s with core := c, slot := j }.granuleReads a 128).zipIdx.map fun (p : Msg × Nat) => { p.1 with client := .stream c j x.id n p.2 }
          let r := s.sendAll ms
          add r.1 { row := 0, fault := none, addr := a, wait := r.2.zipIdx.map fun p => (p.2, p.1) }

/-- A local write of an output pattern that faults is resolved as a posted store: in a scoreboard entry, or in strict mode as REFUSED
with its number (R316, R377, R390). -/
def State.patternFault (s : State) (c j : Nat) (cause : Cause) (va : Word) (bs : List Byte) : State :=
  let q := s.takeSeq c
  match q.1.addEntry (.vector va (BitVec.allOnes 128) bs) .zero q.2 0 with
  | (s, some n) => s.onSlot c j fun v => v.entryFailed n cause va (refusalStatus cause) 0 false true
  | (s, none) => s.onSlot c j fun v =>
      { v with pend := v.pend ++ [{ cause := .refused, eva := q.2.setWidth 48, sub := refusalStatus cause, entry := none }] }

/-- STREAM_PATTERN_WRITE: the oldest pushed entry of an output pattern is written at its address, as a plain store on the route of any
(R316). -/
def State.patternWrite (s : State) (c j n : Nat) : State :=
  match (s.slotAt c j).streams.find? fun (t : Stream) => t.num == n && t.kind == .outPattern with
  | none => s
  | some t =>
    match t.fifo with
    | [] => s
    | e :: r =>
      let bs := rowBytes e.row
      let all : BitVec 128 := BitVec.allOnes 128
      let str := t
      let t := { s with core := c, slot := j }
      let back (t : State) : State := { t with core := s.core, slot := s.slot }
      let pop (t : State) : State :=
        back (t.onSlot c j fun v => v.onStream n fun (t : Stream) => { t with done := t.done + 1, fifo := r, tag := none })
      if t.boardFull then s
      else match t.regionCheck c j e.addr.toNat with
        | (t, some cause) => pop (t.patternFault c j cause e.addr bs)
        | (t, none) =>
          if !isLocal c e.addr.toNat then pop (t.postRow e.addr all bs)
          else if str.tag.isNone && regionOf e.addr.toNat == .local_ && t.behind t.me.id false (c * 2 ^ 28 + e.addr.toNat) 128 then s
          else if regionOf e.addr.toNat == .local_ && !t.tagFree c str.tag then back (t.patternWait c j str)
          else match t.rowWrite c j e.addr.toNat all bs with
            | (t, none) => pop t
            | (t, some cause) => pop (t.patternFault c j cause e.addr bs)

/-- The direction from which a neighbour sees a channel. -/
def opposite (dir : Nat) : Nat := if dir = 0 then 1 else if dir = 1 then 0 else if dir = 2 then 3 else 2

/-- CHANNEL_ENTRY_ARRIVAL: entry `k` on its way, if it is the oldest of its channel and the neighbour's inbound channel has room. A
killed neighbour takes nothing. -/
def State.channelArrival (s : State) (k : Nat) : State :=
  match s.chans[k]? with
  | none => s
  | some m =>
    let rest : State := { s with chans := dropAt s.chans k }
    if (s.chans.take k).any fun x => x.core == m.core && x.dir == m.dir then s
    else match neighbour m.core m.dir with
      | none => rest
      | some n =>
        let q := (look (opposite m.dir) (s.coreAt n).inChan).getD []
        if (s.coreAt n).killed then rest
        else if 8 ≤ q.length then s
        else rest.onCore n fun c => { c with inChan := put (opposite m.dir) (q ++ [m.entry]) c.inChan }

/-! ## The events -/

/-- REFRESH. -/
def execRefresh (core bank : Nat) (s : State) : Out := .next (s.refresh core bank)
/-- HOT_MODE. -/
def execHotMode (layer : Nat) (hot : Bool) (s : State) : Out := .next (s.hotMode layer hot)
/-- DRAM_THERMAL_THROTTLE. -/
def execDramThermalThrottle (cluster : Nat) (s : State) : Out := .next (s.dramThrottle cluster)
/-- LOSS_OF_MEMORY. -/
def execLossOfMemory (kind core part : Nat) (s : State) : Out := .next (s.lose kind core part)
/-- RETENTION. -/
def execRetention (core slot bank : Nat) (s : State) : Out := .next (s.onSlot core slot fun v => v.onBank bank fun q => q.retain s.now)
/-- GAIN_CELL_REFRESH: the live unmarked rows of a slot hold for another 1,024 cycles. -/
def execGainCellRefresh (core slot : Nat) (s : State) : Out := .next (s.onSlot core slot fun v => { v with refreshed := s.now })
/-- SHORT_LIVED_LAPSE. -/
def execShortLivedLapse (core slot reg : Nat) (s : State) : Out :=
  .next (s.onSlot core slot fun v => v.setReg reg ((v.reg reg).lapse s.now))
/-- OPERAND_PREFETCH_COMPLETION. -/
def execOperandPrefetchCompletion (core slot : Nat) (s : State) : Out := .next (s.finishPrefetch core slot)
/-- CHANNEL_ENTRY_ARRIVAL. -/
def execChannelEntryArrival (k : Nat) (s : State) : Out := .next (s.channelArrival k)
/-- STREAM_PATTERN_READ. -/
def execStreamPatternRead (core slot str : Nat) (s : State) : Out := .next (s.patternRead core slot str)
/-- STREAM_PATTERN_WRITE. -/
def execStreamPatternWrite (core slot str : Nat) (s : State) : Out := .next (s.patternWrite core slot str)
/-- MMA_COMPLETION. -/
def execMmaCompletion (core : Nat) (s : State) : Out := .next (s.completeMma core)
/-- MMAG_PARTIAL. -/
def execMmagPartial (k : Nat) (s : State) : Out := .next (s.acceptPartial k)
/-- ADMISSION. -/
def execAdmission (cluster : Nat) (s : State) : Out := .next (s.admitNext cluster)
/-- TILE_TASK_COMPLETION. -/
def execTileTaskCompletion (core : Nat) (s : State) : Out := .next (s.completeTask core)
/-- AUDIT_REPLAY. -/
def execAuditReplay (cluster : Nat) (s : State) : Out := .next (s.finishReplay cluster)

end Sys2Proof.Machine
end

