-- ==== Sys2Proof/Machine/Climate.lean ====
section
/-! DEFINITION. The power of clusters over time: the control, boost and refill periods, economy and the rail switch, power gating
and wake, and the throttles (R25, R26, R202, R204, R208, R213, R215 to R222, R224, R427). -/

namespace Sys2Proof.Machine

/-! ## Idleness (R218, R219) -/

/-- Whether an engine of a cluster has an operation in progress. -/
def State.enginesBusy (s : State) (g : Nat) : Bool :=
  !(s.clusterAt g).running.isEmpty || (clusterCores g).any fun c => !(s.coreAt c).engine.queue.isEmpty

/-- Whether a cluster is idle (R219). -/
def State.clusterIdle (s : State) (g : Nat) : Bool :=
  !s.enginesBusy g && !((s.clusterAt g).queue.any fun (t : Task) => t.readyAt.isSome) && (clusterCores g).all fun c =>
    (s.coreAt c).bound.isEmpty && (List.range 8).all fun j => (s.slotAt c j).strand.isNone && (s.slotAt c j).reserved.isNone

/-- What a slot loses when its cluster gates (R219). -/
def Slot.gate (v : Slot) : Slot := { v with rngKey := 0, rngCtr := 0, moduli := List.replicate 16 (0, 0), modLoaded := false }

/-- What a core loses when its cluster gates. -/
def Core.gate (k : Core) : Core :=
  { k with tiles := [], engine := Engine.reset, lut := List.replicate 16 0, ltag := 0, slots := k.slots.map fun e => (e.1, e.2.gate) }

/-- A cluster gates, and holds for 2 µs. -/
def State.gateCluster (s : State) (g : Nat) : State :=
  ((clusterCores g).foldl (fun (s : State) c => s.onCore c Core.gate) s).onCluster g fun k => { k with power := .held (s.now + 3500) false }

/-! ## The control interval (R202, R204, R215, R219, R221, R224) -/

/-- The halves of a nanojoule that each tag owes: its own, and a share of the rest by instructions issued. -/
def Cluster.shares (k : Cluster) (measured : Nat) : List (Nat × Nat) :=
  let own := sumBy (·.2) k.dues
  let total := sumBy (·.2) k.issued
  let rest := 2 * measured - own
  k.issued.foldl (fun l e => put e.1 ((look e.1 l).getD 0 + rest * e.2 / total) l) k.dues

/-- The counters are charged; an odd half is kept for the next interval. -/
def State.chargeTags (s : State) (g measured : Nat) : State :=
  let l := (s.clusterAt g).shares measured
  let s := { s with energy := l.foldl (fun m (e : Nat × Nat) => if e.2 < 2 then m else put e.1 ((look e.1 m).getD 0 + e.2 / 2) m) s.energy }
  s.onCluster g fun k => { k with issued := [], dues := (l.filter fun (e : Nat × Nat) => e.2 % 2 == 1).map fun (e : Nat × Nat) => (e.1, 1) }

/-- Queued tasks above a lowered budget are removed and fail with REFUSED (R215). The end of a replay is no task's: the arrival its original
made stands, and the audit slot is free again (R414). -/
def State.dropOver (s : State) (g : Nat) : State :=
  let k := s.clusterAt g
  let above (t : Task) : Bool := k.ebud < recEnj t.rec_ || k.ibud < recIpk t.rec_
  let s := s.putCluster g { k with queue := k.queue.filter fun (t : Task) => !above t }
  (k.queue.filter above).foldl (fun (s : State) t => match t.audit with
    | some h => s.onCluster h fun k => { k with audit := none }
    | none => s.signalTask ((t.engines g).headD 0) t (some (.refused, 0))) s

/-- The operating point that ECO and a lasting CORE reason ask for (R204, R221). A cluster that enters economy lowers its clock and then
switches rails; one that leaves it switches rails first (R26). -/
def Cluster.point (k : Cluster) : Cluster :=
  let eco := k.cpwr.getLsbD 1 || k.coreEco
  if k.switching then k
  else if k.step = .economy then if eco then k else { k with switching := true }
  else if eco then { k with step := .economy, slot := false, switching := true }
  else k

/-- RAIL_SWITCH: the cores draw from the other rail; on the high one the clock of a cluster that leaves economy rises, to boost where it
has been given a slot (R25, R26, R217). -/
def Cluster.switchRail (k : Cluster) : Cluster :=
  if !k.switching then k
  else { k with switching := false, low := !k.low, step := if !k.low then k.step else if k.slot then .boost else .nominal }

/-- One cluster at a control-interval boundary, with its measured energy in nanojoules: its budgets, their scale and its operating point
take effect (R202), and it gates when it is idle and has been since the last boundary (R219). -/
def State.interval (s : State) (g measured : Nat) : State :=
  let s := s.chargeTags g measured
  let idle := s.clusterIdle g
  let k := s.clusterAt g
  let gates := idle && !k.active && !k.switching && k.power == .up && k.cpwr.getLsbD 3
  let k := { k with
    deduct := measured - k.budget, scale := k.scaleNext, charge := 0, ebud := bitsOf k.cpwr.toNat 31 12, ibud := bitsOf k.cpwr.toNat 47 32,
    noAdmit := k.now.getLsbD 2, active := !idle }
  let s := (s.putCluster g k.point).dropOver g
  if gates then s.gateCluster g else s

/-- CONTROL_INTERVAL: every cluster, and the cap that takes effect with it. -/
def State.controlInterval (s : State) (measured : List Nat) : State :=
  upTo 64 (fun s g => s.interval g (measured.getD g 0)) { s with quince := { s.quince with pcap := s.quince.pcapNext } }

/-! ## Boost (R216 to R218) -/

/-- Whether a strand runs or a task executes in a cluster. -/
def State.inUse (s : State) (g : Nat) : Bool :=
  !(s.clusterAt g).running.isEmpty || (clusterCores g).any fun c => (s.coreAt c).slots.any fun e => e.2.strand.isSome

/-- Whether a cluster claims boost (R216). -/
def State.claims (s : State) (g : Nat) : Bool :=
  let k := s.clusterAt g
  k.cpwr.getLsbD 2 && !k.cpwr.getLsbD 1 && 1 ≤ k.permits && k.now &&& 0b01101 == 0 && s.inUse g

/-- The end of a boost interval at 2.0 GHz: a permit is spent, and with the last one BOOSTX sets in. The fall step ends. -/
def State.spend (s : State) (g : Nat) : State :=
  let k := s.clusterAt g
  if k.step = .fall then s.putCluster g { k with step := .nominal, slot := false }
  else if k.step != .boost then s
  else
    let s := s.putCluster g { k with permits := k.permits - 1 }
    if k.permits ≤ 1 then s.onset g 4 else s

/-- A cluster that held its slot goes on, or takes the fall step; one that was still leaving economy gives the slot up. -/
def State.hold (s : State) (g : Nat) : State :=
  if !(s.clusterAt g).slot || s.claims g then s
  else s.onCluster g fun k => if k.step = .boost then { k with step := .fall } else { k with slot := false }

/-- A cluster given a slot runs at boost, one that is leaving economy as soon as its cores draw from the high rail (R26, R217). -/
def Cluster.boosted (k : Cluster) : Cluster := { k with slot := true, step := if k.low || k.step = .economy then k.step else .boost }

/-- A free slot given to the best claim: the highest claim priority, and among equals the first from after the last winner of a
tie. -/
def State.award (s : State) : Nat → List Nat → State
  | 0, _ => s
  | n + 1, l =>
    let rank (g : Nat) := (31 - (s.clusterAt g).claimPrio) * 64 + (g + 127 - s.quince.lastTie) % 64
    match leastBy rank l with
    | none => s
    | some g =>
      let tie := n + 1 < l.length && 1 < (l.filter fun h => (s.clusterAt h).claimPrio == (s.clusterAt g).claimPrio).length
      let s := s.onCluster g Cluster.boosted
      State.award { s with quince := { s.quince with lastTie := if tie then g else s.quince.lastTie } } n (l.filter (· != g))

/-- BOOST_INTERVAL. -/
def State.boostInterval (s : State) : State :=
  let s := upTo 64 State.hold (upTo 64 State.spend s)
  let used := ((List.range 64).filter fun g => (s.clusterAt g).slot).length
  let s := s.award (16 - used) ((List.range 64).filter fun g => !(s.clusterAt g).slot && s.claims g)
  upTo 64 (fun s g => s.onCluster g fun k => { k with claimPrio := 0 }) s

/-- REFILL_PERIOD: a cluster that issued nothing and ran no engine operation gains a permit; BOOSTX ends with it. -/
def State.refillPermits (s : State) : State :=
  upTo 64 (fun s g =>
    let busy := s.enginesBusy g
    s.onCluster g fun k =>
      let k' := if k.activeRefill || busy then k else { k with permits := min 64 (k.permits + 1), now := setField k.now 4 1 0 }
      { k' with activeRefill := busy }) s

/-! ## Gating, wake and the rail switch (R25, R219, R220) -/

/-- HOLD_END: the hold ends; a request made during it joins the in-rush queue. -/
def State.endHold (s : State) (g : Nat) : State :=
  match (s.clusterAt g).power with
  | .held ends asked =>
    if s.now < ends then s
    else if asked then
      { s.onCluster g fun k => { k with power := .queued } with quince := { s.quince with inrush := s.quince.inrush ++ [g] } }
    else s.onCluster g fun k => { k with power := .gated }
  | _ => s

/-- IN_RUSH_SLOT: the oldest request is served, and its cluster runs. -/
def State.inRush (s : State) : State :=
  match s.quince.inrush with
  | [] => s
  | g :: r => { s.onCluster g fun k => { k with power := .up, active := true } with quince := { s.quince with inrush := r } }

/-! ## Throttles (R221, R222) -/

/-- CORE_THROTTLE. -/
def State.coreThrottle (s : State) (g : Nat) : State :=
  if (s.clusterAt g).now.getLsbD 0 then s else (s.onset g 0).onCluster g fun k => { k with coreSince := s.now }

/-- Whether a CORE reason has been held for 16 µs. -/
def Cluster.coreLasts (k : Cluster) (now : Nat) : Bool := k.now.getLsbD 0 && decide (k.coreSince + 28000 ≤ now)

/-- CORE_THROTTLE_ECONOMY: a reason still held after 16 µs puts the cluster into economy, from the next control-interval boundary on
(R202, R221). -/
def State.coreEconomy (s : State) (g : Nat) : State :=
  s.onCluster g fun k => if k.coreLasts s.now then { k with coreEco := true } else k

/-- CURR_THROTTLE: nothing is admitted. -/
def State.currThrottle (s : State) (g : Nat) : State := (s.onset g 2).onCluster g fun k => { k with noAdmit := true }

/-- A scale lowered by a ratio, in lowest terms. -/
def scaled (x : Nat × Nat) (a b : Nat) : Nat × Nat :=
  let d := Nat.gcd (x.1 * a) (x.2 * b)
  (x.1 * a / d, x.2 * b / d)

/-- PCAP_THROTTLE: device power above the cap scales every EBUD in effect further down, in equal proportion, from the next
control-interval boundary on (R202, R221). -/
def State.pcapThrottle (s : State) (watts : Nat) : State :=
  if watts ≤ s.quince.pcap then s
  else upTo 64 (fun s g => (s.onset g 3).onCluster g fun k => { k with scaleNext := scaled k.scale s.quince.pcap watts }) s

/-- THROTTLE_CLEAR: a reason is no longer in force; what it had lowered rises at the next boundary. -/
def State.throttleClear (s : State) (g reason : Nat) : State :=
  s.onCluster g fun k => { k with
    now := setField k.now (reason % 5) 1 0, scaleNext := if reason = 3 then (1, 1) else k.scaleNext,
    coreEco := k.coreEco && reason != 0 }

/-! ## The events -/

/-- CONTROL_INTERVAL. -/
def execControlInterval (measured : List Nat) (s : State) : Out := .next (s.controlInterval measured)
/-- BOOST_INTERVAL. -/
def execBoostInterval (s : State) : Out := .next s.boostInterval
/-- REFILL_PERIOD. -/
def execRefillPeriod (s : State) : Out := .next s.refillPermits
/-- HOLD_END. -/
def execHoldEnd (cluster : Nat) (s : State) : Out := .next (s.endHold cluster)
/-- IN_RUSH_SLOT. -/
def execInRushSlot (s : State) : Out := .next s.inRush
/-- RAIL_SWITCH. -/
def execRailSwitch (cluster : Nat) (s : State) : Out := .next (s.onCluster cluster Cluster.switchRail)
/-- CORE_THROTTLE. -/
def execCoreThrottle (cluster : Nat) (s : State) : Out := .next (s.coreThrottle cluster)
/-- CORE_THROTTLE_ECONOMY. -/
def execCoreThrottleEconomy (cluster : Nat) (s : State) : Out := .next (s.coreEconomy cluster)
/-- CURR_THROTTLE. -/
def execCurrThrottle (cluster : Nat) (s : State) : Out := .next (s.currThrottle cluster)
/-- PCAP_THROTTLE. -/
def execPcapThrottle (watts : Nat) (s : State) : Out := .next (s.pcapThrottle watts)
/-- THROTTLE_CLEAR. -/
def execThrottleClear (cluster reason : Nat) (s : State) : Out := .next (s.throttleClear cluster reason)
/-- CPWR_WAKE (R204). -/
def execCpwrWake (cluster : Nat) (s : State) : Out := .next (s.wakeRequest cluster)

end Sys2Proof.Machine
end

