-- ==== Sys2Proof/Machine/Digest.lean ====
section
/-! DEFINITION. SHA-384, the digest that a firmware header and an attestation report hold (R428, R429): the spec names it and
gives no algorithm, which is FIPS 180-4's (notes/assumptions/138.md). -/

namespace Sys2Proof.Machine

/-- The greatest `r` below `r₀ + 2 ^ bits` with `r ^ k ≤ n`, its bits settled from the highest down. -/
def rootFrom (k n : Nat) : Nat → Nat → Nat
  | 0, r => r
  | bits + 1, r => rootFrom k n bits (if (r + 2 ^ bits) ^ k ≤ n then r + 2 ^ bits else r)

/-- The first 64 bits of the fraction of the `k`-th root of `p`. -/
def rootFraction (k p : Nat) : BitVec 64 := BitVec.ofNat 64 (rootFrom k (p * 2 ^ (64 * k)) 69 0)

/-- The first 80 primes. -/
def digestPrimes : List Nat := (List.range 410).filter fun p => 2 ≤ p && (List.range p).all fun d => d < 2 || p % d != 0

/-- The 80 round constants: from the cube roots of the first 80 primes. -/
def roundKeys : List (BitVec 64) := digestPrimes.map (rootFraction 3)

/-- The chaining value before the first block: from the square roots of the ninth to the sixteenth prime. -/
def digestStart : List (BitVec 64) := ((digestPrimes.drop 8).take 8).map (rootFraction 2)

/-- A big-endian number of bytes. -/
def bigEndian (bs : List Byte) : Nat := bs.foldl (fun a b => a * 256 + b.toNat) 0

/-- The 64-bit word as eight bytes, the most significant first. -/
def bigBytes (n : Nat) (w : Nat) : List Byte := (List.range n).map fun i => BitVec.ofNat 8 (w / 2 ^ (8 * (n - 1 - i)))

/-- The message schedule: each further word from four earlier ones; the list holds the latest word first. -/
def schedule : Nat → List (BitVec 64) → List (BitVec 64)
  | 0, w => w
  | n + 1, w =>
    let x := w.getD 14 0
    let y := w.getD 1 0
    let s0 := x.rotateRight 1 ^^^ x.rotateRight 8 ^^^ x >>> 7
    let s1 := y.rotateRight 19 ^^^ y.rotateRight 61 ^^^ y >>> 6
    schedule n ((s1 + w.getD 6 0 + s0 + w.getD 15 0) :: w)

/-- One round on the eight working words. -/
def digestRound (h : List (BitVec 64)) (kw : BitVec 64 × BitVec 64) : List (BitVec 64) :=
  let w (i : Nat) : BitVec 64 := h.getD i 0
  let s1 := (w 4).rotateRight 14 ^^^ (w 4).rotateRight 18 ^^^ (w 4).rotateRight 41
  let ch := (w 4 &&& w 5) ^^^ (~~~(w 4) &&& w 6)
  let t1 := w 7 + s1 + ch + kw.1 + kw.2
  let s0 := (w 0).rotateRight 28 ^^^ (w 0).rotateRight 34 ^^^ (w 0).rotateRight 39
  let maj := (w 0 &&& w 1) ^^^ (w 0 &&& w 2) ^^^ (w 1 &&& w 2)
  [t1 + s0 + maj, w 0, w 1, w 2, w 3 + t1, w 4, w 5, w 6]

/-- The chaining value after a block of 128 bytes. -/
def digestBlock (h : List (BitVec 64)) (bs : List Byte) : List (BitVec 64) :=
  let w := (List.range 16).map fun i => BitVec.ofNat 64 (bigEndian ((bs.drop (8 * i)).take 8))
  let keys := roundKeys.zip (schedule 64 w.reverse).reverse
  List.zipWith (· + ·) h (keys.foldl digestRound h)

/-- The message with its padding: a one bit, zeros, and the length in bits in sixteen bytes. -/
def padded (bs : List Byte) : List Byte :=
  bs ++ 0x80 :: List.replicate ((239 - bs.length % 128) % 128) 0 ++ bigBytes 16 (8 * bs.length)

/-- SHA-384 of a list of bytes. -/
def sha384 (bs : List Byte) : List Byte :=
  let m := padded bs
  let h := (List.range (m.length / 128)).foldl (fun h i => digestBlock h ((m.drop (128 * i)).take 128)) digestStart
  (h.take 6).flatMap fun w => bigBytes 8 w.toNat

end Sys2Proof.Machine
end

