-- ==== Sys2Proof/Machine/Management.lean ====
section
/-! DEFINITION. The outside world: writes of registers, the Quince mailbox, the Medlar port, the Sloe links, device reset and
bring-up (R12, R120, R133, R403, R418 to R433). -/

namespace Sys2Proof.Machine

/-! ## Physical buffers of Quince -/

/-- Bytes that Quince reads at a physical address, where they can be read. -/
def State.quinceRead (s : State) (a n : Nat) : State × Option (List Byte) :=
  match spaceOf a with
  | .vault =>
    if (s.coreAt (vaultOf a)).killed then (s, none)
    else
      let r := s.vaultRead (Who.none (vaultOf a)) a n
      (r.1, if r.2.1 = 0 then some r.2.2 else none)
  | .host => (s, if s.medlar.up then some (s.mem.readBytes a n) else none)
  | .fabric => (s, if s.linkUp a then some (s.mem.readBytes a n) else none)
  | _ => (s, none)

/-- Bytes that Quince writes at a physical address: false where they cannot be written. -/
def State.quinceWrite (s : State) (a : Nat) (bs : List Byte) : State × Bool :=
  match spaceOf a with
  | .vault =>
    if (s.coreAt (vaultOf a)).killed then (s, false)
    else
      let r := s.vaultWrite (Who.none (vaultOf a)) a bs
      (r.1, r.2 = 0)
  | .host => if s.medlar.up then ({ s with mem := s.mem.write a bs }, true) else (s, false)
  | .fabric => if s.linkUp a then ({ s with mem := s.mem.write a bs }, true) else (s, false)
  | _ => (s, false)

/-! ## The mailbox (R427 to R430) -/

/-- A command has completed: STS says so, with the reason of a refusal. -/
def State.commandDone (s : State) (refused : Option Nat) : State :=
  let sts := match refused with
    | none => 1
    | some r => 2 + r % 256 * 2 ^ 8
  { s with quince := { s.quince with sts := BitVec.ofNat 64 sts, busy := false } }

/-- A refusal whose reason the spec does not give (notes/assumptions/11.md). -/
def State.commandRefused (s : State) : State :=
  let r := s.draw
  r.2.commandDone (some r.1.toNat)

/-- Whether a command runs. -/
def State.command (s : State) (n : Nat) : Bool := s.quince.busy && s.quince.cmd.toNat == n

/-- The newest `n` entries of the event log, oldest first. -/
def Quince.newest (q : Quince) (n : Nat) : List (BitVec 256) :=
  let n := min n (min q.logCount 4096)
  (List.range n).map fun i => (look ((q.logCount - n + i) % 4096) q.log).getD 0

/-- READ_EVENT_LOG. -/
def State.readEventLog (s : State) : State :=
  if !s.command 1 then s
  else match s.quinceWrite (s.quince.arg.toNat % 2 ^ 44) ((s.quince.newest s.quince.len.toNat).flatMap fun e => leBytes 32 e.toNat) with
    | (s, true) => s.commandDone none
    | (s, false) => s.commandRefused

/-- An attestation report: the items of R429 in the order in which it lists them, then the signature over them; the layout is the
model's (notes/assumptions/139.md). -/
def State.report (s : State) (nonce : List Byte) : List Byte :=
  let masks := (List.range 1024).flatMap fun c => leBytes 4 (s.coreAt c).feat.toNat
  let body := nonce ++ leBytes 8 Config.serial.toNat ++ sha384 s.quince.active ++ sha384 Config.columnRemap ++ sha384 masks ++
    leBytes 4 s.quince.floor.toNat ++ leBytes 8 s.now
  body ++ leBytes 96 (Config.attestSignature body).toNat

/-- ATTEST: the nonce is read, and the report follows it. -/
def State.attest (s : State) : State :=
  let a := s.quince.arg.toNat % 2 ^ 44
  if !s.command 2 then s
  else match s.quinceRead a 48 with
    | (s, none) => s.commandRefused
    | (s, some nonce) =>
      match s.quinceWrite (a + 48) (s.report nonce) with
      | (s, true) => s.commandDone none
      | (s, false) => s.commandRefused

/-! ## Firmware images: a header of 512 B, then the body (R428; the header's offsets are notes/assumptions/138.md) -/

/-- `n` bytes of an image's header from a field on. -/
def headerField (image : List Byte) (f n : Nat) : List Byte := ((image.take 512).drop (Config.headerAt f)).take n

/-- VER. -/
def imageVersion (image : List Byte) : BitVec 32 := BitVec.ofNat 32 (leNat (headerField image 0 4))

/-- Both signatures verify over the header fields above SIG_E; SIG_L runs to the header's end. -/
def imageSigned (image : List Byte) : Bool :=
  let fields := image.take (Config.headerAt 2)
  Config.ecdsaVerifies fields (headerField image 2 96) && Config.lmsVerifies fields (headerField image 3 512)

/-- BODY is the digest of the body. -/
def imageWhole (image : List Byte) : Bool := headerField image 1 48 == sha384 (image.drop 512)

/-- Why Quince refuses an image (R428). -/
def Quince.imageFault (q : Quince) (image : List Byte) : Option Nat :=
  if !imageSigned image then some 2
  else if !imageWhole image then some 3
  else if (imageVersion image).toNat < q.floor.toNat then some 4
  else none

/-- STAGE_FIRMWARE: an accepted image replaces one already staged; either outcome is logged. -/
def State.stageFirmware (s : State) : State :=
  if !s.command 3 then s
  else match s.quinceRead (s.quince.arg.toNat % 2 ^ 44) (s.quince.len.toNat % 2 ^ 44) with
    | (s, none) => s.commandRefused.quinceLog 7 none 1
    | (s, some image) =>
      match s.quince.imageFault image with
      | some r => (s.commandDone (some r)).quinceLog 7 none r
      | none => ({ s with quince := { s.quince with staged := some image } }.commandDone none).quinceLog 7 none 0

/-- SET_POWER_CAP: the cap of R221 from the next control interval. -/
def State.setPowerCap (s : State) : State :=
  let w := s.quince.arg.toNat
  if !s.command 4 then s
  else if w < 100 ∨ 1500 < w then s.commandRefused
  else { s with quince := { s.quince with pcapNext := w } }.commandDone none

/-- RESTART_CORE: the slots of a halted core issue again. -/
def State.restartCore (s : State) : State :=
  let c := s.quince.arg.toNat
  if !s.command 5 then s
  else if 1023 < c ∨ !(s.coreAt c).halted ∨ (s.coreAt c).killed then s.commandRefused
  else (s.onCore c fun k => { k with halted := false }).commandDone none

/-- MAILBOX_REFUSAL: any other command. -/
def State.mailboxRefusal (s : State) : State :=
  let n := s.quince.cmd.toNat
  if !s.quince.busy || (1 ≤ n && n ≤ 6) then s else s.commandDone (some 1)

/-! ## Device reset and bring-up (R431, R433) -/

/-- A device reset: all state goes but the feature masks, the event log, the lost parts and a staged image, which becomes active.
The memory of the host and of the peers is theirs (notes/assumptions/7.md); the agenda and the count of free values are the
model's own. -/
def State.deviceReset (s : State) : State :=
  let q := s.quince
  let image := q.staged.getD q.active
  let floor := match q.staged with
    | some i => imageVersion i
    | none => q.floor
  { State.reset with
    agenda := s.agenda, free := s.free, mem := s.mem.filter fun (e : Nat × Byte) => 2 ^ 43 ≤ e.1,
    cores := s.cores.map fun (e : Nat × Core) => (e.1, { Core.reset with feat := e.2.feat }),
    links := (List.range 16).map fun n => (n, { Link.reset with up := false }),
    medlar := { Medlar.reset with up := false, rdy := false, errors := s.medlar.errors, reads := s.medlar.reads },
    quince := { Quince.reset with log := q.log, logCount := q.logCount, lost := q.lost, active := image, floor := floor } }

/-- RESET_DEVICE: STS reads 1, then the reset follows. -/
def State.resetDevice (s : State) : State :=
  if !s.command 6 then s
  else if s.quince.arg.toNat ≠ 0x5253 then s.commandDone (some 1)
  else (s.commandDone none).deviceReset

/-- RSTN: held low for at least 10 µs. -/
def State.holdRstn (s : State) (ns : Nat) : State := if ns < 10000 then s else s.deviceReset

/-- BRING_UP: the vaults are zeroed, every full/empty bit is full, registers take their reset values, and the links train; a core
whose stack store fails is killed. A failure of an earlier step leaves RDY at 0, and only a device reset goes on from there. -/
def State.bringUp (s : State) (failed : Bool) (badStores : List Nat) : State :=
  if s.medlar.rdy || s.quince.stuck then s
  else if failed then ({ s with quince := { s.quince with stuck := true } }).quinceLog 8 none 0
  else
    let t := s.deviceReset
    let t := { t with links := [], medlar := { t.medlar with up := true } }
    let t := ((List.range 1024).filter badStores.contains).foldl (fun (t : State) c => t.killCore c 3 0) t
    { t with medlar := { t.medlar with rdy := true } }

/-! ## The Medlar port (R418 to R422) -/

/-- A request of the control node that ended with an error completion. -/
def State.hostError (s : State) : State := { s with medlar := { s.medlar with errors := s.medlar.errors + 1 } }

/-- A write of system space by the control node. -/
def State.hostStore (s : State) (a : Nat) (bs : List Byte) : State :=
  if !s.medlar.up then s
  else match s.sysStore a bs with
    | (s, 0) => s
    | (s, _) => s.hostError

/-- HOST_WRITE: a write of the control node, performed and acknowledged in order; one whose link is down is lost. In a vault it is a mesh
request of the owning agent, one in a cycle; the port keeps it, and the event does nothing, while no tag is free (R132, R136, R418). -/
def State.hostWrite (s : State) (a : Nat) (bs : List Byte) : State :=
  if !s.medlar.up then s
  else match spaceOf a with
    | .vault =>
      if (s.coreAt (vaultOf a)).killed then s.hostError
      else if !s.tagFree (vaultOf a) none then s
      else match ((s.agentTurn (vaultOf a)).chargeGranules (vaultOf a) 0 bs.length).vaultWrite (Who.none 0x3FF) a bs with
        | (s, 0) => s
        | (s, _) => s.hostError
    | .system => s.hostStore a bs
    | _ => s.hostError

/-- HOST_READ: a read of the control node; its data goes back over the link. -/
def State.hostRead (s : State) (a n : Nat) : State :=
  let give (s : State) (bs : List Byte) : State := { s with medlar := { s.medlar with reads := s.medlar.reads ++ [bs] } }
  if !s.medlar.up then s
  else match spaceOf a with
    | .vault =>
      if (s.coreAt (vaultOf a)).killed then s.hostError
      else if !s.tagFree (vaultOf a) none then s
      else match ((s.agentTurn (vaultOf a)).chargeGranules (vaultOf a) 0 n).vaultRead (Who.none 0x3FF) a n with
        | (s, 0, bs) => give s bs
        | (s, _, _) => s.hostError
    | .system => match s.sysLoad a n with
        | (0, bs) => give s bs
        | (_, _) => s.hostError
    | _ => s.hostError

/-- Requests on their way over a link that has gone down receive status 4 (R422, R425). -/
def State.dropLink (s : State) (p : Nat → Bool) : State :=
  { s with mesh := s.mesh.map fun (m : Msg) =>
      if m.stage == .toOwner && m.dst == noCore && p m.paddr then m.answerAway 4 0 else m }

/-- MEDLAR_LINK_LOSS. -/
def State.medlarLoss (s : State) : State :=
  if !s.medlar.up then s
  else ({ s with medlar := { s.medlar with up := false } }.dropLink fun a => spaceOf a == Space.host).quinceLog 5 (some 0xFF) 0

/-! ## The Sloe links (R423 to R426) -/

/-- SLOE_LINK_LOSS. -/
def State.sloeLoss (s : State) (n : Nat) : State :=
  let l := s.linkAt n
  if 15 < n ∨ !l.up then s
  else
    let t := (s.putLink n { l with up := false, downs := l.downs + 1 }).dropLink fun a => spaceOf a == Space.fabric && a / 2 ^ 38 % 16 == n
    t.quinceLog 5 (some n) n

/-- FLIT_REPLAY: numbers above the sixteen links stand for Medlar. -/
def State.flitReplay (s : State) (n : Nat) : State :=
  if n < 16 then let l := s.linkAt n; s.putLink n { l with replay := l.replay + 1 }
  else { s with medlar := { s.medlar with replay := s.medlar.replay + 1 } }

/-- A request of a peer, from its header and payload (R133): bits 37:0 of its address name the byte of this device's vaults, and a
store without a byte mask of its own writes its whole payload (R423). -/
def sloeMsg (link : Nat) (h0 h1 h2 h3 : BitVec 64) (payload : List Byte) : Msg :=
  let a := bitsOf h1.toNat 37 0
  { pid := h0.extractLsb' 48 16, seq := h0.extractLsb' 32 16, src := vaultOf a, dst := vaultOf a, proc := h0.extractLsb' 8 4,
    ord := h0.extractLsb' 6 2, sc := h0.extractLsb' 4 2, prv := h0.getLsbD 3, size := h0.extractLsb' 0 2,
    acct := h1.extractLsb' 48 16, fn := h1.extractLsb' 44 4, paddr := a, opa := h2, opb := h3, data := payload,
    mask := if payload.isEmpty then 0 else BitVec.allOnes 128, rec_ := none, tag := none, va := BitVec.ofNat 48 a, storing := false, stage := .toOwner, status := 0, cause := none,
    result := 0, client := .peer link, entry := none, cls := .zero, lid := 0, cont := none }

/-- The bytes a request of a peer touches. -/
def Msg.span (m : Msg) : Nat := if m.data.isEmpty then m.bytes else m.data.length

/-- SLOE_REQUEST: a request of the peer of a link goes to the vault agent, which performs it where the owner map gives its process
the page; the operations R424 does not list are refused. -/
def State.sloeRequest (s : State) (link : Nat) (h0 h1 h2 h3 : BitVec 64) (payload : List Byte) : State :=
  let m := sloeMsg link h0 h1 h2 h3 payload
  let a := m.paddr
  let back (status : Nat) : State := { s with mesh := s.mesh ++ [m.answerAway status 0] }
  if 15 < link ∨ !(s.linkAt link).up then s
  else if !(m.proc == 0 || m.proc == 1 || m.proc == 2 || m.proc == 5) then back 4
  else match State.ownerChecks m.who m.pid [a, a + m.span - 1] s with
    | (s, some cause) => { s with mesh := s.mesh ++ [m.answerAway (refusalStatus cause) 0] }
    | (s, none) => { s with mesh := s.mesh ++ [m] }

/-! ## The events -/

/-- CPWR, MLST and every other register without an event of its own: a privileged write of `size` bytes (R12). -/
def execRegisterWrite (addr : BitVec 44) (size : Nat) (value : BitVec 64) (s : State) : Out :=
  .next (if spaceOf addr.toNat == .system then (s.sysStore addr.toNat (leBytes (min 8 size) value.toNat)).1 else s)
/-- MLPOST. -/
def execMlpost (msg : BitVec 128) (s : State) : Out := .next (s.hostStore 0x40000008010 (leBytes 16 msg.toNat))
/-- READ_EVENT_LOG. -/
def execReadEventLog (s : State) : Out := .next s.readEventLog
/-- ATTEST. -/
def execAttest (s : State) : Out := .next s.attest
/-- STAGE_FIRMWARE. -/
def execStageFirmware (s : State) : Out := .next s.stageFirmware
/-- SET_POWER_CAP. -/
def execSetPowerCap (s : State) : Out := .next s.setPowerCap
/-- RESTART_CORE. -/
def execRestartCore (s : State) : Out := .next s.restartCore
/-- RESET_DEVICE. -/
def execResetDevice (s : State) : Out := .next s.resetDevice
/-- MAILBOX_REFUSAL. -/
def execMailboxRefusal (s : State) : Out := .next s.mailboxRefusal
/-- HOST_WRITE. -/
def execHostWrite (addr : BitVec 44) (data : List (BitVec 8)) (s : State) : Out := .next (s.hostWrite addr.toNat data)
/-- HOST_READ. -/
def execHostRead (addr : BitVec 44) (n : Nat) (s : State) : Out := .next (s.hostRead addr.toNat n)
/-- MEDLAR_LINK_LOSS. -/
def execMedlarLinkLoss (s : State) : Out := .next s.medlarLoss
/-- MEDLAR_RETRAIN: a port that bring-up has not trained stays down. -/
def execMedlarRetrain (s : State) : Out :=
  .next (if s.medlar.rdy then { s with medlar := { s.medlar with up := true } } else s)
/-- SLOE_REQUEST. -/
def execSloeRequest (link : Nat) (h0 h1 h2 h3 : BitVec 64) (payload : List (BitVec 8)) (s : State) : Out :=
  .next (s.sloeRequest link h0 h1 h2 h3 payload)
/-- SLOE_LINK_LOSS. -/
def execSloeLinkLoss (link : Nat) (s : State) : Out := .next (s.sloeLoss link)
/-- SLOE_RETRAIN. -/
def execSloeRetrain (link : Nat) (s : State) : Out :=
  .next (if link < 16 && s.medlar.rdy then s.putLink link { s.linkAt link with up := true } else s)
/-- BRING_UP. -/
def execBringUp (failed : Bool) (badStores : List Nat) (s : State) : Out := .next (s.bringUp failed badStores)
/-- RSTN. -/
def execRstn (ns : Nat) (s : State) : Out := .next (s.holdRstn ns)
/-- FLIT_REPLAY. -/
def execFlitReplay (link : Nat) (s : State) : Out := .next (s.flitReplay link)

end Sys2Proof.Machine
end

