-- ==== Sys2Proof/Machine/Boundary.lean ====
section
/-! DEFINITION. An instruction boundary of a slot: whether it may issue, the loads and causes that come before its next instruction,
and the instruction itself (R40, R231, R238, R246, R377, R394, R403, R414, R416). -/

namespace Sys2Proof.Machine

/-- Whether a slot's turn may do anything: its core runs, its strand waits for no stall count, and the sc fence after a posted
synchronising access is complete (R160, R230). -/
def State.turns (s : State) (c j : Nat) : Bool :=
  let v := s.slotAt c j
  let k := s.coreAt c
  !k.killed && !k.halted && (s.clusterAt (clusterOf c)).isUp && v.strand.isSome && decide (v.turnNext ≤ s.turn) &&
    !(v.syncing && s.posted c 3)

/-- The sc fence after a posted synchronising access ends with the turn that finds every store acknowledged (R160). -/
def State.synced (s : State) (c j : Nat) : State :=
  if (s.slotAt c j).syncing then s.onSlot c j fun v => { v with syncing := false } else s

/-- The cause of a slot's outstanding work that is due first: the oldest entry's (R377). -/
def Slot.oldestPend (v : Slot) : Option (Nat × Pend) :=
  leastBy (fun (p : Nat × Pend) => p.2.entry.getD 0) (v.pend.zipIdx.map fun p => (p.2, p.1))

/-- The cause that a slot takes at its boundary, before its next instruction: asynchronous ones in the order of R377, for which the strand
issues nothing more until its accesses are performed, then those its take-up left, which wait for the end of handler state
(notes/assumptions/150.md). An AUDIT that is taken frees its audit slot (R414). -/
def State.takePending (s : State) (c j : Nat) : Option State :=
  let v := s.slotAt c j
  if v.between && !v.awaits.isEmpty && (!v.pend.isEmpty || (s.auditCause c j).isSome || v.preempt) then some s
  else match (if v.atBoundary then v.oldestPend else none) with
  | some (i, p) => some ((s.onSlot c j fun v => { v with pend := dropAt v.pend i }).enterTrap c j p.cause p.eva true p.sub)
  | none =>
    match (if v.atBoundary then s.auditCause c j else none) with
    | some (g, a) => some ((s.onCluster g fun k => { k with audit := none, raised := none }).enterTrap c j .audit a true 0)
    | none =>
      if v.atBoundary && v.preempt then some (s.saveStrand c j)
      else match v.first, v.handler with
        | (cause, eva) :: r, false => some ((s.onSlot c j fun v => { v with first := r }).enterTrap c j cause eva false 0)
        | _, _ => none

/-- Whether an `idle` goes on: an event of R403 has come. -/
def State.awake (s : State) (c j : Nat) (stirred : Bool) : Bool :=
  let v := s.slotAt c j
  stirred || !v.pend.isEmpty || v.preempt || (s.auditCause c j).isSome

/-- What comes before an instruction in the turn of a slot, if anything: the kill of a core whose slot control state has lost its parity
(R406), the end of a strand whose launch has been ended, the loads that follow take-up, a save in progress, an `idle`, a pending
cause. -/
def State.before (s : State) (c j : Nat) : Option State :=
  let v := s.slotAt c j
  if !s.turns c j then some s
  else if (s.coreAt c).spoilt then some (s.failCore c)
  else if v.run = some .ending then some (s.endSettled c j)
  else if (s.launchAt v.id.lid).any (·.ending) then some (s.endSettled c j)
  else if v.needShadow then some (s.loadShadow c j)
  else if v.needScb then some (s.loadBlock c j)
  else match v.run with
    | some .saving => some (s.saveStrand c j)
    | some (.idle stirred) =>
      if s.awake c j stirred then some (s.onSlot c j fun v => { v with run := none }) else some s
    | _ => s.takePending c j

/-- The word a slot issues next: its frame's, or the one at its pc. -/
def State.nextWord (s : State) (c j : Nat) : State × Except Cause (BitVec 32) :=
  match (s.slotAt c j).frame with
  | some f => (s, .ok (s.frameWord c j f))
  | none => s.fetchWord c j (s.slotAt c j).pc

/-- A cause of the next word itself is taken once every access of the strand is performed (R377). -/
def State.wordTrap (s : State) (c j : Nat) (cause : Cause) (eva : Word) : State :=
  if (s.slotAt c j).awaits.isEmpty then s.enterTrap c j cause eva false 0 else s

/-- The turn of a slot: the state before its instruction and the instruction, or all that the turn does. -/
noncomputable def State.prepare (s : State) : State × Option Instr :=
  let c := s.core
  let j := s.slot
  match s.before c j with
  | some t => (t, none)
  | none =>
    match (s.synced c j).nextWord c j with
    | (s, .error cause) => (s.wordTrap c j cause (s.slotAt c j).pc, none)
    | (s, .ok w) =>
      match decode w with
      | .ok i => (s, some i)
      | .error _ => (s.wordTrap c j .illegal (w.setWidth 48), none)

/-- TRAP_ENTRY: a slot at an instruction boundary takes the cause that is due (R380). -/
def execTrapEntry (core slot : Nat) (s : State) : Out :=
  .next (if s.turns core slot then (s.takePending core slot).getD s else s)

end Sys2Proof.Machine
end

