-- ==== Sys2Proof/Machine/Modular.lean ====
section
/-! DEFINITION. Modular arithmetic, `mqset` and the butterflies (R103, R309 to R311). -/

namespace Sys2Proof.Machine

/-- A form on the sixteen residue lanes: each lane from the reduced lanes of its sources and of the old destination. -/
def modularForm (i : Instr) (update : Bool) (lat : Nat) (d : BitVec 6) (srcs : List (BitVec 6)) (t : BitVec 3)
    (f : Nat → Nat → Nat → Nat → Nat) (s : State) : Out :=
  let u : VUse := { use := { use i with st := t }, write := some (d, 1), modular := true,
                    reads := (if update then [(d, 1)] else []) ++ srcs.map fun n => (n, 1) }
  vissue u (s.me.mqValid && s.tyOf d == 5 && srcs.all fun n => s.tyOf n == 5) update s fun s0 s rows =>
    let v := s.me
    let ls := if update then rows else [] :: rows
    let lane (k j : Nat) := (laneRow 5 ls k).getD j 0 % v.mq.q j
    let r := ofLanes 5 ((List.range 16).map fun j => f (v.mq.q j) (lane 0 j) (lane 1 j) (lane 2 j) % v.mq.q j)
    u.finish s0 s { rows := [(r, enabledBytes v.lanes 5)] } (lat + v.muLatency)

/-- `vmadd` (R309). -/
def execVmadd (d a b : BitVec 6) (t : BitVec 3) (s : State) : Out :=
  modularForm (.vmadd d a b t) false 2 d [a, b] t (fun _ _ x y => x + y) s

/-- `vmsub` (R309). -/
def execVmsub (d a b : BitVec 6) (t : BitVec 3) (s : State) : Out :=
  modularForm (.vmsub d a b t) false 2 d [a, b] t (fun q _ x y => x + (q - y)) s

/-- `vmmul` (R309). -/
def execVmmul (d a b : BitVec 6) (t : BitVec 3) (s : State) : Out :=
  modularForm (.vmmul d a b t) false 4 d [a, b] t (fun _ _ x y => x * y) s

/-- `vmmac` (R309). -/
def execVmmac (d a b : BitVec 6) (t : BitVec 3) (s : State) : Out :=
  modularForm (.vmmac d a b t) true 4 d [a, b] t (fun _ o x y => o + x * y) s

/-- `vmneg` (R309). -/
def execVmneg (d a : BitVec 6) (t : BitVec 3) (s : State) : Out :=
  modularForm (.vmneg d a t) false 2 d [a] t (fun q _ x _ => q - x) s

/-- `mqset`: the table read, its check, then all sixteen pairs and MQB in one step (R310). -/
def execMqset (a : BitVec 5) (t : BitVec 3) (s : State) : Out :=
  let u : Use := { use (.mqset a t) with srcs := [(a, 0)], st := t }
  issue u s fun s =>
    let ea := s.src a
    if ea.toNat % 256 != 0 then .trap s .align ea
    else tableRead s ea 256 fun s bs =>
        if moduliOk (moduliOf bs) then
          .retire (s.onMe fun v => { v with
            moduli := moduliOf bs, modLoaded := true, mqb := BitVec.ofNat 64 (2 ^ 63 + ea.toNat) }) none
        else .trap s .illegal u.eva

/-- A butterfly: the pairs of va with the odd lanes of vb as twiddles; each value is reduced by the modulus of the lane that
uses it (R311). -/
def butterfly (i : Instr) (ct : Bool) (d a b : BitVec 6) (t : BitVec 3) (s : State) : Out :=
  let u : VUse := { use := { use i with st := t }, write := some (d, 1), reads := [(a, 1), (b, 1)], modular := true }
  vissue u (s.me.mqValid && s.tyOf d == 5 && s.tyOf a == 5 && s.tyOf b == 5) false s fun s0 s rows =>
    let v := s.me
    let x (j : Nat) := (laneRow 5 rows 0).getD (2 * (j / 2)) 0 % v.mq.q j
    let y (j : Nat) := (laneRow 5 rows 0).getD (2 * (j / 2) + 1) 0 % v.mq.q j
    let w (j : Nat) := (laneRow 5 rows 1).getD (2 * (j / 2) + 1) 0 % v.mq.q j
    let lane (j : Nat) : Nat :=
      let q := v.mq.q j
      if ct then if j % 2 = 0 then x j + w j * y j else x j + (q - w j * y j % q)
      else if j % 2 = 0 then x j + y j else (x j + (q - y j)) * w j
    let r := ofLanes 5 ((List.range 16).map fun j => lane j % v.mq.q j)
    u.finish s0 s { rows := [(r, enabledBytes v.lanes 5)] } (4 + v.muLatency)

/-- `bfly.ct` (R311). -/
def execBflyCt (d a b : BitVec 6) (t : BitVec 3) (s : State) : Out := butterfly (.bflyCt d a b t) true d a b t s

/-- `bfly.gs` (R311). -/
def execBflyGs (d a b : BitVec 6) (t : BitVec 3) (s : State) : Out := butterfly (.bflyGs d a b t) false d a b t s

end Sys2Proof.Machine
end

