-- ==== Sys2Proof/Machine/Scalar.lean ====
section
/-! DEFINITION. The scalar and predicate instructions: ALU, immediates, LI, LUI, CMP, CMPI, PRED, SEL, ADDR and BITF (R96, R254 to
R264). -/

namespace Sys2Proof.Machine

/-! ## Results (R96, R258 to R262) -/

/-- Shift amount of the ALU shifts: bits 5:0 of b (R258). -/
def shiftBy (b : Word) : Nat := b.toNat % 64

/-- Signed division truncating toward zero, zero for a zero divisor (R96). -/
def divSigned (a b : Word) : Word := if b = 0 then 0 else BitVec.ofInt 48 (Int.tdiv a.toInt b.toInt)

/-- Unsigned division; zero for a zero divisor (R96). -/
def divUnsigned (a b : Word) : Word := if b = 0 then 0 else BitVec.ofNat 48 (a.toNat / b.toNat)

/-- Signed remainder; the dividend for a zero divisor (R96). -/
def remSigned (a b : Word) : Word := if b = 0 then a else BitVec.ofInt 48 (Int.tmod a.toInt b.toInt)

/-- Unsigned remainder; the dividend for a zero divisor (R96). -/
def remUnsigned (a b : Word) : Word := if b = 0 then a else BitVec.ofNat 48 (a.toNat % b.toNat)

/-- Zero bits above the highest one bit (R258). -/
def clz48 (a : Word) : Word := if a = 0 then 48 else BitVec.ofNat 48 (47 - log2 a.toNat)

/-- Zero bits below the lowest one bit (R258). -/
def ctz48 (a : Word) : Word := BitVec.ofNat 48 (((List.range 48).find? fun i => a.getLsbD i).getD 48)

/-- One bits (R258). -/
def popc48 (a : Word) : Word := BitVec.ofNat 48 ((List.range 48).countP fun i => a.getLsbD i)

/-- The field a BITF form names: its position and width, cut at bit 47; a width of zero for none (R261). -/
def fieldOf (b : Word) : Nat × Nat :=
  let pos := bitsOf b.toNat 5 0
  let wid := bitsOf b.toNat 11 6
  if 48 ≤ pos ∨ wid = 0 then (0, 0) else (pos, min (pos + wid) 48 - pos)

/-- `bfx` (R261). -/
def bfxOf (a b : Word) : Word := BitVec.ofNat 48 (a.toNat / 2 ^ (fieldOf b).1 % 2 ^ (fieldOf b).2)

/-- `bfxs` (R261). -/
def bfxsOf (a b : Word) : Word :=
  let f := fieldOf b
  if f.2 = 0 then 0 else BitVec.ofInt 48 (sx f.2 (a.toNat / 2 ^ f.1))

/-- `bfi`: the field of the old destination replaced by the low bits of a (R261). -/
def bfiOf (old a b : Word) : Word := let f := fieldOf b; setField old f.1 f.2 a.toNat

/-! ## Shared shapes -/

/-- An R-layout instruction with two sources and a destination delivered after `lat` turns (R256, R257). -/
def scalarRR (i : Instr) (f : Word → Word → Word) (lat : Nat) (d a b : BitVec 5) (h : BitVec 1) (m : BitVec 2) (t : BitVec 3)
    (s : State) : Out :=
  issue { use i with srcs := [(a, m.extractLsb' 1 1), (b, m.extractLsb' 0 1)], dsts := [d], st := t, young := .registers } s
    fun s => .retire (s.dst d (f (s.src a) (s.src b)) h lat) none

/-- An R-layout instruction with one source (R257). -/
def scalarR (i : Instr) (f : Word → Word) (d a : BitVec 5) (h m : BitVec 1) (t : BitVec 3) (s : State) : Out :=
  issue { use i with srcs := [(a, m)], dsts := [d], st := t, young := .registers } s
    fun s => .retire (s.dst d (f (s.src a)) h 1) none

/-- An I-layout instruction with a source and a destination (R257, R259). -/
def scalarRI (i : Instr) (f : Word → Word) (d a : BitVec 5) (m : BitVec 1) (t : BitVec 3) (s : State) : Out :=
  issue { use i with srcs := [(a, m)], dsts := [d], st := t, young := .registers } s
    fun s => .retire (s.dst d (f (s.src a)) 0 1) none

/-- A comparison that writes one predicate (R262). -/
def scalarCmp (i : Instr) (f : Word → Word → Bool) (p a b : BitVec 5) (m : BitVec 2) (t : BitVec 3) (s : State) : Out :=
  issue { use i with srcs := [(a, m.extractLsb' 1 1), (b, m.extractLsb' 0 1)], dsts := [17], st := t, young := .registers } s
    fun s => .retire (s.onMe fun v => v.setPred p.toNat (f (s.src a) (s.src b))) none

/-- A comparison with a sign-extended immediate (R262). -/
def scalarCmpi (i : Instr) (f : Word → Word → Bool) (p a : BitVec 5) (k : BitVec 9) (m : BitVec 1) (t : BitVec 3) (s : State) : Out :=
  issue { use i with srcs := [(a, m)], dsts := [17], st := t, young := .registers } s
    fun s => .retire (s.onMe fun v => v.setPred p.toNat (f (s.src a) (k.signExtend 48))) none

/-- A predicate operation, which reads predicates or only writes one (R263). -/
def scalarPred (reads : List Nat) (f : Bool → Bool → Bool) (d a b : BitVec 5) (t : BitVec 3) (s : State) : Out :=
  issue { dsts := [17], st := t, preds := reads, young := .registers } s
    fun s => .retire (s.onMe fun v => v.setPred d.toNat (f (v.pred a.toNat) (v.pred b.toNat))) none

/-- A selection on a predicate: both sources are read whichever is chosen (R264). -/
def scalarSel (i : Instr) (want : Bool) (d a b : BitVec 5) (p : BitVec 4) (h : BitVec 1) (m : BitVec 2) (t : BitVec 3) (s : State) :
    Out :=
  issue { use i with srcs := [(a, m.extractLsb' 1 1), (b, m.extractLsb' 0 1)], dsts := [d], st := t, preds := [p.toNat], young := .registers } s
    fun s => .retire (s.dst d (if s.me.pred p.toNat == want then s.src a else s.src b) h 1) none

/-! ## ALU (R258) -/

/-- `add` (R258). -/
def execAdd (d a b : BitVec 5) (h : BitVec 1) (m : BitVec 2) (t : BitVec 3) (s : State) : Out :=
  scalarRR (.add d a b h m t) (fun x y => x + y) 1 d a b h m t s

/-- `sub` (R258). -/
def execSub (d a b : BitVec 5) (h : BitVec 1) (m : BitVec 2) (t : BitVec 3) (s : State) : Out :=
  scalarRR (.sub d a b h m t) (fun x y => x - y) 1 d a b h m t s

/-- `and` (R258). -/
def execAnd (d a b : BitVec 5) (h : BitVec 1) (m : BitVec 2) (t : BitVec 3) (s : State) : Out :=
  scalarRR (.and d a b h m t) (fun x y => x &&& y) 1 d a b h m t s

/-- `or` (R258). -/
def execOr (d a b : BitVec 5) (h : BitVec 1) (m : BitVec 2) (t : BitVec 3) (s : State) : Out :=
  scalarRR (.or d a b h m t) (fun x y => x ||| y) 1 d a b h m t s

/-- `xor` (R258). -/
def execXor (d a b : BitVec 5) (h : BitVec 1) (m : BitVec 2) (t : BitVec 3) (s : State) : Out :=
  scalarRR (.xor d a b h m t) (fun x y => x ^^^ y) 1 d a b h m t s

/-- `andn` (R258). -/
def execAndn (d a b : BitVec 5) (h : BitVec 1) (m : BitVec 2) (t : BitVec 3) (s : State) : Out :=
  scalarRR (.andn d a b h m t) (fun x y => x &&& ~~~y) 1 d a b h m t s

/-- `shl` (R258). -/
def execShl (d a b : BitVec 5) (h : BitVec 1) (m : BitVec 2) (t : BitVec 3) (s : State) : Out :=
  scalarRR (.shl d a b h m t) (fun x y => x <<< shiftBy y) 1 d a b h m t s

/-- `shr` (R258). -/
def execShr (d a b : BitVec 5) (h : BitVec 1) (m : BitVec 2) (t : BitVec 3) (s : State) : Out :=
  scalarRR (.shr d a b h m t) (fun x y => x >>> shiftBy y) 1 d a b h m t s

/-- `sar` (R258). -/
def execSar (d a b : BitVec 5) (h : BitVec 1) (m : BitVec 2) (t : BitVec 3) (s : State) : Out :=
  scalarRR (.sar d a b h m t) (fun x y => x.sshiftRight (shiftBy y)) 1 d a b h m t s

/-- `mul` (R258). -/
def execMul (d a b : BitVec 5) (h : BitVec 1) (m : BitVec 2) (t : BitVec 3) (s : State) : Out :=
  scalarRR (.mul d a b h m t) (fun x y => x * y) 2 d a b h m t s

/-- `mulh` (R258). -/
def execMulh (d a b : BitVec 5) (h : BitVec 1) (m : BitVec 2) (t : BitVec 3) (s : State) : Out :=
  scalarRR (.mulh d a b h m t) (fun x y => BitVec.ofInt 48 (x.toInt * y.toInt / 2 ^ 48)) 2 d a b h m t s

/-- `mulhn` (R258). -/
def execMulhn (d a b : BitVec 5) (h : BitVec 1) (m : BitVec 2) (t : BitVec 3) (s : State) : Out :=
  scalarRR (.mulhn d a b h m t) (fun x y => BitVec.ofNat 48 (x.toNat * y.toNat / 2 ^ 48)) 2 d a b h m t s

/-- `div` (R258). -/
def execDiv (d a b : BitVec 5) (h : BitVec 1) (m : BitVec 2) (t : BitVec 3) (s : State) : Out :=
  scalarRR (.div d a b h m t) (divSigned) 6 d a b h m t s

/-- `divn` (R258). -/
def execDivn (d a b : BitVec 5) (h : BitVec 1) (m : BitVec 2) (t : BitVec 3) (s : State) : Out :=
  scalarRR (.divn d a b h m t) (divUnsigned) 6 d a b h m t s

/-- `rem` (R258). -/
def execRem (d a b : BitVec 5) (h : BitVec 1) (m : BitVec 2) (t : BitVec 3) (s : State) : Out :=
  scalarRR (.rem d a b h m t) (remSigned) 6 d a b h m t s

/-- `remn` (R258). -/
def execRemn (d a b : BitVec 5) (h : BitVec 1) (m : BitVec 2) (t : BitVec 3) (s : State) : Out :=
  scalarRR (.remn d a b h m t) (remUnsigned) 6 d a b h m t s

/-- `min` (R258). -/
def execMin (d a b : BitVec 5) (h : BitVec 1) (m : BitVec 2) (t : BitVec 3) (s : State) : Out :=
  scalarRR (.min d a b h m t) (fun x y => if x.toInt ≤ y.toInt then x else y) 1 d a b h m t s

/-- `max` (R258). -/
def execMax (d a b : BitVec 5) (h : BitVec 1) (m : BitVec 2) (t : BitVec 3) (s : State) : Out :=
  scalarRR (.max d a b h m t) (fun x y => if x.toInt ≤ y.toInt then y else x) 1 d a b h m t s

/-- `minn` (R258). -/
def execMinn (d a b : BitVec 5) (h : BitVec 1) (m : BitVec 2) (t : BitVec 3) (s : State) : Out :=
  scalarRR (.minn d a b h m t) (fun x y => if x.toNat ≤ y.toNat then x else y) 1 d a b h m t s

/-- `maxn` (R258). -/
def execMaxn (d a b : BitVec 5) (h : BitVec 1) (m : BitVec 2) (t : BitVec 3) (s : State) : Out :=
  scalarRR (.maxn d a b h m t) (fun x y => if x.toNat ≤ y.toNat then y else x) 1 d a b h m t s

/-- `clz` (R258). -/
def execClz (d a : BitVec 5) (h m : BitVec 1) (t : BitVec 3) (s : State) : Out :=
  scalarR (.clz d a h m t) clz48 d a h m t s

/-- `ctz` (R258). -/
def execCtz (d a : BitVec 5) (h m : BitVec 1) (t : BitVec 3) (s : State) : Out :=
  scalarR (.ctz d a h m t) ctz48 d a h m t s

/-- `popc` (R258). -/
def execPopc (d a : BitVec 5) (h m : BitVec 1) (t : BitVec 3) (s : State) : Out :=
  scalarR (.popc d a h m t) popc48 d a h m t s

/-! ## Immediates (R259) -/

/-- `addi` (R229, R259). -/
def execAddi (d a : BitVec 5) (i : BitVec 12) (m : BitVec 1) (t : BitVec 3) (s : State) : Out :=
  scalarRI (.addi d a i m t) (fun x => x + i.signExtend 48) d a m t s

/-- `andi` (R229, R259). -/
def execAndi (d a : BitVec 5) (i : BitVec 12) (m : BitVec 1) (t : BitVec 3) (s : State) : Out :=
  scalarRI (.andi d a i m t) (fun x => x &&& i.signExtend 48) d a m t s

/-- `ori` (R229, R259). -/
def execOri (d a : BitVec 5) (i : BitVec 12) (m : BitVec 1) (t : BitVec 3) (s : State) : Out :=
  scalarRI (.ori d a i m t) (fun x => x ||| i.setWidth 48) d a m t s

/-- `xori` (R229, R259). -/
def execXori (d a : BitVec 5) (i : BitVec 12) (m : BitVec 1) (t : BitVec 3) (s : State) : Out :=
  scalarRI (.xori d a i m t) (fun x => x ^^^ i.setWidth 48) d a m t s

/-- `shli` (R229, R259). -/
def execShli (d a : BitVec 5) (n : BitVec 6) (m : BitVec 1) (t : BitVec 3) (s : State) : Out :=
  scalarRI (.shli d a n m t) (fun x => x <<< n.toNat) d a m t s

/-- `shri` (R229, R259). -/
def execShri (d a : BitVec 5) (n : BitVec 6) (m : BitVec 1) (t : BitVec 3) (s : State) : Out :=
  scalarRI (.shri d a n m t) (fun x => x >>> n.toNat) d a m t s

/-- `sari` (R229, R259). -/
def execSari (d a : BitVec 5) (n : BitVec 6) (m : BitVec 1) (t : BitVec 3) (s : State) : Out :=
  scalarRI (.sari d a n m t) (fun x => x.sshiftRight n.toNat) d a m t s

/-- `li` (R259). -/
def execLi (d : BitVec 5) (i : BitVec 18) (t : BitVec 3) (s : State) : Out :=
  issue { use (.li d i t) with dsts := [d], st := t, young := .registers } s fun s => .retire (s.dst d (i.signExtend 48) 0 1) none

/-- `lui`: rd is read and written (R254, R259). -/
def execLui (d : BitVec 5) (i : BitVec 18) (t : BitVec 3) (s : State) : Out :=
  issue { use (.lui d i t) with srcs := [(d, 0)], dsts := [d], st := t, young := .registers } s
    fun s => .retire (s.dst d ((s.src d <<< 18) + i.setWidth 48) 0 1) none

/-! ## Comparisons (R262) -/

/-- `cmp.eq` (R262). -/
def execCmpEq (p a b : BitVec 5) (m : BitVec 2) (t : BitVec 3) (s : State) : Out :=
  scalarCmp (.cmpEq p a b m t) (fun x y => x == y) p a b m t s

/-- `cmp.ne` (R262). -/
def execCmpNe (p a b : BitVec 5) (m : BitVec 2) (t : BitVec 3) (s : State) : Out :=
  scalarCmp (.cmpNe p a b m t) (fun x y => x != y) p a b m t s

/-- `cmp.lt` (R262). -/
def execCmpLt (p a b : BitVec 5) (m : BitVec 2) (t : BitVec 3) (s : State) : Out :=
  scalarCmp (.cmpLt p a b m t) (fun x y => decide (x.toInt < y.toInt)) p a b m t s

/-- `cmp.ge` (R262). -/
def execCmpGe (p a b : BitVec 5) (m : BitVec 2) (t : BitVec 3) (s : State) : Out :=
  scalarCmp (.cmpGe p a b m t) (fun x y => decide (y.toInt ≤ x.toInt)) p a b m t s

/-- `cmp.ltn` (R262). -/
def execCmpLtn (p a b : BitVec 5) (m : BitVec 2) (t : BitVec 3) (s : State) : Out :=
  scalarCmp (.cmpLtn p a b m t) (fun x y => decide (x.toNat < y.toNat)) p a b m t s

/-- `cmp.gen` (R262). -/
def execCmpGen (p a b : BitVec 5) (m : BitVec 2) (t : BitVec 3) (s : State) : Out :=
  scalarCmp (.cmpGen p a b m t) (fun x y => decide (y.toNat ≤ x.toNat)) p a b m t s

/-- `cmp.tst` (R262). -/
def execCmpTst (p a b : BitVec 5) (m : BitVec 2) (t : BitVec 3) (s : State) : Out :=
  scalarCmp (.cmpTst p a b m t) (fun x y => x &&& y != 0) p a b m t s

/-- `cmp.tstz` (R262). -/
def execCmpTstz (p a b : BitVec 5) (m : BitVec 2) (t : BitVec 3) (s : State) : Out :=
  scalarCmp (.cmpTstz p a b m t) (fun x y => x &&& y == 0) p a b m t s

/-- `cmpi.eq` (R262). -/
def execCmpiEq (p a : BitVec 5) (i : BitVec 9) (m : BitVec 1) (t : BitVec 3) (s : State) : Out :=
  scalarCmpi (.cmpiEq p a i m t) (fun x y => x == y) p a i m t s

/-- `cmpi.ne` (R262). -/
def execCmpiNe (p a : BitVec 5) (i : BitVec 9) (m : BitVec 1) (t : BitVec 3) (s : State) : Out :=
  scalarCmpi (.cmpiNe p a i m t) (fun x y => x != y) p a i m t s

/-- `cmpi.lt` (R262). -/
def execCmpiLt (p a : BitVec 5) (i : BitVec 9) (m : BitVec 1) (t : BitVec 3) (s : State) : Out :=
  scalarCmpi (.cmpiLt p a i m t) (fun x y => decide (x.toInt < y.toInt)) p a i m t s

/-- `cmpi.ge` (R262). -/
def execCmpiGe (p a : BitVec 5) (i : BitVec 9) (m : BitVec 1) (t : BitVec 3) (s : State) : Out :=
  scalarCmpi (.cmpiGe p a i m t) (fun x y => decide (y.toInt ≤ x.toInt)) p a i m t s

/-- `cmpi.ltn` (R262). -/
def execCmpiLtn (p a : BitVec 5) (i : BitVec 9) (m : BitVec 1) (t : BitVec 3) (s : State) : Out :=
  scalarCmpi (.cmpiLtn p a i m t) (fun x y => decide (x.toNat < y.toNat)) p a i m t s

/-- `cmpi.gen` (R262). -/
def execCmpiGen (p a : BitVec 5) (i : BitVec 9) (m : BitVec 1) (t : BitVec 3) (s : State) : Out :=
  scalarCmpi (.cmpiGen p a i m t) (fun x y => decide (y.toNat ≤ x.toNat)) p a i m t s

/-! ## Predicates and selection (R263, R264) -/

/-- `pand` (R263). -/
def execPand (d a b : BitVec 5) (t : BitVec 3) (s : State) : Out :=
  scalarPred [a.toNat, b.toNat] (fun x y => x && y) d a b t s

/-- `por` (R263). -/
def execPor (d a b : BitVec 5) (t : BitVec 3) (s : State) : Out :=
  scalarPred [a.toNat, b.toNat] (fun x y => x || y) d a b t s

/-- `pxor` (R263). -/
def execPxor (d a b : BitVec 5) (t : BitVec 3) (s : State) : Out :=
  scalarPred [a.toNat, b.toNat] (fun x y => x != y) d a b t s

/-- `pandn` (R263). -/
def execPandn (d a b : BitVec 5) (t : BitVec 3) (s : State) : Out :=
  scalarPred [a.toNat, b.toNat] (fun x y => x && !y) d a b t s

/-- `pnot` (R263). -/
def execPnot (d a : BitVec 5) (t : BitVec 3) (s : State) : Out := scalarPred [a.toNat] (fun x _ => !x) d a a t s

/-- `pset` (R263). -/
def execPset (d : BitVec 5) (t : BitVec 3) (s : State) : Out := scalarPred [] (fun _ _ => true) d 0 0 t s

/-- `pclr` (R263). -/
def execPclr (d : BitVec 5) (t : BitVec 3) (s : State) : Out := scalarPred [] (fun _ _ => false) d 0 0 t s

/-- `sel` (R264). -/
def execSel (d a b : BitVec 5) (p : BitVec 4) (h : BitVec 1) (m : BitVec 2) (t : BitVec 3) (s : State) : Out :=
  scalarSel (.sel d a b p h m t) true d a b p h m t s

/-- `seln` (R264). -/
def execSeln (d a b : BitVec 5) (p : BitVec 4) (h : BitVec 1) (m : BitVec 2) (t : BitVec 3) (s : State) : Out :=
  scalarSel (.seln d a b p h m t) false d a b p h m t s

/-! ## Addresses and fields (R260, R261) -/

/-- `lea.1` (R260). -/
def execLea1 (d a b : BitVec 5) (h : BitVec 1) (m : BitVec 2) (t : BitVec 3) (s : State) : Out :=
  scalarRR (.lea1 d a b h m t) (fun x y => x + y * 1) 1 d a b h m t s

/-- `lea.2` (R260). -/
def execLea2 (d a b : BitVec 5) (h : BitVec 1) (m : BitVec 2) (t : BitVec 3) (s : State) : Out :=
  scalarRR (.lea2 d a b h m t) (fun x y => x + y * 2) 1 d a b h m t s

/-- `lea.4` (R260). -/
def execLea4 (d a b : BitVec 5) (h : BitVec 1) (m : BitVec 2) (t : BitVec 3) (s : State) : Out :=
  scalarRR (.lea4 d a b h m t) (fun x y => x + y * 4) 1 d a b h m t s

/-- `lea.8` (R260). -/
def execLea8 (d a b : BitVec 5) (h : BitVec 1) (m : BitVec 2) (t : BitVec 3) (s : State) : Out :=
  scalarRR (.lea8 d a b h m t) (fun x y => x + y * 8) 1 d a b h m t s

/-- `bfx` (R261). -/
def execBfx (d a b : BitVec 5) (h : BitVec 1) (m : BitVec 2) (t : BitVec 3) (s : State) : Out :=
  scalarRR (.bfx d a b h m t) bfxOf 1 d a b h m t s

/-- `bfxs` (R261). -/
def execBfxs (d a b : BitVec 5) (h : BitVec 1) (m : BitVec 2) (t : BitVec 3) (s : State) : Out :=
  scalarRR (.bfxs d a b h m t) bfxsOf 1 d a b h m t s

/-- `bfi`: rd is read and written (R254, R261). -/
def execBfi (d a b : BitVec 5) (h : BitVec 1) (m : BitVec 2) (t : BitVec 3) (s : State) : Out :=
  issue { use (.bfi d a b h m t) with srcs := [(a, m.extractLsb' 1 1), (b, m.extractLsb' 0 1), (d, 0)], dsts := [d], st := t, young := .registers } s
    fun s => .retire (s.dst d (bfiOf (s.src d) (s.src a) (s.src b)) h 1) none

end Sys2Proof.Machine
end

