-- ==== Sys2Proof/Machine/Dispatch.lean ====
section
/-! DEFINITION. The dispatch: one arm per constructor of Instr, each a direct call of that instruction's meaning. -/

namespace Sys2Proof.Machine

/-- The meaning of an instruction for the slot `(s.core, s.slot)`, or of a device event. -/
def exec (i : Instr) (s : State) : Host.Outcome State Fault Refusal :=
  match i with
  | .jr a m t => Sys2Proof.Machine.execJr a m t s
  | .callr a m t => Sys2Proof.Machine.execCallr a m t s
  | .yield t => Sys2Proof.Machine.execYield t s
  | .go a m t => Sys2Proof.Machine.execGo a m t s
  | .park t => Sys2Proof.Machine.execPark t s
  | .exit t => Sys2Proof.Machine.execExit t s
  | .loop d im t => Sys2Proof.Machine.execLoop d im t s
  | .add d a b h m t => Sys2Proof.Machine.execAdd d a b h m t s
  | .sub d a b h m t => Sys2Proof.Machine.execSub d a b h m t s
  | .and d a b h m t => Sys2Proof.Machine.execAnd d a b h m t s
  | .or d a b h m t => Sys2Proof.Machine.execOr d a b h m t s
  | .xor d a b h m t => Sys2Proof.Machine.execXor d a b h m t s
  | .andn d a b h m t => Sys2Proof.Machine.execAndn d a b h m t s
  | .shl d a b h m t => Sys2Proof.Machine.execShl d a b h m t s
  | .shr d a b h m t => Sys2Proof.Machine.execShr d a b h m t s
  | .sar d a b h m t => Sys2Proof.Machine.execSar d a b h m t s
  | .mul d a b h m t => Sys2Proof.Machine.execMul d a b h m t s
  | .mulh d a b h m t => Sys2Proof.Machine.execMulh d a b h m t s
  | .mulhn d a b h m t => Sys2Proof.Machine.execMulhn d a b h m t s
  | .div d a b h m t => Sys2Proof.Machine.execDiv d a b h m t s
  | .divn d a b h m t => Sys2Proof.Machine.execDivn d a b h m t s
  | .rem d a b h m t => Sys2Proof.Machine.execRem d a b h m t s
  | .remn d a b h m t => Sys2Proof.Machine.execRemn d a b h m t s
  | .min d a b h m t => Sys2Proof.Machine.execMin d a b h m t s
  | .max d a b h m t => Sys2Proof.Machine.execMax d a b h m t s
  | .minn d a b h m t => Sys2Proof.Machine.execMinn d a b h m t s
  | .maxn d a b h m t => Sys2Proof.Machine.execMaxn d a b h m t s
  | .clz d a h m t => Sys2Proof.Machine.execClz d a h m t s
  | .ctz d a h m t => Sys2Proof.Machine.execCtz d a h m t s
  | .popc d a h m t => Sys2Proof.Machine.execPopc d a h m t s
  | .addi d a im m t => Sys2Proof.Machine.execAddi d a im m t s
  | .andi d a im m t => Sys2Proof.Machine.execAndi d a im m t s
  | .ori d a im m t => Sys2Proof.Machine.execOri d a im m t s
  | .xori d a im m t => Sys2Proof.Machine.execXori d a im m t s
  | .shli d a n m t => Sys2Proof.Machine.execShli d a n m t s
  | .shri d a n m t => Sys2Proof.Machine.execShri d a n m t s
  | .sari d a n m t => Sys2Proof.Machine.execSari d a n m t s
  | .li d im t => Sys2Proof.Machine.execLi d im t s
  | .lui d im t => Sys2Proof.Machine.execLui d im t s
  | .cmpEq p a b m t => Sys2Proof.Machine.execCmpEq p a b m t s
  | .cmpNe p a b m t => Sys2Proof.Machine.execCmpNe p a b m t s
  | .cmpLt p a b m t => Sys2Proof.Machine.execCmpLt p a b m t s
  | .cmpGe p a b m t => Sys2Proof.Machine.execCmpGe p a b m t s
  | .cmpLtn p a b m t => Sys2Proof.Machine.execCmpLtn p a b m t s
  | .cmpGen p a b m t => Sys2Proof.Machine.execCmpGen p a b m t s
  | .cmpTst p a b m t => Sys2Proof.Machine.execCmpTst p a b m t s
  | .cmpTstz p a b m t => Sys2Proof.Machine.execCmpTstz p a b m t s
  | .cmpiEq p a im m t => Sys2Proof.Machine.execCmpiEq p a im m t s
  | .cmpiNe p a im m t => Sys2Proof.Machine.execCmpiNe p a im m t s
  | .cmpiLt p a im m t => Sys2Proof.Machine.execCmpiLt p a im m t s
  | .cmpiGe p a im m t => Sys2Proof.Machine.execCmpiGe p a im m t s
  | .cmpiLtn p a im m t => Sys2Proof.Machine.execCmpiLtn p a im m t s
  | .cmpiGen p a im m t => Sys2Proof.Machine.execCmpiGen p a im m t s
  | .sel d a b p h m t => Sys2Proof.Machine.execSel d a b p h m t s
  | .seln d a b p h m t => Sys2Proof.Machine.execSeln d a b p h m t s
  | .lea1 d a b h m t => Sys2Proof.Machine.execLea1 d a b h m t s
  | .lea2 d a b h m t => Sys2Proof.Machine.execLea2 d a b h m t s
  | .lea4 d a b h m t => Sys2Proof.Machine.execLea4 d a b h m t s
  | .lea8 d a b h m t => Sys2Proof.Machine.execLea8 d a b h m t s
  | .bfx d a b h m t => Sys2Proof.Machine.execBfx d a b h m t s
  | .bfxs d a b h m t => Sys2Proof.Machine.execBfxs d a b h m t s
  | .bfi d a b h m t => Sys2Proof.Machine.execBfi d a b h m t s
  | .ldS8 d a o sc w f => Sys2Proof.Machine.execLdS8 d a o sc w f s
  | .ldN8 d a o sc w f => Sys2Proof.Machine.execLdN8 d a o sc w f s
  | .ldS16 d a o sc w f => Sys2Proof.Machine.execLdS16 d a o sc w f s
  | .ldN16 d a o sc w f => Sys2Proof.Machine.execLdN16 d a o sc w f s
  | .ldS32 d a o sc w f => Sys2Proof.Machine.execLdS32 d a o sc w f s
  | .ldN32 d a o sc w f => Sys2Proof.Machine.execLdN32 d a o sc w f s
  | .ldx d a o sc w f => Sys2Proof.Machine.execLdx d a o sc w f s
  | .stb d a o sc w f => Sys2Proof.Machine.execStb d a o sc w f s
  | .sth d a o sc w f => Sys2Proof.Machine.execSth d a o sc w f s
  | .stw d a o sc w f => Sys2Proof.Machine.execStw d a o sc w f s
  | .stx d a o sc w f => Sys2Proof.Machine.execStx d a o sc w f s
  | .ldF d a o sc w f => Sys2Proof.Machine.execLdF d a o sc w f s
  | .ldFe d a o sc w f => Sys2Proof.Machine.execLdFe d a o sc w f s
  | .stF d a o sc w f => Sys2Proof.Machine.execStF d a o sc w f s
  | .stEf d a o sc w f => Sys2Proof.Machine.execStEf d a o sc w f s
  | .amoAdd d a b o sc w => Sys2Proof.Machine.execAmoAdd d a b o sc w s
  | .amoAnd d a b o sc w => Sys2Proof.Machine.execAmoAnd d a b o sc w s
  | .amoOr d a b o sc w => Sys2Proof.Machine.execAmoOr d a b o sc w s
  | .amoXor d a b o sc w => Sys2Proof.Machine.execAmoXor d a b o sc w s
  | .amoMin d a b o sc w => Sys2Proof.Machine.execAmoMin d a b o sc w s
  | .amoMax d a b o sc w => Sys2Proof.Machine.execAmoMax d a b o sc w s
  | .amoMinn d a b o sc w => Sys2Proof.Machine.execAmoMinn d a b o sc w s
  | .amoMaxn d a b o sc w => Sys2Proof.Machine.execAmoMaxn d a b o sc w s
  | .amoSwap d a b o sc w => Sys2Proof.Machine.execAmoSwap d a b o sc w s
  | .amoCas d a b o sc w => Sys2Proof.Machine.execAmoCas d a b o sc w s
  | .waita a b w => Sys2Proof.Machine.execWaita a b w s
  | .cbInit a b w => Sys2Proof.Machine.execCbInit a b w s
  | .cbArr a w => Sys2Proof.Machine.execCbArr a w s
  | .cbExp a b w => Sys2Proof.Machine.execCbExp a b w s
  | .cbWait a w => Sys2Proof.Machine.execCbWait a w s
  | .cbTest d a w => Sys2Proof.Machine.execCbTest d a w s
  | .cpy a o sc w => Sys2Proof.Machine.execCpy a o sc w s
  | .cpyQ d sc w => Sys2Proof.Machine.execCpyQ d sc w s
  | .ldxM d a o sc w => Sys2Proof.Machine.execLdxM d a o sc w s
  | .stxM d a o sc w => Sys2Proof.Machine.execStxM d a o sc w s
  | .lnch a b o sc w => Sys2Proof.Machine.execLnch a b o sc w s
  | .grank d b sc w => Sys2Proof.Machine.execGrank d b sc w s
  | .gsize d b sc w => Sys2Proof.Machine.execGsize d b sc w s
  | .task a sc w => Sys2Proof.Machine.execTask a sc w s
  | .inq d sc w => Sys2Proof.Machine.execInq d sc w s
  | .spal d a h m t => Sys2Proof.Machine.execSpal d a h m t s
  | .spfree a m t => Sys2Proof.Machine.execSpfree a m t s
  | .spsz d a h m t => Sys2Proof.Machine.execSpsz d a h m t s
  | .vadd d a b t => Sys2Proof.Machine.execVadd d a b t s
  | .vsub d a b t => Sys2Proof.Machine.execVsub d a b t s
  | .vmul d a b t => Sys2Proof.Machine.execVmul d a b t s
  | .vfma d a b t => Sys2Proof.Machine.execVfma d a b t s
  | .vfms d a b t => Sys2Proof.Machine.execVfms d a b t s
  | .vmin d a b t => Sys2Proof.Machine.execVmin d a b t s
  | .vmax d a b t => Sys2Proof.Machine.execVmax d a b t s
  | .vabs d a t => Sys2Proof.Machine.execVabs d a t s
  | .vneg d a t => Sys2Proof.Machine.execVneg d a t s
  | .vdiv d a b t => Sys2Proof.Machine.execVdiv d a b t s
  | .vsqrt d a t => Sys2Proof.Machine.execVsqrt d a t s
  | .viadd d a b t => Sys2Proof.Machine.execViadd d a b t s
  | .visub d a b t => Sys2Proof.Machine.execVisub d a b t s
  | .viadds d a b t => Sys2Proof.Machine.execViadds d a b t s
  | .visubs d a b t => Sys2Proof.Machine.execVisubs d a b t s
  | .viaddn d a b t => Sys2Proof.Machine.execViaddn d a b t s
  | .visubn d a b t => Sys2Proof.Machine.execVisubn d a b t s
  | .vimul d a b t => Sys2Proof.Machine.execVimul d a b t s
  | .vimulh d a b t => Sys2Proof.Machine.execVimulh d a b t s
  | .vimac d a b t => Sys2Proof.Machine.execVimac d a b t s
  | .vimin d a b t => Sys2Proof.Machine.execVimin d a b t s
  | .vimax d a b t => Sys2Proof.Machine.execVimax d a b t s
  | .viminn d a b t => Sys2Proof.Machine.execViminn d a b t s
  | .vimaxn d a b t => Sys2Proof.Machine.execVimaxn d a b t s
  | .vand d a b t => Sys2Proof.Machine.execVand d a b t s
  | .vor d a b t => Sys2Proof.Machine.execVor d a b t s
  | .vxor d a b t => Sys2Proof.Machine.execVxor d a b t s
  | .vshl d a b t => Sys2Proof.Machine.execVshl d a b t s
  | .vshr d a b t => Sys2Proof.Machine.execVshr d a b t s
  | .vsar d a b t => Sys2Proof.Machine.execVsar d a b t s
  | .vsel d a b t => Sys2Proof.Machine.execVsel d a b t s
  | .vcmpEq a b t => Sys2Proof.Machine.execVcmpEq a b t s
  | .vcmpNe a b t => Sys2Proof.Machine.execVcmpNe a b t s
  | .vcmpLt a b t => Sys2Proof.Machine.execVcmpLt a b t s
  | .vcmpLe a b t => Sys2Proof.Machine.execVcmpLe a b t s
  | .vcmpUn a b t => Sys2Proof.Machine.execVcmpUn a b t s
  | .vicmpEq a b t => Sys2Proof.Machine.execVicmpEq a b t s
  | .vicmpLt a b t => Sys2Proof.Machine.execVicmpLt a b t s
  | .vicmpLtn a b t => Sys2Proof.Machine.execVicmpLtn a b t s
  | .vmsk a t => Sys2Proof.Machine.execVmsk a t s
  | .vmskall t => Sys2Proof.Machine.execVmskall t s
  | .vcvtBf d a t => Sys2Proof.Machine.execVcvtBf d a t s
  | .vcvtF8 d a t => Sys2Proof.Machine.execVcvtF8 d a t s
  | .vcvtKb8 d a b t => Sys2Proof.Machine.execVcvtKb8 d a b t s
  | .vcvtKb4 d a b t => Sys2Proof.Machine.execVcvtKb4 d a b t s
  | .vcvtF32 d a b t => Sys2Proof.Machine.execVcvtF32 d a b t s
  | .vcvtInt d a t => Sys2Proof.Machine.execVcvtInt d a t s
  | .vcvtFlt d a t => Sys2Proof.Machine.execVcvtFlt d a t s
  | .vnarrow d a t => Sys2Proof.Machine.execVnarrow d a t s
  | .vnarrows d a t => Sys2Proof.Machine.execVnarrows d a t s
  | .vcvtMr d a t => Sys2Proof.Machine.execVcvtMr d a t s
  | .vexp2 d a t => Sys2Proof.Machine.execVexp2 d a t s
  | .vlog2 d a t => Sys2Proof.Machine.execVlog2 d a t s
  | .vrcp d a t => Sys2Proof.Machine.execVrcp d a t s
  | .vrsqrt d a t => Sys2Proof.Machine.execVrsqrt d a t s
  | .vsin d a t => Sys2Proof.Machine.execVsin d a t s
  | .vcos d a t => Sys2Proof.Machine.execVcos d a t s
  | .vtanh d a t => Sys2Proof.Machine.execVtanh d a t s
  | .vexp d a t => Sys2Proof.Machine.execVexp d a t s
  | .vlse d a b t => Sys2Proof.Machine.execVlse d a b t s
  | .vmadd d a b t => Sys2Proof.Machine.execVmadd d a b t s
  | .vmsub d a b t => Sys2Proof.Machine.execVmsub d a b t s
  | .vmmul d a b t => Sys2Proof.Machine.execVmmul d a b t s
  | .vmmac d a b t => Sys2Proof.Machine.execVmmac d a b t s
  | .vmneg d a t => Sys2Proof.Machine.execVmneg d a t s
  | .mqset a t => Sys2Proof.Machine.execMqset a t s
  | .bflyCt d a b t => Sys2Proof.Machine.execBflyCt d a b t s
  | .bflyGs d a b t => Sys2Proof.Machine.execBflyGs d a b t s
  | .vbst d a sc t => Sys2Proof.Machine.execVbst d a sc t s
  | .vrev d a t => Sys2Proof.Machine.execVrev d a t s
  | .vshuf d a b t => Sys2Proof.Machine.execVshuf d a b t s
  | .vld d a t => Sys2Proof.Machine.execVld d a t s
  | .vst d a t => Sys2Proof.Machine.execVst d a t s
  | .strbind d a t => Sys2Proof.Machine.execStrbind d a t s
  | .strend d t => Sys2Proof.Machine.execStrend d t s
  | .vrsum d a t => Sys2Proof.Machine.execVrsum d a t s
  | .vrmax d a t => Sys2Proof.Machine.execVrmax d a t s
  | .vrmin d a t => Sys2Proof.Machine.execVrmin d a t s
  | .vrprod d a t => Sys2Proof.Machine.execVrprod d a t s
  | .vbcast d a t => Sys2Proof.Machine.execVbcast d a t s
  | .vrand d t => Sys2Proof.Machine.execVrand d t s
  | .vseed a b t => Sys2Proof.Machine.execVseed a b t s
  | .ftile a y t => Sys2Proof.Machine.execFtile a y t s
  | .ftrel a t => Sys2Proof.Machine.execFtrel a t s
  | .vext d a b t => Sys2Proof.Machine.execVext d a b t s
  | .vmov d a t => Sys2Proof.Machine.execVmov d a t s
  | .tbind d h l y t => Sys2Proof.Machine.execTbind d h l y t s
  | .tfree t => Sys2Proof.Machine.execTfree t s
  | .tzero d t => Sys2Proof.Machine.execTzero d t s
  | .tfill d a t => Sys2Proof.Machine.execTfill d a t s
  | .tdrain d a t => Sys2Proof.Machine.execTdrain d a t s
  | .rowact a t => Sys2Proof.Machine.execRowact a t s
  | .rowpre a t => Sys2Proof.Machine.execRowpre a t s
  | .tld d a b c t => Sys2Proof.Machine.execTld d a b c t s
  | .bld a b c t => Sys2Proof.Machine.execBld a b c t s
  | .mma d a b t => Sys2Proof.Machine.execMma d a b t s
  | .mmaZ d a b t => Sys2Proof.Machine.execMmaZ d a b t s
  | .mmaM d a b t => Sys2Proof.Machine.execMmaM d a b t s
  | .ckVer d c t => Sys2Proof.Machine.execCkVer d c t s
  | .ckFix d t => Sys2Proof.Machine.execCkFix d t s
  | .ckRd d b c t => Sys2Proof.Machine.execCkRd d b c t s
  | .ckSig d c t => Sys2Proof.Machine.execCkSig d c t s
  | .ckVerg a c t => Sys2Proof.Machine.execCkVerg a c t s
  | .ckFixg a t => Sys2Proof.Machine.execCkFixg a t s
  | .ckRdg a b c t => Sys2Proof.Machine.execCkRdg a b c t s
  | .ckSigg a c t => Sys2Proof.Machine.execCkSigg a c t s
  | .ttEnq a c t => Sys2Proof.Machine.execTtEnq a c t s
  | .leave a b t => Sys2Proof.Machine.execLeave a b t s
  | .leaveRel t => Sys2Proof.Machine.execLeaveRel t s
  | .lutld a b t => Sys2Proof.Machine.execLutld a b t s
  | .fmtw a b c t => Sys2Proof.Machine.execFmtw a b c t s
  | .mmag d a b c t => Sys2Proof.Machine.execMmag d a b c t s
  | .mmagZ d a b c t => Sys2Proof.Machine.execMmagZ d a b c t s
  | .kvApp a b c t => Sys2Proof.Machine.execKvApp a b c t s
  | .kvFind a b c t => Sys2Proof.Machine.execKvFind a b c t s
  | .kvFree a b c t => Sys2Proof.Machine.execKvFree a b c t s
  | .kvGath a b t => Sys2Proof.Machine.execKvGath a b t s
  | .rbSel a b c t => Sys2Proof.Machine.execRbSel a b c t s
  | .rbSeln a b c t => Sys2Proof.Machine.execRbSeln a b c t s
  | .embRed a c t => Sys2Proof.Machine.execEmbRed a c t s
  | .dpPlan a b c t => Sys2Proof.Machine.execDpPlan a b c t s
  | .rpt L C D A B t => Sys2Proof.Machine.execRpt L C D A B t s
  | .trap im t => Sys2Proof.Machine.execTrap im t s
  | .brk im t => Sys2Proof.Machine.execBrk im t s
  | .rte t => Sys2Proof.Machine.execRte t s
  | .settle d a t => Sys2Proof.Machine.execSettle d a t s
  | .crd d im t => Sys2Proof.Machine.execCrd d im t s
  | .cwr a im t => Sys2Proof.Machine.execCwr a im t s
  | .xrd d a im t => Sys2Proof.Machine.execXrd d a im t s
  | .xwr d a im t => Sys2Proof.Machine.execXwr d a im t s
  | .preempt d a t => Sys2Proof.Machine.execPreempt d a t s
  | .freeze a t => Sys2Proof.Machine.execFreeze a t s
  | .thaw a t => Sys2Proof.Machine.execThaw a t s
  | .stinv d a t => Sys2Proof.Machine.execStinv d a t s
  | .halt t => Sys2Proof.Machine.execHalt t s
  | .idle t => Sys2Proof.Machine.execIdle t s
  | .kill a t => Sys2Proof.Machine.execKill a t s
  | .b p o => Sys2Proof.Machine.execB p o s
  | .bn p o => Sys2Proof.Machine.execBn p o s
  | .j o => Sys2Proof.Machine.execJ o s
  | .call o => Sys2Proof.Machine.execCall o s
  | .ret t => Sys2Proof.Machine.execRet t s
  | .wpf t => Sys2Proof.Machine.execWpf t s
  | .pand d a b t => Sys2Proof.Machine.execPand d a b t s
  | .por d a b t => Sys2Proof.Machine.execPor d a b t s
  | .pxor d a b t => Sys2Proof.Machine.execPxor d a b t s
  | .pandn d a b t => Sys2Proof.Machine.execPandn d a b t s
  | .pnot d a t => Sys2Proof.Machine.execPnot d a t s
  | .pset d t => Sys2Proof.Machine.execPset d t s
  | .pclr d t => Sys2Proof.Machine.execPclr d t s
  | .fenceAcq sc w => Sys2Proof.Machine.execFenceAcq sc w s
  | .fenceRel sc w => Sys2Proof.Machine.execFenceRel sc w s
  | .fenceAr sc w => Sys2Proof.Machine.execFenceAr sc w s
  | .fenceSc sc w => Sys2Proof.Machine.execFenceSc sc w s
  | .wait w => Sys2Proof.Machine.execWait w s
  | .nop t => Sys2Proof.Machine.execNop t s
  | .trapEntry core slot => Sys2Proof.Machine.execTrapEntry core slot s
  | .taskInboxAccept k => Sys2Proof.Machine.execTaskInboxAccept k s
  | .launchMessageForward => Sys2Proof.Machine.execLaunchMessageForward s
  | .launchAcceptance core => Sys2Proof.Machine.execLaunchAcceptance core s
  | .unfolding core => Sys2Proof.Machine.execUnfolding core s
  | .placementPacket k => Sys2Proof.Machine.execPlacementPacket k s
  | .roundRobinFallback core => Sys2Proof.Machine.execRoundRobinFallback core s
  | .migrationPacketArrival k => Sys2Proof.Machine.execMigrationPacketArrival k s
  | .takeUp core slot => Sys2Proof.Machine.execTakeUp core slot s
  | .shadowRegisterLoad core slot => Sys2Proof.Machine.execShadowRegisterLoad core slot s
  | .strandControlBlockLoad core slot => Sys2Proof.Machine.execStrandControlBlockLoad core slot s
  | .laneModulusReload core slot => Sys2Proof.Machine.execLaneModulusReload core slot s
  | .quantumExpiry core slot => Sys2Proof.Machine.execQuantumExpiry core slot s
  | .launchSweep => Sys2Proof.Machine.execLaunchSweep s
  | .spatialPreemptionRequest w => Sys2Proof.Machine.execSpatialPreemptionRequest w s
  | .preemptSave core slot => Sys2Proof.Machine.execPreemptSave core slot s
  | .waitLimitExpiry core n => Sys2Proof.Machine.execWaitLimitExpiry core n s
  | .parkWake core n => Sys2Proof.Machine.execParkWake core n s
  | .load k => Sys2Proof.Machine.execLoad k s
  | .store k => Sys2Proof.Machine.execStore k s
  | .atomic k => Sys2Proof.Machine.execAtomic k s
  | .fullEmptyLoad k => Sys2Proof.Machine.execFullEmptyLoad k s
  | .fullEmptyStore k => Sys2Proof.Machine.execFullEmptyStore k s
  | .parkedContinuation k => Sys2Proof.Machine.execParkedContinuation k s
  | .copySegment k => Sys2Proof.Machine.execCopySegment k s
  | .gatherReduce k => Sys2Proof.Machine.execGatherReduce k s
  | .kvTableOperation k => Sys2Proof.Machine.execKvTableOperation k s
  | .scratchpadLoad k => Sys2Proof.Machine.execScratchpadLoad k s
  | .scratchpadStore k => Sys2Proof.Machine.execScratchpadStore k s
  | .barrierUpdate k => Sys2Proof.Machine.execBarrierUpdate k s
  | .waitOnAddress k => Sys2Proof.Machine.execWaitOnAddress k s
  | .unknownProcedure k => Sys2Proof.Machine.execUnknownProcedure k s
  | .reply k => Sys2Proof.Machine.execReply k s
  | .stationRequest k => Sys2Proof.Machine.execStationRequest k s
  | .tableWalk station n => Sys2Proof.Machine.execTableWalk station n s
  | .stationInvalidation k => Sys2Proof.Machine.execStationInvalidation k s
  | .vaultControllerPacket core n => Sys2Proof.Machine.execVaultControllerPacket core n s
  | .refresh core bank => Sys2Proof.Machine.execRefresh core bank s
  | .hotMode layer hot => Sys2Proof.Machine.execHotMode layer hot s
  | .dramThermalThrottle cluster => Sys2Proof.Machine.execDramThermalThrottle cluster s
  | .lossOfMemory kind core part => Sys2Proof.Machine.execLossOfMemory kind core part s
  | .copyChunk core n off => Sys2Proof.Machine.execCopyChunk core n off s
  | .copyCompletion core n => Sys2Proof.Machine.execCopyCompletion core n s
  | .mmaCompletion core => Sys2Proof.Machine.execMmaCompletion core s
  | .mmagPartial k => Sys2Proof.Machine.execMmagPartial k s
  | .admission cluster => Sys2Proof.Machine.execAdmission cluster s
  | .tileTaskCompletion core => Sys2Proof.Machine.execTileTaskCompletion core s
  | .auditReplay cluster => Sys2Proof.Machine.execAuditReplay cluster s
  | .controlInterval measured => Sys2Proof.Machine.execControlInterval measured s
  | .boostInterval => Sys2Proof.Machine.execBoostInterval s
  | .refillPeriod => Sys2Proof.Machine.execRefillPeriod s
  | .holdEnd cluster => Sys2Proof.Machine.execHoldEnd cluster s
  | .inRushSlot => Sys2Proof.Machine.execInRushSlot s
  | .railSwitch cluster => Sys2Proof.Machine.execRailSwitch cluster s
  | .coreThrottle cluster => Sys2Proof.Machine.execCoreThrottle cluster s
  | .coreThrottleEconomy cluster => Sys2Proof.Machine.execCoreThrottleEconomy cluster s
  | .currThrottle cluster => Sys2Proof.Machine.execCurrThrottle cluster s
  | .pcapThrottle watts => Sys2Proof.Machine.execPcapThrottle watts s
  | .throttleClear cluster reason => Sys2Proof.Machine.execThrottleClear cluster reason s
  | .retention core slot bank => Sys2Proof.Machine.execRetention core slot bank s
  | .gainCellRefresh core slot => Sys2Proof.Machine.execGainCellRefresh core slot s
  | .shortLivedLapse core slot reg => Sys2Proof.Machine.execShortLivedLapse core slot reg s
  | .operandPrefetchCompletion core slot => Sys2Proof.Machine.execOperandPrefetchCompletion core slot s
  | .channelEntryArrival k => Sys2Proof.Machine.execChannelEntryArrival k s
  | .streamPatternRead core slot str => Sys2Proof.Machine.execStreamPatternRead core slot str s
  | .cpwrWake cluster => Sys2Proof.Machine.execCpwrWake cluster s
  | .mlpost msg => Sys2Proof.Machine.execMlpost msg s
  | .eicArm core => Sys2Proof.Machine.execEicArm core s
  | .registerWrite addr size value => Sys2Proof.Machine.execRegisterWrite addr size value s
  | .readEventLog => Sys2Proof.Machine.execReadEventLog s
  | .attest => Sys2Proof.Machine.execAttest s
  | .stageFirmware => Sys2Proof.Machine.execStageFirmware s
  | .setPowerCap => Sys2Proof.Machine.execSetPowerCap s
  | .restartCore => Sys2Proof.Machine.execRestartCore s
  | .resetDevice => Sys2Proof.Machine.execResetDevice s
  | .mailboxRefusal => Sys2Proof.Machine.execMailboxRefusal s
  | .hostWrite addr data => Sys2Proof.Machine.execHostWrite addr data s
  | .hostRead addr n => Sys2Proof.Machine.execHostRead addr n s
  | .medlarLinkLoss => Sys2Proof.Machine.execMedlarLinkLoss s
  | .medlarRetrain => Sys2Proof.Machine.execMedlarRetrain s
  | .sloeRequest link h0 h1 h2 h3 payload => Sys2Proof.Machine.execSloeRequest link h0 h1 h2 h3 payload s
  | .sloeLinkLoss link => Sys2Proof.Machine.execSloeLinkLoss link s
  | .sloeRetrain link => Sys2Proof.Machine.execSloeRetrain link s
  | .bringUp failed badStores => Sys2Proof.Machine.execBringUp failed badStores s
  | .rstn ns => Sys2Proof.Machine.execRstn ns s
  | .streamPatternWrite core slot str => Sys2Proof.Machine.execStreamPatternWrite core slot str s
  | .gatherChunk core n off => Sys2Proof.Machine.execGatherChunk core n off s
  | .flitReplay link => Sys2Proof.Machine.execFlitReplay link s

end Sys2Proof.Machine
end

