-- ==== Sys2Proof/Machine/Arbiter.lean ====
section
/-! DEFINITION. The order of the device's moves: within one cycle the order of R296, whatever the agenda names, and where it names
nothing a fixed choice, slots in turn and what is due after them (R10, R18, R64, R132, R148, R202, R222). The agenda may name any other
moves (notes/assumptions/2.md). -/

namespace Sys2Proof.Machine

/-! ## What may be due -/

/-- Events of Quince. -/
noncomputable def State.quinceDue (s : State) : List Instr :=
  (if s.medlar.rdy || s.quince.stuck then [] else [.bringUp false []]) ++
  (if !s.quince.busy then []
   else match s.quince.cmd.toNat with
    | 1 => [.readEventLog]
    | 2 => [.attest]
    | 3 => [.stageFirmware]
    | 4 => [.setPowerCap]
    | 5 => [.restartCore]
    | 6 => [.resetDevice]
    | _ => [.mailboxRefusal]) ++
  s.quince.failing.map fun p => .lossOfMemory 0 p.1 p.2

/-- The event that message `k` waits for. -/
noncomputable def Msg.due (m : Msg) (k : Nat) : List Instr :=
  if m.stage == .toOwner && m.rec_.isSome then m.rec_.toList.map fun t => .admission (recClu t.rec_) else
  match m.stage with
  | .walking => []
  | .toStation => [.stationRequest k]
  | .replied => [.reply k]
  | .toOwner =>
    match m.proc.toNat with
    | 0 => [.load k]
    | 1 => [.store k]
    | 2 => [.atomic k]
    | 3 => [.fullEmptyLoad k]
    | 4 => [.fullEmptyStore k]
    | 5 => [.copySegment k]
    | 6 => [.gatherReduce k]
    | 7 => [.kvTableOperation k]
    | 8 => [.scratchpadLoad k]
    | 9 => if m.fn = 4 then [.waitOnAddress k] else if 1 ≤ m.fn.toNat ∧ m.fn.toNat ≤ 3 then [.barrierUpdate k] else [.scratchpadStore k]
    | 10 => [.parkedContinuation k]
    | _ => [.unknownProcedure k]

/-- Events of what is on its way in the mesh and at the stations. -/
noncomputable def State.meshDue (s : State) : List Instr :=
  (s.stations.filter fun e => !e.2.walks.isEmpty).map (fun e => .tableWalk e.1 0) ++
  s.mesh.zipIdx.flatMap (fun p => p.1.due p.2) ++
  (List.range s.invs.length).map (fun k => .stationInvalidation k) ++
  (List.range s.notes.length).map (fun k => .taskInboxAccept k) ++
  (if s.medlar.held.isEmpty then [] else [.launchMessageForward]) ++
  s.packets.zipIdx.map (fun (p : Packet × Nat) =>
    if p.1.hint || p.1.slot.isSome then .placementPacket p.2 else .migrationPacketArrival p.2) ++
  (List.range s.partials.length).map (fun k => .mmagPartial k) ++
  (List.range s.chans.length).map fun k => .channelEntryArrival k

/-- The next chunk of a copy. -/
def CopyCmd.nextChunk (x : CopyCmd) : Nat :=
  ((List.range (x.landed.length + x.sent.length + 1)).map fun i => x.base + 64 * i).find? (fun o => !x.landed.contains o && !x.sent.contains o)
    |>.getD x.desc.len

/-- Events of a core's uncore and engines. -/
noncomputable def Core.due (k : Core) (c now : Nat) : List Instr :=
  (List.range k.ctl.length).map (fun n => .vaultControllerPacket c n) ++
  k.copies.flatMap (fun (x : CopyCmd) => [.copyChunk c x.num x.nextChunk, .copyCompletion c x.num]) ++
  k.gathers.map (fun (g : GatherCmd) => .gatherChunk c g.num g.next) ++
  (if k.engine.queue.isEmpty then [] else [.mmaCompletion c]) ++
  (if k.inbox.isEmpty then [] else [.launchAcceptance c]) ++
  (if k.launches.isEmpty then [] else [.roundRobinFallback c, .unfolding c]) ++
  (k.waiters.zipIdx.filter fun (p : Waiter × Nat) => p.1.over now).map
    (fun (p : Waiter × Nat) => if p.1.kind == .timed then .parkWake c p.2 else .waitLimitExpiry c p.2) ++
  (if k.vacating && k.occupied == 0 then [.preemptSave c 0] else []) ++
  (k.banks.filter fun e => e.2.waiting || e.2.due ≤ now).map fun e => .refresh c e.1

/-- Events of an occupied slot. -/
noncomputable def Slot.due (v : Slot) (c j now : Nat) : List Instr :=
  (if v.prefetch.isEmpty then [] else [.operandPrefetchCompletion c j]) ++
  (v.streams.filter fun (t : Stream) => t.kind == .inPattern).map (fun (t : Stream) => .streamPatternRead c j t.num) ++
  (v.streams.filter fun (t : Stream) => t.kind == .outPattern).map (fun (t : Stream) => .streamPatternWrite c j t.num) ++
  (if v.takenAt + 2 ^ 18 ≤ now then [.quantumExpiry c j] else []) ++
  ((List.range 8).filter fun i => (v.reg i).expired now).map (fun i => .shortLivedLapse c j i) ++
  (if v.refreshed + 1024 ≤ now then [.gainCellRefresh c j] else []) ++
  (List.range (v.older.length + 2)).map (fun n => .retention c j n)

/-- Events of the slots of a core: those of its strands, then idle slots that may take one up. -/
noncomputable def State.slotsDue (s : State) (c : Nat) (k : Core) : List Instr :=
  k.slots.flatMap (fun e => if e.2.strand.isSome then e.2.due c e.1 s.now else []) ++
  if k.ring.isEmpty then [] else (List.range 8).map fun j => .takeUp c j

/-- Events of a cluster. -/
noncomputable def Cluster.due (g : Cluster) (n now : Nat) : List Instr :=
  (if g.coreLasts now && !g.coreEco then [.coreThrottleEconomy n] else []) ++
  (if g.queue.isEmpty && g.leaves.isEmpty then [] else [.admission n]) ++
  g.running.map (fun (r : Running) => .tileTaskCompletion r.core) ++
  (if g.audit.isSome then [.auditReplay n] else []) ++
  (match g.power with | .held _ _ => [.holdEnd n] | _ => []) ++ if g.switching then [.railSwitch n] else []

/-- Everything that may be due, in the order in which it is done. -/
noncomputable def State.dueEvents (s : State) : List Instr :=
  s.quinceDue ++ s.cores.flatMap (fun e => s.slotsDue e.1 e.2) ++ s.cores.flatMap (fun e => e.2.due e.1 s.now) ++
    s.clusters.flatMap (fun e => e.2.due e.1 s.now) ++ s.meshDue ++ if s.quince.inrush.isEmpty then [] else [.inRushSlot]

/-! ## Order within a cycle (R132, R148, R296) -/

/-- The place of slot `j`'s instruction in the order of one cycle. -/
def issueRank (j : Nat) : Nat := 2 * j + 2

/-- The place of an event in the order of one cycle (R132, R296, R299): slots in barrel order, the patterns of a slot before its
instruction; then the engines, then the mesh and the port, and last the expiries of waits and quanta. An event with no place may come
anywhere. -/
def rankOf : Instr → Option Nat
  | .streamPatternRead _ j _ | .streamPatternWrite _ j _ => some (2 * j + 1)
  | .copyChunk _ _ _ | .copyCompletion _ _ | .gatherChunk _ _ _ | .mmaCompletion _ | .tileTaskCompletion _ => some 20
  | .load _ | .store _ | .atomic _ | .fullEmptyLoad _ | .fullEmptyStore _ | .parkedContinuation _ | .copySegment _ | .gatherReduce _
  | .kvTableOperation _ | .scratchpadLoad _ | .scratchpadStore _ | .barrierUpdate _ | .waitOnAddress _ | .unknownProcedure _
  | .reply _ | .vaultControllerPacket _ _ | .channelEntryArrival _ | .mmagPartial _ | .hostWrite _ _ | .hostRead _ _ => some 21
  | .waitLimitExpiry _ _ | .parkWake _ _ | .quantumExpiry _ _ => some 22
  | _ => none

/-- The cycle at which a slot issues, at least `n` cycles from now: slot `j` issues in cycle `j` of a barrel turn (R18), and not after
an engine or the mesh has moved in the same cycle (R296). -/
def State.issueAt (s : State) (n j : Nat) : Nat :=
  let t := s.now + n + (j + 8 - (s.now + n) % 8) % 8
  if t = s.now ∧ issueRank j < s.rank then t + 8 else t

/-- The cycle of an event: in the cycle after this one where what comes after it in one cycle has already moved. -/
def State.eventAt (s : State) (n : Nat) (rank : Option Nat) : Nat :=
  if n = 0 ∧ (rank.any fun r => r < s.rank) then s.now + 1 else s.now + n

/-- The state at the cycle of an event, after the kills of the cycles before it (R417). -/
def State.atEvent (s : State) (n : Nat) (e : Instr) : State :=
  let t := s.eventAt n (rankOf e)
  { s.endCycle t with now := t, rank := (rankOf e).getD (if t = s.now then s.rank else 0) }

/-- The state at the cycle in which a slot issues, after the kills of the cycles before it (R417). -/
def State.atIssue (s : State) (n c j : Nat) : State :=
  let t := s.issueAt n j
  { s.endCycle t with now := t, rank := issueRank j, core := c, slot := j }

/-! ## Time -/

/-- Whether an event changes anything now, without having to wait for a later cycle. -/
def State.changes (s : State) (e : Instr) : Bool :=
  match exec e (s.atEvent 0 e) with
  | .next t => decide (t.now ≤ s.now) && t != s.atEvent 0 e
  | _ => true

/-- Whether an event changes something in the next cycle. -/
def State.changesNext (s : State) (e : Instr) : Bool :=
  match exec e (s.atEvent 1 e) with
  | .next t => t != s.atEvent 1 e
  | _ => true

/-- The cycles an event of the device takes where the spec gives it a time of its own: the rail switch of R25 and the in-rush slot of
R220. -/
def cyclesOf : Instr → Nat
  | .railSwitch _ => 35
  | .inRushSlot => 350
  | _ => 0

/-- The periodic events after one cycle and up to another: the sweep of R65, the refill, boost and control intervals of R216 to R218 and
R222, at the boundaries that all clusters share (R202). -/
noncomputable def periodic (a b : Nat) : List Instr :=
  List.replicate (b / 4096 - a / 4096) .launchSweep ++ (List.range (b / 1750 - a / 1750)).flatMap fun i =>
    let t := a / 1750 + i + 1
    (if t % 4 = 0 then [.boostInterval] else []) ++ .controlInterval [] :: if t % 32 = 0 then [.refillPeriod] else []

/-- The slots that may issue in a cycle, in ascending core. -/
def State.turnsAt (s : State) (t : Nat) : List (Nat × Nat) :=
  s.cores.filterMap fun e => if { s with now := t }.turns e.1 (t % 8) then some (e.1, t % 8) else none

/-- The slot that issues next in this cycle, if one still may. -/
def State.issuer (s : State) : Option (Nat × Nat) :=
  if issueRank (s.now % 8) < s.rank then none
  else (s.turnsAt s.now).find? fun p => s.rank < issueRank (s.now % 8) || s.core < p.1

/-- The next cycle in which a slot may issue, as its distance, and that slot; after a barrel turn without one, the first slot. -/
def State.ahead (s : State) : Nat × Nat × Nat :=
  ((List.range 8).findSome? fun d => ((s.turnsAt (s.now + d + 1)).head?).map fun p => (d + 1, p)).getD (8, 0, s.now % 8)

/-- The pattern accesses of every slot, which come before the instruction of a later slot in its cycle (R299). -/
noncomputable def State.patternsDue (s : State) : List Instr :=
  s.cores.flatMap fun e => e.2.slots.flatMap fun p => p.2.streams.map fun (t : Stream) =>
    if t.kind == .inPattern then .streamPatternRead e.1 p.1 t.num else .streamPatternWrite e.1 p.1 t.num

/-- Moves with the periodic events that fall into the cycles they pass. -/
noncomputable def State.paceOver (s : State) (n : Nat) (m : Nat → Move) : List Move :=
  match periodic s.paced (s.now + n) with
  | [] => [m n]
  | e :: r => .event n e :: r.map (.event 0) ++ [m 0]

/-- The moves the device makes next where its agenda is empty: periodic events that an event's own cycles have passed, then within a
cycle the slots, then what is due; then the next cycle. -/
noncomputable def State.plan (s : State) : List Move :=
  if s.paced < s.now && !(periodic s.paced s.now).isEmpty then (periodic s.paced s.now).map (.event 0)
  else match s.patternsDue.find? (fun e => decide ((rankOf e).getD 0 < issueRank (s.now % 8)) && s.changes e), s.issuer with
    | some e, _ => [.event 0 e]
    | none, some p => [.issue 0 p.1 p.2]
    | none, none => match s.dueEvents.find? s.changes with
      | some e => .event (cyclesOf e) e :: (periodic s.paced (s.now + cyclesOf e)).map (.event 0)
      | none =>
        let a := s.ahead
        match (if 1 < a.1 then s.dueEvents.find? s.changesNext else none) with
        | some e => s.paceOver 1 fun n => .event n e
        | none => s.paceOver a.1 fun n => .issue n a.2.1 a.2.2

/-- The cycles of a move. -/
def Move.cycles : Move → Nat
  | .issue n _ _ => n
  | .event n _ => n

/-- The next move, and the state with the moves after it on its agenda. -/
noncomputable def State.nextMove (s : State) : Move × State :=
  match s.agenda with
  | m :: r => (m, { s with agenda := r })
  | [] =>
    match s.plan with
    | m :: r => (m, { s with agenda := r, paced := max s.paced (s.now + ((m :: r).map Move.cycles).sum) })
    | [] => (.issue 8 0 0, s)

/-! ## Moves -/

/-- Whether an instruction is an event of the device that names units it has; an instruction of a program is no event. -/
def isEvent : Instr → Bool
  | .trapEntry core slot | .takeUp core slot | .shadowRegisterLoad core slot | .strandControlBlockLoad core slot
  | .laneModulusReload core slot | .quantumExpiry core slot | .preemptSave core slot | .retention core slot _
  | .gainCellRefresh core slot | .shortLivedLapse core slot _ | .operandPrefetchCompletion core slot
  | .streamPatternRead core slot _ | .streamPatternWrite core slot _ => decide (core < 1024) && decide (slot < 8)
  | .taskInboxAccept _ | .launchMessageForward | .placementPacket _ | .migrationPacketArrival _ | .launchSweep
  | .spatialPreemptionRequest _ | .load _ | .store _ | .atomic _ | .fullEmptyLoad _ | .fullEmptyStore _ | .parkedContinuation _
  | .copySegment _ | .gatherReduce _ | .kvTableOperation _ | .scratchpadLoad _ | .scratchpadStore _ | .barrierUpdate _
  | .waitOnAddress _ | .unknownProcedure _ | .reply _ | .stationRequest _ | .stationInvalidation _ | .hotMode _ _
  | .mmagPartial _ | .controlInterval _ | .boostInterval | .refillPeriod | .inRushSlot | .pcapThrottle _
  | .channelEntryArrival _ | .mlpost _ | .registerWrite _ _ _ | .readEventLog | .attest | .stageFirmware | .setPowerCap
  | .restartCore | .resetDevice | .mailboxRefusal | .hostWrite _ _ | .hostRead _ _ | .medlarLinkLoss | .medlarRetrain
  | .sloeRequest _ _ _ _ _ _ | .sloeLinkLoss _ | .sloeRetrain _ | .bringUp _ _ | .rstn _ | .flitReplay _ => true
  | .launchAcceptance core | .unfolding core | .roundRobinFallback core | .waitLimitExpiry core _ | .parkWake core _
  | .vaultControllerPacket core _ | .refresh core _ | .lossOfMemory _ core _ | .copyChunk core _ _ | .copyCompletion core _
  | .mmaCompletion core | .tileTaskCompletion core | .eicArm core | .gatherChunk core _ _ => decide (core < 1024)
  | .tableWalk station _ => decide (station < 64)
  | .dramThermalThrottle cluster | .admission cluster | .auditReplay cluster | .holdEnd cluster | .railSwitch cluster
  | .coreThrottle cluster | .coreThrottleEconomy cluster | .currThrottle cluster | .throttleClear cluster _ | .cpwrWake cluster =>
    decide (cluster < 64)
  | _ => false

/-- A move: a slot's turn, with what comes before its instruction, or an event, at its cycle; a move that names a unit the device does not have is
a fault. -/
noncomputable def State.move (s : State) : Move → Out
  | .issue n c j =>
    if 1023 < c ∨ 7 < j then .fault .noSuchUnit
    else
      let p := (s.atIssue n c j).prepare
      match p.2 with
      | none => .next p.1
      | some i => exec i p.1
  | .event n e => if isEvent e then exec e (s.atEvent n e) else .fault .noSuchUnit

/-! ## A word placed for the next fetch -/

/-- The strand that a placed word runs in: process 0, which is system software's, with all registers zero, at the first global
address. -/
def State.placedSlot : Slot :=
  (Slot.reset 0 0).load 0
    { id := { lid := 0, sid := 0 }, pid := 0, base := 0, eff := 0, handle := 0, hops := 0, lrec := 0 }
    { a := [], pc := 0x100000000#48, fl := 0, preds := 0, handle := 0, hops := 0, id := { lid := 0, sid := 0 }, pend := none,
      fresh := false }

/-- A word placed where a strand in slot 0 of core 0 fetches next, with the tables that map it, the strand, and its turn on the
agenda (notes/assumptions/6.md). -/
def State.place32 (s : State) (w : Nat) : State :=
  let mem := ((((s.mem.writeNat 0x1000 8 0x2001).writeNat 0x2000 8 0x3001).writeNat 0x3020 8 0x4001).writeNat 0x4000 8 0x20000F).writeNat
    0x200000 4 w
  { s with
    agenda := [.issue 0 0 0], now := 0, rank := 0, paced := 0, mem := mem, badGran := [], injected := [], kills := [], stpt := 0x1001, tvb := 0,
    stations := put 0 Station.reset s.stations, clusters := put 0 (Cluster.reset 0) s.clusters,
    cores := put 0 { Core.reset with feat := (s.coreAt 0).feat, slots := [(0, State.placedSlot)] } s.cores,
    quince := { s.quince with lost := s.quince.lost.filter fun p => p.1 != 0 } }

end Sys2Proof.Machine
end

