-- ==== Sys2Proof/Machine/Step.lean ====
section
/-! DEFINITION. One step of the device: the next move of its agenda, or of the fixed order where the agenda is empty. -/

namespace Sys2Proof.Machine

/-- One step. -/
noncomputable def step (s : State) : Host.Outcome State Fault Refusal :=
  let r := s.nextMove
  r.2.move r.1

/-- A state in which an instruction word stands where the next step fetches it: every instruction is one 32-bit word. -/
def State.withFetchWord (s : State) (_nbits w : Nat) : State := s.place32 w

end Sys2Proof.Machine
end

