-- ==== Sys2Proof/Laws/Dispatch.lean ====
section
/-! SUPPORT. Each instruction and each event is executed by its own meaning. -/

namespace Sys2Proof.Machine

@[simp] theorem exec_jr {a m t s} : exec (.jr a m t) s = execJr a m t s := rfl
@[simp] theorem exec_callr {a m t s} : exec (.callr a m t) s = execCallr a m t s := rfl
@[simp] theorem exec_yield {t s} : exec (.yield t) s = execYield t s := rfl
@[simp] theorem exec_go {a m t s} : exec (.go a m t) s = execGo a m t s := rfl
@[simp] theorem exec_park {t s} : exec (.park t) s = execPark t s := rfl
@[simp] theorem exec_exit {t s} : exec (.exit t) s = execExit t s := rfl
@[simp] theorem exec_loop {d im t s} : exec (.loop d im t) s = execLoop d im t s := rfl
@[simp] theorem exec_add {d a b h m t s} : exec (.add d a b h m t) s = execAdd d a b h m t s := rfl
@[simp] theorem exec_sub {d a b h m t s} : exec (.sub d a b h m t) s = execSub d a b h m t s := rfl
@[simp] theorem exec_and {d a b h m t s} : exec (.and d a b h m t) s = execAnd d a b h m t s := rfl
@[simp] theorem exec_or {d a b h m t s} : exec (.or d a b h m t) s = execOr d a b h m t s := rfl
@[simp] theorem exec_xor {d a b h m t s} : exec (.xor d a b h m t) s = execXor d a b h m t s := rfl
@[simp] theorem exec_andn {d a b h m t s} : exec (.andn d a b h m t) s = execAndn d a b h m t s := rfl
@[simp] theorem exec_shl {d a b h m t s} : exec (.shl d a b h m t) s = execShl d a b h m t s := rfl
@[simp] theorem exec_shr {d a b h m t s} : exec (.shr d a b h m t) s = execShr d a b h m t s := rfl
@[simp] theorem exec_sar {d a b h m t s} : exec (.sar d a b h m t) s = execSar d a b h m t s := rfl
@[simp] theorem exec_mul {d a b h m t s} : exec (.mul d a b h m t) s = execMul d a b h m t s := rfl
@[simp] theorem exec_mulh {d a b h m t s} : exec (.mulh d a b h m t) s = execMulh d a b h m t s := rfl
@[simp] theorem exec_mulhn {d a b h m t s} : exec (.mulhn d a b h m t) s = execMulhn d a b h m t s := rfl
@[simp] theorem exec_div {d a b h m t s} : exec (.div d a b h m t) s = execDiv d a b h m t s := rfl
@[simp] theorem exec_divn {d a b h m t s} : exec (.divn d a b h m t) s = execDivn d a b h m t s := rfl
@[simp] theorem exec_rem {d a b h m t s} : exec (.rem d a b h m t) s = execRem d a b h m t s := rfl
@[simp] theorem exec_remn {d a b h m t s} : exec (.remn d a b h m t) s = execRemn d a b h m t s := rfl
@[simp] theorem exec_min {d a b h m t s} : exec (.min d a b h m t) s = execMin d a b h m t s := rfl
@[simp] theorem exec_max {d a b h m t s} : exec (.max d a b h m t) s = execMax d a b h m t s := rfl
@[simp] theorem exec_minn {d a b h m t s} : exec (.minn d a b h m t) s = execMinn d a b h m t s := rfl
@[simp] theorem exec_maxn {d a b h m t s} : exec (.maxn d a b h m t) s = execMaxn d a b h m t s := rfl
@[simp] theorem exec_clz {d a h m t s} : exec (.clz d a h m t) s = execClz d a h m t s := rfl
@[simp] theorem exec_ctz {d a h m t s} : exec (.ctz d a h m t) s = execCtz d a h m t s := rfl
@[simp] theorem exec_popc {d a h m t s} : exec (.popc d a h m t) s = execPopc d a h m t s := rfl
@[simp] theorem exec_addi {d a im m t s} : exec (.addi d a im m t) s = execAddi d a im m t s := rfl
@[simp] theorem exec_andi {d a im m t s} : exec (.andi d a im m t) s = execAndi d a im m t s := rfl
@[simp] theorem exec_ori {d a im m t s} : exec (.ori d a im m t) s = execOri d a im m t s := rfl
@[simp] theorem exec_xori {d a im m t s} : exec (.xori d a im m t) s = execXori d a im m t s := rfl
@[simp] theorem exec_shli {d a n m t s} : exec (.shli d a n m t) s = execShli d a n m t s := rfl
@[simp] theorem exec_shri {d a n m t s} : exec (.shri d a n m t) s = execShri d a n m t s := rfl
@[simp] theorem exec_sari {d a n m t s} : exec (.sari d a n m t) s = execSari d a n m t s := rfl
@[simp] theorem exec_li {d im t s} : exec (.li d im t) s = execLi d im t s := rfl
@[simp] theorem exec_lui {d im t s} : exec (.lui d im t) s = execLui d im t s := rfl
@[simp] theorem exec_cmpEq {p a b m t s} : exec (.cmpEq p a b m t) s = execCmpEq p a b m t s := rfl
@[simp] theorem exec_cmpNe {p a b m t s} : exec (.cmpNe p a b m t) s = execCmpNe p a b m t s := rfl
@[simp] theorem exec_cmpLt {p a b m t s} : exec (.cmpLt p a b m t) s = execCmpLt p a b m t s := rfl
@[simp] theorem exec_cmpGe {p a b m t s} : exec (.cmpGe p a b m t) s = execCmpGe p a b m t s := rfl
@[simp] theorem exec_cmpLtn {p a b m t s} : exec (.cmpLtn p a b m t) s = execCmpLtn p a b m t s := rfl
@[simp] theorem exec_cmpGen {p a b m t s} : exec (.cmpGen p a b m t) s = execCmpGen p a b m t s := rfl
@[simp] theorem exec_cmpTst {p a b m t s} : exec (.cmpTst p a b m t) s = execCmpTst p a b m t s := rfl
@[simp] theorem exec_cmpTstz {p a b m t s} : exec (.cmpTstz p a b m t) s = execCmpTstz p a b m t s := rfl
@[simp] theorem exec_cmpiEq {p a im m t s} : exec (.cmpiEq p a im m t) s = execCmpiEq p a im m t s := rfl
@[simp] theorem exec_cmpiNe {p a im m t s} : exec (.cmpiNe p a im m t) s = execCmpiNe p a im m t s := rfl
@[simp] theorem exec_cmpiLt {p a im m t s} : exec (.cmpiLt p a im m t) s = execCmpiLt p a im m t s := rfl
@[simp] theorem exec_cmpiGe {p a im m t s} : exec (.cmpiGe p a im m t) s = execCmpiGe p a im m t s := rfl
@[simp] theorem exec_cmpiLtn {p a im m t s} : exec (.cmpiLtn p a im m t) s = execCmpiLtn p a im m t s := rfl
@[simp] theorem exec_cmpiGen {p a im m t s} : exec (.cmpiGen p a im m t) s = execCmpiGen p a im m t s := rfl
@[simp] theorem exec_sel {d a b p h m t s} : exec (.sel d a b p h m t) s = execSel d a b p h m t s := rfl
@[simp] theorem exec_seln {d a b p h m t s} : exec (.seln d a b p h m t) s = execSeln d a b p h m t s := rfl
@[simp] theorem exec_lea1 {d a b h m t s} : exec (.lea1 d a b h m t) s = execLea1 d a b h m t s := rfl
@[simp] theorem exec_lea2 {d a b h m t s} : exec (.lea2 d a b h m t) s = execLea2 d a b h m t s := rfl
@[simp] theorem exec_lea4 {d a b h m t s} : exec (.lea4 d a b h m t) s = execLea4 d a b h m t s := rfl
@[simp] theorem exec_lea8 {d a b h m t s} : exec (.lea8 d a b h m t) s = execLea8 d a b h m t s := rfl
@[simp] theorem exec_bfx {d a b h m t s} : exec (.bfx d a b h m t) s = execBfx d a b h m t s := rfl
@[simp] theorem exec_bfxs {d a b h m t s} : exec (.bfxs d a b h m t) s = execBfxs d a b h m t s := rfl
@[simp] theorem exec_bfi {d a b h m t s} : exec (.bfi d a b h m t) s = execBfi d a b h m t s := rfl
@[simp] theorem exec_ldS8 {d a o sc w f s} : exec (.ldS8 d a o sc w f) s = execLdS8 d a o sc w f s := rfl
@[simp] theorem exec_ldN8 {d a o sc w f s} : exec (.ldN8 d a o sc w f) s = execLdN8 d a o sc w f s := rfl
@[simp] theorem exec_ldS16 {d a o sc w f s} : exec (.ldS16 d a o sc w f) s = execLdS16 d a o sc w f s := rfl
@[simp] theorem exec_ldN16 {d a o sc w f s} : exec (.ldN16 d a o sc w f) s = execLdN16 d a o sc w f s := rfl
@[simp] theorem exec_ldS32 {d a o sc w f s} : exec (.ldS32 d a o sc w f) s = execLdS32 d a o sc w f s := rfl
@[simp] theorem exec_ldN32 {d a o sc w f s} : exec (.ldN32 d a o sc w f) s = execLdN32 d a o sc w f s := rfl
@[simp] theorem exec_ldx {d a o sc w f s} : exec (.ldx d a o sc w f) s = execLdx d a o sc w f s := rfl
@[simp] theorem exec_stb {d a o sc w f s} : exec (.stb d a o sc w f) s = execStb d a o sc w f s := rfl
@[simp] theorem exec_sth {d a o sc w f s} : exec (.sth d a o sc w f) s = execSth d a o sc w f s := rfl
@[simp] theorem exec_stw {d a o sc w f s} : exec (.stw d a o sc w f) s = execStw d a o sc w f s := rfl
@[simp] theorem exec_stx {d a o sc w f s} : exec (.stx d a o sc w f) s = execStx d a o sc w f s := rfl
@[simp] theorem exec_ldF {d a o sc w f s} : exec (.ldF d a o sc w f) s = execLdF d a o sc w f s := rfl
@[simp] theorem exec_ldFe {d a o sc w f s} : exec (.ldFe d a o sc w f) s = execLdFe d a o sc w f s := rfl
@[simp] theorem exec_stF {d a o sc w f s} : exec (.stF d a o sc w f) s = execStF d a o sc w f s := rfl
@[simp] theorem exec_stEf {d a o sc w f s} : exec (.stEf d a o sc w f) s = execStEf d a o sc w f s := rfl
@[simp] theorem exec_amoAdd {d a b o sc w s} : exec (.amoAdd d a b o sc w) s = execAmoAdd d a b o sc w s := rfl
@[simp] theorem exec_amoAnd {d a b o sc w s} : exec (.amoAnd d a b o sc w) s = execAmoAnd d a b o sc w s := rfl
@[simp] theorem exec_amoOr {d a b o sc w s} : exec (.amoOr d a b o sc w) s = execAmoOr d a b o sc w s := rfl
@[simp] theorem exec_amoXor {d a b o sc w s} : exec (.amoXor d a b o sc w) s = execAmoXor d a b o sc w s := rfl
@[simp] theorem exec_amoMin {d a b o sc w s} : exec (.amoMin d a b o sc w) s = execAmoMin d a b o sc w s := rfl
@[simp] theorem exec_amoMax {d a b o sc w s} : exec (.amoMax d a b o sc w) s = execAmoMax d a b o sc w s := rfl
@[simp] theorem exec_amoMinn {d a b o sc w s} : exec (.amoMinn d a b o sc w) s = execAmoMinn d a b o sc w s := rfl
@[simp] theorem exec_amoMaxn {d a b o sc w s} : exec (.amoMaxn d a b o sc w) s = execAmoMaxn d a b o sc w s := rfl
@[simp] theorem exec_amoSwap {d a b o sc w s} : exec (.amoSwap d a b o sc w) s = execAmoSwap d a b o sc w s := rfl
@[simp] theorem exec_amoCas {d a b o sc w s} : exec (.amoCas d a b o sc w) s = execAmoCas d a b o sc w s := rfl
@[simp] theorem exec_waita {a b w s} : exec (.waita a b w) s = execWaita a b w s := rfl
@[simp] theorem exec_cbInit {a b w s} : exec (.cbInit a b w) s = execCbInit a b w s := rfl
@[simp] theorem exec_cbArr {a w s} : exec (.cbArr a w) s = execCbArr a w s := rfl
@[simp] theorem exec_cbExp {a b w s} : exec (.cbExp a b w) s = execCbExp a b w s := rfl
@[simp] theorem exec_cbWait {a w s} : exec (.cbWait a w) s = execCbWait a w s := rfl
@[simp] theorem exec_cbTest {d a w s} : exec (.cbTest d a w) s = execCbTest d a w s := rfl
@[simp] theorem exec_cpy {a o sc w s} : exec (.cpy a o sc w) s = execCpy a o sc w s := rfl
@[simp] theorem exec_cpyQ {d sc w s} : exec (.cpyQ d sc w) s = execCpyQ d sc w s := rfl
@[simp] theorem exec_ldxM {d a o sc w s} : exec (.ldxM d a o sc w) s = execLdxM d a o sc w s := rfl
@[simp] theorem exec_stxM {d a o sc w s} : exec (.stxM d a o sc w) s = execStxM d a o sc w s := rfl
@[simp] theorem exec_lnch {a b o sc w s} : exec (.lnch a b o sc w) s = execLnch a b o sc w s := rfl
@[simp] theorem exec_grank {d b sc w s} : exec (.grank d b sc w) s = execGrank d b sc w s := rfl
@[simp] theorem exec_gsize {d b sc w s} : exec (.gsize d b sc w) s = execGsize d b sc w s := rfl
@[simp] theorem exec_task {a sc w s} : exec (.task a sc w) s = execTask a sc w s := rfl
@[simp] theorem exec_inq {d sc w s} : exec (.inq d sc w) s = execInq d sc w s := rfl
@[simp] theorem exec_spal {d a h m t s} : exec (.spal d a h m t) s = execSpal d a h m t s := rfl
@[simp] theorem exec_spfree {a m t s} : exec (.spfree a m t) s = execSpfree a m t s := rfl
@[simp] theorem exec_spsz {d a h m t s} : exec (.spsz d a h m t) s = execSpsz d a h m t s := rfl
@[simp] theorem exec_vadd {d a b t s} : exec (.vadd d a b t) s = execVadd d a b t s := rfl
@[simp] theorem exec_vsub {d a b t s} : exec (.vsub d a b t) s = execVsub d a b t s := rfl
@[simp] theorem exec_vmul {d a b t s} : exec (.vmul d a b t) s = execVmul d a b t s := rfl
@[simp] theorem exec_vfma {d a b t s} : exec (.vfma d a b t) s = execVfma d a b t s := rfl
@[simp] theorem exec_vfms {d a b t s} : exec (.vfms d a b t) s = execVfms d a b t s := rfl
@[simp] theorem exec_vmin {d a b t s} : exec (.vmin d a b t) s = execVmin d a b t s := rfl
@[simp] theorem exec_vmax {d a b t s} : exec (.vmax d a b t) s = execVmax d a b t s := rfl
@[simp] theorem exec_vabs {d a t s} : exec (.vabs d a t) s = execVabs d a t s := rfl
@[simp] theorem exec_vneg {d a t s} : exec (.vneg d a t) s = execVneg d a t s := rfl
@[simp] theorem exec_vdiv {d a b t s} : exec (.vdiv d a b t) s = execVdiv d a b t s := rfl
@[simp] theorem exec_vsqrt {d a t s} : exec (.vsqrt d a t) s = execVsqrt d a t s := rfl
@[simp] theorem exec_viadd {d a b t s} : exec (.viadd d a b t) s = execViadd d a b t s := rfl
@[simp] theorem exec_visub {d a b t s} : exec (.visub d a b t) s = execVisub d a b t s := rfl
@[simp] theorem exec_viadds {d a b t s} : exec (.viadds d a b t) s = execViadds d a b t s := rfl
@[simp] theorem exec_visubs {d a b t s} : exec (.visubs d a b t) s = execVisubs d a b t s := rfl
@[simp] theorem exec_viaddn {d a b t s} : exec (.viaddn d a b t) s = execViaddn d a b t s := rfl
@[simp] theorem exec_visubn {d a b t s} : exec (.visubn d a b t) s = execVisubn d a b t s := rfl
@[simp] theorem exec_vimul {d a b t s} : exec (.vimul d a b t) s = execVimul d a b t s := rfl
@[simp] theorem exec_vimulh {d a b t s} : exec (.vimulh d a b t) s = execVimulh d a b t s := rfl
@[simp] theorem exec_vimac {d a b t s} : exec (.vimac d a b t) s = execVimac d a b t s := rfl
@[simp] theorem exec_vimin {d a b t s} : exec (.vimin d a b t) s = execVimin d a b t s := rfl
@[simp] theorem exec_vimax {d a b t s} : exec (.vimax d a b t) s = execVimax d a b t s := rfl
@[simp] theorem exec_viminn {d a b t s} : exec (.viminn d a b t) s = execViminn d a b t s := rfl
@[simp] theorem exec_vimaxn {d a b t s} : exec (.vimaxn d a b t) s = execVimaxn d a b t s := rfl
@[simp] theorem exec_vand {d a b t s} : exec (.vand d a b t) s = execVand d a b t s := rfl
@[simp] theorem exec_vor {d a b t s} : exec (.vor d a b t) s = execVor d a b t s := rfl
@[simp] theorem exec_vxor {d a b t s} : exec (.vxor d a b t) s = execVxor d a b t s := rfl
@[simp] theorem exec_vshl {d a b t s} : exec (.vshl d a b t) s = execVshl d a b t s := rfl
@[simp] theorem exec_vshr {d a b t s} : exec (.vshr d a b t) s = execVshr d a b t s := rfl
@[simp] theorem exec_vsar {d a b t s} : exec (.vsar d a b t) s = execVsar d a b t s := rfl
@[simp] theorem exec_vsel {d a b t s} : exec (.vsel d a b t) s = execVsel d a b t s := rfl
@[simp] theorem exec_vcmpEq {a b t s} : exec (.vcmpEq a b t) s = execVcmpEq a b t s := rfl
@[simp] theorem exec_vcmpNe {a b t s} : exec (.vcmpNe a b t) s = execVcmpNe a b t s := rfl
@[simp] theorem exec_vcmpLt {a b t s} : exec (.vcmpLt a b t) s = execVcmpLt a b t s := rfl
@[simp] theorem exec_vcmpLe {a b t s} : exec (.vcmpLe a b t) s = execVcmpLe a b t s := rfl
@[simp] theorem exec_vcmpUn {a b t s} : exec (.vcmpUn a b t) s = execVcmpUn a b t s := rfl
@[simp] theorem exec_vicmpEq {a b t s} : exec (.vicmpEq a b t) s = execVicmpEq a b t s := rfl
@[simp] theorem exec_vicmpLt {a b t s} : exec (.vicmpLt a b t) s = execVicmpLt a b t s := rfl
@[simp] theorem exec_vicmpLtn {a b t s} : exec (.vicmpLtn a b t) s = execVicmpLtn a b t s := rfl
@[simp] theorem exec_vmsk {a t s} : exec (.vmsk a t) s = execVmsk a t s := rfl
@[simp] theorem exec_vmskall {t s} : exec (.vmskall t) s = execVmskall t s := rfl
@[simp] theorem exec_vcvtBf {d a t s} : exec (.vcvtBf d a t) s = execVcvtBf d a t s := rfl
@[simp] theorem exec_vcvtF8 {d a t s} : exec (.vcvtF8 d a t) s = execVcvtF8 d a t s := rfl
@[simp] theorem exec_vcvtKb8 {d a b t s} : exec (.vcvtKb8 d a b t) s = execVcvtKb8 d a b t s := rfl
@[simp] theorem exec_vcvtKb4 {d a b t s} : exec (.vcvtKb4 d a b t) s = execVcvtKb4 d a b t s := rfl
@[simp] theorem exec_vcvtF32 {d a b t s} : exec (.vcvtF32 d a b t) s = execVcvtF32 d a b t s := rfl
@[simp] theorem exec_vcvtInt {d a t s} : exec (.vcvtInt d a t) s = execVcvtInt d a t s := rfl
@[simp] theorem exec_vcvtFlt {d a t s} : exec (.vcvtFlt d a t) s = execVcvtFlt d a t s := rfl
@[simp] theorem exec_vnarrow {d a t s} : exec (.vnarrow d a t) s = execVnarrow d a t s := rfl
@[simp] theorem exec_vnarrows {d a t s} : exec (.vnarrows d a t) s = execVnarrows d a t s := rfl
@[simp] theorem exec_vcvtMr {d a t s} : exec (.vcvtMr d a t) s = execVcvtMr d a t s := rfl
@[simp] theorem exec_vexp2 {d a t s} : exec (.vexp2 d a t) s = execVexp2 d a t s := rfl
@[simp] theorem exec_vlog2 {d a t s} : exec (.vlog2 d a t) s = execVlog2 d a t s := rfl
@[simp] theorem exec_vrcp {d a t s} : exec (.vrcp d a t) s = execVrcp d a t s := rfl
@[simp] theorem exec_vrsqrt {d a t s} : exec (.vrsqrt d a t) s = execVrsqrt d a t s := rfl
@[simp] theorem exec_vsin {d a t s} : exec (.vsin d a t) s = execVsin d a t s := rfl
@[simp] theorem exec_vcos {d a t s} : exec (.vcos d a t) s = execVcos d a t s := rfl
@[simp] theorem exec_vtanh {d a t s} : exec (.vtanh d a t) s = execVtanh d a t s := rfl
@[simp] theorem exec_vexp {d a t s} : exec (.vexp d a t) s = execVexp d a t s := rfl
@[simp] theorem exec_vlse {d a b t s} : exec (.vlse d a b t) s = execVlse d a b t s := rfl
@[simp] theorem exec_vmadd {d a b t s} : exec (.vmadd d a b t) s = execVmadd d a b t s := rfl
@[simp] theorem exec_vmsub {d a b t s} : exec (.vmsub d a b t) s = execVmsub d a b t s := rfl
@[simp] theorem exec_vmmul {d a b t s} : exec (.vmmul d a b t) s = execVmmul d a b t s := rfl
@[simp] theorem exec_vmmac {d a b t s} : exec (.vmmac d a b t) s = execVmmac d a b t s := rfl
@[simp] theorem exec_vmneg {d a t s} : exec (.vmneg d a t) s = execVmneg d a t s := rfl
@[simp] theorem exec_mqset {a t s} : exec (.mqset a t) s = execMqset a t s := rfl
@[simp] theorem exec_bflyCt {d a b t s} : exec (.bflyCt d a b t) s = execBflyCt d a b t s := rfl
@[simp] theorem exec_bflyGs {d a b t s} : exec (.bflyGs d a b t) s = execBflyGs d a b t s := rfl
@[simp] theorem exec_vbst {d a sc t s} : exec (.vbst d a sc t) s = execVbst d a sc t s := rfl
@[simp] theorem exec_vrev {d a t s} : exec (.vrev d a t) s = execVrev d a t s := rfl
@[simp] theorem exec_vshuf {d a b t s} : exec (.vshuf d a b t) s = execVshuf d a b t s := rfl
@[simp] theorem exec_vld {d a t s} : exec (.vld d a t) s = execVld d a t s := rfl
@[simp] theorem exec_vst {d a t s} : exec (.vst d a t) s = execVst d a t s := rfl
@[simp] theorem exec_strbind {d a t s} : exec (.strbind d a t) s = execStrbind d a t s := rfl
@[simp] theorem exec_strend {d t s} : exec (.strend d t) s = execStrend d t s := rfl
@[simp] theorem exec_vrsum {d a t s} : exec (.vrsum d a t) s = execVrsum d a t s := rfl
@[simp] theorem exec_vrmax {d a t s} : exec (.vrmax d a t) s = execVrmax d a t s := rfl
@[simp] theorem exec_vrmin {d a t s} : exec (.vrmin d a t) s = execVrmin d a t s := rfl
@[simp] theorem exec_vrprod {d a t s} : exec (.vrprod d a t) s = execVrprod d a t s := rfl
@[simp] theorem exec_vbcast {d a t s} : exec (.vbcast d a t) s = execVbcast d a t s := rfl
@[simp] theorem exec_vrand {d t s} : exec (.vrand d t) s = execVrand d t s := rfl
@[simp] theorem exec_vseed {a b t s} : exec (.vseed a b t) s = execVseed a b t s := rfl
@[simp] theorem exec_ftile {a y t s} : exec (.ftile a y t) s = execFtile a y t s := rfl
@[simp] theorem exec_ftrel {a t s} : exec (.ftrel a t) s = execFtrel a t s := rfl
@[simp] theorem exec_vext {d a b t s} : exec (.vext d a b t) s = execVext d a b t s := rfl
@[simp] theorem exec_vmov {d a t s} : exec (.vmov d a t) s = execVmov d a t s := rfl
@[simp] theorem exec_tbind {d h l y t s} : exec (.tbind d h l y t) s = execTbind d h l y t s := rfl
@[simp] theorem exec_tfree {t s} : exec (.tfree t) s = execTfree t s := rfl
@[simp] theorem exec_tzero {d t s} : exec (.tzero d t) s = execTzero d t s := rfl
@[simp] theorem exec_tfill {d a t s} : exec (.tfill d a t) s = execTfill d a t s := rfl
@[simp] theorem exec_tdrain {d a t s} : exec (.tdrain d a t) s = execTdrain d a t s := rfl
@[simp] theorem exec_rowact {a t s} : exec (.rowact a t) s = execRowact a t s := rfl
@[simp] theorem exec_rowpre {a t s} : exec (.rowpre a t) s = execRowpre a t s := rfl
@[simp] theorem exec_tld {d a b c t s} : exec (.tld d a b c t) s = execTld d a b c t s := rfl
@[simp] theorem exec_bld {a b c t s} : exec (.bld a b c t) s = execBld a b c t s := rfl
@[simp] theorem exec_mma {d a b t s} : exec (.mma d a b t) s = execMma d a b t s := rfl
@[simp] theorem exec_mmaZ {d a b t s} : exec (.mmaZ d a b t) s = execMmaZ d a b t s := rfl
@[simp] theorem exec_mmaM {d a b t s} : exec (.mmaM d a b t) s = execMmaM d a b t s := rfl
@[simp] theorem exec_ckVer {d c t s} : exec (.ckVer d c t) s = execCkVer d c t s := rfl
@[simp] theorem exec_ckFix {d t s} : exec (.ckFix d t) s = execCkFix d t s := rfl
@[simp] theorem exec_ckRd {d b c t s} : exec (.ckRd d b c t) s = execCkRd d b c t s := rfl
@[simp] theorem exec_ckSig {d c t s} : exec (.ckSig d c t) s = execCkSig d c t s := rfl
@[simp] theorem exec_ckVerg {a c t s} : exec (.ckVerg a c t) s = execCkVerg a c t s := rfl
@[simp] theorem exec_ckFixg {a t s} : exec (.ckFixg a t) s = execCkFixg a t s := rfl
@[simp] theorem exec_ckRdg {a b c t s} : exec (.ckRdg a b c t) s = execCkRdg a b c t s := rfl
@[simp] theorem exec_ckSigg {a c t s} : exec (.ckSigg a c t) s = execCkSigg a c t s := rfl
@[simp] theorem exec_ttEnq {a c t s} : exec (.ttEnq a c t) s = execTtEnq a c t s := rfl
@[simp] theorem exec_leave {a b t s} : exec (.leave a b t) s = execLeave a b t s := rfl
@[simp] theorem exec_leaveRel {t s} : exec (.leaveRel t) s = execLeaveRel t s := rfl
@[simp] theorem exec_lutld {a b t s} : exec (.lutld a b t) s = execLutld a b t s := rfl
@[simp] theorem exec_fmtw {a b c t s} : exec (.fmtw a b c t) s = execFmtw a b c t s := rfl
@[simp] theorem exec_mmag {d a b c t s} : exec (.mmag d a b c t) s = execMmag d a b c t s := rfl
@[simp] theorem exec_mmagZ {d a b c t s} : exec (.mmagZ d a b c t) s = execMmagZ d a b c t s := rfl
@[simp] theorem exec_kvApp {a b c t s} : exec (.kvApp a b c t) s = execKvApp a b c t s := rfl
@[simp] theorem exec_kvFind {a b c t s} : exec (.kvFind a b c t) s = execKvFind a b c t s := rfl
@[simp] theorem exec_kvFree {a b c t s} : exec (.kvFree a b c t) s = execKvFree a b c t s := rfl
@[simp] theorem exec_kvGath {a b t s} : exec (.kvGath a b t) s = execKvGath a b t s := rfl
@[simp] theorem exec_rbSel {a b c t s} : exec (.rbSel a b c t) s = execRbSel a b c t s := rfl
@[simp] theorem exec_rbSeln {a b c t s} : exec (.rbSeln a b c t) s = execRbSeln a b c t s := rfl
@[simp] theorem exec_embRed {a c t s} : exec (.embRed a c t) s = execEmbRed a c t s := rfl
@[simp] theorem exec_dpPlan {a b c t s} : exec (.dpPlan a b c t) s = execDpPlan a b c t s := rfl
@[simp] theorem exec_rpt {L C D A B t s} : exec (.rpt L C D A B t) s = execRpt L C D A B t s := rfl
@[simp] theorem exec_trap {im t s} : exec (.trap im t) s = execTrap im t s := rfl
@[simp] theorem exec_brk {im t s} : exec (.brk im t) s = execBrk im t s := rfl
@[simp] theorem exec_rte {t s} : exec (.rte t) s = execRte t s := rfl
@[simp] theorem exec_settle {d a t s} : exec (.settle d a t) s = execSettle d a t s := rfl
@[simp] theorem exec_crd {d im t s} : exec (.crd d im t) s = execCrd d im t s := rfl
@[simp] theorem exec_cwr {a im t s} : exec (.cwr a im t) s = execCwr a im t s := rfl
@[simp] theorem exec_xrd {d a im t s} : exec (.xrd d a im t) s = execXrd d a im t s := rfl
@[simp] theorem exec_xwr {d a im t s} : exec (.xwr d a im t) s = execXwr d a im t s := rfl
@[simp] theorem exec_preempt {d a t s} : exec (.preempt d a t) s = execPreempt d a t s := rfl
@[simp] theorem exec_freeze {a t s} : exec (.freeze a t) s = execFreeze a t s := rfl
@[simp] theorem exec_thaw {a t s} : exec (.thaw a t) s = execThaw a t s := rfl
@[simp] theorem exec_stinv {d a t s} : exec (.stinv d a t) s = execStinv d a t s := rfl
@[simp] theorem exec_halt {t s} : exec (.halt t) s = execHalt t s := rfl
@[simp] theorem exec_idle {t s} : exec (.idle t) s = execIdle t s := rfl
@[simp] theorem exec_kill {a t s} : exec (.kill a t) s = execKill a t s := rfl
@[simp] theorem exec_b {p o s} : exec (.b p o) s = execB p o s := rfl
@[simp] theorem exec_bn {p o s} : exec (.bn p o) s = execBn p o s := rfl
@[simp] theorem exec_j {o s} : exec (.j o) s = execJ o s := rfl
@[simp] theorem exec_call {o s} : exec (.call o) s = execCall o s := rfl
@[simp] theorem exec_ret {t s} : exec (.ret t) s = execRet t s := rfl
@[simp] theorem exec_wpf {t s} : exec (.wpf t) s = execWpf t s := rfl
@[simp] theorem exec_pand {d a b t s} : exec (.pand d a b t) s = execPand d a b t s := rfl
@[simp] theorem exec_por {d a b t s} : exec (.por d a b t) s = execPor d a b t s := rfl
@[simp] theorem exec_pxor {d a b t s} : exec (.pxor d a b t) s = execPxor d a b t s := rfl
@[simp] theorem exec_pandn {d a b t s} : exec (.pandn d a b t) s = execPandn d a b t s := rfl
@[simp] theorem exec_pnot {d a t s} : exec (.pnot d a t) s = execPnot d a t s := rfl
@[simp] theorem exec_pset {d t s} : exec (.pset d t) s = execPset d t s := rfl
@[simp] theorem exec_pclr {d t s} : exec (.pclr d t) s = execPclr d t s := rfl
@[simp] theorem exec_fenceAcq {sc w s} : exec (.fenceAcq sc w) s = execFenceAcq sc w s := rfl
@[simp] theorem exec_fenceRel {sc w s} : exec (.fenceRel sc w) s = execFenceRel sc w s := rfl
@[simp] theorem exec_fenceAr {sc w s} : exec (.fenceAr sc w) s = execFenceAr sc w s := rfl
@[simp] theorem exec_fenceSc {sc w s} : exec (.fenceSc sc w) s = execFenceSc sc w s := rfl
@[simp] theorem exec_wait {w s} : exec (.wait w) s = execWait w s := rfl
@[simp] theorem exec_nop {t s} : exec (.nop t) s = execNop t s := rfl
@[simp] theorem exec_trapEntry {core slot s} : exec (.trapEntry core slot) s = execTrapEntry core slot s := rfl
@[simp] theorem exec_taskInboxAccept {k s} : exec (.taskInboxAccept k) s = execTaskInboxAccept k s := rfl
@[simp] theorem exec_launchMessageForward { s} : exec (.launchMessageForward) s = execLaunchMessageForward s := rfl
@[simp] theorem exec_launchAcceptance {core s} : exec (.launchAcceptance core) s = execLaunchAcceptance core s := rfl
@[simp] theorem exec_unfolding {core s} : exec (.unfolding core) s = execUnfolding core s := rfl
@[simp] theorem exec_placementPacket {k s} : exec (.placementPacket k) s = execPlacementPacket k s := rfl
@[simp] theorem exec_roundRobinFallback {core s} : exec (.roundRobinFallback core) s = execRoundRobinFallback core s := rfl
@[simp] theorem exec_migrationPacketArrival {k s} : exec (.migrationPacketArrival k) s = execMigrationPacketArrival k s := rfl
@[simp] theorem exec_takeUp {core slot s} : exec (.takeUp core slot) s = execTakeUp core slot s := rfl
@[simp] theorem exec_shadowRegisterLoad {core slot s} : exec (.shadowRegisterLoad core slot) s = execShadowRegisterLoad core slot s := rfl
@[simp] theorem exec_strandControlBlockLoad {core slot s} : exec (.strandControlBlockLoad core slot) s = execStrandControlBlockLoad core slot s := rfl
@[simp] theorem exec_laneModulusReload {core slot s} : exec (.laneModulusReload core slot) s = execLaneModulusReload core slot s := rfl
@[simp] theorem exec_quantumExpiry {core slot s} : exec (.quantumExpiry core slot) s = execQuantumExpiry core slot s := rfl
@[simp] theorem exec_launchSweep { s} : exec (.launchSweep) s = execLaunchSweep s := rfl
@[simp] theorem exec_spatialPreemptionRequest {w s} : exec (.spatialPreemptionRequest w) s = execSpatialPreemptionRequest w s := rfl
@[simp] theorem exec_preemptSave {core slot s} : exec (.preemptSave core slot) s = execPreemptSave core slot s := rfl
@[simp] theorem exec_waitLimitExpiry {core n s} : exec (.waitLimitExpiry core n) s = execWaitLimitExpiry core n s := rfl
@[simp] theorem exec_parkWake {core n s} : exec (.parkWake core n) s = execParkWake core n s := rfl
@[simp] theorem exec_load {k s} : exec (.load k) s = execLoad k s := rfl
@[simp] theorem exec_store {k s} : exec (.store k) s = execStore k s := rfl
@[simp] theorem exec_atomic {k s} : exec (.atomic k) s = execAtomic k s := rfl
@[simp] theorem exec_fullEmptyLoad {k s} : exec (.fullEmptyLoad k) s = execFullEmptyLoad k s := rfl
@[simp] theorem exec_fullEmptyStore {k s} : exec (.fullEmptyStore k) s = execFullEmptyStore k s := rfl
@[simp] theorem exec_parkedContinuation {k s} : exec (.parkedContinuation k) s = execParkedContinuation k s := rfl
@[simp] theorem exec_copySegment {k s} : exec (.copySegment k) s = execCopySegment k s := rfl
@[simp] theorem exec_gatherReduce {k s} : exec (.gatherReduce k) s = execGatherReduce k s := rfl
@[simp] theorem exec_kvTableOperation {k s} : exec (.kvTableOperation k) s = execKvTableOperation k s := rfl
@[simp] theorem exec_scratchpadLoad {k s} : exec (.scratchpadLoad k) s = execScratchpadLoad k s := rfl
@[simp] theorem exec_scratchpadStore {k s} : exec (.scratchpadStore k) s = execScratchpadStore k s := rfl
@[simp] theorem exec_barrierUpdate {k s} : exec (.barrierUpdate k) s = execBarrierUpdate k s := rfl
@[simp] theorem exec_waitOnAddress {k s} : exec (.waitOnAddress k) s = execWaitOnAddress k s := rfl
@[simp] theorem exec_unknownProcedure {k s} : exec (.unknownProcedure k) s = execUnknownProcedure k s := rfl
@[simp] theorem exec_reply {k s} : exec (.reply k) s = execReply k s := rfl
@[simp] theorem exec_stationRequest {k s} : exec (.stationRequest k) s = execStationRequest k s := rfl
@[simp] theorem exec_tableWalk {station n s} : exec (.tableWalk station n) s = execTableWalk station n s := rfl
@[simp] theorem exec_stationInvalidation {k s} : exec (.stationInvalidation k) s = execStationInvalidation k s := rfl
@[simp] theorem exec_vaultControllerPacket {core n s} : exec (.vaultControllerPacket core n) s = execVaultControllerPacket core n s := rfl
@[simp] theorem exec_refresh {core bank s} : exec (.refresh core bank) s = execRefresh core bank s := rfl
@[simp] theorem exec_hotMode {layer hot s} : exec (.hotMode layer hot) s = execHotMode layer hot s := rfl
@[simp] theorem exec_dramThermalThrottle {cluster s} : exec (.dramThermalThrottle cluster) s = execDramThermalThrottle cluster s := rfl
@[simp] theorem exec_lossOfMemory {kind core part s} : exec (.lossOfMemory kind core part) s = execLossOfMemory kind core part s := rfl
@[simp] theorem exec_copyChunk {core n off s} : exec (.copyChunk core n off) s = execCopyChunk core n off s := rfl
@[simp] theorem exec_copyCompletion {core n s} : exec (.copyCompletion core n) s = execCopyCompletion core n s := rfl
@[simp] theorem exec_mmaCompletion {core s} : exec (.mmaCompletion core) s = execMmaCompletion core s := rfl
@[simp] theorem exec_mmagPartial {k s} : exec (.mmagPartial k) s = execMmagPartial k s := rfl
@[simp] theorem exec_admission {cluster s} : exec (.admission cluster) s = execAdmission cluster s := rfl
@[simp] theorem exec_tileTaskCompletion {core s} : exec (.tileTaskCompletion core) s = execTileTaskCompletion core s := rfl
@[simp] theorem exec_auditReplay {cluster s} : exec (.auditReplay cluster) s = execAuditReplay cluster s := rfl
@[simp] theorem exec_controlInterval {measured s} : exec (.controlInterval measured) s = execControlInterval measured s := rfl
@[simp] theorem exec_boostInterval { s} : exec (.boostInterval) s = execBoostInterval s := rfl
@[simp] theorem exec_refillPeriod { s} : exec (.refillPeriod) s = execRefillPeriod s := rfl
@[simp] theorem exec_holdEnd {cluster s} : exec (.holdEnd cluster) s = execHoldEnd cluster s := rfl
@[simp] theorem exec_inRushSlot { s} : exec (.inRushSlot) s = execInRushSlot s := rfl
@[simp] theorem exec_railSwitch {cluster s} : exec (.railSwitch cluster) s = execRailSwitch cluster s := rfl
@[simp] theorem exec_coreThrottle {cluster s} : exec (.coreThrottle cluster) s = execCoreThrottle cluster s := rfl
@[simp] theorem exec_coreThrottleEconomy {cluster s} : exec (.coreThrottleEconomy cluster) s = execCoreThrottleEconomy cluster s := rfl
@[simp] theorem exec_currThrottle {cluster s} : exec (.currThrottle cluster) s = execCurrThrottle cluster s := rfl
@[simp] theorem exec_pcapThrottle {watts s} : exec (.pcapThrottle watts) s = execPcapThrottle watts s := rfl
@[simp] theorem exec_throttleClear {cluster reason s} : exec (.throttleClear cluster reason) s = execThrottleClear cluster reason s := rfl
@[simp] theorem exec_retention {core slot bank s} : exec (.retention core slot bank) s = execRetention core slot bank s := rfl
@[simp] theorem exec_gainCellRefresh {core slot s} : exec (.gainCellRefresh core slot) s = execGainCellRefresh core slot s := rfl
@[simp] theorem exec_shortLivedLapse {core slot reg s} : exec (.shortLivedLapse core slot reg) s = execShortLivedLapse core slot reg s := rfl
@[simp] theorem exec_operandPrefetchCompletion {core slot s} : exec (.operandPrefetchCompletion core slot) s = execOperandPrefetchCompletion core slot s := rfl
@[simp] theorem exec_channelEntryArrival {k s} : exec (.channelEntryArrival k) s = execChannelEntryArrival k s := rfl
@[simp] theorem exec_streamPatternRead {core slot str s} : exec (.streamPatternRead core slot str) s = execStreamPatternRead core slot str s := rfl
@[simp] theorem exec_cpwrWake {cluster s} : exec (.cpwrWake cluster) s = execCpwrWake cluster s := rfl
@[simp] theorem exec_mlpost {msg s} : exec (.mlpost msg) s = execMlpost msg s := rfl
@[simp] theorem exec_eicArm {core s} : exec (.eicArm core) s = execEicArm core s := rfl
@[simp] theorem exec_registerWrite {addr size value s} : exec (.registerWrite addr size value) s = execRegisterWrite addr size value s := rfl
@[simp] theorem exec_readEventLog { s} : exec (.readEventLog) s = execReadEventLog s := rfl
@[simp] theorem exec_attest { s} : exec (.attest) s = execAttest s := rfl
@[simp] theorem exec_stageFirmware { s} : exec (.stageFirmware) s = execStageFirmware s := rfl
@[simp] theorem exec_setPowerCap { s} : exec (.setPowerCap) s = execSetPowerCap s := rfl
@[simp] theorem exec_restartCore { s} : exec (.restartCore) s = execRestartCore s := rfl
@[simp] theorem exec_resetDevice { s} : exec (.resetDevice) s = execResetDevice s := rfl
@[simp] theorem exec_mailboxRefusal { s} : exec (.mailboxRefusal) s = execMailboxRefusal s := rfl
@[simp] theorem exec_hostWrite {addr data s} : exec (.hostWrite addr data) s = execHostWrite addr data s := rfl
@[simp] theorem exec_hostRead {addr n s} : exec (.hostRead addr n) s = execHostRead addr n s := rfl
@[simp] theorem exec_medlarLinkLoss { s} : exec (.medlarLinkLoss) s = execMedlarLinkLoss s := rfl
@[simp] theorem exec_medlarRetrain { s} : exec (.medlarRetrain) s = execMedlarRetrain s := rfl
@[simp] theorem exec_sloeRequest {link h0 h1 h2 h3 payload s} : exec (.sloeRequest link h0 h1 h2 h3 payload) s = execSloeRequest link h0 h1 h2 h3 payload s := rfl
@[simp] theorem exec_sloeLinkLoss {link s} : exec (.sloeLinkLoss link) s = execSloeLinkLoss link s := rfl
@[simp] theorem exec_sloeRetrain {link s} : exec (.sloeRetrain link) s = execSloeRetrain link s := rfl
@[simp] theorem exec_bringUp {failed badStores s} : exec (.bringUp failed badStores) s = execBringUp failed badStores s := rfl
@[simp] theorem exec_rstn {ns s} : exec (.rstn ns) s = execRstn ns s := rfl
@[simp] theorem exec_streamPatternWrite {core slot str s} : exec (.streamPatternWrite core slot str) s = execStreamPatternWrite core slot str s := rfl
@[simp] theorem exec_gatherChunk {core n off s} : exec (.gatherChunk core n off) s = execGatherChunk core n off s := rfl
@[simp] theorem exec_flitReplay {link s} : exec (.flitReplay link) s = execFlitReplay link s := rfl

end Sys2Proof.Machine
end

