-- ==== Sys2Proof/Laws/Maps.lean ====
section
/-! SUPPORT. Keyed lists: what is read after a value is listed under a key. -/

namespace Sys2Proof.Machine

@[simp] theorem look_put_self {α : Type} (k : Nat) (v : α) (m : List (Nat × α)) : look k (put k v m) = some v := by
  induction m with
  | nil => simp [put, look]
  | cons e r ih =>
    obtain ⟨i, w⟩ := e
    by_cases h : i = k
    · simp [put, look, h]
    · by_cases h' : k < i <;> simp [put, look, h, h', ih]

theorem look_put_other {α : Type} {k j : Nat} (h : j ≠ k) (v : α) (m : List (Nat × α)) : look j (put k v m) = look j m := by
  have h2 : k ≠ j := fun e => h e.symm
  induction m with
  | nil => simp [put, look, h2]
  | cons e r ih =>
    obtain ⟨i, w⟩ := e
    by_cases hi : i = k
    · subst hi; simp [put, look, h2]
    · by_cases hl : k < i
      · simp [put, look, hi, hl, h2]
      · simp [put, look, hi, hl, ih]

theorem look_put {α : Type} (k j : Nat) (v : α) (m : List (Nat × α)) :
    look j (put k v m) = if j = k then some v else look j m := by
  by_cases h : j = k
  · subst h; simp
  · simp [h, look_put_other h]

/-- Listing a value twice under one key keeps the later one. -/
@[simp] theorem put_put {α : Type} (k : Nat) (v w : α) (m : List (Nat × α)) : put k v (put k w m) = put k v m := by
  induction m with
  | nil => simp [put]
  | cons e r ih =>
    obtain ⟨i, x⟩ := e
    by_cases h : i = k
    · simp [put, h]
    · by_cases h' : k < i <;> simp [put, h, h', ih]

end Sys2Proof.Machine
end

