-- ==== Sys2Proof/Laws/State.lean ====
section
/-! SUPPORT. What the updates of State leave: one lemma per field per update, and what is read of a unit after it is replaced. -/

namespace Sys2Proof.Machine

/-! ## `putCore` -/

@[simp] theorem State.putCore_now (s : State) (c : Nat) (k : Core) : (s.putCore c k).now = s.now := rfl
@[simp] theorem State.putCore_rank (s : State) (c : Nat) (k : Core) : (s.putCore c k).rank = s.rank := rfl
@[simp] theorem State.putCore_paced (s : State) (c : Nat) (k : Core) : (s.putCore c k).paced = s.paced := rfl
@[simp] theorem State.putCore_agenda (s : State) (c : Nat) (k : Core) : (s.putCore c k).agenda = s.agenda := rfl
@[simp] theorem State.putCore_core (s : State) (c : Nat) (k : Core) : (s.putCore c k).core = s.core := rfl
@[simp] theorem State.putCore_slot (s : State) (c : Nat) (k : Core) : (s.putCore c k).slot = s.slot := rfl
@[simp] theorem State.putCore_mem (s : State) (c : Nat) (k : Core) : (s.putCore c k).mem = s.mem := rfl
@[simp] theorem State.putCore_spm (s : State) (c : Nat) (k : Core) : (s.putCore c k).spm = s.spm := rfl
@[simp] theorem State.putCore_empties (s : State) (c : Nat) (k : Core) : (s.putCore c k).empties = s.empties := rfl
@[simp] theorem State.putCore_badGran (s : State) (c : Nat) (k : Core) : (s.putCore c k).badGran = s.badGran := rfl
@[simp] theorem State.putCore_badSpm (s : State) (c : Nat) (k : Core) : (s.putCore c k).badSpm = s.badSpm := rfl
@[simp] theorem State.putCore_injected (s : State) (c : Nat) (k : Core) : (s.putCore c k).injected = s.injected := rfl
@[simp] theorem State.putCore_clusters (s : State) (c : Nat) (k : Core) : (s.putCore c k).clusters = s.clusters := rfl
@[simp] theorem State.putCore_stations (s : State) (c : Nat) (k : Core) : (s.putCore c k).stations = s.stations := rfl
@[simp] theorem State.putCore_mesh (s : State) (c : Nat) (k : Core) : (s.putCore c k).mesh = s.mesh := rfl
@[simp] theorem State.putCore_packets (s : State) (c : Nat) (k : Core) : (s.putCore c k).packets = s.packets := rfl
@[simp] theorem State.putCore_notes (s : State) (c : Nat) (k : Core) : (s.putCore c k).notes = s.notes := rfl
@[simp] theorem State.putCore_invs (s : State) (c : Nat) (k : Core) : (s.putCore c k).invs = s.invs := rfl
@[simp] theorem State.putCore_chans (s : State) (c : Nat) (k : Core) : (s.putCore c k).chans = s.chans := rfl
@[simp] theorem State.putCore_partials (s : State) (c : Nat) (k : Core) : (s.putCore c k).partials = s.partials := rfl
@[simp] theorem State.putCore_kills (s : State) (c : Nat) (k : Core) : (s.putCore c k).kills = s.kills := rfl
@[simp] theorem State.putCore_stpt (s : State) (c : Nat) (k : Core) : (s.putCore c k).stpt = s.stpt := rfl
@[simp] theorem State.putCore_tvb (s : State) (c : Nat) (k : Core) : (s.putCore c k).tvb = s.tvb := rfl
@[simp] theorem State.putCore_audc (s : State) (c : Nat) (k : Core) : (s.putCore c k).audc = s.audc := rfl
@[simp] theorem State.putCore_audb (s : State) (c : Nat) (k : Core) : (s.putCore c k).audb = s.audb := rfl
@[simp] theorem State.putCore_energy (s : State) (c : Nat) (k : Core) : (s.putCore c k).energy = s.energy := rfl
@[simp] theorem State.putCore_links (s : State) (c : Nat) (k : Core) : (s.putCore c k).links = s.links := rfl
@[simp] theorem State.putCore_medlar (s : State) (c : Nat) (k : Core) : (s.putCore c k).medlar = s.medlar := rfl
@[simp] theorem State.putCore_quince (s : State) (c : Nat) (k : Core) : (s.putCore c k).quince = s.quince := rfl
@[simp] theorem State.putCore_orders (s : State) (c : Nat) (k : Core) : (s.putCore c k).orders = s.orders := rfl
@[simp] theorem State.putCore_free (s : State) (c : Nat) (k : Core) : (s.putCore c k).free = s.free := rfl

/-! ## `onCore` -/

@[simp] theorem State.onCore_now (s : State) (c : Nat) (f : Core → Core) : (s.onCore c f).now = s.now := rfl
@[simp] theorem State.onCore_rank (s : State) (c : Nat) (f : Core → Core) : (s.onCore c f).rank = s.rank := rfl
@[simp] theorem State.onCore_paced (s : State) (c : Nat) (f : Core → Core) : (s.onCore c f).paced = s.paced := rfl
@[simp] theorem State.onCore_agenda (s : State) (c : Nat) (f : Core → Core) : (s.onCore c f).agenda = s.agenda := rfl
@[simp] theorem State.onCore_core (s : State) (c : Nat) (f : Core → Core) : (s.onCore c f).core = s.core := rfl
@[simp] theorem State.onCore_slot (s : State) (c : Nat) (f : Core → Core) : (s.onCore c f).slot = s.slot := rfl
@[simp] theorem State.onCore_mem (s : State) (c : Nat) (f : Core → Core) : (s.onCore c f).mem = s.mem := rfl
@[simp] theorem State.onCore_spm (s : State) (c : Nat) (f : Core → Core) : (s.onCore c f).spm = s.spm := rfl
@[simp] theorem State.onCore_empties (s : State) (c : Nat) (f : Core → Core) : (s.onCore c f).empties = s.empties := rfl
@[simp] theorem State.onCore_badGran (s : State) (c : Nat) (f : Core → Core) : (s.onCore c f).badGran = s.badGran := rfl
@[simp] theorem State.onCore_badSpm (s : State) (c : Nat) (f : Core → Core) : (s.onCore c f).badSpm = s.badSpm := rfl
@[simp] theorem State.onCore_injected (s : State) (c : Nat) (f : Core → Core) : (s.onCore c f).injected = s.injected := rfl
@[simp] theorem State.onCore_clusters (s : State) (c : Nat) (f : Core → Core) : (s.onCore c f).clusters = s.clusters := rfl
@[simp] theorem State.onCore_stations (s : State) (c : Nat) (f : Core → Core) : (s.onCore c f).stations = s.stations := rfl
@[simp] theorem State.onCore_mesh (s : State) (c : Nat) (f : Core → Core) : (s.onCore c f).mesh = s.mesh := rfl
@[simp] theorem State.onCore_packets (s : State) (c : Nat) (f : Core → Core) : (s.onCore c f).packets = s.packets := rfl
@[simp] theorem State.onCore_notes (s : State) (c : Nat) (f : Core → Core) : (s.onCore c f).notes = s.notes := rfl
@[simp] theorem State.onCore_invs (s : State) (c : Nat) (f : Core → Core) : (s.onCore c f).invs = s.invs := rfl
@[simp] theorem State.onCore_chans (s : State) (c : Nat) (f : Core → Core) : (s.onCore c f).chans = s.chans := rfl
@[simp] theorem State.onCore_partials (s : State) (c : Nat) (f : Core → Core) : (s.onCore c f).partials = s.partials := rfl
@[simp] theorem State.onCore_kills (s : State) (c : Nat) (f : Core → Core) : (s.onCore c f).kills = s.kills := rfl
@[simp] theorem State.onCore_stpt (s : State) (c : Nat) (f : Core → Core) : (s.onCore c f).stpt = s.stpt := rfl
@[simp] theorem State.onCore_tvb (s : State) (c : Nat) (f : Core → Core) : (s.onCore c f).tvb = s.tvb := rfl
@[simp] theorem State.onCore_audc (s : State) (c : Nat) (f : Core → Core) : (s.onCore c f).audc = s.audc := rfl
@[simp] theorem State.onCore_audb (s : State) (c : Nat) (f : Core → Core) : (s.onCore c f).audb = s.audb := rfl
@[simp] theorem State.onCore_energy (s : State) (c : Nat) (f : Core → Core) : (s.onCore c f).energy = s.energy := rfl
@[simp] theorem State.onCore_links (s : State) (c : Nat) (f : Core → Core) : (s.onCore c f).links = s.links := rfl
@[simp] theorem State.onCore_medlar (s : State) (c : Nat) (f : Core → Core) : (s.onCore c f).medlar = s.medlar := rfl
@[simp] theorem State.onCore_quince (s : State) (c : Nat) (f : Core → Core) : (s.onCore c f).quince = s.quince := rfl
@[simp] theorem State.onCore_orders (s : State) (c : Nat) (f : Core → Core) : (s.onCore c f).orders = s.orders := rfl
@[simp] theorem State.onCore_free (s : State) (c : Nat) (f : Core → Core) : (s.onCore c f).free = s.free := rfl

/-! ## `putSlot` -/

@[simp] theorem State.putSlot_now (s : State) (c j : Nat) (v : Slot) : (s.putSlot c j v).now = s.now := rfl
@[simp] theorem State.putSlot_rank (s : State) (c j : Nat) (v : Slot) : (s.putSlot c j v).rank = s.rank := rfl
@[simp] theorem State.putSlot_paced (s : State) (c j : Nat) (v : Slot) : (s.putSlot c j v).paced = s.paced := rfl
@[simp] theorem State.putSlot_agenda (s : State) (c j : Nat) (v : Slot) : (s.putSlot c j v).agenda = s.agenda := rfl
@[simp] theorem State.putSlot_core (s : State) (c j : Nat) (v : Slot) : (s.putSlot c j v).core = s.core := rfl
@[simp] theorem State.putSlot_slot (s : State) (c j : Nat) (v : Slot) : (s.putSlot c j v).slot = s.slot := rfl
@[simp] theorem State.putSlot_mem (s : State) (c j : Nat) (v : Slot) : (s.putSlot c j v).mem = s.mem := rfl
@[simp] theorem State.putSlot_spm (s : State) (c j : Nat) (v : Slot) : (s.putSlot c j v).spm = s.spm := rfl
@[simp] theorem State.putSlot_empties (s : State) (c j : Nat) (v : Slot) : (s.putSlot c j v).empties = s.empties := rfl
@[simp] theorem State.putSlot_badGran (s : State) (c j : Nat) (v : Slot) : (s.putSlot c j v).badGran = s.badGran := rfl
@[simp] theorem State.putSlot_badSpm (s : State) (c j : Nat) (v : Slot) : (s.putSlot c j v).badSpm = s.badSpm := rfl
@[simp] theorem State.putSlot_injected (s : State) (c j : Nat) (v : Slot) : (s.putSlot c j v).injected = s.injected := rfl
@[simp] theorem State.putSlot_clusters (s : State) (c j : Nat) (v : Slot) : (s.putSlot c j v).clusters = s.clusters := rfl
@[simp] theorem State.putSlot_stations (s : State) (c j : Nat) (v : Slot) : (s.putSlot c j v).stations = s.stations := rfl
@[simp] theorem State.putSlot_mesh (s : State) (c j : Nat) (v : Slot) : (s.putSlot c j v).mesh = s.mesh := rfl
@[simp] theorem State.putSlot_packets (s : State) (c j : Nat) (v : Slot) : (s.putSlot c j v).packets = s.packets := rfl
@[simp] theorem State.putSlot_notes (s : State) (c j : Nat) (v : Slot) : (s.putSlot c j v).notes = s.notes := rfl
@[simp] theorem State.putSlot_invs (s : State) (c j : Nat) (v : Slot) : (s.putSlot c j v).invs = s.invs := rfl
@[simp] theorem State.putSlot_chans (s : State) (c j : Nat) (v : Slot) : (s.putSlot c j v).chans = s.chans := rfl
@[simp] theorem State.putSlot_partials (s : State) (c j : Nat) (v : Slot) : (s.putSlot c j v).partials = s.partials := rfl
@[simp] theorem State.putSlot_kills (s : State) (c j : Nat) (v : Slot) : (s.putSlot c j v).kills = s.kills := rfl
@[simp] theorem State.putSlot_stpt (s : State) (c j : Nat) (v : Slot) : (s.putSlot c j v).stpt = s.stpt := rfl
@[simp] theorem State.putSlot_tvb (s : State) (c j : Nat) (v : Slot) : (s.putSlot c j v).tvb = s.tvb := rfl
@[simp] theorem State.putSlot_audc (s : State) (c j : Nat) (v : Slot) : (s.putSlot c j v).audc = s.audc := rfl
@[simp] theorem State.putSlot_audb (s : State) (c j : Nat) (v : Slot) : (s.putSlot c j v).audb = s.audb := rfl
@[simp] theorem State.putSlot_energy (s : State) (c j : Nat) (v : Slot) : (s.putSlot c j v).energy = s.energy := rfl
@[simp] theorem State.putSlot_links (s : State) (c j : Nat) (v : Slot) : (s.putSlot c j v).links = s.links := rfl
@[simp] theorem State.putSlot_medlar (s : State) (c j : Nat) (v : Slot) : (s.putSlot c j v).medlar = s.medlar := rfl
@[simp] theorem State.putSlot_quince (s : State) (c j : Nat) (v : Slot) : (s.putSlot c j v).quince = s.quince := rfl
@[simp] theorem State.putSlot_orders (s : State) (c j : Nat) (v : Slot) : (s.putSlot c j v).orders = s.orders := rfl
@[simp] theorem State.putSlot_free (s : State) (c j : Nat) (v : Slot) : (s.putSlot c j v).free = s.free := rfl

/-! ## `onSlot` -/

@[simp] theorem State.onSlot_now (s : State) (c j : Nat) (f : Slot → Slot) : (s.onSlot c j f).now = s.now := rfl
@[simp] theorem State.onSlot_rank (s : State) (c j : Nat) (f : Slot → Slot) : (s.onSlot c j f).rank = s.rank := rfl
@[simp] theorem State.onSlot_paced (s : State) (c j : Nat) (f : Slot → Slot) : (s.onSlot c j f).paced = s.paced := rfl
@[simp] theorem State.onSlot_agenda (s : State) (c j : Nat) (f : Slot → Slot) : (s.onSlot c j f).agenda = s.agenda := rfl
@[simp] theorem State.onSlot_core (s : State) (c j : Nat) (f : Slot → Slot) : (s.onSlot c j f).core = s.core := rfl
@[simp] theorem State.onSlot_slot (s : State) (c j : Nat) (f : Slot → Slot) : (s.onSlot c j f).slot = s.slot := rfl
@[simp] theorem State.onSlot_mem (s : State) (c j : Nat) (f : Slot → Slot) : (s.onSlot c j f).mem = s.mem := rfl
@[simp] theorem State.onSlot_spm (s : State) (c j : Nat) (f : Slot → Slot) : (s.onSlot c j f).spm = s.spm := rfl
@[simp] theorem State.onSlot_empties (s : State) (c j : Nat) (f : Slot → Slot) : (s.onSlot c j f).empties = s.empties := rfl
@[simp] theorem State.onSlot_badGran (s : State) (c j : Nat) (f : Slot → Slot) : (s.onSlot c j f).badGran = s.badGran := rfl
@[simp] theorem State.onSlot_badSpm (s : State) (c j : Nat) (f : Slot → Slot) : (s.onSlot c j f).badSpm = s.badSpm := rfl
@[simp] theorem State.onSlot_injected (s : State) (c j : Nat) (f : Slot → Slot) : (s.onSlot c j f).injected = s.injected := rfl
@[simp] theorem State.onSlot_clusters (s : State) (c j : Nat) (f : Slot → Slot) : (s.onSlot c j f).clusters = s.clusters := rfl
@[simp] theorem State.onSlot_stations (s : State) (c j : Nat) (f : Slot → Slot) : (s.onSlot c j f).stations = s.stations := rfl
@[simp] theorem State.onSlot_mesh (s : State) (c j : Nat) (f : Slot → Slot) : (s.onSlot c j f).mesh = s.mesh := rfl
@[simp] theorem State.onSlot_packets (s : State) (c j : Nat) (f : Slot → Slot) : (s.onSlot c j f).packets = s.packets := rfl
@[simp] theorem State.onSlot_notes (s : State) (c j : Nat) (f : Slot → Slot) : (s.onSlot c j f).notes = s.notes := rfl
@[simp] theorem State.onSlot_invs (s : State) (c j : Nat) (f : Slot → Slot) : (s.onSlot c j f).invs = s.invs := rfl
@[simp] theorem State.onSlot_chans (s : State) (c j : Nat) (f : Slot → Slot) : (s.onSlot c j f).chans = s.chans := rfl
@[simp] theorem State.onSlot_partials (s : State) (c j : Nat) (f : Slot → Slot) : (s.onSlot c j f).partials = s.partials := rfl
@[simp] theorem State.onSlot_kills (s : State) (c j : Nat) (f : Slot → Slot) : (s.onSlot c j f).kills = s.kills := rfl
@[simp] theorem State.onSlot_stpt (s : State) (c j : Nat) (f : Slot → Slot) : (s.onSlot c j f).stpt = s.stpt := rfl
@[simp] theorem State.onSlot_tvb (s : State) (c j : Nat) (f : Slot → Slot) : (s.onSlot c j f).tvb = s.tvb := rfl
@[simp] theorem State.onSlot_audc (s : State) (c j : Nat) (f : Slot → Slot) : (s.onSlot c j f).audc = s.audc := rfl
@[simp] theorem State.onSlot_audb (s : State) (c j : Nat) (f : Slot → Slot) : (s.onSlot c j f).audb = s.audb := rfl
@[simp] theorem State.onSlot_energy (s : State) (c j : Nat) (f : Slot → Slot) : (s.onSlot c j f).energy = s.energy := rfl
@[simp] theorem State.onSlot_links (s : State) (c j : Nat) (f : Slot → Slot) : (s.onSlot c j f).links = s.links := rfl
@[simp] theorem State.onSlot_medlar (s : State) (c j : Nat) (f : Slot → Slot) : (s.onSlot c j f).medlar = s.medlar := rfl
@[simp] theorem State.onSlot_quince (s : State) (c j : Nat) (f : Slot → Slot) : (s.onSlot c j f).quince = s.quince := rfl
@[simp] theorem State.onSlot_orders (s : State) (c j : Nat) (f : Slot → Slot) : (s.onSlot c j f).orders = s.orders := rfl
@[simp] theorem State.onSlot_free (s : State) (c j : Nat) (f : Slot → Slot) : (s.onSlot c j f).free = s.free := rfl

/-! ## `onMe` -/

@[simp] theorem State.onMe_now (s : State) (f : Slot → Slot) : (s.onMe f).now = s.now := rfl
@[simp] theorem State.onMe_rank (s : State) (f : Slot → Slot) : (s.onMe f).rank = s.rank := rfl
@[simp] theorem State.onMe_paced (s : State) (f : Slot → Slot) : (s.onMe f).paced = s.paced := rfl
@[simp] theorem State.onMe_agenda (s : State) (f : Slot → Slot) : (s.onMe f).agenda = s.agenda := rfl
@[simp] theorem State.onMe_core (s : State) (f : Slot → Slot) : (s.onMe f).core = s.core := rfl
@[simp] theorem State.onMe_slot (s : State) (f : Slot → Slot) : (s.onMe f).slot = s.slot := rfl
@[simp] theorem State.onMe_mem (s : State) (f : Slot → Slot) : (s.onMe f).mem = s.mem := rfl
@[simp] theorem State.onMe_spm (s : State) (f : Slot → Slot) : (s.onMe f).spm = s.spm := rfl
@[simp] theorem State.onMe_empties (s : State) (f : Slot → Slot) : (s.onMe f).empties = s.empties := rfl
@[simp] theorem State.onMe_badGran (s : State) (f : Slot → Slot) : (s.onMe f).badGran = s.badGran := rfl
@[simp] theorem State.onMe_badSpm (s : State) (f : Slot → Slot) : (s.onMe f).badSpm = s.badSpm := rfl
@[simp] theorem State.onMe_injected (s : State) (f : Slot → Slot) : (s.onMe f).injected = s.injected := rfl
@[simp] theorem State.onMe_clusters (s : State) (f : Slot → Slot) : (s.onMe f).clusters = s.clusters := rfl
@[simp] theorem State.onMe_stations (s : State) (f : Slot → Slot) : (s.onMe f).stations = s.stations := rfl
@[simp] theorem State.onMe_mesh (s : State) (f : Slot → Slot) : (s.onMe f).mesh = s.mesh := rfl
@[simp] theorem State.onMe_packets (s : State) (f : Slot → Slot) : (s.onMe f).packets = s.packets := rfl
@[simp] theorem State.onMe_notes (s : State) (f : Slot → Slot) : (s.onMe f).notes = s.notes := rfl
@[simp] theorem State.onMe_invs (s : State) (f : Slot → Slot) : (s.onMe f).invs = s.invs := rfl
@[simp] theorem State.onMe_chans (s : State) (f : Slot → Slot) : (s.onMe f).chans = s.chans := rfl
@[simp] theorem State.onMe_partials (s : State) (f : Slot → Slot) : (s.onMe f).partials = s.partials := rfl
@[simp] theorem State.onMe_kills (s : State) (f : Slot → Slot) : (s.onMe f).kills = s.kills := rfl
@[simp] theorem State.onMe_stpt (s : State) (f : Slot → Slot) : (s.onMe f).stpt = s.stpt := rfl
@[simp] theorem State.onMe_tvb (s : State) (f : Slot → Slot) : (s.onMe f).tvb = s.tvb := rfl
@[simp] theorem State.onMe_audc (s : State) (f : Slot → Slot) : (s.onMe f).audc = s.audc := rfl
@[simp] theorem State.onMe_audb (s : State) (f : Slot → Slot) : (s.onMe f).audb = s.audb := rfl
@[simp] theorem State.onMe_energy (s : State) (f : Slot → Slot) : (s.onMe f).energy = s.energy := rfl
@[simp] theorem State.onMe_links (s : State) (f : Slot → Slot) : (s.onMe f).links = s.links := rfl
@[simp] theorem State.onMe_medlar (s : State) (f : Slot → Slot) : (s.onMe f).medlar = s.medlar := rfl
@[simp] theorem State.onMe_quince (s : State) (f : Slot → Slot) : (s.onMe f).quince = s.quince := rfl
@[simp] theorem State.onMe_orders (s : State) (f : Slot → Slot) : (s.onMe f).orders = s.orders := rfl
@[simp] theorem State.onMe_free (s : State) (f : Slot → Slot) : (s.onMe f).free = s.free := rfl

/-! ## `onHere` -/

@[simp] theorem State.onHere_now (s : State) (f : Core → Core) : (s.onHere f).now = s.now := rfl
@[simp] theorem State.onHere_rank (s : State) (f : Core → Core) : (s.onHere f).rank = s.rank := rfl
@[simp] theorem State.onHere_paced (s : State) (f : Core → Core) : (s.onHere f).paced = s.paced := rfl
@[simp] theorem State.onHere_agenda (s : State) (f : Core → Core) : (s.onHere f).agenda = s.agenda := rfl
@[simp] theorem State.onHere_core (s : State) (f : Core → Core) : (s.onHere f).core = s.core := rfl
@[simp] theorem State.onHere_slot (s : State) (f : Core → Core) : (s.onHere f).slot = s.slot := rfl
@[simp] theorem State.onHere_mem (s : State) (f : Core → Core) : (s.onHere f).mem = s.mem := rfl
@[simp] theorem State.onHere_spm (s : State) (f : Core → Core) : (s.onHere f).spm = s.spm := rfl
@[simp] theorem State.onHere_empties (s : State) (f : Core → Core) : (s.onHere f).empties = s.empties := rfl
@[simp] theorem State.onHere_badGran (s : State) (f : Core → Core) : (s.onHere f).badGran = s.badGran := rfl
@[simp] theorem State.onHere_badSpm (s : State) (f : Core → Core) : (s.onHere f).badSpm = s.badSpm := rfl
@[simp] theorem State.onHere_injected (s : State) (f : Core → Core) : (s.onHere f).injected = s.injected := rfl
@[simp] theorem State.onHere_clusters (s : State) (f : Core → Core) : (s.onHere f).clusters = s.clusters := rfl
@[simp] theorem State.onHere_stations (s : State) (f : Core → Core) : (s.onHere f).stations = s.stations := rfl
@[simp] theorem State.onHere_mesh (s : State) (f : Core → Core) : (s.onHere f).mesh = s.mesh := rfl
@[simp] theorem State.onHere_packets (s : State) (f : Core → Core) : (s.onHere f).packets = s.packets := rfl
@[simp] theorem State.onHere_notes (s : State) (f : Core → Core) : (s.onHere f).notes = s.notes := rfl
@[simp] theorem State.onHere_invs (s : State) (f : Core → Core) : (s.onHere f).invs = s.invs := rfl
@[simp] theorem State.onHere_chans (s : State) (f : Core → Core) : (s.onHere f).chans = s.chans := rfl
@[simp] theorem State.onHere_partials (s : State) (f : Core → Core) : (s.onHere f).partials = s.partials := rfl
@[simp] theorem State.onHere_kills (s : State) (f : Core → Core) : (s.onHere f).kills = s.kills := rfl
@[simp] theorem State.onHere_stpt (s : State) (f : Core → Core) : (s.onHere f).stpt = s.stpt := rfl
@[simp] theorem State.onHere_tvb (s : State) (f : Core → Core) : (s.onHere f).tvb = s.tvb := rfl
@[simp] theorem State.onHere_audc (s : State) (f : Core → Core) : (s.onHere f).audc = s.audc := rfl
@[simp] theorem State.onHere_audb (s : State) (f : Core → Core) : (s.onHere f).audb = s.audb := rfl
@[simp] theorem State.onHere_energy (s : State) (f : Core → Core) : (s.onHere f).energy = s.energy := rfl
@[simp] theorem State.onHere_links (s : State) (f : Core → Core) : (s.onHere f).links = s.links := rfl
@[simp] theorem State.onHere_medlar (s : State) (f : Core → Core) : (s.onHere f).medlar = s.medlar := rfl
@[simp] theorem State.onHere_quince (s : State) (f : Core → Core) : (s.onHere f).quince = s.quince := rfl
@[simp] theorem State.onHere_orders (s : State) (f : Core → Core) : (s.onHere f).orders = s.orders := rfl
@[simp] theorem State.onHere_free (s : State) (f : Core → Core) : (s.onHere f).free = s.free := rfl

/-! ## `putTile` -/

@[simp] theorem State.putTile_now (s : State) (c t : Nat) (v : Tile) : (s.putTile c t v).now = s.now := rfl
@[simp] theorem State.putTile_rank (s : State) (c t : Nat) (v : Tile) : (s.putTile c t v).rank = s.rank := rfl
@[simp] theorem State.putTile_paced (s : State) (c t : Nat) (v : Tile) : (s.putTile c t v).paced = s.paced := rfl
@[simp] theorem State.putTile_agenda (s : State) (c t : Nat) (v : Tile) : (s.putTile c t v).agenda = s.agenda := rfl
@[simp] theorem State.putTile_core (s : State) (c t : Nat) (v : Tile) : (s.putTile c t v).core = s.core := rfl
@[simp] theorem State.putTile_slot (s : State) (c t : Nat) (v : Tile) : (s.putTile c t v).slot = s.slot := rfl
@[simp] theorem State.putTile_mem (s : State) (c t : Nat) (v : Tile) : (s.putTile c t v).mem = s.mem := rfl
@[simp] theorem State.putTile_spm (s : State) (c t : Nat) (v : Tile) : (s.putTile c t v).spm = s.spm := rfl
@[simp] theorem State.putTile_empties (s : State) (c t : Nat) (v : Tile) : (s.putTile c t v).empties = s.empties := rfl
@[simp] theorem State.putTile_badGran (s : State) (c t : Nat) (v : Tile) : (s.putTile c t v).badGran = s.badGran := rfl
@[simp] theorem State.putTile_badSpm (s : State) (c t : Nat) (v : Tile) : (s.putTile c t v).badSpm = s.badSpm := rfl
@[simp] theorem State.putTile_injected (s : State) (c t : Nat) (v : Tile) : (s.putTile c t v).injected = s.injected := rfl
@[simp] theorem State.putTile_clusters (s : State) (c t : Nat) (v : Tile) : (s.putTile c t v).clusters = s.clusters := rfl
@[simp] theorem State.putTile_stations (s : State) (c t : Nat) (v : Tile) : (s.putTile c t v).stations = s.stations := rfl
@[simp] theorem State.putTile_mesh (s : State) (c t : Nat) (v : Tile) : (s.putTile c t v).mesh = s.mesh := rfl
@[simp] theorem State.putTile_packets (s : State) (c t : Nat) (v : Tile) : (s.putTile c t v).packets = s.packets := rfl
@[simp] theorem State.putTile_notes (s : State) (c t : Nat) (v : Tile) : (s.putTile c t v).notes = s.notes := rfl
@[simp] theorem State.putTile_invs (s : State) (c t : Nat) (v : Tile) : (s.putTile c t v).invs = s.invs := rfl
@[simp] theorem State.putTile_chans (s : State) (c t : Nat) (v : Tile) : (s.putTile c t v).chans = s.chans := rfl
@[simp] theorem State.putTile_partials (s : State) (c t : Nat) (v : Tile) : (s.putTile c t v).partials = s.partials := rfl
@[simp] theorem State.putTile_kills (s : State) (c t : Nat) (v : Tile) : (s.putTile c t v).kills = s.kills := rfl
@[simp] theorem State.putTile_stpt (s : State) (c t : Nat) (v : Tile) : (s.putTile c t v).stpt = s.stpt := rfl
@[simp] theorem State.putTile_tvb (s : State) (c t : Nat) (v : Tile) : (s.putTile c t v).tvb = s.tvb := rfl
@[simp] theorem State.putTile_audc (s : State) (c t : Nat) (v : Tile) : (s.putTile c t v).audc = s.audc := rfl
@[simp] theorem State.putTile_audb (s : State) (c t : Nat) (v : Tile) : (s.putTile c t v).audb = s.audb := rfl
@[simp] theorem State.putTile_energy (s : State) (c t : Nat) (v : Tile) : (s.putTile c t v).energy = s.energy := rfl
@[simp] theorem State.putTile_links (s : State) (c t : Nat) (v : Tile) : (s.putTile c t v).links = s.links := rfl
@[simp] theorem State.putTile_medlar (s : State) (c t : Nat) (v : Tile) : (s.putTile c t v).medlar = s.medlar := rfl
@[simp] theorem State.putTile_quince (s : State) (c t : Nat) (v : Tile) : (s.putTile c t v).quince = s.quince := rfl
@[simp] theorem State.putTile_orders (s : State) (c t : Nat) (v : Tile) : (s.putTile c t v).orders = s.orders := rfl
@[simp] theorem State.putTile_free (s : State) (c t : Nat) (v : Tile) : (s.putTile c t v).free = s.free := rfl

/-! ## `putBank` -/

@[simp] theorem State.putBank_now (s : State) (c b : Nat) (v : Bank) : (s.putBank c b v).now = s.now := rfl
@[simp] theorem State.putBank_rank (s : State) (c b : Nat) (v : Bank) : (s.putBank c b v).rank = s.rank := rfl
@[simp] theorem State.putBank_paced (s : State) (c b : Nat) (v : Bank) : (s.putBank c b v).paced = s.paced := rfl
@[simp] theorem State.putBank_agenda (s : State) (c b : Nat) (v : Bank) : (s.putBank c b v).agenda = s.agenda := rfl
@[simp] theorem State.putBank_core (s : State) (c b : Nat) (v : Bank) : (s.putBank c b v).core = s.core := rfl
@[simp] theorem State.putBank_slot (s : State) (c b : Nat) (v : Bank) : (s.putBank c b v).slot = s.slot := rfl
@[simp] theorem State.putBank_mem (s : State) (c b : Nat) (v : Bank) : (s.putBank c b v).mem = s.mem := rfl
@[simp] theorem State.putBank_spm (s : State) (c b : Nat) (v : Bank) : (s.putBank c b v).spm = s.spm := rfl
@[simp] theorem State.putBank_empties (s : State) (c b : Nat) (v : Bank) : (s.putBank c b v).empties = s.empties := rfl
@[simp] theorem State.putBank_badGran (s : State) (c b : Nat) (v : Bank) : (s.putBank c b v).badGran = s.badGran := rfl
@[simp] theorem State.putBank_badSpm (s : State) (c b : Nat) (v : Bank) : (s.putBank c b v).badSpm = s.badSpm := rfl
@[simp] theorem State.putBank_injected (s : State) (c b : Nat) (v : Bank) : (s.putBank c b v).injected = s.injected := rfl
@[simp] theorem State.putBank_clusters (s : State) (c b : Nat) (v : Bank) : (s.putBank c b v).clusters = s.clusters := rfl
@[simp] theorem State.putBank_stations (s : State) (c b : Nat) (v : Bank) : (s.putBank c b v).stations = s.stations := rfl
@[simp] theorem State.putBank_mesh (s : State) (c b : Nat) (v : Bank) : (s.putBank c b v).mesh = s.mesh := rfl
@[simp] theorem State.putBank_packets (s : State) (c b : Nat) (v : Bank) : (s.putBank c b v).packets = s.packets := rfl
@[simp] theorem State.putBank_notes (s : State) (c b : Nat) (v : Bank) : (s.putBank c b v).notes = s.notes := rfl
@[simp] theorem State.putBank_invs (s : State) (c b : Nat) (v : Bank) : (s.putBank c b v).invs = s.invs := rfl
@[simp] theorem State.putBank_chans (s : State) (c b : Nat) (v : Bank) : (s.putBank c b v).chans = s.chans := rfl
@[simp] theorem State.putBank_partials (s : State) (c b : Nat) (v : Bank) : (s.putBank c b v).partials = s.partials := rfl
@[simp] theorem State.putBank_kills (s : State) (c b : Nat) (v : Bank) : (s.putBank c b v).kills = s.kills := rfl
@[simp] theorem State.putBank_stpt (s : State) (c b : Nat) (v : Bank) : (s.putBank c b v).stpt = s.stpt := rfl
@[simp] theorem State.putBank_tvb (s : State) (c b : Nat) (v : Bank) : (s.putBank c b v).tvb = s.tvb := rfl
@[simp] theorem State.putBank_audc (s : State) (c b : Nat) (v : Bank) : (s.putBank c b v).audc = s.audc := rfl
@[simp] theorem State.putBank_audb (s : State) (c b : Nat) (v : Bank) : (s.putBank c b v).audb = s.audb := rfl
@[simp] theorem State.putBank_energy (s : State) (c b : Nat) (v : Bank) : (s.putBank c b v).energy = s.energy := rfl
@[simp] theorem State.putBank_links (s : State) (c b : Nat) (v : Bank) : (s.putBank c b v).links = s.links := rfl
@[simp] theorem State.putBank_medlar (s : State) (c b : Nat) (v : Bank) : (s.putBank c b v).medlar = s.medlar := rfl
@[simp] theorem State.putBank_quince (s : State) (c b : Nat) (v : Bank) : (s.putBank c b v).quince = s.quince := rfl
@[simp] theorem State.putBank_orders (s : State) (c b : Nat) (v : Bank) : (s.putBank c b v).orders = s.orders := rfl
@[simp] theorem State.putBank_free (s : State) (c b : Nat) (v : Bank) : (s.putBank c b v).free = s.free := rfl

/-! ## `putCluster` -/

@[simp] theorem State.putCluster_now (s : State) (g : Nat) (v : Cluster) : (s.putCluster g v).now = s.now := rfl
@[simp] theorem State.putCluster_rank (s : State) (g : Nat) (v : Cluster) : (s.putCluster g v).rank = s.rank := rfl
@[simp] theorem State.putCluster_paced (s : State) (g : Nat) (v : Cluster) : (s.putCluster g v).paced = s.paced := rfl
@[simp] theorem State.putCluster_agenda (s : State) (g : Nat) (v : Cluster) : (s.putCluster g v).agenda = s.agenda := rfl
@[simp] theorem State.putCluster_core (s : State) (g : Nat) (v : Cluster) : (s.putCluster g v).core = s.core := rfl
@[simp] theorem State.putCluster_slot (s : State) (g : Nat) (v : Cluster) : (s.putCluster g v).slot = s.slot := rfl
@[simp] theorem State.putCluster_mem (s : State) (g : Nat) (v : Cluster) : (s.putCluster g v).mem = s.mem := rfl
@[simp] theorem State.putCluster_spm (s : State) (g : Nat) (v : Cluster) : (s.putCluster g v).spm = s.spm := rfl
@[simp] theorem State.putCluster_empties (s : State) (g : Nat) (v : Cluster) : (s.putCluster g v).empties = s.empties := rfl
@[simp] theorem State.putCluster_badGran (s : State) (g : Nat) (v : Cluster) : (s.putCluster g v).badGran = s.badGran := rfl
@[simp] theorem State.putCluster_badSpm (s : State) (g : Nat) (v : Cluster) : (s.putCluster g v).badSpm = s.badSpm := rfl
@[simp] theorem State.putCluster_injected (s : State) (g : Nat) (v : Cluster) : (s.putCluster g v).injected = s.injected := rfl
@[simp] theorem State.putCluster_cores (s : State) (g : Nat) (v : Cluster) : (s.putCluster g v).cores = s.cores := rfl
@[simp] theorem State.putCluster_stations (s : State) (g : Nat) (v : Cluster) : (s.putCluster g v).stations = s.stations := rfl
@[simp] theorem State.putCluster_mesh (s : State) (g : Nat) (v : Cluster) : (s.putCluster g v).mesh = s.mesh := rfl
@[simp] theorem State.putCluster_packets (s : State) (g : Nat) (v : Cluster) : (s.putCluster g v).packets = s.packets := rfl
@[simp] theorem State.putCluster_notes (s : State) (g : Nat) (v : Cluster) : (s.putCluster g v).notes = s.notes := rfl
@[simp] theorem State.putCluster_invs (s : State) (g : Nat) (v : Cluster) : (s.putCluster g v).invs = s.invs := rfl
@[simp] theorem State.putCluster_chans (s : State) (g : Nat) (v : Cluster) : (s.putCluster g v).chans = s.chans := rfl
@[simp] theorem State.putCluster_partials (s : State) (g : Nat) (v : Cluster) : (s.putCluster g v).partials = s.partials := rfl
@[simp] theorem State.putCluster_kills (s : State) (g : Nat) (v : Cluster) : (s.putCluster g v).kills = s.kills := rfl
@[simp] theorem State.putCluster_stpt (s : State) (g : Nat) (v : Cluster) : (s.putCluster g v).stpt = s.stpt := rfl
@[simp] theorem State.putCluster_tvb (s : State) (g : Nat) (v : Cluster) : (s.putCluster g v).tvb = s.tvb := rfl
@[simp] theorem State.putCluster_audc (s : State) (g : Nat) (v : Cluster) : (s.putCluster g v).audc = s.audc := rfl
@[simp] theorem State.putCluster_audb (s : State) (g : Nat) (v : Cluster) : (s.putCluster g v).audb = s.audb := rfl
@[simp] theorem State.putCluster_energy (s : State) (g : Nat) (v : Cluster) : (s.putCluster g v).energy = s.energy := rfl
@[simp] theorem State.putCluster_links (s : State) (g : Nat) (v : Cluster) : (s.putCluster g v).links = s.links := rfl
@[simp] theorem State.putCluster_medlar (s : State) (g : Nat) (v : Cluster) : (s.putCluster g v).medlar = s.medlar := rfl
@[simp] theorem State.putCluster_quince (s : State) (g : Nat) (v : Cluster) : (s.putCluster g v).quince = s.quince := rfl
@[simp] theorem State.putCluster_orders (s : State) (g : Nat) (v : Cluster) : (s.putCluster g v).orders = s.orders := rfl
@[simp] theorem State.putCluster_free (s : State) (g : Nat) (v : Cluster) : (s.putCluster g v).free = s.free := rfl

/-! ## `onCluster` -/

@[simp] theorem State.onCluster_now (s : State) (g : Nat) (f : Cluster → Cluster) : (s.onCluster g f).now = s.now := rfl
@[simp] theorem State.onCluster_rank (s : State) (g : Nat) (f : Cluster → Cluster) : (s.onCluster g f).rank = s.rank := rfl
@[simp] theorem State.onCluster_paced (s : State) (g : Nat) (f : Cluster → Cluster) : (s.onCluster g f).paced = s.paced := rfl
@[simp] theorem State.onCluster_agenda (s : State) (g : Nat) (f : Cluster → Cluster) : (s.onCluster g f).agenda = s.agenda := rfl
@[simp] theorem State.onCluster_core (s : State) (g : Nat) (f : Cluster → Cluster) : (s.onCluster g f).core = s.core := rfl
@[simp] theorem State.onCluster_slot (s : State) (g : Nat) (f : Cluster → Cluster) : (s.onCluster g f).slot = s.slot := rfl
@[simp] theorem State.onCluster_mem (s : State) (g : Nat) (f : Cluster → Cluster) : (s.onCluster g f).mem = s.mem := rfl
@[simp] theorem State.onCluster_spm (s : State) (g : Nat) (f : Cluster → Cluster) : (s.onCluster g f).spm = s.spm := rfl
@[simp] theorem State.onCluster_empties (s : State) (g : Nat) (f : Cluster → Cluster) : (s.onCluster g f).empties = s.empties := rfl
@[simp] theorem State.onCluster_badGran (s : State) (g : Nat) (f : Cluster → Cluster) : (s.onCluster g f).badGran = s.badGran := rfl
@[simp] theorem State.onCluster_badSpm (s : State) (g : Nat) (f : Cluster → Cluster) : (s.onCluster g f).badSpm = s.badSpm := rfl
@[simp] theorem State.onCluster_injected (s : State) (g : Nat) (f : Cluster → Cluster) : (s.onCluster g f).injected = s.injected := rfl
@[simp] theorem State.onCluster_cores (s : State) (g : Nat) (f : Cluster → Cluster) : (s.onCluster g f).cores = s.cores := rfl
@[simp] theorem State.onCluster_stations (s : State) (g : Nat) (f : Cluster → Cluster) : (s.onCluster g f).stations = s.stations := rfl
@[simp] theorem State.onCluster_mesh (s : State) (g : Nat) (f : Cluster → Cluster) : (s.onCluster g f).mesh = s.mesh := rfl
@[simp] theorem State.onCluster_packets (s : State) (g : Nat) (f : Cluster → Cluster) : (s.onCluster g f).packets = s.packets := rfl
@[simp] theorem State.onCluster_notes (s : State) (g : Nat) (f : Cluster → Cluster) : (s.onCluster g f).notes = s.notes := rfl
@[simp] theorem State.onCluster_invs (s : State) (g : Nat) (f : Cluster → Cluster) : (s.onCluster g f).invs = s.invs := rfl
@[simp] theorem State.onCluster_chans (s : State) (g : Nat) (f : Cluster → Cluster) : (s.onCluster g f).chans = s.chans := rfl
@[simp] theorem State.onCluster_partials (s : State) (g : Nat) (f : Cluster → Cluster) : (s.onCluster g f).partials = s.partials := rfl
@[simp] theorem State.onCluster_kills (s : State) (g : Nat) (f : Cluster → Cluster) : (s.onCluster g f).kills = s.kills := rfl
@[simp] theorem State.onCluster_stpt (s : State) (g : Nat) (f : Cluster → Cluster) : (s.onCluster g f).stpt = s.stpt := rfl
@[simp] theorem State.onCluster_tvb (s : State) (g : Nat) (f : Cluster → Cluster) : (s.onCluster g f).tvb = s.tvb := rfl
@[simp] theorem State.onCluster_audc (s : State) (g : Nat) (f : Cluster → Cluster) : (s.onCluster g f).audc = s.audc := rfl
@[simp] theorem State.onCluster_audb (s : State) (g : Nat) (f : Cluster → Cluster) : (s.onCluster g f).audb = s.audb := rfl
@[simp] theorem State.onCluster_energy (s : State) (g : Nat) (f : Cluster → Cluster) : (s.onCluster g f).energy = s.energy := rfl
@[simp] theorem State.onCluster_links (s : State) (g : Nat) (f : Cluster → Cluster) : (s.onCluster g f).links = s.links := rfl
@[simp] theorem State.onCluster_medlar (s : State) (g : Nat) (f : Cluster → Cluster) : (s.onCluster g f).medlar = s.medlar := rfl
@[simp] theorem State.onCluster_quince (s : State) (g : Nat) (f : Cluster → Cluster) : (s.onCluster g f).quince = s.quince := rfl
@[simp] theorem State.onCluster_orders (s : State) (g : Nat) (f : Cluster → Cluster) : (s.onCluster g f).orders = s.orders := rfl
@[simp] theorem State.onCluster_free (s : State) (g : Nat) (f : Cluster → Cluster) : (s.onCluster g f).free = s.free := rfl

/-! ## `putStation` -/

@[simp] theorem State.putStation_now (s : State) (n : Nat) (v : Station) : (s.putStation n v).now = s.now := rfl
@[simp] theorem State.putStation_rank (s : State) (n : Nat) (v : Station) : (s.putStation n v).rank = s.rank := rfl
@[simp] theorem State.putStation_paced (s : State) (n : Nat) (v : Station) : (s.putStation n v).paced = s.paced := rfl
@[simp] theorem State.putStation_agenda (s : State) (n : Nat) (v : Station) : (s.putStation n v).agenda = s.agenda := rfl
@[simp] theorem State.putStation_core (s : State) (n : Nat) (v : Station) : (s.putStation n v).core = s.core := rfl
@[simp] theorem State.putStation_slot (s : State) (n : Nat) (v : Station) : (s.putStation n v).slot = s.slot := rfl
@[simp] theorem State.putStation_mem (s : State) (n : Nat) (v : Station) : (s.putStation n v).mem = s.mem := rfl
@[simp] theorem State.putStation_spm (s : State) (n : Nat) (v : Station) : (s.putStation n v).spm = s.spm := rfl
@[simp] theorem State.putStation_empties (s : State) (n : Nat) (v : Station) : (s.putStation n v).empties = s.empties := rfl
@[simp] theorem State.putStation_badGran (s : State) (n : Nat) (v : Station) : (s.putStation n v).badGran = s.badGran := rfl
@[simp] theorem State.putStation_badSpm (s : State) (n : Nat) (v : Station) : (s.putStation n v).badSpm = s.badSpm := rfl
@[simp] theorem State.putStation_injected (s : State) (n : Nat) (v : Station) : (s.putStation n v).injected = s.injected := rfl
@[simp] theorem State.putStation_cores (s : State) (n : Nat) (v : Station) : (s.putStation n v).cores = s.cores := rfl
@[simp] theorem State.putStation_clusters (s : State) (n : Nat) (v : Station) : (s.putStation n v).clusters = s.clusters := rfl
@[simp] theorem State.putStation_mesh (s : State) (n : Nat) (v : Station) : (s.putStation n v).mesh = s.mesh := rfl
@[simp] theorem State.putStation_packets (s : State) (n : Nat) (v : Station) : (s.putStation n v).packets = s.packets := rfl
@[simp] theorem State.putStation_notes (s : State) (n : Nat) (v : Station) : (s.putStation n v).notes = s.notes := rfl
@[simp] theorem State.putStation_invs (s : State) (n : Nat) (v : Station) : (s.putStation n v).invs = s.invs := rfl
@[simp] theorem State.putStation_chans (s : State) (n : Nat) (v : Station) : (s.putStation n v).chans = s.chans := rfl
@[simp] theorem State.putStation_partials (s : State) (n : Nat) (v : Station) : (s.putStation n v).partials = s.partials := rfl
@[simp] theorem State.putStation_kills (s : State) (n : Nat) (v : Station) : (s.putStation n v).kills = s.kills := rfl
@[simp] theorem State.putStation_stpt (s : State) (n : Nat) (v : Station) : (s.putStation n v).stpt = s.stpt := rfl
@[simp] theorem State.putStation_tvb (s : State) (n : Nat) (v : Station) : (s.putStation n v).tvb = s.tvb := rfl
@[simp] theorem State.putStation_audc (s : State) (n : Nat) (v : Station) : (s.putStation n v).audc = s.audc := rfl
@[simp] theorem State.putStation_audb (s : State) (n : Nat) (v : Station) : (s.putStation n v).audb = s.audb := rfl
@[simp] theorem State.putStation_energy (s : State) (n : Nat) (v : Station) : (s.putStation n v).energy = s.energy := rfl
@[simp] theorem State.putStation_links (s : State) (n : Nat) (v : Station) : (s.putStation n v).links = s.links := rfl
@[simp] theorem State.putStation_medlar (s : State) (n : Nat) (v : Station) : (s.putStation n v).medlar = s.medlar := rfl
@[simp] theorem State.putStation_quince (s : State) (n : Nat) (v : Station) : (s.putStation n v).quince = s.quince := rfl
@[simp] theorem State.putStation_orders (s : State) (n : Nat) (v : Station) : (s.putStation n v).orders = s.orders := rfl
@[simp] theorem State.putStation_free (s : State) (n : Nat) (v : Station) : (s.putStation n v).free = s.free := rfl

/-! ## `putLink` -/

@[simp] theorem State.putLink_now (s : State) (n : Nat) (v : Link) : (s.putLink n v).now = s.now := rfl
@[simp] theorem State.putLink_rank (s : State) (n : Nat) (v : Link) : (s.putLink n v).rank = s.rank := rfl
@[simp] theorem State.putLink_paced (s : State) (n : Nat) (v : Link) : (s.putLink n v).paced = s.paced := rfl
@[simp] theorem State.putLink_agenda (s : State) (n : Nat) (v : Link) : (s.putLink n v).agenda = s.agenda := rfl
@[simp] theorem State.putLink_core (s : State) (n : Nat) (v : Link) : (s.putLink n v).core = s.core := rfl
@[simp] theorem State.putLink_slot (s : State) (n : Nat) (v : Link) : (s.putLink n v).slot = s.slot := rfl
@[simp] theorem State.putLink_mem (s : State) (n : Nat) (v : Link) : (s.putLink n v).mem = s.mem := rfl
@[simp] theorem State.putLink_spm (s : State) (n : Nat) (v : Link) : (s.putLink n v).spm = s.spm := rfl
@[simp] theorem State.putLink_empties (s : State) (n : Nat) (v : Link) : (s.putLink n v).empties = s.empties := rfl
@[simp] theorem State.putLink_badGran (s : State) (n : Nat) (v : Link) : (s.putLink n v).badGran = s.badGran := rfl
@[simp] theorem State.putLink_badSpm (s : State) (n : Nat) (v : Link) : (s.putLink n v).badSpm = s.badSpm := rfl
@[simp] theorem State.putLink_injected (s : State) (n : Nat) (v : Link) : (s.putLink n v).injected = s.injected := rfl
@[simp] theorem State.putLink_cores (s : State) (n : Nat) (v : Link) : (s.putLink n v).cores = s.cores := rfl
@[simp] theorem State.putLink_clusters (s : State) (n : Nat) (v : Link) : (s.putLink n v).clusters = s.clusters := rfl
@[simp] theorem State.putLink_stations (s : State) (n : Nat) (v : Link) : (s.putLink n v).stations = s.stations := rfl
@[simp] theorem State.putLink_mesh (s : State) (n : Nat) (v : Link) : (s.putLink n v).mesh = s.mesh := rfl
@[simp] theorem State.putLink_packets (s : State) (n : Nat) (v : Link) : (s.putLink n v).packets = s.packets := rfl
@[simp] theorem State.putLink_notes (s : State) (n : Nat) (v : Link) : (s.putLink n v).notes = s.notes := rfl
@[simp] theorem State.putLink_invs (s : State) (n : Nat) (v : Link) : (s.putLink n v).invs = s.invs := rfl
@[simp] theorem State.putLink_chans (s : State) (n : Nat) (v : Link) : (s.putLink n v).chans = s.chans := rfl
@[simp] theorem State.putLink_partials (s : State) (n : Nat) (v : Link) : (s.putLink n v).partials = s.partials := rfl
@[simp] theorem State.putLink_kills (s : State) (n : Nat) (v : Link) : (s.putLink n v).kills = s.kills := rfl
@[simp] theorem State.putLink_stpt (s : State) (n : Nat) (v : Link) : (s.putLink n v).stpt = s.stpt := rfl
@[simp] theorem State.putLink_tvb (s : State) (n : Nat) (v : Link) : (s.putLink n v).tvb = s.tvb := rfl
@[simp] theorem State.putLink_audc (s : State) (n : Nat) (v : Link) : (s.putLink n v).audc = s.audc := rfl
@[simp] theorem State.putLink_audb (s : State) (n : Nat) (v : Link) : (s.putLink n v).audb = s.audb := rfl
@[simp] theorem State.putLink_energy (s : State) (n : Nat) (v : Link) : (s.putLink n v).energy = s.energy := rfl
@[simp] theorem State.putLink_medlar (s : State) (n : Nat) (v : Link) : (s.putLink n v).medlar = s.medlar := rfl
@[simp] theorem State.putLink_quince (s : State) (n : Nat) (v : Link) : (s.putLink n v).quince = s.quince := rfl
@[simp] theorem State.putLink_orders (s : State) (n : Nat) (v : Link) : (s.putLink n v).orders = s.orders := rfl
@[simp] theorem State.putLink_free (s : State) (n : Nat) (v : Link) : (s.putLink n v).free = s.free := rfl

/-! ## `putMsg` -/

@[simp] theorem State.putMsg_now (s : State) (k : Nat) (m : Msg) : (s.putMsg k m).now = s.now := rfl
@[simp] theorem State.putMsg_rank (s : State) (k : Nat) (m : Msg) : (s.putMsg k m).rank = s.rank := rfl
@[simp] theorem State.putMsg_paced (s : State) (k : Nat) (m : Msg) : (s.putMsg k m).paced = s.paced := rfl
@[simp] theorem State.putMsg_agenda (s : State) (k : Nat) (m : Msg) : (s.putMsg k m).agenda = s.agenda := rfl
@[simp] theorem State.putMsg_core (s : State) (k : Nat) (m : Msg) : (s.putMsg k m).core = s.core := rfl
@[simp] theorem State.putMsg_slot (s : State) (k : Nat) (m : Msg) : (s.putMsg k m).slot = s.slot := rfl
@[simp] theorem State.putMsg_mem (s : State) (k : Nat) (m : Msg) : (s.putMsg k m).mem = s.mem := rfl
@[simp] theorem State.putMsg_spm (s : State) (k : Nat) (m : Msg) : (s.putMsg k m).spm = s.spm := rfl
@[simp] theorem State.putMsg_empties (s : State) (k : Nat) (m : Msg) : (s.putMsg k m).empties = s.empties := rfl
@[simp] theorem State.putMsg_badGran (s : State) (k : Nat) (m : Msg) : (s.putMsg k m).badGran = s.badGran := rfl
@[simp] theorem State.putMsg_badSpm (s : State) (k : Nat) (m : Msg) : (s.putMsg k m).badSpm = s.badSpm := rfl
@[simp] theorem State.putMsg_injected (s : State) (k : Nat) (m : Msg) : (s.putMsg k m).injected = s.injected := rfl
@[simp] theorem State.putMsg_cores (s : State) (k : Nat) (m : Msg) : (s.putMsg k m).cores = s.cores := rfl
@[simp] theorem State.putMsg_clusters (s : State) (k : Nat) (m : Msg) : (s.putMsg k m).clusters = s.clusters := rfl
@[simp] theorem State.putMsg_stations (s : State) (k : Nat) (m : Msg) : (s.putMsg k m).stations = s.stations := rfl
@[simp] theorem State.putMsg_packets (s : State) (k : Nat) (m : Msg) : (s.putMsg k m).packets = s.packets := rfl
@[simp] theorem State.putMsg_notes (s : State) (k : Nat) (m : Msg) : (s.putMsg k m).notes = s.notes := rfl
@[simp] theorem State.putMsg_invs (s : State) (k : Nat) (m : Msg) : (s.putMsg k m).invs = s.invs := rfl
@[simp] theorem State.putMsg_chans (s : State) (k : Nat) (m : Msg) : (s.putMsg k m).chans = s.chans := rfl
@[simp] theorem State.putMsg_partials (s : State) (k : Nat) (m : Msg) : (s.putMsg k m).partials = s.partials := rfl
@[simp] theorem State.putMsg_kills (s : State) (k : Nat) (m : Msg) : (s.putMsg k m).kills = s.kills := rfl
@[simp] theorem State.putMsg_stpt (s : State) (k : Nat) (m : Msg) : (s.putMsg k m).stpt = s.stpt := rfl
@[simp] theorem State.putMsg_tvb (s : State) (k : Nat) (m : Msg) : (s.putMsg k m).tvb = s.tvb := rfl
@[simp] theorem State.putMsg_audc (s : State) (k : Nat) (m : Msg) : (s.putMsg k m).audc = s.audc := rfl
@[simp] theorem State.putMsg_audb (s : State) (k : Nat) (m : Msg) : (s.putMsg k m).audb = s.audb := rfl
@[simp] theorem State.putMsg_energy (s : State) (k : Nat) (m : Msg) : (s.putMsg k m).energy = s.energy := rfl
@[simp] theorem State.putMsg_links (s : State) (k : Nat) (m : Msg) : (s.putMsg k m).links = s.links := rfl
@[simp] theorem State.putMsg_medlar (s : State) (k : Nat) (m : Msg) : (s.putMsg k m).medlar = s.medlar := rfl
@[simp] theorem State.putMsg_quince (s : State) (k : Nat) (m : Msg) : (s.putMsg k m).quince = s.quince := rfl
@[simp] theorem State.putMsg_orders (s : State) (k : Nat) (m : Msg) : (s.putMsg k m).orders = s.orders := rfl
@[simp] theorem State.putMsg_free (s : State) (k : Nat) (m : Msg) : (s.putMsg k m).free = s.free := rfl

/-! ## `dropMsg` -/

@[simp] theorem State.dropMsg_now (s : State) (k : Nat) : (s.dropMsg k).now = s.now := rfl
@[simp] theorem State.dropMsg_rank (s : State) (k : Nat) : (s.dropMsg k).rank = s.rank := rfl
@[simp] theorem State.dropMsg_paced (s : State) (k : Nat) : (s.dropMsg k).paced = s.paced := rfl
@[simp] theorem State.dropMsg_agenda (s : State) (k : Nat) : (s.dropMsg k).agenda = s.agenda := rfl
@[simp] theorem State.dropMsg_core (s : State) (k : Nat) : (s.dropMsg k).core = s.core := rfl
@[simp] theorem State.dropMsg_slot (s : State) (k : Nat) : (s.dropMsg k).slot = s.slot := rfl
@[simp] theorem State.dropMsg_mem (s : State) (k : Nat) : (s.dropMsg k).mem = s.mem := rfl
@[simp] theorem State.dropMsg_spm (s : State) (k : Nat) : (s.dropMsg k).spm = s.spm := rfl
@[simp] theorem State.dropMsg_empties (s : State) (k : Nat) : (s.dropMsg k).empties = s.empties := rfl
@[simp] theorem State.dropMsg_badGran (s : State) (k : Nat) : (s.dropMsg k).badGran = s.badGran := rfl
@[simp] theorem State.dropMsg_badSpm (s : State) (k : Nat) : (s.dropMsg k).badSpm = s.badSpm := rfl
@[simp] theorem State.dropMsg_injected (s : State) (k : Nat) : (s.dropMsg k).injected = s.injected := rfl
@[simp] theorem State.dropMsg_cores (s : State) (k : Nat) : (s.dropMsg k).cores = s.cores := rfl
@[simp] theorem State.dropMsg_clusters (s : State) (k : Nat) : (s.dropMsg k).clusters = s.clusters := rfl
@[simp] theorem State.dropMsg_stations (s : State) (k : Nat) : (s.dropMsg k).stations = s.stations := rfl
@[simp] theorem State.dropMsg_packets (s : State) (k : Nat) : (s.dropMsg k).packets = s.packets := rfl
@[simp] theorem State.dropMsg_notes (s : State) (k : Nat) : (s.dropMsg k).notes = s.notes := rfl
@[simp] theorem State.dropMsg_invs (s : State) (k : Nat) : (s.dropMsg k).invs = s.invs := rfl
@[simp] theorem State.dropMsg_chans (s : State) (k : Nat) : (s.dropMsg k).chans = s.chans := rfl
@[simp] theorem State.dropMsg_partials (s : State) (k : Nat) : (s.dropMsg k).partials = s.partials := rfl
@[simp] theorem State.dropMsg_kills (s : State) (k : Nat) : (s.dropMsg k).kills = s.kills := rfl
@[simp] theorem State.dropMsg_stpt (s : State) (k : Nat) : (s.dropMsg k).stpt = s.stpt := rfl
@[simp] theorem State.dropMsg_tvb (s : State) (k : Nat) : (s.dropMsg k).tvb = s.tvb := rfl
@[simp] theorem State.dropMsg_audc (s : State) (k : Nat) : (s.dropMsg k).audc = s.audc := rfl
@[simp] theorem State.dropMsg_audb (s : State) (k : Nat) : (s.dropMsg k).audb = s.audb := rfl
@[simp] theorem State.dropMsg_energy (s : State) (k : Nat) : (s.dropMsg k).energy = s.energy := rfl
@[simp] theorem State.dropMsg_links (s : State) (k : Nat) : (s.dropMsg k).links = s.links := rfl
@[simp] theorem State.dropMsg_medlar (s : State) (k : Nat) : (s.dropMsg k).medlar = s.medlar := rfl
@[simp] theorem State.dropMsg_quince (s : State) (k : Nat) : (s.dropMsg k).quince = s.quince := rfl
@[simp] theorem State.dropMsg_orders (s : State) (k : Nat) : (s.dropMsg k).orders = s.orders := rfl
@[simp] theorem State.dropMsg_free (s : State) (k : Nat) : (s.dropMsg k).free = s.free := rfl

/-! ## `chargeGranules` -/

@[simp] theorem State.chargeGranules_now (s : State) (c : Nat) (tag : BitVec 16) (n : Nat) : (s.chargeGranules c tag n).now = s.now := rfl
@[simp] theorem State.chargeGranules_rank (s : State) (c : Nat) (tag : BitVec 16) (n : Nat) : (s.chargeGranules c tag n).rank = s.rank := rfl
@[simp] theorem State.chargeGranules_paced (s : State) (c : Nat) (tag : BitVec 16) (n : Nat) : (s.chargeGranules c tag n).paced = s.paced := rfl
@[simp] theorem State.chargeGranules_agenda (s : State) (c : Nat) (tag : BitVec 16) (n : Nat) : (s.chargeGranules c tag n).agenda = s.agenda := rfl
@[simp] theorem State.chargeGranules_core (s : State) (c : Nat) (tag : BitVec 16) (n : Nat) : (s.chargeGranules c tag n).core = s.core := rfl
@[simp] theorem State.chargeGranules_slot (s : State) (c : Nat) (tag : BitVec 16) (n : Nat) : (s.chargeGranules c tag n).slot = s.slot := rfl
@[simp] theorem State.chargeGranules_mem (s : State) (c : Nat) (tag : BitVec 16) (n : Nat) : (s.chargeGranules c tag n).mem = s.mem := rfl
@[simp] theorem State.chargeGranules_spm (s : State) (c : Nat) (tag : BitVec 16) (n : Nat) : (s.chargeGranules c tag n).spm = s.spm := rfl
@[simp] theorem State.chargeGranules_empties (s : State) (c : Nat) (tag : BitVec 16) (n : Nat) : (s.chargeGranules c tag n).empties = s.empties := rfl
@[simp] theorem State.chargeGranules_badGran (s : State) (c : Nat) (tag : BitVec 16) (n : Nat) : (s.chargeGranules c tag n).badGran = s.badGran := rfl
@[simp] theorem State.chargeGranules_badSpm (s : State) (c : Nat) (tag : BitVec 16) (n : Nat) : (s.chargeGranules c tag n).badSpm = s.badSpm := rfl
@[simp] theorem State.chargeGranules_injected (s : State) (c : Nat) (tag : BitVec 16) (n : Nat) : (s.chargeGranules c tag n).injected = s.injected := rfl
@[simp] theorem State.chargeGranules_cores (s : State) (c : Nat) (tag : BitVec 16) (n : Nat) : (s.chargeGranules c tag n).cores = s.cores := rfl
@[simp] theorem State.chargeGranules_stations (s : State) (c : Nat) (tag : BitVec 16) (n : Nat) : (s.chargeGranules c tag n).stations = s.stations := rfl
@[simp] theorem State.chargeGranules_mesh (s : State) (c : Nat) (tag : BitVec 16) (n : Nat) : (s.chargeGranules c tag n).mesh = s.mesh := rfl
@[simp] theorem State.chargeGranules_packets (s : State) (c : Nat) (tag : BitVec 16) (n : Nat) : (s.chargeGranules c tag n).packets = s.packets := rfl
@[simp] theorem State.chargeGranules_notes (s : State) (c : Nat) (tag : BitVec 16) (n : Nat) : (s.chargeGranules c tag n).notes = s.notes := rfl
@[simp] theorem State.chargeGranules_invs (s : State) (c : Nat) (tag : BitVec 16) (n : Nat) : (s.chargeGranules c tag n).invs = s.invs := rfl
@[simp] theorem State.chargeGranules_chans (s : State) (c : Nat) (tag : BitVec 16) (n : Nat) : (s.chargeGranules c tag n).chans = s.chans := rfl
@[simp] theorem State.chargeGranules_partials (s : State) (c : Nat) (tag : BitVec 16) (n : Nat) : (s.chargeGranules c tag n).partials = s.partials := rfl
@[simp] theorem State.chargeGranules_kills (s : State) (c : Nat) (tag : BitVec 16) (n : Nat) : (s.chargeGranules c tag n).kills = s.kills := rfl
@[simp] theorem State.chargeGranules_stpt (s : State) (c : Nat) (tag : BitVec 16) (n : Nat) : (s.chargeGranules c tag n).stpt = s.stpt := rfl
@[simp] theorem State.chargeGranules_tvb (s : State) (c : Nat) (tag : BitVec 16) (n : Nat) : (s.chargeGranules c tag n).tvb = s.tvb := rfl
@[simp] theorem State.chargeGranules_audc (s : State) (c : Nat) (tag : BitVec 16) (n : Nat) : (s.chargeGranules c tag n).audc = s.audc := rfl
@[simp] theorem State.chargeGranules_audb (s : State) (c : Nat) (tag : BitVec 16) (n : Nat) : (s.chargeGranules c tag n).audb = s.audb := rfl
@[simp] theorem State.chargeGranules_energy (s : State) (c : Nat) (tag : BitVec 16) (n : Nat) : (s.chargeGranules c tag n).energy = s.energy := rfl
@[simp] theorem State.chargeGranules_links (s : State) (c : Nat) (tag : BitVec 16) (n : Nat) : (s.chargeGranules c tag n).links = s.links := rfl
@[simp] theorem State.chargeGranules_medlar (s : State) (c : Nat) (tag : BitVec 16) (n : Nat) : (s.chargeGranules c tag n).medlar = s.medlar := rfl
@[simp] theorem State.chargeGranules_quince (s : State) (c : Nat) (tag : BitVec 16) (n : Nat) : (s.chargeGranules c tag n).quince = s.quince := rfl
@[simp] theorem State.chargeGranules_orders (s : State) (c : Nat) (tag : BitVec 16) (n : Nat) : (s.chargeGranules c tag n).orders = s.orders := rfl
@[simp] theorem State.chargeGranules_free (s : State) (c : Nat) (tag : BitVec 16) (n : Nat) : (s.chargeGranules c tag n).free = s.free := rfl

/-! ## `dst` -/

@[simp] theorem State.dst_now (s : State) (d : BitVec 5) (x : Word) (h : BitVec 1) (lat : Nat) : (s.dst d x h lat).now = s.now := rfl
@[simp] theorem State.dst_rank (s : State) (d : BitVec 5) (x : Word) (h : BitVec 1) (lat : Nat) : (s.dst d x h lat).rank = s.rank := rfl
@[simp] theorem State.dst_paced (s : State) (d : BitVec 5) (x : Word) (h : BitVec 1) (lat : Nat) : (s.dst d x h lat).paced = s.paced := rfl
@[simp] theorem State.dst_agenda (s : State) (d : BitVec 5) (x : Word) (h : BitVec 1) (lat : Nat) : (s.dst d x h lat).agenda = s.agenda := rfl
@[simp] theorem State.dst_core (s : State) (d : BitVec 5) (x : Word) (h : BitVec 1) (lat : Nat) : (s.dst d x h lat).core = s.core := rfl
@[simp] theorem State.dst_slot (s : State) (d : BitVec 5) (x : Word) (h : BitVec 1) (lat : Nat) : (s.dst d x h lat).slot = s.slot := rfl
@[simp] theorem State.dst_mem (s : State) (d : BitVec 5) (x : Word) (h : BitVec 1) (lat : Nat) : (s.dst d x h lat).mem = s.mem := rfl
@[simp] theorem State.dst_spm (s : State) (d : BitVec 5) (x : Word) (h : BitVec 1) (lat : Nat) : (s.dst d x h lat).spm = s.spm := rfl
@[simp] theorem State.dst_empties (s : State) (d : BitVec 5) (x : Word) (h : BitVec 1) (lat : Nat) : (s.dst d x h lat).empties = s.empties := rfl
@[simp] theorem State.dst_badGran (s : State) (d : BitVec 5) (x : Word) (h : BitVec 1) (lat : Nat) : (s.dst d x h lat).badGran = s.badGran := rfl
@[simp] theorem State.dst_badSpm (s : State) (d : BitVec 5) (x : Word) (h : BitVec 1) (lat : Nat) : (s.dst d x h lat).badSpm = s.badSpm := rfl
@[simp] theorem State.dst_injected (s : State) (d : BitVec 5) (x : Word) (h : BitVec 1) (lat : Nat) : (s.dst d x h lat).injected = s.injected := rfl
@[simp] theorem State.dst_clusters (s : State) (d : BitVec 5) (x : Word) (h : BitVec 1) (lat : Nat) : (s.dst d x h lat).clusters = s.clusters := rfl
@[simp] theorem State.dst_stations (s : State) (d : BitVec 5) (x : Word) (h : BitVec 1) (lat : Nat) : (s.dst d x h lat).stations = s.stations := rfl
@[simp] theorem State.dst_mesh (s : State) (d : BitVec 5) (x : Word) (h : BitVec 1) (lat : Nat) : (s.dst d x h lat).mesh = s.mesh := rfl
@[simp] theorem State.dst_packets (s : State) (d : BitVec 5) (x : Word) (h : BitVec 1) (lat : Nat) : (s.dst d x h lat).packets = s.packets := rfl
@[simp] theorem State.dst_notes (s : State) (d : BitVec 5) (x : Word) (h : BitVec 1) (lat : Nat) : (s.dst d x h lat).notes = s.notes := rfl
@[simp] theorem State.dst_invs (s : State) (d : BitVec 5) (x : Word) (h : BitVec 1) (lat : Nat) : (s.dst d x h lat).invs = s.invs := rfl
@[simp] theorem State.dst_chans (s : State) (d : BitVec 5) (x : Word) (h : BitVec 1) (lat : Nat) : (s.dst d x h lat).chans = s.chans := rfl
@[simp] theorem State.dst_partials (s : State) (d : BitVec 5) (x : Word) (h : BitVec 1) (lat : Nat) : (s.dst d x h lat).partials = s.partials := rfl
@[simp] theorem State.dst_kills (s : State) (d : BitVec 5) (x : Word) (h : BitVec 1) (lat : Nat) : (s.dst d x h lat).kills = s.kills := rfl
@[simp] theorem State.dst_stpt (s : State) (d : BitVec 5) (x : Word) (h : BitVec 1) (lat : Nat) : (s.dst d x h lat).stpt = s.stpt := rfl
@[simp] theorem State.dst_tvb (s : State) (d : BitVec 5) (x : Word) (h : BitVec 1) (lat : Nat) : (s.dst d x h lat).tvb = s.tvb := rfl
@[simp] theorem State.dst_audc (s : State) (d : BitVec 5) (x : Word) (h : BitVec 1) (lat : Nat) : (s.dst d x h lat).audc = s.audc := rfl
@[simp] theorem State.dst_audb (s : State) (d : BitVec 5) (x : Word) (h : BitVec 1) (lat : Nat) : (s.dst d x h lat).audb = s.audb := rfl
@[simp] theorem State.dst_energy (s : State) (d : BitVec 5) (x : Word) (h : BitVec 1) (lat : Nat) : (s.dst d x h lat).energy = s.energy := rfl
@[simp] theorem State.dst_links (s : State) (d : BitVec 5) (x : Word) (h : BitVec 1) (lat : Nat) : (s.dst d x h lat).links = s.links := rfl
@[simp] theorem State.dst_medlar (s : State) (d : BitVec 5) (x : Word) (h : BitVec 1) (lat : Nat) : (s.dst d x h lat).medlar = s.medlar := rfl
@[simp] theorem State.dst_quince (s : State) (d : BitVec 5) (x : Word) (h : BitVec 1) (lat : Nat) : (s.dst d x h lat).quince = s.quince := rfl
@[simp] theorem State.dst_orders (s : State) (d : BitVec 5) (x : Word) (h : BitVec 1) (lat : Nat) : (s.dst d x h lat).orders = s.orders := rfl
@[simp] theorem State.dst_free (s : State) (d : BitVec 5) (x : Word) (h : BitVec 1) (lat : Nat) : (s.dst d x h lat).free = s.free := rfl

/-! ## `retire` -/

@[simp] theorem State.retire_now (s : State) (u : Use) (next : Option Word) : (s.retire u next).now = s.now := rfl
@[simp] theorem State.retire_rank (s : State) (u : Use) (next : Option Word) : (s.retire u next).rank = s.rank := rfl
@[simp] theorem State.retire_paced (s : State) (u : Use) (next : Option Word) : (s.retire u next).paced = s.paced := rfl
@[simp] theorem State.retire_agenda (s : State) (u : Use) (next : Option Word) : (s.retire u next).agenda = s.agenda := rfl
@[simp] theorem State.retire_core (s : State) (u : Use) (next : Option Word) : (s.retire u next).core = s.core := rfl
@[simp] theorem State.retire_slot (s : State) (u : Use) (next : Option Word) : (s.retire u next).slot = s.slot := rfl
@[simp] theorem State.retire_mem (s : State) (u : Use) (next : Option Word) : (s.retire u next).mem = s.mem := rfl
@[simp] theorem State.retire_spm (s : State) (u : Use) (next : Option Word) : (s.retire u next).spm = s.spm := rfl
@[simp] theorem State.retire_empties (s : State) (u : Use) (next : Option Word) : (s.retire u next).empties = s.empties := rfl
@[simp] theorem State.retire_badGran (s : State) (u : Use) (next : Option Word) : (s.retire u next).badGran = s.badGran := rfl
@[simp] theorem State.retire_badSpm (s : State) (u : Use) (next : Option Word) : (s.retire u next).badSpm = s.badSpm := rfl
@[simp] theorem State.retire_injected (s : State) (u : Use) (next : Option Word) : (s.retire u next).injected = s.injected := rfl
@[simp] theorem State.retire_stations (s : State) (u : Use) (next : Option Word) : (s.retire u next).stations = s.stations := rfl
@[simp] theorem State.retire_mesh (s : State) (u : Use) (next : Option Word) : (s.retire u next).mesh = s.mesh := rfl
@[simp] theorem State.retire_packets (s : State) (u : Use) (next : Option Word) : (s.retire u next).packets = s.packets := rfl
@[simp] theorem State.retire_notes (s : State) (u : Use) (next : Option Word) : (s.retire u next).notes = s.notes := rfl
@[simp] theorem State.retire_invs (s : State) (u : Use) (next : Option Word) : (s.retire u next).invs = s.invs := rfl
@[simp] theorem State.retire_chans (s : State) (u : Use) (next : Option Word) : (s.retire u next).chans = s.chans := rfl
@[simp] theorem State.retire_partials (s : State) (u : Use) (next : Option Word) : (s.retire u next).partials = s.partials := rfl
@[simp] theorem State.retire_kills (s : State) (u : Use) (next : Option Word) : (s.retire u next).kills = s.kills := rfl
@[simp] theorem State.retire_stpt (s : State) (u : Use) (next : Option Word) : (s.retire u next).stpt = s.stpt := rfl
@[simp] theorem State.retire_tvb (s : State) (u : Use) (next : Option Word) : (s.retire u next).tvb = s.tvb := rfl
@[simp] theorem State.retire_audc (s : State) (u : Use) (next : Option Word) : (s.retire u next).audc = s.audc := rfl
@[simp] theorem State.retire_audb (s : State) (u : Use) (next : Option Word) : (s.retire u next).audb = s.audb := rfl
@[simp] theorem State.retire_energy (s : State) (u : Use) (next : Option Word) : (s.retire u next).energy = s.energy := rfl
@[simp] theorem State.retire_links (s : State) (u : Use) (next : Option Word) : (s.retire u next).links = s.links := rfl
@[simp] theorem State.retire_medlar (s : State) (u : Use) (next : Option Word) : (s.retire u next).medlar = s.medlar := rfl
@[simp] theorem State.retire_quince (s : State) (u : Use) (next : Option Word) : (s.retire u next).quince = s.quince := rfl
@[simp] theorem State.retire_orders (s : State) (u : Use) (next : Option Word) : (s.retire u next).orders = s.orders := rfl
@[simp] theorem State.retire_free (s : State) (u : Use) (next : Option Word) : (s.retire u next).free = s.free := rfl

/-! ## Units read after they are replaced -/

@[simp] theorem State.coreAt_putCore_self (s : State) (c : Nat) (k : Core) : (s.putCore c k).coreAt c = k := by
  simp [State.coreAt, State.putCore]

theorem State.coreAt_putCore_other (s : State) {c d : Nat} (h : d ≠ c) (k : Core) : (s.putCore c k).coreAt d = s.coreAt d := by
  simp [State.coreAt, State.putCore, look_put_other h]

theorem State.coreAt_putCore (s : State) (c d : Nat) (k : Core) :
    (s.putCore c k).coreAt d = if d = c then k else s.coreAt d := by
  by_cases h : d = c
  · subst h; simp
  · simp [h, s.coreAt_putCore_other h]

@[simp] theorem State.coreAt_onCore_self (s : State) (c : Nat) (f : Core → Core) : (s.onCore c f).coreAt c = f (s.coreAt c) := by
  simp [State.onCore]

theorem State.coreAt_onCore_other (s : State) {c d : Nat} (h : d ≠ c) (f : Core → Core) :
    (s.onCore c f).coreAt d = s.coreAt d := by
  simp [State.onCore, s.coreAt_putCore_other h]

@[simp] theorem State.slotAt_putSlot_self (s : State) (c j : Nat) (v : Slot) : (s.putSlot c j v).slotAt c j = v := by
  simp [State.slotAt, State.putSlot]

theorem State.slotAt_putSlot_other (s : State) {c j d i : Nat} (h : d ≠ c ∨ i ≠ j) (v : Slot) :
    (s.putSlot c j v).slotAt d i = s.slotAt d i := by
  by_cases hd : d = c
  · subst hd
    have hi : i ≠ j := by simpa using h
    simp [State.slotAt, State.putSlot, look_put_other hi]
  · simp [State.slotAt, State.putSlot, s.coreAt_onCore_other hd]

@[simp] theorem State.slotAt_onSlot_self (s : State) (c j : Nat) (f : Slot → Slot) :
    (s.onSlot c j f).slotAt c j = f (s.slotAt c j) := by
  simp [State.onSlot]

theorem State.slotAt_onSlot_other (s : State) {c j d i : Nat} (h : d ≠ c ∨ i ≠ j) (f : Slot → Slot) :
    (s.onSlot c j f).slotAt d i = s.slotAt d i := by
  simp [State.onSlot, s.slotAt_putSlot_other h]

@[simp] theorem State.me_onMe (s : State) (f : Slot → Slot) : (s.onMe f).me = f s.me := by
  simp [State.me, State.onMe]

/-- The core of a replaced slot differs in its slots only. -/
@[simp] theorem State.coreAt_putSlot_self (s : State) (c j : Nat) (v : Slot) :
    (s.putSlot c j v).coreAt c = { s.coreAt c with slots := put j v (s.coreAt c).slots } := by
  simp [State.putSlot]

theorem State.coreAt_putSlot_other (s : State) {c d : Nat} (h : d ≠ c) (j : Nat) (v : Slot) :
    (s.putSlot c j v).coreAt d = s.coreAt d := by
  simp [State.putSlot, s.coreAt_onCore_other h]

@[simp] theorem State.here_onMe (s : State) (f : Slot → Slot) :
    (s.onMe f).here = { s.here with slots := put s.slot (f s.me) s.here.slots } := by
  simp [State.here, State.onMe, State.onSlot, State.me]

theorem State.coreAt_onMe_other (s : State) {c : Nat} (h : c ≠ s.core) (f : Slot → Slot) : (s.onMe f).coreAt c = s.coreAt c :=
  s.coreAt_putSlot_other h _ _

theorem State.slotAt_onMe_other (s : State) {c j : Nat} (h : c ≠ s.core ∨ j ≠ s.slot) (f : Slot → Slot) :
    (s.onMe f).slotAt c j = s.slotAt c j :=
  s.slotAt_onSlot_other h f

@[simp] theorem State.coreAt_putCluster (s : State) (g c : Nat) (v : Cluster) : (s.putCluster g v).coreAt c = s.coreAt c := rfl
@[simp] theorem State.coreAt_onCluster (s : State) (g c : Nat) (f : Cluster → Cluster) : (s.onCluster g f).coreAt c = s.coreAt c := rfl
@[simp] theorem State.slotAt_onCluster (s : State) (g c j : Nat) (f : Cluster → Cluster) :
    (s.onCluster g f).slotAt c j = s.slotAt c j := rfl
@[simp] theorem State.clusterAt_onMe (s : State) (g : Nat) (f : Slot → Slot) : (s.onMe f).clusterAt g = s.clusterAt g := rfl
@[simp] theorem State.clusterAt_putCore (s : State) (c g : Nat) (k : Core) : (s.putCore c k).clusterAt g = s.clusterAt g := rfl
@[simp] theorem State.tileAt_onCluster (s : State) (g c t : Nat) (f : Cluster → Cluster) :
    (s.onCluster g f).tileAt c t = s.tileAt c t := rfl

@[simp] theorem State.clusterAt_onCluster_self (s : State) (g : Nat) (f : Cluster → Cluster) :
    (s.onCluster g f).clusterAt g = f (s.clusterAt g) := by
  simp [State.clusterAt, State.onCluster, State.putCluster]

theorem State.clusterAt_onCluster_other (s : State) {g h : Nat} (e : h ≠ g) (f : Cluster → Cluster) :
    (s.onCluster g f).clusterAt h = s.clusterAt h := by
  simp [State.clusterAt, State.onCluster, State.putCluster, look_put_other e]

@[simp] theorem State.stationAt_putStation_self (s : State) (n : Nat) (v : Station) : (s.putStation n v).stationAt n = v := by
  simp [State.stationAt, State.putStation]

@[simp] theorem State.linkAt_putLink_self (s : State) (n : Nat) (v : Link) : (s.putLink n v).linkAt n = v := by
  simp [State.linkAt, State.putLink]

@[simp] theorem State.bankAt_putBank_self (s : State) (c b : Nat) (v : Bank) : (s.putBank c b v).bankAt c b = v := by
  simp [State.bankAt, State.putBank]

@[simp] theorem State.tileAt_putTile_self (s : State) (c t : Nat) (v : Tile) : (s.putTile c t v).tileAt c t = v := by
  simp [State.tileAt, State.putTile]

/-! ## Units after an instruction retires -/

@[simp] theorem State.me_retire (s : State) (u : Use) (next : Option Word) : (s.retire u next).me = s.me.retired u next s.turn :=
  State.me_onMe _ _

theorem State.coreAt_retire_other (s : State) (u : Use) (next : Option Word) {c : Nat} (h : c ≠ s.core) :
    (s.retire u next).coreAt c = s.coreAt c :=
  State.coreAt_onMe_other (s.onCluster (clusterOf s.core) fun g => g.countIssue s.me.acct.toNat) h fun v => v.retired u next s.turn

theorem State.slotAt_retire_other (s : State) (u : Use) (next : Option Word) {c j : Nat} (h : c ≠ s.core ∨ j ≠ s.slot) :
    (s.retire u next).slotAt c j = s.slotAt c j :=
  State.slotAt_onMe_other (s.onCluster (clusterOf s.core) fun g => g.countIssue s.me.acct.toNat) h fun v => v.retired u next s.turn

@[simp] theorem State.here_retire (s : State) (u : Use) (next : Option Word) :
    (s.retire u next).here = { s.here with slots := put s.slot (s.me.retired u next s.turn) s.here.slots } :=
  State.here_onMe _ _

@[simp] theorem State.clusterAt_retire_self (s : State) (u : Use) (next : Option Word) :
    (s.retire u next).clusterAt (clusterOf s.core) = (s.clusterAt (clusterOf s.core)).countIssue s.me.acct.toNat :=
  State.clusterAt_onCluster_self s (clusterOf s.core) fun g => g.countIssue s.me.acct.toNat

theorem State.clusterAt_retire_other (s : State) (u : Use) (next : Option Word) {g : Nat} (h : g ≠ clusterOf s.core) :
    (s.retire u next).clusterAt g = s.clusterAt g :=
  State.clusterAt_onCluster_other s h fun g => g.countIssue s.me.acct.toNat

end Sys2Proof.Machine
end

