-- ==== Sys2Proof/Laws/Ops.lean ====
section
/-! SUPPORT. What the issue of an instruction can do: it always answers a next state, and an instruction that passes every check
does exactly what its own body says. -/

namespace Sys2Proof.Machine

/-- The checks of issue for what an instruction names. -/
structure Passes (u : Use) (s : State) : Prop where
  free  : u.consumesBusy s = false
  early : s.me.early = none
  clear : u.passes s.me = true
  legal : u.legal = true
  priv  : u.priv = true → s.privileged s.core s.slot = true
  unit  : s.here.hasUnit u.unit = true
  ready : u.unready s = none
  sound : s.me.poisonIn (banksOf u.reported) = none
  awake : s.me.asleep u.codes = (false, false)
  fresh : s.me.lapsedAmong s.now (u.srcs.map (·.1)) = none

/-- The issuing slot with the banks of an instruction touched. -/
def State.touched (s : State) (u : Use) : State := s.onMe fun v => v.touch s.now u.codes

theorem issue_passes {u : Use} {s : State} (h : Passes u s) (body : State → Act) : issue u s body = (body (s.touched u)).out u s := by
  obtain ⟨hb, he, hc, hl, hp, hu, hr, hs, ha, hf⟩ := h
  cases hpriv : u.priv with
  | false => simp [issue, hb, he, hc, hl, hpriv, hu, hr, hs, ha, hf, State.touched]
  | true => simp [issue, hb, he, hc, hl, hpriv, hp hpriv, hu, hr, hs, ha, hf, State.touched]

/-- An act leaves a next state, whatever it is. -/
theorem Act.out_next (a : Act) (u : Use) (s : State) : ∃ t, a.out u s = .next t := by cases a <;> exact ⟨_, rfl⟩

/-- A cause that an instruction raises leaves a next state: the trap, or the wait for the accesses before it. -/
theorem State.raise_next (s t : State) (cause : Cause) (eva : Word) : ∃ t', s.raise t cause eva = .next t' := ⟨_, rfl⟩

/-- An early use leaves a next state: the trap, or the wait for the accesses before it, or a stall. -/
theorem State.understall_next (s : State) (eva : Word) : ∃ t, s.understall eva = .next t := by
  unfold State.understall
  repeat' split
  all_goals exact ⟨_, rfl⟩

/-- With no access on its way a cause is a trap at once (R377). -/
theorem State.raise_alone {s : State} (h : s.me.awaits = []) (t : State) (cause : Cause) (eva : Word) :
    s.raise t cause eva = .next (t.trap cause eva) := by
  simp [State.raise, h]

/-- With no access on its way no source carries a busy mark. -/
theorem Use.consumesBusy_alone (u : Use) {s : State} (h : s.me.awaits = []) : u.consumesBusy s = false := by
  have h1 : ∀ c, s.me.busy c = false := by intro c; simp [Slot.busy, h]
  have h2 : ∀ n, s.vecBusy n = false := by intro n; simp [State.vecBusy, h]
  simp [Use.consumesBusy, h1, h2]

/-- With no access on its way every instruction may issue (R231). -/
theorem Use.passes_alone (u : Use) {v : Slot} (h : v.awaits = []) : u.passes v = true := by simp [Use.passes, h]

/-- Issue answers a next state: a trap, a stall, or what the body leaves. -/
theorem issue_next (u : Use) (s : State) (body : State → Act) : ∃ t, issue u s body = .next t := by
  unfold issue
  dsimp only
  repeat' split
  all_goals first
    | exact ⟨_, rfl⟩
    | exact State.understall_next s _
    | exact Act.out_next _ _ _

/-! ## One cause at a time -/

/-- An instruction with an ILLEGAL condition takes ILLEGAL and does nothing else (R246). -/
theorem issue_illegal {u : Use} {s : State} (hw : s.me.awaits = []) (h : u.legal = false) (body : State → Act) :
    issue u s body = .next (s.trap .illegal u.eva) := by
  simp [issue, u.consumesBusy_alone hw, h, State.raise_alone hw]

/-- A privileged form that an unprivileged strand names takes PRIV (R246, R378). -/
theorem issue_priv {u : Use} {s : State} (hw : s.me.awaits = []) (h : u.legal = true) (hp : u.priv = true) (hs : s.privileged s.core s.slot = false)
    (body : State → Act) : issue u s body = .next (s.trap .priv u.eva) := by
  simp [issue, u.consumesBusy_alone hw, h, hp, hs, State.raise_alone hw]

/-- A unit the core does not have: FEATURE (R63, R246). -/
theorem issue_feature {u : Use} {s : State} (hw : s.me.awaits = []) (h : u.legal = true) (hp : u.priv = true → s.privileged s.core s.slot = true)
    (hf : s.here.hasUnit u.unit = false) (body : State → Act) : issue u s body = .next (s.trap .feature u.eva) := by
  cases hpriv : u.priv with
  | false => simp [issue, u.consumesBusy_alone hw, h, hpriv, hf, State.raise_alone hw]
  | true => simp [issue, u.consumesBusy_alone hw, h, hpriv, hp hpriv, hf, State.raise_alone hw]

/-! ## The slot after an instruction -/

@[simp] theorem State.touched_core (s : State) (u : Use) : (s.touched u).core = s.core := rfl
@[simp] theorem State.touched_slot (s : State) (u : Use) : (s.touched u).slot = s.slot := rfl
@[simp] theorem State.touched_now (s : State) (u : Use) : (s.touched u).now = s.now := rfl
@[simp] theorem State.touched_mem (s : State) (u : Use) : (s.touched u).mem = s.mem := rfl
@[simp] theorem State.me_touched (s : State) (u : Use) : (s.touched u).me = s.me.touch s.now u.codes := by simp [State.touched]

/-- Touching banks changes nothing that is read. -/
theorem Slot.touch_eq (v : Slot) (now : Nat) (codes : List (BitVec 5)) :
    v.touch now codes = { v with
      lo := { v.lo with touched := if codes.any (fun c => c.toNat < 4) then now else v.lo.touched },
      hi := { v.hi with touched := if codes.any (fun c => 4 ≤ c.toNat && c.toNat < 8) then now else v.hi.touched } } := by
  unfold Slot.touch
  by_cases h1 : codes.any (fun c => decide (c.toNat < 4)) <;>
    by_cases h2 : codes.any (fun c => decide (4 ≤ c.toNat) && decide (c.toNat < 8)) <;> simp [h1, h2]

@[simp] theorem Slot.reg_touch (v : Slot) (now : Nat) (codes : List (BitVec 5)) (i : Nat) : (v.touch now codes).reg i = v.reg i := by
  rw [Slot.touch_eq]; rfl

theorem Quad.get_set_self (q : Quad) (i : Nat) (h : i < 4) (r : Reg) : (q.set i r).get i = r := by
  match i, h with
  | 0, _ => rfl
  | 1, _ => rfl
  | 2, _ => rfl
  | 3, _ => rfl

theorem Quad.get_set_other (q : Quad) (i j : Nat) (hi : i < 4) (hj : j < 4) (h : j ≠ i) (r : Reg) :
    (q.set i r).get j = q.get j := by
  match i, j, hi, hj with
  | 0, 0, _, _ | 1, 1, _, _ | 2, 2, _, _ | 3, 3, _, _ => exact absurd rfl h
  | 0, 1, _, _ | 0, 2, _, _ | 0, 3, _, _ | 1, 0, _, _ | 1, 2, _, _ | 1, 3, _, _ => rfl
  | 2, 0, _, _ | 2, 1, _, _ | 2, 3, _, _ | 3, 0, _, _ | 3, 1, _, _ | 3, 2, _, _ => rfl

theorem Slot.reg_setReg_self (v : Slot) (i : Nat) (h : i < 8) (r : Reg) : (v.setReg i r).reg i = r := by
  by_cases h4 : i < 4
  · simp [Slot.setReg, Slot.reg, h4, Quad.get_set_self]
  · simp [Slot.setReg, Slot.reg, h4, Quad.get_set_self _ (i - 4) (by omega)]

theorem Slot.reg_setReg_other (v : Slot) (i j : Nat) (hi : i < 8) (hj : j < 8) (h : j ≠ i) (r : Reg) :
    (v.setReg i r).reg j = v.reg j := by
  by_cases h4 : i < 4 <;> by_cases j4 : j < 4 <;> simp [Slot.setReg, Slot.reg, h4, j4]
  · exact Quad.get_set_other _ _ _ h4 j4 h _
  · exact Quad.get_set_other _ _ _ (by omega) (by omega) (by omega) _

/-- A bank that settles keeps its registers, or had none live and is reset. -/
theorem Quad.settle_get (q : Quad) (i : Nat) (h : i < 4) :
    q.settle.get i = q.get i ∨ (q.get i).live = false ∧ q.settle.get i = Reg.reset := by
  unfold Quad.settle
  split
  · exact .inl rfl
  · rename_i hl
    right
    simp only [Quad.regs, List.any_cons, List.any_nil, Bool.or_false, Bool.or_eq_true, not_or, Bool.not_eq_true] at hl
    match i, h with
    | 0, _ => exact ⟨hl.1, rfl⟩
    | 1, _ => exact ⟨hl.2.1, rfl⟩
    | 2, _ => exact ⟨hl.2.2.1, rfl⟩
    | 3, _ => exact ⟨hl.2.2.2, rfl⟩

/-- A freed register reads as zero. -/
theorem Slot.reg_freeReg_self (v : Slot) (c : BitVec 5) (h : c.toNat < 8) : (v.freeReg c).reg c.toNat = Reg.reset := by
  by_cases h4 : c.toNat < 4
  · simp only [Slot.freeReg, Slot.reg, h4, if_true]
    rcases Quad.settle_get (v.lo.set c.toNat Reg.reset) c.toNat h4 with h | ⟨-, h⟩
    · rw [h, Quad.get_set_self _ _ h4]
    · exact h
  · simp only [Slot.freeReg, Slot.reg, h4, h, if_true, if_false]
    rcases Quad.settle_get (v.hi.set (c.toNat - 4) Reg.reset) (c.toNat - 4) (by omega) with h | ⟨-, h⟩
    · rw [h, Quad.get_set_self _ _ (by omega)]
    · exact h

/-- Freeing one register keeps the others, or resets those that were free. -/
theorem Slot.reg_freeReg_other (v : Slot) (c : BitVec 5) (i : Nat) (hi : i < 8) (h : c.toNat ≠ i) :
    (v.freeReg c).reg i = v.reg i ∨ (v.reg i).live = false ∧ (v.freeReg c).reg i = Reg.reset := by
  by_cases h4 : c.toNat < 4
  · by_cases i4 : i < 4
    · simp only [Slot.freeReg, Slot.reg, h4, i4, if_true]
      have := Quad.settle_get (v.lo.set c.toNat Reg.reset) i i4
      rwa [Quad.get_set_other _ _ _ h4 i4 (Ne.symm h)] at this
    · left; simp [Slot.freeReg, Slot.reg, h4, i4]
  · by_cases h8 : c.toNat < 8
    · by_cases i4 : i < 4
      · left; simp [Slot.freeReg, Slot.reg, h4, h8, i4]
      · simp only [Slot.freeReg, Slot.reg, h4, h8, i4, if_true, if_false]
        have := Quad.settle_get (v.hi.set (c.toNat - 4) Reg.reset) (i - 4) (by omega)
        rwa [Quad.get_set_other _ _ _ (by omega) (by omega) (by omega)] at this
    · left; simp [Slot.freeReg, h4, h8]

theorem Slot.freeReg_eq (v : Slot) (c : BitVec 5) : v.freeReg c = { v with lo := (v.freeReg c).lo, hi := (v.freeReg c).hi } := by
  unfold Slot.freeReg
  split
  · rfl
  · split <;> rfl

/-- Freeing marked sources changes the window's banks only. -/
theorem Use.free_eq (u : Use) (v : Slot) : u.free v = { v with lo := (u.free v).lo, hi := (u.free v).hi } := by
  unfold Use.free
  generalize u.srcs = l
  induction l generalizing v with
  | nil => rfl
  | cons p l ih =>
    simp only [List.foldl_cons]
    split
    · rw [ih (v.freeReg p.1), Slot.freeReg_eq]
    · exact ih v

end Sys2Proof.Machine
end

