-- ==== Sys2Proof/Safety.lean ====
section
/-! DEFINITION. The terms in which claims speak of a run: when the device has the units a move names, when a run is safe, the
canonical form of its memories, when an instruction issues (R246), and what it leaves as it was. -/

namespace Sys2Proof.Machine

/-! ## Safe runs -/

/-- Whether the device has the units that a move names (R17, R18). -/
def Move.named : Move → Bool
  | .issue _ c j => decide (c < 1024) && decide (j < 8)
  | .event _ e => isEvent e

/-- A run of `n` steps that neither faults nor is refused. -/
def SafeRun (n : Nat) (s : State) : Prop := ∃ t, Host.Core.run Sys2Proof.core n s = .next t

/-- Both memories are in their canonical form. -/
def State.MemoryWf (s : State) : Prop := s.mem.wf = true ∧ s.spm.wf = true

/-! ## Issue -/

/-- An instruction of the issuing slot passes the checks of issue: it is well formed, it has the privilege and the unit its form
needs (R69, R244 to R246, R63), every source it reads can be read in this turn and its slot has met no early
use before (R231), the banks it names are on and it finds no
register of theirs poisoned (R81, R254), and no source has lapsed (R79). `preds` says which predicates it reads, `vecs` which
vector registers it reads, `moved` which registers a call or return takes along with the window, and `young` what it may do while an
awaited access of its strand is on its way: then no code it names may be one whose value is still to come (R231, R377;
notes/assumptions/3.md). -/
structure Issues (s : State) (i : Instr) (reads writes : List (BitVec 5)) (preds : List Nat) (vecs : List (BitVec 6))
    (young : Young := .waits) (moved : List (BitVec 5) := []) : Prop where
  form      : i.WellFormed
  privilege : ((formOf i).priv || (formOf i).codes.any fun c => decide (24 ≤ c.toNat)) = true → s.privileged s.core s.slot = true
  unit      : s.here.hasUnit (formOf i).unit = true
  ready     : ∀ c ∈ reads, s.me.codeReady s.turn c = true
  movedRead : ∀ c ∈ moved, s.me.codeReady s.turn c = true
  predsRead : ∀ p ∈ preds, s.me.predReady s.turn p = true
  vecsRead  : ∀ n ∈ vecs, s.vecReady n = true
  timely    : s.me.early = none
  awake     : s.me.asleep (reads ++ writes) = (false, false)
  sound     : s.me.poisonIn (banksOf (if young = .registers then reads else reads ++ writes)) = none
  clear     : s.me.awaits = [] ∨ young ≠ .waits ∧ (young = .load → ∀ a ∈ s.me.awaits, a.plain = true) ∧
    (∀ c ∈ reads ++ writes ++ moved, s.me.busy c = false) ∧ ((∃ p ∈ preds, p ≠ 0) → s.me.busy 17 = false) ∧ ∀ n ∈ vecs, s.vecBusy n = false
  unlapsed  : ∀ c ∈ reads, c.toNat < 8 → (s.me.reg c.toNat).expired s.now = false

/-- The state in which an instruction acts once it has passed the checks of issue: the banks it names are touched (R81). -/
def State.acting (s : State) (codes : List (BitVec 5)) : State := s.onMe fun v => v.touch s.now codes

/-! ## What an instruction leaves as it was -/

/-- Other cores, other slots of the core and other clusters are as before; the core's cluster counts one instruction issued under
the slot's accounting tag, and what each tag owes for its energy may grow (R224). -/
structure OthersKept (s t : State) : Prop where
  cores    : ∀ c, c ≠ s.core → t.coreAt c = s.coreAt c
  slots    : ∀ j, j ≠ s.slot → t.slotAt s.core j = s.slotAt s.core j
  clusters : ∀ g, g ≠ clusterOf s.core → t.clusterAt g = s.clusterAt g
  cluster  : t.clusterAt (clusterOf s.core) =
    { (s.clusterAt (clusterOf s.core)).countIssue s.me.acct.toNat with dues := (t.clusterAt (clusterOf s.core)).dues }

/-- The instruction changes its slot and the counters of its cluster, and nothing else: memory, every other register and every unit
are as before. -/
structure SlotOnly (s t : State) : Prop where
  device : t = { s with cores := t.cores, clusters := t.clusters }
  others : OthersKept s t
  core   : t.here = { s.here with slots := t.here.slots }

/-- The sources that carry a last-read mark. -/
def marked (l : List (BitVec 5 × BitVec 1)) : List (BitVec 5) := (l.filter (·.2 == 1)).map (·.1)

/-- What is left of register `i` of a window that an instruction does not write: freed where a source that names it is marked as
read for the last time, so that it reads as zero, and else as it was (R80); one that was free before may be reset. -/
def Kept (v : Slot) (marked : List (BitVec 5)) (i : Nat) (r : Reg) : Prop :=
  if ∃ c ∈ marked, c.toNat = i then r = Reg.reset else r = v.reg i ∨ (v.reg i).live = false ∧ r = Reg.reset

/-- The registers of the window but those written (R80). -/
def WindowKept (v w : Slot) (written marked : List (BitVec 5)) : Prop :=
  ∀ i, i < 8 → (∀ c ∈ written, c.toNat ≠ i) → Kept v marked i (w.reg i)

/-- A scalar destination as an instruction leaves it: the window register holds the value from a turn on, with its mark; pw takes the
predicates, fl and the k registers the value; every other code discards it (R69, R79, R231). -/
def Delivered (v w : Slot) (now : Nat) (d : BitVec 5) (x : Word) (short : Bool) (lat : Nat) : Prop :=
  (d.toNat < 8 → w.reg d.toNat = Reg.written x (if short then some now else none) (now / 8 + lat)) ∧
  w.preds = (if d.toNat = 17 then x.extractLsb' 1 11 else v.preds) ∧
  w.fl = (if d.toNat = 18 then x else v.fl) ∧
  w.k = (if 24 ≤ d.toNat then v.k.set (d.toNat - 24) x else v.k) ∧
  (d.toNat < 8 ∨ discards d = true → w.ready = v.ready)

/-- What a scalar instruction may change of its slot beside its destinations: the banks it names are touched, the pc moves, and the
next issue is due. -/
def ScalarOnly (v w : Slot) : Prop :=
  w = { v with lo := w.lo, hi := w.hi, ready := w.ready, preds := w.preds, fl := w.fl, k := w.k, pc := w.pc, frame := w.frame,
               turnNext := w.turnNext, run := none }

/-- The pc after an instruction that does not jump, outside a repeat frame (R225). -/
def Advances (v w : Slot) : Prop := v.frame = none → w.pc = v.pc + 4 ∧ w.frame = none

/-- The instruction retires in its slot with these marked sources and without a scalar destination: beside the window's banks and
the pc, the slot is as before. -/
structure Retires (v w : Slot) (srcs : List (BitVec 5 × BitVec 1)) : Prop where
  window : WindowKept v w [] (marked srcs)
  slot   : w = { v with lo := w.lo, hi := w.hi, pc := w.pc, frame := w.frame, turnNext := w.turnNext, run := none }
  pc     : Advances v w

/-- The instruction changes its core and the counters of its cluster, and nothing else: no other core, no memory and no message. -/
structure CoreOnly (s t : State) : Prop where
  device : t = { s with cores := t.cores, clusters := t.clusters }
  others : OthersKept s t

/-- Every vault granule that `n` bytes at a physical address touch is there, correct, and has no error armed (R156, R406, R411). -/
def State.sound (s : State) (a n : Nat) : Prop :=
  ∀ g ∈ granules a n, s.isLost (g * 32) = false ∧ s.badGran.contains g = false ∧ ∀ e ∈ s.injected, e.2.1 ≠ g

/-- Every scratchpad word that `n` bytes of a core touch is correct and has no error armed (R406, R411). -/
def State.spmSound (s : State) (c b n : Nat) : Prop :=
  ∀ w ∈ spmWords b n, s.badSpm.contains (c * 2 ^ 15 + w) = false ∧ ∀ e ∈ s.injected, e.2.1 ≠ spmKey c w

end Sys2Proof.Machine
end

