-- ==== Sys2Proof/Laws/Issue.lean ====
section
/-! SUPPORT. What an instruction that issues and retires leaves: the checks of issue as claims name them, the window's registers, and
the frame of an instruction that changes its slot only. -/

namespace Sys2Proof.Machine

/-- An instruction that passes the checks of `Issues` passes those of issue. -/
theorem Issues.passes {s : State} {i : Instr} {u : Use} {vecs} (h : Issues s i (u.srcs.map (·.1)) u.dsts u.preds vecs u.young u.moved)
    (hl : u.legal = true) (hp : u.priv = ((formOf i).priv || (formOf i).codes.any fun c => decide (24 ≤ c.toNat)))
    (hu : u.unit = (formOf i).unit) (hv : u.vecs = vecs) : Passes u s := by
  subst hv
  refine ⟨?_, h.timely, ?_, hl, fun x => h.privilege (hp ▸ x), hu ▸ h.unit, ?_, ?_, h.awake, ?_⟩
  · rcases h.clear with hc | ⟨-, -, hb, hq, hv⟩
    · exact u.consumesBusy_alone hc
    · have h1 : u.srcs.any (fun p => s.me.busy p.1) = false := by
        rw [List.any_eq_false]; intro p hp; simp [hb p.1 (List.mem_append_left _ (List.mem_append_left _ (List.mem_map_of_mem hp)))]
      have h2 : u.moved.any s.me.busy = false := by
        rw [List.any_eq_false]; intro c hc; simp [hb c (by simp [hc])]
      have h3 : (u.preds.any (· != 0) && s.me.busy 17) = false := by
        cases hu : u.preds.any (· != 0) with
        | false => rfl
        | true => simpa using hq (by simpa using hu)
      have h4 : u.vecs.any s.vecBusy = false := by
        rw [List.any_eq_false]; intro n hn; simp [hv n hn]
      simp only [Use.consumesBusy, h1, h2, h3, h4]; rfl
  · rcases h.clear with hc | ⟨hw, hl, hb, -⟩
    · exact u.passes_alone hc
    · have h1 : u.codes.any s.me.busy = false := by
        rw [List.any_eq_false]; intro c hc; simp [hb c (List.mem_append_left _ hc)]
      cases hy : u.young with
      | waits => exact absurd hy hw
      | registers => rw [Use.passes, hy, h1]; simp
      | load => rw [Use.passes, hy, h1, List.all_eq_true.2 (hl hy)]; simp
  · have h1 : (u.srcs.map (·.1) ++ u.moved).find? (fun c => !s.me.codeReady s.turn c) = none := by
      rw [List.find?_eq_none]; intro c hc
      rcases List.mem_append.1 hc with hc | hc
      · simp [h.ready c hc]
      · simp [h.movedRead c hc]
    have h2 : u.preds.any (fun p => !s.me.predReady s.turn p) = false := by
      rw [List.any_eq_false]; intro p hp; simp [h.predsRead p hp]
    have h3 : u.vecs.find? (fun n => !s.vecReady n) = none := by
      rw [List.find?_eq_none]; intro c hc; simp [h.vecsRead c hc]
    simp only [Use.unready, h1, h2, h3]; rfl
  · have := h.sound
    simpa only [Use.reported, Use.codes, apply_ite] using this
  · rw [Slot.lapsedAmong, List.find?_eq_none]
    intro c hc hb
    simp only [Bool.and_eq_true, decide_eq_true_eq] at hb
    rw [h.unlapsed c hc hb.1] at hb
    exact absurd hb.2 (by simp)

/-- Touching banks changes no source. -/
theorem State.src_touched (s : State) (u : Use) (c : BitVec 5) : (s.touched u).src c = s.src c := by
  have h1 : (s.touched u).slotAt s.core s.slot = (s.slotAt s.core s.slot).touch s.now u.codes := State.me_touched s u
  have h2 : (s.touched u).coreAt s.core = { s.coreAt s.core with slots := put s.slot (s.me.touch s.now u.codes) (s.coreAt s.core).slots } :=
    State.here_onMe s _
  unfold State.src State.readCode
  simp only [State.touched_core, State.touched_slot, h1, h2]
  rw [Slot.touch_eq]
  rfl

/-- The window registers after a destination is written. -/
theorem Slot.reg_writeCode (v : Slot) (now : Nat) (d : BitVec 5) (x : Word) (sh : Bool) (lat i : Nat) (hi : i < 8) :
    (v.writeCode now d x sh lat).reg i = if d.toNat = i then Reg.written x (if sh then some now else none) (now / 8 + lat) else v.reg i := by
  unfold Slot.writeCode
  dsimp only
  by_cases h8 : d.toNat < 8
  · simp only [h8, if_true]
    by_cases h : d.toNat = i
    · subst h; simp [Slot.reg_setReg_self _ _ h8]
    · simp [h, Slot.reg_setReg_other _ _ _ h8 hi (Ne.symm h)]
  · have : d.toNat ≠ i := by omega
    simp only [h8, if_false, this]
    split
    · rfl
    · split
      · rfl
      · split <;> rfl

/-- What writing a destination changes of a slot. -/
theorem Slot.writeCode_eq (v : Slot) (now : Nat) (d : BitVec 5) (x : Word) (sh : Bool) (lat : Nat) :
    v.writeCode now d x sh lat = { v with
      lo := (v.writeCode now d x sh lat).lo, hi := (v.writeCode now d x sh lat).hi,
      preds := if d.toNat = 17 then x.extractLsb' 1 11 else v.preds,
      fl := if d.toNat = 18 then x else v.fl,
      k := if 24 ≤ d.toNat then v.k.set (d.toNat - 24) x else v.k,
      ready := if d.toNat < 8 ∨ discards d = true then v.ready else (v.writeCode now d x sh lat).ready } := by
  unfold Slot.writeCode discards
  dsimp only
  by_cases h8 : d.toNat < 8
  · have : d.toNat ≠ 17 := by omega
    have : d.toNat ≠ 18 := by omega
    have : ¬ 24 ≤ d.toNat := by omega
    simp [*]; unfold Slot.setReg; split <;> rfl
  · by_cases h17 : d.toNat = 17
    · simp [h17, Slot.predsReady]
    · by_cases h18 : d.toNat = 18
      · simp [h18, Slot.setReady]
      · by_cases h24 : 24 ≤ d.toNat
        · simp [h8, h17, h18, h24, Slot.setReady]
        · simp [h8, h17, h18, h24]

/-- The window registers after the marked sources are freed. -/
theorem free_window (l : List (BitVec 5 × BitVec 1)) (ds : List (BitVec 5)) (v : Slot) (i : Nat) (hi : i < 8) (hd : ∀ c ∈ ds, c.toNat ≠ i) :
    let w := l.foldl (fun v p => if p.2 == 1 && !ds.contains p.1 then v.freeReg p.1 else v) v
    if ∃ c ∈ marked l, c.toNat = i then w.reg i = Reg.reset
    else w.reg i = v.reg i ∨ (v.reg i).live = false ∧ w.reg i = Reg.reset := by
  have keep : ∀ (l : List (BitVec 5 × BitVec 1)) (v : Slot), v.reg i = Reg.reset →
      (l.foldl (fun v p => if p.2 == 1 && !ds.contains p.1 then v.freeReg p.1 else v) v).reg i = Reg.reset := by
    intro l
    induction l with
    | nil => intro v h; exact h
    | cons p l ih =>
      intro v h
      simp only [List.foldl_cons]
      apply ih
      split
      · by_cases e : p.1.toNat = i
        · subst e; exact Slot.reg_freeReg_self _ _ hi
        · rcases Slot.reg_freeReg_other v p.1 i hi e with h' | ⟨-, h'⟩
          · rw [h', h]
          · exact h'
      · exact h
  induction l generalizing v with
  | nil => simp [marked]
  | cons p l ih =>
    simp only [List.foldl_cons]
    by_cases hm : p.2 == 1
    · by_cases e : p.1.toNat = i
      · have hc : ds.contains p.1 = false := by
          simp only [List.contains_eq_mem, decide_eq_false_iff_not]
          intro hin; exact hd _ hin e
        have : ∃ c ∈ marked (p :: l), c.toNat = i := ⟨p.1, by rw [marked, List.filter_cons, if_pos hm]; simp, e⟩
        simp only [this, if_true, hm, hc, Bool.not_false, Bool.and_true]
        apply keep
        subst e; exact Slot.reg_freeReg_self _ _ hi
      · have hiff : (∃ c ∈ marked (p :: l), c.toNat = i) ↔ ∃ c ∈ marked l, c.toNat = i := by
          have : marked (p :: l) = p.1 :: marked l := by rw [marked, List.filter_cons, if_pos hm]; rfl
          rw [this]; simp [e]
        have := ih (if p.2 == 1 && !ds.contains p.1 then v.freeReg p.1 else v)
        simp only [hiff]
        split
        · rename_i hx; simpa [hx] using this
        · rename_i hx
          simp only [hx, if_false] at this
          have hv : (if p.2 == 1 && !ds.contains p.1 then v.freeReg p.1 else v).reg i = v.reg i ∨
              (v.reg i).live = false ∧ (if p.2 == 1 && !ds.contains p.1 then v.freeReg p.1 else v).reg i = Reg.reset := by
            split
            · exact Slot.reg_freeReg_other v p.1 i hi e
            · exact .inl rfl
          rcases hv with hv | ⟨hl, hv⟩
          · rcases this with h | ⟨h, h'⟩
            · left; rw [h, hv]
            · right; exact ⟨by rw [← hv]; exact h, h'⟩
          · right
            rcases this with h | ⟨h, h'⟩
            · exact ⟨hl, by rw [h, hv]⟩
            · exact ⟨hl, h'⟩
    · have hiff : (∃ c ∈ marked (p :: l), c.toNat = i) ↔ ∃ c ∈ marked l, c.toNat = i := by
        have : marked (p :: l) = marked l := by rw [marked, List.filter_cons, if_neg hm]; rfl
        rw [this]
      have := ih v
      simp only [hiff, hm, Bool.false_and]
      exact this

/-- An instruction that changes its slot and retires changes nothing else. -/
theorem SlotOnly.retire (s : State) (u u' : Use) (f : Slot → Slot) (next : Option Word)
    (hacct : (f (s.me.touch s.now u.codes)).acct = s.me.acct) : SlotOnly s (((s.touched u).onMe f).retire u' next) := by
  refine ⟨rfl, ⟨fun c hc => ?_, fun j hj => ?_, fun g hg => ?_, ?_⟩, ?_⟩
  · rw [State.coreAt_retire_other ((s.touched u).onMe f) _ _ hc, State.coreAt_onMe_other (s.touched u) hc]
    exact State.coreAt_onMe_other s hc _
  · rw [State.slotAt_retire_other ((s.touched u).onMe f) _ _ (.inr hj), State.slotAt_onMe_other (s.touched u) (.inr hj)]
    exact State.slotAt_onMe_other s (.inr hj) _
  · rw [State.clusterAt_retire_other ((s.touched u).onMe f) _ _ hg]; rfl
  · have h : (((s.touched u).onMe f).retire u' next).clusterAt (clusterOf s.core) = _ :=
      State.clusterAt_retire_self ((s.touched u).onMe f) u' next
    rw [State.me_onMe, State.me_touched, hacct] at h
    rw [h]; rfl
  · have h : (((s.touched u).onMe f).retire u' next).here = _ := State.here_retire ((s.touched u).onMe f) u' next
    rw [State.here_onMe, show (s.touched u).here = _ from State.here_onMe s _] at h
    rw [h]

/-- The slot after an instruction that changes it and retires. -/
theorem State.me_done (s : State) (u u' : Use) (f : Slot → Slot) (next : Option Word) :
    (((s.touched u).onMe f).retire u' next).me = (f (s.me.touch s.now u.codes)).retired u' next s.turn := by
  rw [State.me_retire, State.me_onMe, State.me_touched]; rfl

/-- What the advance of the pc changes. -/
theorem Slot.step_eq (v : Slot) : v.step = { v with pc := v.step.pc, frame := v.step.frame } := by
  unfold Slot.step
  split
  · rfl
  · split <;> rfl

/-- What an instruction with one scalar destination leaves. -/
theorem scalar_done {u : Use} {s : State} (d : BitVec 5) (x : Word) (h : BitVec 1) (lat : Nat) (hd : u.dsts = [d]) :
    let t := ((s.touched u).dst d x h lat).retire u none
    SlotOnly s t ∧
      Delivered s.me t.me s.now d x (h == 1) lat ∧ WindowKept s.me t.me [d] (marked u.srcs) ∧ ScalarOnly s.me t.me ∧ Advances s.me t.me := by
  intro t
  have hme : t.me = ((s.me.touch s.now u.codes).writeCode s.now d x (h == 1) lat).retired u none s.turn :=
    State.me_done s u u _ none
  have hacct : ((s.me.touch s.now u.codes).writeCode s.now d x (h == 1) lat).acct = s.me.acct := by
    rw [Slot.writeCode_eq, Slot.touch_eq]
  have hreg : ∀ i, i < 8 → t.me.reg i = (u.free ((s.me.touch s.now u.codes).writeCode s.now d x (h == 1) lat)).reg i := by
    intro i _
    rw [hme]; unfold Slot.retired; dsimp only; rw [Slot.step_eq]; rfl
  have hfree := fun i (hi : i < 8) (hn : ∀ c ∈ u.dsts, c.toNat ≠ i) =>
    free_window u.srcs u.dsts ((s.me.touch s.now u.codes).writeCode s.now d x (h == 1) lat) i hi hn
  refine ⟨SlotOnly.retire s u u _ none hacct, ?_, ?_, ?_, ?_⟩
  · have hshape : t.me = { ((s.me.touch s.now u.codes).writeCode s.now d x (h == 1) lat) with
        lo := t.me.lo, hi := t.me.hi, pc := t.me.pc, frame := t.me.frame, run := none, turnNext := t.me.turnNext } := by
      rw [hme]; unfold Slot.retired; dsimp only; rw [Slot.step_eq, Use.free_eq]
    rw [Slot.writeCode_eq, Slot.touch_eq] at hshape
    refine ⟨fun h8 => ?_, by rw [hshape], by rw [hshape], by rw [hshape], fun hr => by rw [hshape]; simp [hr]⟩
    rw [hreg _ h8]
    have keepd : ∀ (l : List (BitVec 5 × BitVec 1)) (v : Slot), v.reg d.toNat = (Reg.written x (if (h == 1) then some s.now else none) (s.now / 8 + lat)) →
        (l.foldl (fun v p => if p.2 == 1 && !u.dsts.contains p.1 then v.freeReg p.1 else v) v).reg d.toNat = Reg.written x (if (h == 1) then some s.now else none) (s.now / 8 + lat) := by
      intro l
      induction l with
      | nil => intro v hv; exact hv
      | cons p l ih =>
        intro v hv
        simp only [List.foldl_cons]
        apply ih
        split
        · rename_i hc
          have hne : p.1.toNat ≠ d.toNat := by
            intro e
            have : p.1 = d := BitVec.eq_of_toNat_eq e
            simp [hd, this] at hc
          rcases Slot.reg_freeReg_other v p.1 d.toNat h8 hne with h' | ⟨hl, h'⟩
          · rw [h', hv]
          · rw [hv] at hl; simp [Reg.written] at hl
        · exact hv
    exact keepd _ _ (by rw [Slot.reg_writeCode _ _ _ _ _ _ _ h8]; simp)
  · intro i hi hn
    rw [hreg i hi]
    have hne : d.toNat ≠ i := hn d (by simp)
    have := hfree i hi (by rw [hd]; exact hn)
    rw [Slot.reg_writeCode _ _ _ _ _ _ _ hi, if_neg hne, Slot.reg_touch] at this
    exact this
  · show t.me = _
    have hshape : t.me = { ((s.me.touch s.now u.codes).writeCode s.now d x (h == 1) lat) with
        lo := t.me.lo, hi := t.me.hi, pc := t.me.pc, frame := t.me.frame, run := none, turnNext := t.me.turnNext } := by
      rw [hme]; unfold Slot.retired; dsimp only; rw [Slot.step_eq, Use.free_eq]
    rw [Slot.writeCode_eq, Slot.touch_eq] at hshape
    rw [hshape]
  · intro hf
    rw [hme]
    unfold Slot.retired
    dsimp only
    rw [Use.free_eq, Slot.writeCode_eq, Slot.touch_eq]
    simp [Slot.step, hf]

/-! ## Instructions that change their slot, in general -/

theorem State.onMe_onMe (s : State) (f g : Slot → Slot) : (s.onMe f).onMe g = s.onMe fun v => g (f v) := by
  have h1 : (s.onMe f).slotAt s.core s.slot = f (s.slotAt s.core s.slot) := State.me_onMe s f
  have h2 : (s.onMe f).coreAt s.core = { s.coreAt s.core with slots := put s.slot (f s.me) (s.coreAt s.core).slots } := State.here_onMe s f
  show (s.onMe f).putCore s.core { (s.onMe f).coreAt s.core with
      slots := put s.slot (g ((s.onMe f).slotAt s.core s.slot)) ((s.onMe f).coreAt s.core).slots } = _
  rw [h1, h2]
  simp [State.onMe, State.onSlot, State.putSlot, State.onCore, State.putCore, State.me]

theorem State.touched_onMe (s : State) (u : Use) (f : Slot → Slot) :
    (s.touched u).onMe f = s.onMe fun v => f (v.touch s.now u.codes) := State.onMe_onMe s _ f

theorem State.acting_eq (s : State) (u : Use) : s.acting u.codes = s.touched u := rfl

/-- An instruction that changes its slot and retires changes nothing else. -/
theorem SlotOnly.onMe (s : State) (u : Use) (f : Slot → Slot) (next : Option Word) (hacct : (f s.me).acct = s.me.acct) :
    SlotOnly s ((s.onMe f).retire u next) := by
  refine ⟨rfl, ⟨fun c hc => ?_, fun j hj => ?_, fun g hg => ?_, ?_⟩, ?_⟩
  · rw [State.coreAt_retire_other (s.onMe f) _ _ hc, State.coreAt_onMe_other s hc]
  · rw [State.slotAt_retire_other (s.onMe f) _ _ (.inr hj), State.slotAt_onMe_other s (.inr hj)]
  · rw [State.clusterAt_retire_other (s.onMe f) _ _ hg]; rfl
  · have h : ((s.onMe f).retire u next).clusterAt (clusterOf s.core) = _ := State.clusterAt_retire_self (s.onMe f) u next
    rw [State.me_onMe, hacct] at h
    rw [h]; rfl
  · have h : ((s.onMe f).retire u next).here = _ := State.here_retire (s.onMe f) u next
    rw [State.here_onMe] at h
    rw [h]

theorem State.me_onMe_retire (s : State) (u : Use) (f : Slot → Slot) (next : Option Word) :
    ((s.onMe f).retire u next).me = (f s.me).retired u next s.turn := by
  rw [State.me_retire, State.me_onMe]; rfl

/-- What retirement changes of a slot. -/
theorem Slot.retired_eq (v : Slot) (u : Use) (next : Option Word) (turn : Nat) :
    v.retired u next turn = { v with
      lo := (u.free v).lo, hi := (u.free v).hi, pc := (v.retired u next turn).pc, frame := (v.retired u next turn).frame,
      turnNext := (v.retired u next turn).turnNext, run := none } := by
  unfold Slot.retired
  dsimp only
  cases next with
  | some pc => dsimp only; rw [Use.free_eq]
  | none => dsimp only; rw [Slot.step_eq, Use.free_eq]

theorem Slot.retired_pc (v : Slot) (u : Use) (pc : Word) (turn : Nat) : (v.retired u (some pc) turn).pc = pc := rfl

theorem Slot.retired_step (v : Slot) (u : Use) (turn : Nat) (h : v.frame = none) :
    (v.retired u none turn).pc = v.pc + 4 ∧ (v.retired u none turn).frame = none := by
  unfold Slot.retired
  dsimp only
  rw [Use.free_eq]
  simp [Slot.step, h]

/-- The registers of the window after retirement. -/
theorem WindowKept.retired (v : Slot) (f : Slot → Slot) (u : Use) (next : Option Word) (turn : Nat)
    (h : ∀ i, i < 8 → (∀ c ∈ u.dsts, c.toNat ≠ i) → (f v).reg i = v.reg i ∨ (v.reg i).live = false ∧ (f v).reg i = Reg.reset) :
    WindowKept v ((f v).retired u next turn) u.dsts (marked u.srcs) := by
  intro i hi hn
  have hr : ((f v).retired u next turn).reg i = (u.free (f v)).reg i := by rw [Slot.retired_eq]; rfl
  rw [hr]
  have := free_window u.srcs u.dsts (f v) i hi hn
  unfold Kept
  change (if _ then (u.free (f v)).reg i = _ else _) at this
  split
  · rename_i hx; rw [if_pos hx] at this; exact this
  · rename_i hx; rw [if_neg hx] at this
    rcases h i hi hn with h | ⟨hl, h⟩
    · rw [h] at this; exact this
    · right; refine ⟨hl, ?_⟩
      rcases this with h' | ⟨-, h'⟩
      · exact Eq.trans h' h
      · exact h'

end Sys2Proof.Machine
end

