-- ==== Sys2Proof/Laws/Memory.lean ====
section
/-! SUPPORT. Memory in its canonical form: every write keeps it, a read after a write gives the bytes written, and every other
byte is as before. -/

namespace Sys2Proof.Machine

/-- The canonical form as a proposition: addresses strictly rise and no listed byte is an unlisted one's. -/
theorem Memory.wf_iff (m : Memory) : m.wf = true ↔ m.Pairwise (fun x y => x.1 < y.1) ∧ ∀ e ∈ m, e.2 ≠ unlisted := by
  induction m with
  | nil => simp [Memory.wf]
  | cons e r ih =>
    obtain ⟨a, b⟩ := e
    cases r with
    | nil => simp [Memory.wf]
    | cons f r =>
      obtain ⟨c, d⟩ := f
      simp only [Memory.wf, Bool.and_eq_true, bne_iff_ne, ne_eq, decide_eq_true_eq, ih]
      constructor
      · rintro ⟨⟨hb, hac⟩, hp, hn⟩
        refine ⟨List.pairwise_cons.2 ⟨?_, hp⟩, ?_⟩
        · intro e he
          rcases List.mem_cons.1 he with rfl | he
          · exact hac
          · exact Nat.lt_trans hac ((List.pairwise_cons.1 hp).1 e he)
        · intro e he
          rcases List.mem_cons.1 he with rfl | he
          · exact hb
          · exact hn e he
      · rintro ⟨hp, hn⟩
        exact ⟨⟨hn (a, b) (by simp), (List.pairwise_cons.1 hp).1 (c, d) (by simp)⟩, (List.pairwise_cons.1 hp).2,
          fun e he => hn e (List.mem_cons_of_mem _ he)⟩

/-- The cells of written bytes lie in the written range. -/
theorem cells_range (a : Nat) (bs : List Byte) : ∀ e ∈ cells a bs, a ≤ e.1 ∧ e.1 < a + bs.length ∧ e.2 ≠ unlisted := by
  induction bs generalizing a with
  | nil => simp [cells]
  | cons b r ih =>
    intro e he
    by_cases hb : b = unlisted
    · rw [cells, if_pos hb] at he
      obtain ⟨h1, h2, h3⟩ := ih (a + 1) e he
      exact ⟨by omega, by simp only [List.length_cons]; omega, h3⟩
    · rw [cells, if_neg hb] at he
      rcases List.mem_cons.1 he with rfl | he
      · exact ⟨Nat.le_refl _, by simp, hb⟩
      · obtain ⟨h1, h2, h3⟩ := ih (a + 1) e he
        exact ⟨by omega, by simp only [List.length_cons]; omega, h3⟩

theorem cells_rising (a : Nat) (bs : List Byte) : (cells a bs).Pairwise (fun x y => x.1 < y.1) := by
  induction bs generalizing a with
  | nil => simp [cells]
  | cons b r ih =>
    by_cases hb : b = unlisted
    · rw [cells, if_pos hb]; exact ih (a + 1)
    · rw [cells, if_neg hb]
      refine List.pairwise_cons.2 ⟨fun e he => ?_, ih (a + 1)⟩
      have := (cells_range (a + 1) r e he).1
      show a < e.1
      omega

/-- A write keeps the canonical form. -/
theorem Memory.write_wf {m : Memory} (h : m.wf = true) (a : Nat) (bs : List Byte) : (m.write a bs).wf = true := by
  obtain ⟨hp, hn⟩ := (Memory.wf_iff m).1 h
  refine (Memory.wf_iff _).2 ⟨?_, ?_⟩
  · refine List.pairwise_append.2 ⟨List.pairwise_append.2 ⟨hp.filter _, cells_rising a bs, ?_⟩, hp.filter _, ?_⟩
    · intro x hx y hy
      have h1 : x.1 < a := by simpa using (List.mem_filter.1 hx).2
      have := (cells_range a bs y hy).1
      omega
    · intro x hx y hy
      have h2 : a + bs.length ≤ y.1 := by simpa using (List.mem_filter.1 hy).2
      rcases List.mem_append.1 hx with hx | hx
      · have h1 : x.1 < a := by simpa using (List.mem_filter.1 hx).2
        omega
      · have := (cells_range a bs x hx).2.1
        omega
  · intro e he
    rcases List.mem_append.1 he with he | he
    · rcases List.mem_append.1 he with he | he
      · exact hn e (List.mem_filter.1 he).1
      · exact (cells_range a bs e he).2.2
    · exact hn e (List.mem_filter.1 he).1

theorem Memory.writeNat_wf {m : Memory} (h : m.wf = true) (a n v : Nat) : (m.writeNat a n v).wf = true := Memory.write_wf h a _

/-- Reading a key in two lists joined. -/
theorem look_append {α : Type} (k : Nat) (l r : List (Nat × α)) : look k (l ++ r) = (look k l).or (look k r) := by
  induction l with
  | nil => simp [look]
  | cons e l ih =>
    obtain ⟨i, v⟩ := e
    by_cases h : i = k <;> simp [look, h, ih]

/-- A key that no entry has is not found. -/
theorem look_none {α : Type} (k : Nat) (l : List (Nat × α)) (h : ∀ e ∈ l, e.1 ≠ k) : look k l = none := by
  induction l with
  | nil => rfl
  | cons e l ih =>
    obtain ⟨i, v⟩ := e
    rw [look, if_neg (h (i, v) (by simp)), ih fun e he => h e (List.mem_cons_of_mem _ he)]

/-- A test on keys that a key passes leaves what is listed under it. -/
theorem look_filter {α : Type} (k : Nat) (p : Nat → Bool) (h : p k = true) (l : List (Nat × α)) :
    look k (l.filter fun e => p e.1) = look k l := by
  induction l with
  | nil => rfl
  | cons e l ih =>
    obtain ⟨i, v⟩ := e
    by_cases hi : i = k
    · subst hi; simp [look, h]
    · by_cases hp : p i <;> simp [hp, look, hi, ih]

/-- The byte that the cells of a write list at an address of its range. -/
theorem look_cells (a : Nat) (bs : List Byte) (i : Nat) (hi : i < bs.length) : (look (a + i) (cells a bs)).getD unlisted = bs[i] := by
  induction bs generalizing a i with
  | nil => simp at hi
  | cons b r ih =>
    cases i with
    | zero =>
      by_cases hb : b = unlisted
      · rw [cells, if_pos hb, look_none _ _ fun e he => by have := (cells_range (a + 1) r e he).1; omega]
        simp [hb]
      · simp [cells, hb, look]
    | succ i =>
      have hi' : i < r.length := by simpa using hi
      have hadd : a + (i + 1) = a + 1 + i := by omega
      by_cases hb : b = unlisted
      · rw [cells, if_pos hb, hadd, ih (a + 1) i hi']; simp
      · rw [cells, if_neg hb, look, if_neg (by omega), hadd, ih (a + 1) i hi']; simp

/-- A read of a written address gives the byte written. -/
theorem Memory.read_write_in (m : Memory) (a : Nat) (bs : List Byte) (i : Nat) (hi : i < bs.length) :
    (m.write a bs).read (a + i) = bs[i] := by
  unfold Memory.write Memory.read
  rw [look_append, look_append, look_none (a + i) (m.filter _) fun e he => ?_]
  · rw [look_none (a + i) (m.filter fun e => a + bs.length ≤ e.1) fun e he => ?_]
    · simpa using look_cells a bs i hi
    · have : a + bs.length ≤ e.1 := by simpa using (List.mem_filter.1 he).2
      omega
  · have : e.1 < a := by simpa using (List.mem_filter.1 he).2
    omega

/-- A write leaves every other address as it was. -/
theorem Memory.read_write_out (m : Memory) (a : Nat) (bs : List Byte) (x : Nat) (h : x < a ∨ a + bs.length ≤ x) :
    (m.write a bs).read x = m.read x := by
  have hc : look x (cells a bs) = none := look_none x _ fun e he => by
    have := cells_range a bs e he
    omega
  unfold Memory.write Memory.read
  rw [look_append, look_append, hc]
  rcases h with h | h
  · rw [look_filter x (fun k => decide (k < a)) (by simpa using h),
      look_none x (m.filter fun e => a + bs.length ≤ e.1) fun e he => by
        have : a + bs.length ≤ e.1 := by simpa using (List.mem_filter.1 he).2
        omega]
    simp
  · rw [look_filter x (fun k => decide (a + bs.length ≤ k)) (by simpa using h),
      look_none x (m.filter fun e => e.1 < a) fun e he => by
        have : e.1 < a := by simpa using (List.mem_filter.1 he).2
        omega]
    simp

@[simp] theorem leBytes_length (n v : Nat) : (leBytes n v).length = n := by
  induction n generalizing v with
  | zero => rfl
  | succ n ih => simp [leBytes, ih]

/-- The bytes of a number make it up again, modulo 256^n. -/
theorem leNat_leBytes (n v : Nat) : leNat (leBytes n v) = v % 256 ^ n := by
  induction n generalizing v with
  | zero => simp [leBytes, leNat, Nat.mod_one]
  | succ n ih =>
    have h : 256 ^ (n + 1) = 256 * 256 ^ n := by rw [Nat.pow_succ, Nat.mul_comm]
    rw [leBytes, leNat, ih, h, Nat.mod_mul]
    simp

/-- A read of exactly the bytes a write wrote gives them. -/
theorem Memory.readBytes_write (m : Memory) (a : Nat) (bs : List Byte) : (m.write a bs).readBytes a bs.length = bs := by
  apply List.ext_getElem
  · simp [Memory.readBytes]
  · intro i h1 h2
    simp only [Memory.readBytes, List.getElem_map, List.getElem_range]
    exact Memory.read_write_in m a bs i h2

end Sys2Proof.Machine
end

