-- ==== Sys2Proof/Certificates/Slice0/Obligations.lean ====
section
/-! DEFINITION. The statements about the model, from the numbered rules of the spec. Each says what an instruction, an event or the
machine does, in the terms of Sys2Proof.Safety. -/

namespace Sys2Proof.Statements

open Sys2Proof.Machine

/-! ## Scalar instructions (R96, R258 to R264) -/

/-- A scalar instruction with one destination: its sources with their last-read marks, the destination with its short-lived mark, the
barrel turns until it can be read (R231, R256), the predicates it reads, and the result from the state before. -/
structure ScalarForm where
  srcs  : List (BitVec 5 × BitVec 1)
  d     : BitVec 5
  short : BitVec 1 := 0
  lat   : Nat := 1
  preds : List Nat := []
  value : State → Word

/-- Two sources and their marks. -/
def two (a b : BitVec 5) (m : BitVec 2) : List (BitVec 5 × BitVec 1) := [(a, m.extractLsb' 1 1), (b, m.extractLsb' 0 1)]

/-- A form with two sources. -/
def rr (d a b : BitVec 5) (h : BitVec 1) (m : BitVec 2) (lat : Nat) (f : Word → Word → Word) : ScalarForm :=
  { srcs := two a b m, d := d, short := h, lat := lat, value := fun s => f (s.src a) (s.src b) }

/-- A form with one source. -/
def r1 (d a : BitVec 5) (h m : BitVec 1) (f : Word → Word) : ScalarForm :=
  { srcs := [(a, m)], d := d, short := h, value := fun s => f (s.src a) }

/-- The low `w` bits of a number as a register. -/
def wrap (v : Int) : Word := BitVec.ofInt 48 v

/-- Where the field of a bit-field form begins (R261). -/
def fieldPos (b : Word) : Nat := b.toNat % 64

/-- The width of the field of a bit-field form, cut at bit 47; zero for none (R261). -/
def fieldWidth (b : Word) : Nat := if 48 ≤ b.toNat % 64 then 0 else min (b.toNat % 64 + b.toNat / 64 % 64) 48 - b.toNat % 64

/-- The results of the scalar instructions: R96 for division by zero, R258 for the ALU, R259 for the immediates, R260 for the
addresses, R261 for the bit fields, R264 for selection. -/
def scalarForm : Instr → Option ScalarForm
  | .add d a b h m _ => some (rr d a b h m 1 fun x y => wrap (x.toNat + y.toNat))
  | .sub d a b h m _ => some (rr d a b h m 1 fun x y => wrap (x.toNat - y.toNat))
  | .and d a b h m _ => some (rr d a b h m 1 fun x y => x &&& y)
  | .or d a b h m _ => some (rr d a b h m 1 fun x y => x ||| y)
  | .xor d a b h m _ => some (rr d a b h m 1 fun x y => x ^^^ y)
  | .andn d a b h m _ => some (rr d a b h m 1 fun x y => x &&& ~~~y)
  | .shl d a b h m _ => some (rr d a b h m 1 fun x y => wrap (x.toNat * 2 ^ (y.toNat % 64)))
  | .shr d a b h m _ => some (rr d a b h m 1 fun x y => wrap (x.toNat / 2 ^ (y.toNat % 64)))
  | .sar d a b h m _ => some (rr d a b h m 1 fun x y => wrap (x.toInt / 2 ^ (y.toNat % 64)))
  | .mul d a b h m _ => some (rr d a b h m 2 fun x y => wrap (x.toInt * y.toInt))
  | .mulh d a b h m _ => some (rr d a b h m 2 fun x y => wrap (x.toInt * y.toInt / 2 ^ 48))
  | .mulhn d a b h m _ => some (rr d a b h m 2 fun x y => wrap (x.toNat * y.toNat / 2 ^ 48))
  | .div d a b h m _ => some (rr d a b h m 6 fun x y => if y = 0 then 0 else wrap (x.toInt.tdiv y.toInt))
  | .divn d a b h m _ => some (rr d a b h m 6 fun x y => if y = 0 then 0 else wrap (x.toNat / y.toNat))
  | .rem d a b h m _ => some (rr d a b h m 6 fun x y => if y = 0 then x else wrap (x.toInt.tmod y.toInt))
  | .remn d a b h m _ => some (rr d a b h m 6 fun x y => if y = 0 then x else wrap (x.toNat % y.toNat))
  | .min d a b h m _ => some (rr d a b h m 1 fun x y => wrap (min x.toInt y.toInt))
  | .max d a b h m _ => some (rr d a b h m 1 fun x y => wrap (max x.toInt y.toInt))
  | .minn d a b h m _ => some (rr d a b h m 1 fun x y => wrap (min x.toNat y.toNat))
  | .maxn d a b h m _ => some (rr d a b h m 1 fun x y => wrap (max x.toNat y.toNat))
  | .clz d a h m _ => some (r1 d a h m fun x => wrap (((List.range 48).takeWhile fun i => !x.getMsbD i).length))
  | .ctz d a h m _ => some (r1 d a h m fun x => wrap (((List.range 48).takeWhile fun i => !x.getLsbD i).length))
  | .popc d a h m _ => some (r1 d a h m fun x => wrap (((List.range 48).filter fun i => x.getLsbD i).length))
  | .addi d a i m _ => some (r1 d a 0 m fun x => wrap (x.toNat + i.toInt))
  | .andi d a i m _ => some (r1 d a 0 m fun x => x &&& i.signExtend 48)
  | .ori d a i m _ => some (r1 d a 0 m fun x => x ||| i.setWidth 48)
  | .xori d a i m _ => some (r1 d a 0 m fun x => x ^^^ i.setWidth 48)
  | .shli d a n m _ => some (r1 d a 0 m fun x => wrap (x.toNat * 2 ^ n.toNat))
  | .shri d a n m _ => some (r1 d a 0 m fun x => wrap (x.toNat / 2 ^ n.toNat))
  | .sari d a n m _ => some (r1 d a 0 m fun x => wrap (x.toInt / 2 ^ n.toNat))
  | .li d i _ => some { srcs := [], d := d, value := fun _ => wrap i.toInt }
  | .lui d i _ => some { srcs := [(d, 0)], d := d, value := fun s => wrap ((s.src d).toNat * 2 ^ 18 + i.toNat) }
  | .sel d a b p h m _ =>
    some { rr d a b h m 1 (fun x _ => x) with
      preds := [p.toNat], value := fun s => if s.me.pred p.toNat then s.src a else s.src b }
  | .seln d a b p h m _ =>
    some { rr d a b h m 1 (fun x _ => x) with
      preds := [p.toNat], value := fun s => if s.me.pred p.toNat then s.src b else s.src a }
  | .lea1 d a b h m _ => some (rr d a b h m 1 fun x y => wrap (x.toNat + y.toNat))
  | .lea2 d a b h m _ => some (rr d a b h m 1 fun x y => wrap (x.toNat + 2 * y.toNat))
  | .lea4 d a b h m _ => some (rr d a b h m 1 fun x y => wrap (x.toNat + 4 * y.toNat))
  | .lea8 d a b h m _ => some (rr d a b h m 1 fun x y => wrap (x.toNat + 8 * y.toNat))
  | .bfx d a b h m _ => some (rr d a b h m 1 fun x y => wrap (x.toNat / 2 ^ fieldPos y % 2 ^ fieldWidth y))
  | .bfxs d a b h m _ => some (rr d a b h m 1 fun x y => if fieldWidth y = 0 then 0 else wrap (sx (fieldWidth y) (x.toNat / 2 ^ fieldPos y)))
  | .bfi d a b h m _ =>
    some { srcs := two a b m ++ [(d, 0)], d := d, short := h,
           value := fun s =>
             let old := (s.src d).toNat
             let pos := fieldPos (s.src b)
             let w := fieldWidth (s.src b)
             wrap (old - old / 2 ^ pos % 2 ^ w * 2 ^ pos + (s.src a).toNat % 2 ^ w * 2 ^ pos) }
  | _ => none

end Sys2Proof.Statements

section
open Sys2Proof Machine Statements

/-- R258 to R261 and R264, with division as R96 gives it: every ALU, immediate, address, bit-field and selection instruction that
issues completes. Its destination takes the result its rule gives, its short-lived mark as R79 gives it and its delivery after the
latency of R256, sources marked as read for the last time are freed, the pc advances by 4, and nothing else changes. -/
def Obligations.ScalarResults : Prop :=
  ∀ (i : Instr) (f : ScalarForm) (s : State), scalarForm i = some f → Issues s i (f.srcs.map (·.1)) [f.d] f.preds [] .registers →
    ∃ t, exec i s = .next t ∧ SlotOnly s t ∧ Delivered s.me t.me s.now f.d (f.value s) (f.short == 1) f.lat ∧
      WindowKept s.me t.me [f.d] (marked f.srcs) ∧ ScalarOnly s.me t.me ∧ Advances s.me t.me

end


namespace Sys2Proof.Statements

open Sys2Proof.Machine

/-! ## Predicates (R262, R263) -/

/-- An instruction that writes one predicate: its sources with their marks, the predicate, and its truth. -/
structure PredForm where
  srcs  : List (BitVec 5 × BitVec 1) := []
  p     : BitVec 5
  preds : List Nat := []
  value : State → Bool

/-- A comparison of two sources. -/
def cmp (p a b : BitVec 5) (m : BitVec 2) (f : Word → Word → Bool) : PredForm :=
  { srcs := two a b m, p := p, value := fun s => f (s.src a) (s.src b) }

/-- A comparison with an immediate, sign-extended. -/
def cmpi (p a : BitVec 5) (i : BitVec 9) (m : BitVec 1) (f : Word → Word → Bool) : PredForm :=
  { srcs := [(a, m)], p := p, value := fun s => f (s.src a) (wrap i.toInt) }

/-- An operation on the predicates named. -/
def prd (p : BitVec 5) (qs : List (BitVec 5)) (f : (BitVec 5 → Bool) → Bool) : PredForm :=
  { p := p, preds := qs.map (·.toNat), value := fun s => f fun q => s.me.pred q.toNat }

/-- The truth values of R262 and R263. -/
def predForm : Instr → Option PredForm
  | .cmpEq p a b m _ => some (cmp p a b m fun x y => decide (x = y))
  | .cmpNe p a b m _ => some (cmp p a b m fun x y => decide (x ≠ y))
  | .cmpLt p a b m _ => some (cmp p a b m fun x y => decide (x.toInt < y.toInt))
  | .cmpGe p a b m _ => some (cmp p a b m fun x y => decide (x.toInt ≥ y.toInt))
  | .cmpLtn p a b m _ => some (cmp p a b m fun x y => decide (x.toNat < y.toNat))
  | .cmpGen p a b m _ => some (cmp p a b m fun x y => decide (x.toNat ≥ y.toNat))
  | .cmpTst p a b m _ => some (cmp p a b m fun x y => decide (x &&& y ≠ 0))
  | .cmpTstz p a b m _ => some (cmp p a b m fun x y => decide (x &&& y = 0))
  | .cmpiEq p a i m _ => some (cmpi p a i m fun x y => decide (x = y))
  | .cmpiNe p a i m _ => some (cmpi p a i m fun x y => decide (x ≠ y))
  | .cmpiLt p a i m _ => some (cmpi p a i m fun x y => decide (x.toInt < y.toInt))
  | .cmpiGe p a i m _ => some (cmpi p a i m fun x y => decide (x.toInt ≥ y.toInt))
  | .cmpiLtn p a i m _ => some (cmpi p a i m fun x y => decide (x.toNat < y.toNat))
  | .cmpiGen p a i m _ => some (cmpi p a i m fun x y => decide (x.toNat ≥ y.toNat))
  | .pand d a b _ => some (prd d [a, b] fun q => q a && q b)
  | .por d a b _ => some (prd d [a, b] fun q => q a || q b)
  | .pxor d a b _ => some (prd d [a, b] fun q => q a ^^ q b)
  | .pandn d a b _ => some (prd d [a, b] fun q => q a && !q b)
  | .pnot d a _ => some (prd d [a] fun q => !q a)
  | .pset d _ => some (prd d [] fun _ => true)
  | .pclr d _ => some (prd d [] fun _ => false)
  | _ => none

end Sys2Proof.Statements

section
open Sys2Proof Machine Statements

/-- R262 and R263: every comparison and predicate operation that issues completes. It writes one predicate, p0 discards the write
and reads as 1, marked sources are freed, the pc advances, and nothing else changes. -/
def Obligations.PredicateResults : Prop :=
  ∀ (i : Instr) (f : PredForm) (s : State), predForm i = some f → Issues s i (f.srcs.map (·.1)) [17] f.preds [] .registers →
    ∃ t, exec i s = .next t ∧ SlotOnly s t ∧
      (∀ q, q ≤ 11 → t.me.pred q = if q = f.p.toNat ∧ q ≠ 0 then f.value s else s.me.pred q) ∧ t.me.pred 0 = true ∧
      WindowKept s.me t.me [] (marked f.srcs) ∧
      t.me = { s.me with lo := t.me.lo, hi := t.me.hi, preds := t.me.preds, ready := t.me.ready, pc := t.me.pc, frame := t.me.frame,
                         turnNext := t.me.turnNext, run := none } ∧ Advances s.me t.me

end


namespace Sys2Proof.Statements

open Sys2Proof.Machine

/-! ## Transfers (R73 to R76, R265 to R270) -/

/-- The target of a relative transfer of `o` words from a pc, mod 2^48. -/
def target (pc : Word) (o : Int) : Word := wrap (pc.toNat + 4 * o)

/-- What an instruction that only moves the pc changes of its slot. -/
def PcOnly (v w : Slot) : Prop :=
  w = { v with lo := w.lo, hi := w.hi, pc := w.pc, frame := w.frame, turnNext := w.turnNext, run := none }

end Sys2Proof.Statements

section
open Sys2Proof Machine Statements

/-- R265: b branches when its predicate is 1 and bn when it is 0, else the next instruction follows; j always jumps; the target is
pc + 4·sx(offset) mod 2^48. Each that issues completes and changes the pc only. -/
def Obligations.Branches : Prop :=
  ∀ (p : BitVec 4) (o : BitVec 21) (f : BitVec 26) (s : State), s.me.frame = none →
    (Issues s (.b p o) [] [] [p.toNat] [] .registers → ∃ t, exec (.b p o) s = .next t ∧ SlotOnly s t ∧ PcOnly s.me t.me ∧
      WindowKept s.me t.me [] [] ∧ t.me.pc = if s.me.pred p.toNat then target s.me.pc o.toInt else s.me.pc + 4) ∧
    (Issues s (.bn p o) [] [] [p.toNat] [] .registers → ∃ t, exec (.bn p o) s = .next t ∧ SlotOnly s t ∧ PcOnly s.me t.me ∧
      WindowKept s.me t.me [] [] ∧ t.me.pc = if s.me.pred p.toNat then s.me.pc + 4 else target s.me.pc o.toInt) ∧
    (Issues s (.j f) [] [] [] [] .registers → ∃ t, exec (.j f) s = .next t ∧ SlotOnly s t ∧ PcOnly s.me t.me ∧
      WindowKept s.me t.me [] [] ∧ t.me.pc = target s.me.pc f.toInt)

end

section
open Sys2Proof Machine Statements

/-- R266: loop decrements rd mod 2^48 and branches by 4·sx(imm12) unless the result is zero. R267: jr sets pc to ra and neither
slides the window nor checks the register stack; a target whose bits 1:0 are nonzero takes ALIGN before any effect, with EVA the
target, once no access of the strand is on its way. -/
def Obligations.CountedLoopsAndRegisterJumps : Prop :=
  ∀ (d : BitVec 5) (o : BitVec 12) (t3 : BitVec 3) (m : BitVec 1) (s : State),
    (s.me.frame = none → Issues s (.loop d o t3) [d] [d] [] [] .registers →
      ∃ t, exec (.loop d o t3) s = .next t ∧ SlotOnly s t ∧ ScalarOnly s.me t.me ∧ WindowKept s.me t.me [d] [] ∧
        Delivered s.me t.me s.now d (wrap ((s.src d).toNat - 1)) false 1 ∧
        t.me.pc = if wrap ((s.src d).toNat - 1) = 0 then s.me.pc + 4 else target s.me.pc o.toInt) ∧
    (Issues s (.jr d m t3) [d] [] [] [] .registers →
      ((s.src d).toNat % 4 = 0 → ∃ t, exec (.jr d m t3) s = .next t ∧ SlotOnly s t ∧ PcOnly s.me t.me ∧
        WindowKept s.me t.me [] (marked [(d, m)]) ∧ t.me.pc = s.src d) ∧
      ((s.src d).toNat % 4 ≠ 0 → s.me.awaits = [] → ∃ s' : State, exec (.jr d m t3) s = .next (s'.trap .align (s.src d)) ∧
        s' = { s with cores := s'.cores } ∧ s'.me.pc = s.me.pc ∧ ∀ i, s'.me.reg i = s.me.reg i))

end


namespace Sys2Proof.Statements

open Sys2Proof.Machine

/-- An older window as a flush or a move to the stack store gives it: its save address and its four values (R74, R75, R79). -/
def OldWin.shown (now : Nat) (o : OldWin) : Word × List Word := (o.save, o.quad.regs.map fun r => r.flushed now)

/-- No window of the stack store has an error that is still to be corrected and logged (R406). -/
def Unflawed (v : Slot) : Prop := ∀ o ∈ v.older, o.flawed = false

/-- The window of a caller as it enters a callee (R73, R268): the sources marked as read for the last time are freed, a4 to a6 and the
return address become a0 to a3, a4 to a7 are freed, and the caller's a0 to a3 lie above the older windows, saved at fl − 32. -/
structure Called (v w : Slot) (now : Nat) (gone : List (BitVec 5)) (back : Word) : Prop where
  window : ∀ i, i < 3 → Kept v gone (i + 4) (w.reg i)
  link   : w.reg 3 = Reg.written back none (now / 8 + 1)
  freed  : ∀ i, 4 ≤ i → i < 8 → w.reg i = Reg.reset
  fl     : w.fl = v.fl - 32
  older  : ∃ o r, w.older = o :: r ∧ o.save = v.fl - 32 ∧ r.map (OldWin.shown now) = v.older.map (OldWin.shown now) ∧
    ∀ i, i < 4 → ∃ x, Kept v gone i x ∧ (o.quad.get i).flushed now = x.flushed now
  slot   : w = { v with lo := w.lo, hi := w.hi, older := w.older, spare := w.spare, fl := w.fl, pc := w.pc, turnNext := w.turnNext, run := none }

end Sys2Proof.Statements

section
open Sys2Proof Machine Statements

/-- R268 and R73: call and callr once the registers that move can be read (notes/assumptions/145.md), write the return address pc
+ 4 as the callee's a3, slide the window up, save the caller's window at fl − 32 and jump; a last-read mark on the source of callr
frees it, but for a7. -/
def Sys2Proof.Statements.Calls : Prop :=
  ∀ (o : BitVec 26) (a : BitVec 5) (m : BitVec 1) (t3 : BitVec 3) (s : State), s.me.fl.toNat % 32 = 0 → s.me.older.length ≠ 31 →
    (Issues s (.call o) [18] [7] [] [] (moved := windowCodes 8) → (target s.me.pc o.toInt).toNat % 4 = 0 →
      ∃ t, exec (.call o) s = .next t ∧ SlotOnly s t ∧ t.me.pc = target s.me.pc o.toInt ∧
        Called s.me t.me s.now [] (s.me.pc + 4)) ∧
    (Issues s (.callr a m t3) [a, 18] [7] [] [] (moved := windowCodes 8) → (s.src a).toNat % 4 = 0 →
      ∃ t, exec (.callr a m t3) s = .next t ∧ SlotOnly s t ∧ t.me.pc = s.src a ∧
        Called s.me t.me s.now (marked [(a, if a = 7 then 0 else m)]) (s.me.pc + 4))

end

section
open Sys2Proof Machine Statements

/-- R268 and R73: a misaligned target takes ALIGN with EVA the target; then fl not a multiple of 32 takes ALIGN with EVA fl; then
31 older windows take SPILL with EVA fl, and no register changes. -/
def Sys2Proof.Statements.CallTraps : Prop :=
  ∀ (a : BitVec 5) (m : BitVec 1) (t3 : BitVec 3) (s : State), Issues s (.callr a m t3) [a, 18] [7] [] [] (moved := windowCodes 8) →
    ((s.src a).toNat % 4 ≠ 0 → ∃ s' : State, exec (.callr a m t3) s = .next (s'.trap .align (s.src a)) ∧
      s' = { s with cores := s'.cores } ∧ s'.me.pc = s.me.pc ∧ ∀ i, s'.me.reg i = s.me.reg i) ∧
    ((s.src a).toNat % 4 = 0 → s.me.fl.toNat % 32 ≠ 0 → ∃ s' : State, exec (.callr a m t3) s = .next (s'.trap .align s.me.fl) ∧
      s' = { s with cores := s'.cores } ∧ s'.me.pc = s.me.pc ∧ ∀ i, s'.me.reg i = s.me.reg i) ∧
    ((s.src a).toNat % 4 = 0 → s.me.fl.toNat % 32 = 0 → s.me.older.length = 31 →
      ∃ s' : State, exec (.callr a m t3) s = .next (s'.trap .spill s.me.fl) ∧ s' = { s with cores := s'.cores } ∧
        s'.me.pc = s.me.pc ∧ ∀ i, s'.me.reg i = s.me.reg i)

end

section
open Sys2Proof Machine Statements

/-- R269, R73 and R75: once the callee's a0 to a3 can be read (notes/assumptions/145.md), with an older window in the window file
ret jumps to a3, the caller's a4 to a7 take the callee's a0 to a3, its a0 to a3 come back from the older window and fl grows by
32; a window in the stack store is read first, which corrects an error that SEC-DED can correct, and the ret issues again; a
window that was uncorrectable in the stack store is POISON with EVA 0x20 (R406); with no older window ret takes FILL, and reads no
register before it. -/
def Sys2Proof.Statements.Returns : Prop :=
  ∀ (t3 : BitVec 3) (s : State),
    (∀ o r, Issues s (.ret t3) [3, 18] [] [] [] (moved := windowCodes 4) → s.me.older = o :: r → o.inFile = true → o.spoilt = false → (s.src 3).toNat % 4 = 0 →
      ∃ t, exec (.ret t3) s = .next t ∧ (Unflawed s.me → SlotOnly s t) ∧ t.me.pc = s.src 3 ∧ t.me.fl = s.me.fl + 32 ∧
        t.me.older.map (OldWin.shown s.now) = r.map (OldWin.shown s.now) ∧
        (∀ i, i < 4 → t.me.reg (i + 4) = s.me.reg i ∧ t.me.reg i = o.quad.get i) ∧
        t.me = { s.me with lo := t.me.lo, hi := t.me.hi, older := t.me.older, spare := t.me.spare, fl := t.me.fl, pc := t.me.pc,
                           prefetch := t.me.prefetch, turnNext := t.me.turnNext, run := none }) ∧
    (∀ o r, Issues s (.ret t3) [3, 18] [] [] [] (moved := windowCodes 4) → s.me.older = o :: r → s.me.inFile = 0 → o.spoilt = false → s.me.prefetch = [] →
      (s.src 3).toNat % 4 = 0 →
      ∃ t q, exec (.ret t3) s = .next t ∧ t.me.pc = s.me.pc ∧ t.me.older = { o with inFile := true, quad := q, flawed := false } :: r ∧ q.regs = o.quad.regs ∧
        t.me.turnNext = max s.me.turnNext ((s.now + 47) / 8) ∧ ∀ i, t.me.reg i = s.me.reg i) ∧
    (∀ o r, Issues s (.ret t3) [3, 18] [] [] [] (moved := windowCodes 4) → s.me.older = o :: r → o.spoilt = true → s.me.prefetch = [] → (s.src 3).toNat % 4 = 0 →
      ∃ s' : State, exec (.ret t3) s = .next (s'.trap .poison 0x20) ∧ s'.me.pc = s.me.pc ∧ ∀ i, s'.me.reg i = s.me.reg i) ∧
    (Issues s (.ret t3) [18] [] [] [] → s.me.older = [] → ∃ s' : State, exec (.ret t3) s = .next (s'.trap .fill s.me.fl) ∧ s' = { s with cores := s'.cores } ∧
      s'.me.pc = s.me.pc ∧ ∀ i, s'.me.reg i = s.me.reg i)

end

section
open Sys2Proof Machine Statements

/-- R270, R76 and R398: wpf with a free queue entry, and nop, retire and leave every register, window and flag as it was, but for
the log of an error that a prefetched window's read corrects (R406); with both entries occupied wpf stalls. -/
def Sys2Proof.Statements.WindowPrefetch : Prop :=
  ∀ (t3 : BitVec 3) (s : State), s.me.frame = none →
    (Issues s (.nop t3) [] [] [] [] .registers → ∃ t, exec (.nop t3) s = .next t ∧ SlotOnly s t ∧ PcOnly s.me t.me ∧
      t.me.pc = s.me.pc + 4 ∧ WindowKept s.me t.me [] []) ∧
    (Issues s (.wpf t3) [] [] [] [] → (s.me.prefetch.filter (s.now < ·)).length < 2 →
      ∃ t, exec (.wpf t3) s = .next t ∧ (Unflawed s.me → SlotOnly s t) ∧ t.me.pc = s.me.pc + 4 ∧ WindowKept s.me t.me [] [] ∧
        t.me.older.map (OldWin.shown s.now) = s.me.older.map (OldWin.shown s.now) ∧
        t.me = { s.me with lo := t.me.lo, hi := t.me.hi, older := t.me.older, spare := t.me.spare, pc := t.me.pc, prefetch := t.me.prefetch,
                           turnNext := t.me.turnNext, run := none }) ∧
    (Issues s (.wpf t3) [] [] [] [] → 2 ≤ (s.me.prefetch.filter (s.now < ·)).length →
      ∃ t, exec (.wpf t3) s = .next t ∧ t.me.pc = s.me.pc)

end

section
open Sys2Proof Machine Statements

/-- R268 and R73: call and callr once the registers that move can be read (notes/assumptions/145.md), write the return address pc
+ 4 as the callee's a3, slide the window up, save the caller's window at fl − 32 and jump; a last-read mark on the source of callr
frees it, but for a7. R268 and R73: a misaligned target takes ALIGN with EVA the target; then fl not a multiple of 32 takes ALIGN
with EVA fl; then 31 older windows take SPILL with EVA fl, and no register changes. R269, R73 and R75: once the callee's a0 to a3
can be read (notes/assumptions/145.md), with an older window in the window file ret jumps to a3, the caller's a4 to a7 take the
callee's a0 to a3, its a0 to a3 come back from the older window and fl grows by 32; a window in the stack store is read first,
which corrects an error that SEC-DED can correct, and the ret issues again; a window that was uncorrectable in the stack store is
POISON with EVA 0x20 (R406); with no older window ret takes FILL, and reads no register before it. R270, R76 and R398: wpf with a
free queue entry, and nop, retire and leave every register, window and flag as it was, but for the log of an error that a
prefetched window's read corrects (R406); with both entries occupied wpf stalls. -/
def Obligations.CallsAndReturns : Prop :=
  Statements.Calls ∧ Statements.CallTraps ∧ Statements.Returns ∧ Statements.WindowPrefetch

end


namespace Sys2Proof.Statements

open Sys2Proof.Machine

/-! ## Leaving the slot (R37, R271 to R274) -/

/-- The strand of a slot may suspend: it is not in handler state, and nothing it must wait for is outstanding (R88, R170). -/
def MaySuspend (s : State) : Prop := s.me.handler = false ∧ s.posted s.core 3 = false ∧ s.me.draining = false

/-- The suspension of R37 succeeds from a state, with a change of the slot that the instruction makes as it retires: the slot's banks
are awake and free of poison, its windows and its control block are written, and it leaves `t` with a packet for core `dst`. -/
def Suspends (s : State) (f : Slot → Slot) (dst : Nat) (t : State) (p : Packet) : Prop :=
  s.suspend s.core s.slot f (s.me.pc + 4) dst 0 = (t, .ok p)

end Sys2Proof.Statements

section
open Sys2Proof Machine Statements

/-- R271, R272 and R274: yield writes the strand back and puts its continuation, with pc + 4 and w = 0, into its core's ready
ring; park puts it on the wait-on-address list with no word named and the limit of WLIM, and with no limit acts as yield; exit
leaves the slot idle, writes no memory and counts the strand in NDONE. -/
def Sys2Proof.Statements.LeavingTheSlot : Prop :=
  ∀ (t3 : BitVec 3) (s : State), MaySuspend s →
    (∀ (y : State) (p : Packet), Issues s (.yield t3) [] [] [] [] → Suspends (s.acting []) id s.core y p →
      exec (.yield t3) s = .next ((y.issued { st := t3 }).makeReady s.core p) ∧ (y.slotAt s.core s.slot).strand = none ∧
      p.cont.pc = s.me.pc + 4 ∧ p.cont.id = s.me.id ∧ p.cont.preds = s.me.preds ∧ p.cont.fl = s.me.fl ∧ p.epri = p.bpri ∧ p.wrote = s.core) ∧
    (∀ (y : State) (p : Packet), Issues s (.park t3) [] [] [] [] → Suspends (s.acting []) id s.core y p →
      (s.me.wlim.toNat % 2 ^ 48 = 0 → exec (.park t3) s = .next ((y.issued { st := t3 }).makeReady s.core p)) ∧
      (s.me.wlim.toNat % 2 ^ 48 ≠ 0 → exec (.park t3) s = .next ((y.issued { st := t3 }).enlist s.core
        { pkt := p, kind := .timed, ea := 0, back := s.core, since := s.now, limit := s.me.wlim.toNat % 2 ^ 48, acct := s.me.acct, inMem := false }))) ∧
    (Issues s (.exit t3) [] [] [] [] → s.busyWork s.me.id = false →
      ∃ t, exec (.exit t3) s = .next t ∧ t.me.strand = none ∧ t.me.k = s.me.k ∧ t.mem = s.mem ∧ t.spm = s.spm ∧
        (t.launchAt s.me.id.lid).map (·.ndone) = (s.launchAt s.me.id.lid).map (·.ndone + 1))

end

section
open Sys2Proof Machine Statements

/-- R273: go to an address whose owner is the current core retires; to another owner it retires, with its marks acting, suspends
and sends a migration packet of KIND 0 to the owner with pc + 4; an address that cannot be translated, or is not in vault space,
traps with EVA the address. -/
def Sys2Proof.Statements.Going : Prop :=
  ∀ (a : BitVec 5) (m : BitVec 1) (t3 : BitVec 3) (s y : State), s.me.handler = false → Issues s (.go a m t3) [a] [] [] [] →
    (∀ o, (s.acting [a]).ownerCore (s.src a) .route = (y, .ok (y.core, o)) → MaySuspend y →
      exec (.go a m t3) s = .next (y.retire { srcs := [(a, m)], st := t3 } none)) ∧
    (∀ (owner : Nat) o (z : State) (p : Packet), (s.acting [a]).ownerCore (s.src a) .route = (y, .ok (owner, o)) → owner ≠ y.core →
      MaySuspend y → Suspends y ({ srcs := [(a, m)] : Use }.free) owner z p →
      exec (.go a m t3) s = .next ((z.issued { st := t3 }).sendPacket p) ∧ p.dst = owner ∧ p.kind = 0 ∧ p.org = y.core ∧ p.cont.pc = y.me.pc + 4) ∧
    (∀ c, (s.acting [a]).ownerCore (s.src a) .route = (y, .error c) → exec (.go a m t3) s = .next (y.trap c (s.src a)))

end

section
open Sys2Proof Machine Statements

/-- R271, R272 and R274: yield writes the strand back and puts its continuation, with pc + 4 and w = 0, into its core's ready
ring; park puts it on the wait-on-address list with no word named and the limit of WLIM, and with no limit acts as yield; exit
leaves the slot idle, writes no memory and counts the strand in NDONE. R273: go to an address whose owner is the current core
retires; to another owner it retires, with its marks acting, suspends and sends a migration packet of KIND 0 to the owner with pc
+ 4; an address that cannot be translated, or is not in vault space, traps with EVA the address. -/
def Obligations.LeavingAndGoing : Prop :=
  Statements.LeavingTheSlot ∧ Statements.Going

end


namespace Sys2Proof.Statements

open Sys2Proof.Machine

/-! ## Loads and stores (R118, R121, R123, R275 to R277) -/

/-- A load or store of R277: its size, whether a load sign-extends, its codes, its ordering fields and its offset. -/
structure MemForm where
  size   : Nat
  signed : Bool
  d      : BitVec 5
  a      : BitVec 5
  o      : BitVec 2
  sc     : BitVec 2
  w      : BitVec 2
  off    : BitVec 10

/-- The loads of R277. -/
def loadOf : Instr → Option MemForm
  | .ldS8 d a o sc w f => some ⟨1, true, d, a, o, sc, w, f⟩
  | .ldN8 d a o sc w f => some ⟨1, false, d, a, o, sc, w, f⟩
  | .ldS16 d a o sc w f => some ⟨2, true, d, a, o, sc, w, f⟩
  | .ldN16 d a o sc w f => some ⟨2, false, d, a, o, sc, w, f⟩
  | .ldS32 d a o sc w f => some ⟨4, true, d, a, o, sc, w, f⟩
  | .ldN32 d a o sc w f => some ⟨4, false, d, a, o, sc, w, f⟩
  | .ldx d a o sc w f => some ⟨8, false, d, a, o, sc, w, f⟩
  | _ => none

/-- The stores of R277. -/
def storeOf : Instr → Option MemForm
  | .stb d a o sc w f => some ⟨1, false, d, a, o, sc, w, f⟩
  | .sth d a o sc w f => some ⟨2, false, d, a, o, sc, w, f⟩
  | .stw d a o sc w f => some ⟨4, false, d, a, o, sc, w, f⟩
  | .stx d a o sc w f => some ⟨8, false, d, a, o, sc, w, f⟩
  | _ => none

/-- The effective address of R275: ra + size·sx(off) mod 2^48. -/
def MemForm.ea (f : MemForm) (s : State) : Word := wrap ((s.src f.a).toNat + f.size * f.off.toInt)

/-- What a load delivers from the bytes it reads: `ldx` their low 48 bits, the others the number sign- or zero-extended. -/
def MemForm.loaded (f : MemForm) (bs : List Byte) : Word :=
  if f.signed then wrap (sx (8 * f.size) (leNat bs)) else wrap (leNat bs)

/-- The bytes a store writes: the low bytes of rd, sign-extended to 64 bits. -/
def stored (size : Nat) (x : Word) : List Byte := leBytes size (x.signExtend 64).toNat

/-- A transfer with the own vault: the core's banks note the row left open, which ends the row requests before it (R136, R138), and
beside the slot nothing else of the device but the memory named changes. -/
structure VaultOnly (s t : State) : Prop where
  device : t = { s with cores := t.cores, clusters := t.clusters, mem := t.mem }
  others : OthersKept s t
  core   : t.here = { s.here with slots := t.here.slots, banks := t.here.banks, ctl := t.here.ctl }

/-- Memory as a store of bytes at an address leaves it: those bytes, and every other byte as before. -/
def Stored (m n : Memory) (a : Nat) (bs : List Byte) : Prop :=
  n.readBytes a bs.length = bs ∧ ∀ x, x < a ∨ a + bs.length ≤ x → n.read x = m.read x

/-- The vault-space address of a byte of the current core's window (R118). -/
def ownVault (s : State) (ea : Word) : Nat := s.core * 2 ^ 28 + ea.toNat

/-- No error stands or is armed in the granule of the owner map that names the owner of a vault byte's page (R118, R406, R411). -/
def OwnerReadable (s : State) (a : Nat) : Prop :=
  s.badGran.contains (s.ownerAt a / 32) = false ∧ ∀ e ∈ s.injected, e.2.1 ≠ s.ownerAt a / 32

/-- A byte of the local window may be accessed (R118): in the reserved range by a privileged strand, and elsewhere by the process that owns
its page. -/
def Admitted (s : State) (va : Nat) : Prop :=
  if 0x0FF00000 ≤ va ∨ s.reservedBase s.core ≤ va ∧ va < s.reservedBase s.core + 2 ^ 20 then s.privileged s.core s.slot = true
  else s.owns s.me.pid (s.core * 2 ^ 28 + va) = true ∧ OwnerReadable s (s.core * 2 ^ 28 + va)

/-- A range of the local window lies below the reserved range, and the process owns every page of it (R118, R336). -/
def OwnedPages (s : State) (ea n : Nat) : Prop :=
  ea + n ≤ 0x0FF00000 ∧ ∀ p, ea / 65536 ≤ p → 65536 * p < ea + n →
    s.owns s.me.pid (s.core * 2 ^ 28 + p * 65536) = true ∧ OwnerReadable s (s.core * 2 ^ 28 + p * 65536)

/-- An access of `n` bytes to the own vault that its checks admit: aligned, in the window, owned, with the owner's page readable (R118,
R275, R406), and error-free. -/
def InVault (s : State) (ea : Word) (n : Nat) : Prop :=
  s.core < 1024 ∧ ea.toNat % n = 0 ∧ ea.toNat < 2 ^ 28 ∧ Admitted s ea.toNat ∧ s.sound (ownVault s ea) n

/-- An access of `n` bytes to the own vault may be made as the instruction has issued: the vault agent has a tag, and no access of the
strand that is on its way may reach one of the words (R136, R163). -/
def Unblocked (s : State) (codes : List (BitVec 5)) (ea : Word) (n : Nat) : Prop :=
  (s.acting codes).vaultBusy (ownVault s ea) n = false

/-- An access of `n` bytes to an allocation of the own scratchpad, at byte `b` of it (R121, R123), and error-free. -/
def InSpad (s : State) (ea : Word) (n b : Nat) : Prop :=
  ea.toNat % n = 0 ∧ 2 ^ 28 ≤ ea.toNat ∧ ea.toNat < 2 ^ 32 ∧ spmCore ea.toNat = s.core ∧
    s.regionCheck s.core s.slot ea.toNat = (s, none) ∧ s.spmByte s.me.pid ea.toNat = some b ∧ s.spmSound s.core b n

end Sys2Proof.Statements

section
open Sys2Proof Machine Statements

/-- R275 and R277: every load that issues, with the posted stores it waits for acknowledged, from an aligned address that its
checks admit in the own vault or the own scratchpad, delivers the bytes there extended as its form says, changes no memory and no
other register, and advances the pc. It may issue while other plain loads of its strand are on their way (R231), unless one of its
strand's accesses may reach the same words. A misaligned address takes ALIGN with EVA the address. -/
def Sys2Proof.Statements.LocalLoads : Prop :=
  ∀ (i : Instr) (f : MemForm) (s : State), loadOf i = some f →
    Issues s i [f.a] [f.d] [] [] (if f.o = 3 then .waits else .load) →
    s.posted s.core (if f.o = 3 then 3 else f.w.toNat) = false →
    (InVault s (f.ea s) f.size → Unblocked s [f.a, f.d] (f.ea s) f.size → ∃ t, exec i s = .next t ∧ VaultOnly s t ∧ t.mem = s.mem ∧
      Delivered s.me t.me s.now f.d (f.loaded (s.mem.readBytes (ownVault s (f.ea s)) f.size)) false 1 ∧
      WindowKept s.me t.me [f.d] [] ∧ ScalarOnly s.me t.me ∧ Advances s.me t.me) ∧
    (∀ b, InSpad s (f.ea s) f.size b → ∃ t, exec i s = .next t ∧ SlotOnly s t ∧
      Delivered s.me t.me s.now f.d (f.loaded (s.spm.readBytes (spmAt s.core b) f.size)) false 1 ∧
      WindowKept s.me t.me [f.d] [] ∧ ScalarOnly s.me t.me ∧ Advances s.me t.me) ∧
    ((f.ea s).toNat % f.size ≠ 0 → s.me.awaits = [] → exec i s = .next ((s.acting [f.a, f.d]).trap .align (f.ea s)))

end

section
open Sys2Proof Machine Statements

/-- R275 and R277: every store that issues, with the posted stores it waits for acknowledged, to an aligned address that its
checks admit in the own vault, or in the own scratchpad where no strand waits on the words, leaves the low bytes of rd there and
every other byte of memory as before, ends rd's short-lived mark and changes nothing else of a register, and advances the pc. -/
def Sys2Proof.Statements.LocalStores : Prop :=
  ∀ (i : Instr) (f : MemForm) (s : State), storeOf i = some f → Issues s i [f.a, f.d] [] [] [] →
    s.posted s.core (if f.o = 2 ∨ f.o = 3 then 3 else f.w.toNat) = false →
    (InVault s (f.ea s) f.size → Unblocked s [f.a, f.d] (f.ea s) f.size → ∃ t, exec i s = .next t ∧ VaultOnly s t ∧
      Stored s.mem t.mem (ownVault s (f.ea s)) (stored f.size (s.src f.d)) ∧ Retires (s.me.unmark f.d) t.me []) ∧
    (∀ b, InSpad s (f.ea s) f.size b →
      (∀ w ∈ s.here.waiters, ∀ off, w.kind = .word off → off + 8 ≤ b ∨ b + f.size ≤ off) →
      ∃ t, exec i s = .next t ∧ t = { s with cores := t.cores, clusters := t.clusters, spm := t.spm, badSpm := t.badSpm } ∧
        OthersKept s t ∧ t.here = { s.here.staleRegions b f.size s.now with slots := t.here.slots } ∧
        Stored s.spm t.spm (spmAt s.core b) (stored f.size (s.src f.d)) ∧ Retires (s.me.unmark f.d) t.me []) ∧
    ((f.ea s).toNat % f.size ≠ 0 → exec i s = .next ((s.acting [f.a, f.d]).trap .align (f.ea s)))

end

section
open Sys2Proof Machine Statements

/-- R275 and R277: every load that issues, with the posted stores it waits for acknowledged, from an aligned address that its
checks admit in the own vault or the own scratchpad, delivers the bytes there extended as its form says, changes no memory and no
other register, and advances the pc. It may issue while other plain loads of its strand are on their way (R231), unless one of its
strand's accesses may reach the same words. A misaligned address takes ALIGN with EVA the address. R275 and R277: every store that
issues, with the posted stores it waits for acknowledged, to an aligned address that its checks admit in the own vault, or in the
own scratchpad where no strand waits on the words, leaves the low bytes of rd there and every other byte of memory as before, ends
rd's short-lived mark and changes nothing else of a register, and advances the pc. -/
def Obligations.LocalAccesses : Prop :=
  Statements.LocalLoads ∧ Statements.LocalStores

end


namespace Sys2Proof.Statements

open Sys2Proof.Machine

/-- A message that the issuing slot's strand sends, as the mesh and the core's counters show it (R64, R133). -/
structure Sent (s t : State) (m : Msg) : Prop where
  mesh   : t.mesh = s.mesh ++ [m]
  header : m.pid = s.me.pid ∧ m.src = s.core ∧ m.prv = s.privileged s.core s.slot ∧ m.acct = s.me.acct ∧ m.lid = s.me.id.lid ∧
    m.seq = s.here.seq ∧ m.client = .slot s.core s.slot s.me.id
  number : t.here.seq = s.here.seq + 1
  memory : t.mem = s.mem ∧ t.spm = s.spm

/-- The instruction has retired with an awaited access on its way: the pc advances, the last entry of the slot's accesses awaits the
reply to the message and holds the slot as it was, and no register changes (R231, R276, R377). -/
structure Awaits (v w : Slot) (m : Msg) (act : AwaitAct) : Prop where
  slot   : w = { v with lo := w.lo, hi := w.hi, pc := w.pc, frame := w.frame, turnNext := w.turnNext, run := none, awaits := w.awaits }
  access : ∃ a, w.awaits = v.awaits ++ [a] ∧ a.seqs = [m.seq] ∧ a.act = act ∧ a.ea = m.va ∧ a.failed = none ∧
    a.saved.pc = v.pc ∧ a.saved.fl = v.fl ∧ a.saved.preds = v.preds ∧ a.saved.k = v.k ∧ a.saved.frame = v.frame ∧
    a.saved.lo.regs = v.lo.regs ∧ a.saved.hi.regs = v.hi.regs
  regs   : ∀ i, w.reg i = v.reg i
  pc     : Advances v w

/-- A global address, aligned to a size. -/
def Global (ea : Word) (n : Nat) : Prop := ea.toNat % n = 0 ∧ 2 ^ 32 ≤ ea.toNat

/-- A scratchpad address of another core that the region check admits. -/
def OtherSpad (s : State) (ea : Word) (n : Nat) : Prop :=
  ea.toNat % n = 0 ∧ 2 ^ 28 ≤ ea.toNat ∧ ea.toNat < 2 ^ 32 ∧ spmCore ea.toNat ≠ s.core ∧
    s.regionCheck s.core s.slot ea.toNat = (s, none)

end Sys2Proof.Statements

section
open Sys2Proof Machine Statements

/-- R126, R133, R276 and R277: a load or store of a global address goes to the core's station, with its size, address and data in
the message, and one of another core's scratchpad goes straight to that core with PADDR the byte of its scratchpad that the
address reaches (R121; where it reaches none, any value: notes/assumptions/141.md); a load retires with its result awaited, and a
store retires, counted in strict mode or held in a scoreboard entry, with the sc fence after a synchronising one still to come. -/
def Sys2Proof.Statements.RemoteAccesses : Prop :=
  ∀ (i : Instr) (f : MemForm) (s : State),
    (loadOf i = some f → Issues s i [f.a] [f.d] [] [] (if f.o = 3 then .waits else .load) → s.posted s.core (if f.o = 3 then 3 else f.w.toNat) = false →
      (Global (f.ea s) f.size → ∃ t m, exec i s = .next t ∧ Sent s t m ∧ m.proc = 0 ∧ m.stage = .toStation ∧ m.va = f.ea s ∧
        m.ord = f.o ∧ m.sc = f.sc ∧ 2 ^ m.size.toNat = f.size ∧ m.storing = false ∧ Awaits s.me t.me m (.load f.size f.signed f.d)) ∧
      (OtherSpad s (f.ea s) f.size → ∃ t m, exec i s = .next t ∧ Sent s t m ∧ m.proc = 8 ∧ m.fn = 0 ∧ m.stage = .toOwner ∧
        m.dst = spmCore (f.ea s).toNat ∧ m.va = f.ea s ∧ m.paddr = s.spadPlace s.me.pid (f.ea s) ∧ 2 ^ m.size.toNat = f.size ∧
        Awaits s.me t.me m (.load f.size f.signed f.d))) ∧
    (storeOf i = some f → Issues s i [f.a, f.d] [] [] [] →
      s.posted s.core (if f.o = 2 ∨ f.o = 3 then 3 else f.w.toNat) = false → (s.here.strict = true ∨ s.me.board.length < 16) →
      (Global (f.ea s) f.size → ∃ t m, exec i s = .next t ∧ Sent s t m ∧ m.proc = 1 ∧ m.stage = .toStation ∧ m.va = f.ea s ∧
        m.opa = (s.src f.d).signExtend 64 ∧ 2 ^ m.size.toNat = f.size ∧ m.storing = true ∧
        t.me.unack = (if s.here.strict then s.me.unack + 1 else s.me.unack) ∧
        t.me.board.length = (if s.here.strict then s.me.board.length else s.me.board.length + 1) ∧
        t.me.syncing = (s.me.syncing || f.o == 3) ∧ Advances s.me t.me) ∧
      (OtherSpad s (f.ea s) f.size → ∃ t m, exec i s = .next t ∧ Sent s t m ∧ m.proc = 9 ∧ m.fn = 0 ∧ m.stage = .toOwner ∧
        m.dst = spmCore (f.ea s).toNat ∧ m.va = f.ea s ∧ m.paddr = s.spadPlace s.me.pid (f.ea s) ∧ m.opa = (s.src f.d).signExtend 64 ∧
        2 ^ m.size.toNat = f.size ∧ m.storing = true ∧ t.me.syncing = (s.me.syncing || f.o == 3) ∧ Advances s.me t.me))

end


namespace Sys2Proof.Statements

open Sys2Proof.Machine

/-! ## Full/empty forms, atomics, migrating forms (R145, R278 to R280) -/

/-- A form on one vault word: the function, its codes and its ordering fields; the offset of the full/empty forms, and the second
source of the atomics. -/
structure WordForm where
  load : Bool
  fn   : Nat
  d    : BitVec 5
  a    : BitVec 5
  b    : BitVec 5
  o    : BitVec 2
  w    : BitVec 2
  off  : BitVec 9

/-- The full/empty forms of R279. -/
def fullEmptyOf : Instr → Option WordForm
  | .ldF d a o _ w f => some ⟨true, 0, d, a, 16, o, w, f⟩
  | .ldFe d a o _ w f => some ⟨true, 1, d, a, 16, o, w, f⟩
  | .stF d a o _ w f => some ⟨false, 0, d, a, 16, o, w, f⟩
  | .stEf d a o _ w f => some ⟨false, 1, d, a, 16, o, w, f⟩
  | _ => none

/-- The effective address of a full/empty form: ra + 8·sx(off9). -/
def WordForm.ea (f : WordForm) (s : State) : Word := wrap ((s.src f.a).toNat + 8 * f.off.toInt)

/-- Whether a form may be performed on a word that is full or empty: a load needs full, `st.f` nothing, `st.ef` empty. -/
def WordForm.may (f : WordForm) (full : Bool) : Bool := if f.load then full else f.fn == 0 || !full

/-- The empty words after a form at word `k`: `ld.f` changes none, `ld.fe` empties the word, a store fills it. -/
def WordForm.after (f : WordForm) (k : Nat) (l : List Nat) : List Nat :=
  if f.load then if f.fn = 0 then l else insertNat k l else l.filter (· != k)

end Sys2Proof.Statements

section
open Sys2Proof Machine Statements

/-- R145 and R279: with its condition met and no strand waiting on the word, a full/empty load delivers the word and a store
writes it; ld.fe leaves it empty and a store full; no other byte and no other bit changes. With its condition not met, the strand
is written back and parks on the word. -/
def Sys2Proof.Statements.FullEmptyForms : Prop :=
  ∀ (i : Instr) (f : WordForm) (s : State), fullEmptyOf i = some f →
    Issues s i (if f.load then [f.a] else [f.a, f.d]) (if f.load then [f.d] else []) [] [] →
    s.posted s.core (if f.o = 2 ∨ f.o = 3 then 3 else f.w.toNat) = false → InVault s (f.ea s) 8 →
    Unblocked s [f.a, f.d] (f.ea s) 8 →
    (f.may (s.isFull (ownVault s (f.ea s))) = true → (∀ w ∈ s.here.waiters, w.onWord (ownVault s (f.ea s)) = false) →
      ∃ t, exec i s = .next t ∧ t = { s with cores := t.cores, clusters := t.clusters, mem := t.mem, empties := t.empties } ∧
        OthersKept s t ∧ t.here = { s.here with slots := t.here.slots, banks := t.here.banks, ctl := t.here.ctl } ∧ Advances s.me t.me ∧
        t.empties = f.after (ownVault s (f.ea s) / 8) s.empties ∧ ScalarOnly s.me t.me ∧
        (f.load = true → t.mem = s.mem ∧ WindowKept s.me t.me [f.d] [] ∧
          Delivered s.me t.me s.now f.d (wrap (leNat (s.mem.readBytes (ownVault s (f.ea s)) 8))) false 1) ∧
        (f.load = false → Stored s.mem t.mem (ownVault s (f.ea s)) (stored 8 (s.src f.d)) ∧ Retires (s.me.unmark f.d) t.me [])) ∧
    (f.may (s.isFull (ownVault s (f.ea s))) = false → MaySuspend s → ∀ (y : State) (p : Packet),
      (s.acting [f.a, f.d]).suspend s.core s.slot id s.me.pc s.core 0 = (y, .ok p) →
      ∃ w : Waiter, exec i s = .next ((y.countIssue s.core s.me.acct).parkAt w (ownVault s (f.ea s))) ∧ w.pkt = p ∧ w.back = s.core ∧ w.since = s.now ∧
        w.limit = s.me.wlim.toNat % 2 ^ 48 ∧ w.acct = s.me.acct ∧
        w.kind = .fullEmpty (ownVault s (f.ea s)) f.load f.fn f.d ((s.src f.d).signExtend 64))

end


namespace Sys2Proof.Statements

open Sys2Proof.Machine

/-- The atomics of R280, numbered as R134 numbers them. -/
def atomicOf? : Instr → Option WordForm
  | .amoAdd d a b o _ w => some ⟨true, 0, d, a, b, o, w, 0⟩
  | .amoAnd d a b o _ w => some ⟨true, 1, d, a, b, o, w, 0⟩
  | .amoOr d a b o _ w => some ⟨true, 2, d, a, b, o, w, 0⟩
  | .amoXor d a b o _ w => some ⟨true, 3, d, a, b, o, w, 0⟩
  | .amoMin d a b o _ w => some ⟨true, 4, d, a, b, o, w, 0⟩
  | .amoMax d a b o _ w => some ⟨true, 5, d, a, b, o, w, 0⟩
  | .amoMinn d a b o _ w => some ⟨true, 6, d, a, b, o, w, 0⟩
  | .amoMaxn d a b o _ w => some ⟨true, 7, d, a, b, o, w, 0⟩
  | .amoSwap d a b o _ w => some ⟨true, 8, d, a, b, o, w, 0⟩
  | .amoCas d a b o _ w => some ⟨true, 9, d, a, b, o, w, 0⟩
  | _ => none

/-- The new word of an atomic from the old one, rb and, for `amo.cas`, rd (R280). -/
def atomicWord (fn : Nat) (old b c : XWord) : XWord :=
  match fn with
  | 0 => BitVec.ofNat 64 (old.toNat + b.toNat)
  | 1 => old &&& b
  | 2 => old ||| b
  | 3 => old ^^^ b
  | 4 => BitVec.ofInt 64 (min old.toInt b.toInt)
  | 5 => BitVec.ofInt 64 (max old.toInt b.toInt)
  | 6 => BitVec.ofNat 64 (min old.toNat b.toNat)
  | 7 => BitVec.ofNat 64 (max old.toNat b.toNat)
  | 8 => b
  | _ => if old = c then b else old

end Sys2Proof.Statements

section
open Sys2Proof Machine Statements

/-- R280: an atomic on a word of the own vault writes the function of the old word and rb there, delivers the low 48 bits of the
old word in rd, and changes no other byte; amo.cas writes rb only where the old word equals rd. On a global address it is a
message, awaited, or posted where rd discards writes. -/
def Sys2Proof.Statements.Atomics : Prop :=
  ∀ (i : Instr) (f : WordForm) (s : State), atomicOf? i = some f →
    Issues s i (if f.fn = 9 then [f.a, f.b, f.d] else [f.a, f.b]) [f.d] [] [] →
    s.posted s.core (if f.o = 2 ∨ f.o = 3 then 3 else f.w.toNat) = false →
    let ea := s.src f.a
    let b := (s.src f.b).signExtend 64
    let c := if f.fn = 9 then (s.src f.d).signExtend 64 else 0
    (InVault s ea 8 → Unblocked s (if f.fn = 9 then [f.a, f.b, f.d, f.d] else [f.a, f.b, f.d]) ea 8 →
      ∃ t, exec i s = .next t ∧ VaultOnly s t ∧
      Stored s.mem t.mem (ownVault s ea) (leBytes 8 (atomicWord f.fn (BitVec.ofNat 64 (s.mem.readNat (ownVault s ea) 8)) b c).toNat) ∧
      Delivered s.me t.me s.now f.d (wrap (s.mem.readNat (ownVault s ea) 8)) false 1 ∧ WindowKept s.me t.me [f.d] [] ∧
      ScalarOnly s.me t.me ∧ Advances s.me t.me) ∧
    (Global ea 8 → (discards f.d = false ∨ s.here.strict = true ∨ s.me.board.length < 16) →
      ∃ t m, exec i s = .next t ∧ Sent s t m ∧ m.proc = 2 ∧ m.fn.toNat = f.fn ∧ m.stage = .toStation ∧ m.va = ea ∧ m.opa = b ∧ m.opb = c ∧
        m.storing = discards f.d ∧ (discards f.d = false → Awaits s.me t.me m (.atomic f.d)) ∧
        (discards f.d = true → Advances s.me t.me))

end

section
open Sys2Proof Machine Statements

/-- R126, R133, R276 and R277: a load or store of a global address goes to the core's station, with its size, address and data in
the message, and one of another core's scratchpad goes straight to that core with PADDR the byte of its scratchpad that the
address reaches (R121; where it reaches none, any value: notes/assumptions/141.md); a load retires with its result awaited, and a
store retires, counted in strict mode or held in a scoreboard entry, with the sc fence after a synchronising one still to come.
R280: an atomic on a word of the own vault writes the function of the old word and rb there, delivers the low 48 bits of the old
word in rd, and changes no other byte; amo.cas writes rb only where the old word equals rd. On a global address it is a message,
awaited, or posted where rd discards writes. -/
def Obligations.RemoteAccessesAndAtomics : Prop :=
  Statements.RemoteAccesses ∧ Statements.Atomics

end

section
open Sys2Proof Machine Statements

/-- R278 and R60: on a word of the own vault the migrating forms act as ldx and stx; on a global address whose owner is another
core the strand suspends with its pc at the form and migrates there; on one that the current core owns the access is performed. -/
def Sys2Proof.Statements.MigratingForms : Prop :=
  ∀ (d a : BitVec 5) (o sc w : BitVec 2) (s : State), s.me.handler = false →
    s.posted s.core (if o = 2 ∨ o = 3 then 3 else w.toNat) = false →
    let ea := s.src a
    (Issues s (.ldxM d a o sc w) [a] [d] [] [] →
      (InVault s ea 8 → Unblocked s [a, d] ea 8 → ∃ t, exec (.ldxM d a o sc w) s = .next t ∧ VaultOnly s t ∧ t.mem = s.mem ∧
        Delivered s.me t.me s.now d (wrap (s.mem.readNat (ownVault s ea) 8)) false 1 ∧ WindowKept s.me t.me [d] [] ∧
        ScalarOnly s.me t.me ∧ Advances s.me t.me) ∧
      (∀ (y z : State) (owner : Nat) pa (p : Packet), Global ea 8 → (s.acting [a, d]).ownerCore ea .read = (y, .ok (owner, pa)) →
        owner ≠ y.core → MaySuspend y → y.suspend y.core y.slot id y.me.pc owner 0 = (z, .ok p) →
        exec (.ldxM d a o sc w) s = .next ((z.countIssue y.core y.me.acct).sendPacket p) ∧ p.dst = owner ∧ p.cont.pc = y.me.pc) ∧
      (∀ (y : State) (pa : Nat), Global ea 8 → (s.acting [a, d]).ownerCore ea .read = (y, .ok (y.core, some pa)) → y.sound pa 8 →
        y.vaultBusy pa 8 = false → ∃ t, exec (.ldxM d a o sc w) s = .next t ∧ t.mem = y.mem ∧
          Delivered y.me t.me y.now d (wrap (y.mem.readNat pa 8)) false 1 ∧ Advances y.me t.me)) ∧
    (Issues s (.stxM d a o sc w) [a, d] [] [] [] →
      (InVault s ea 8 → Unblocked s [a, d] ea 8 → ∃ t, exec (.stxM d a o sc w) s = .next t ∧ VaultOnly s t ∧
        Stored s.mem t.mem (ownVault s ea) (stored 8 (s.src d)) ∧ Retires (s.me.unmark d) t.me []) ∧
      (∀ (y z : State) (owner : Nat) pa (p : Packet), Global ea 8 → (s.acting [a, d]).ownerCore ea .write = (y, .ok (owner, pa)) →
        owner ≠ y.core → MaySuspend y → y.suspend y.core y.slot id y.me.pc owner 0 = (z, .ok p) →
        exec (.stxM d a o sc w) s = .next ((z.countIssue y.core y.me.acct).sendPacket p) ∧ p.dst = owner ∧ p.cont.pc = y.me.pc) ∧
      (∀ (y : State) (pa : Nat), Global ea 8 → (s.acting [a, d]).ownerCore ea .write = (y, .ok (y.core, some pa)) → y.sound pa 8 →
        y.vaultBusy pa 8 = false → pa % 8 = 0 → ∃ t, exec (.stxM d a o sc w) s = .next t ∧ Stored y.mem t.mem pa (stored 8 (s.src d)) ∧ Advances y.me t.me))

end

section
open Sys2Proof Machine Statements

/-- R145 and R279: with its condition met and no strand waiting on the word, a full/empty load delivers the word and a store
writes it; ld.fe leaves it empty and a store full; no other byte and no other bit changes. With its condition not met, the strand
is written back and parks on the word. R278 and R60: on a word of the own vault the migrating forms act as ldx and stx; on a
global address whose owner is another core the strand suspends with its pc at the form and migrates there; on one that the current
core owns the access is performed. -/
def Obligations.WaitingAndMigratingForms : Prop :=
  Statements.FullEmptyForms ∧ Statements.MigratingForms

end

section
open Sys2Proof Machine Statements

/-- R281 and R170: fence.acq and wait stall while the posted stores of the classes their code names are unacknowledged, fence.rel,
fence.ar and fence.sc while any is; then each retires and changes no register and no memory. -/
def Sys2Proof.Statements.FencesAndWaits : Prop :=
  ∀ (sc w : BitVec 2) (i : Instr) (s : State),
    i = .fenceAcq sc w ∨ i = .fenceRel sc w ∨ i = .fenceAr sc w ∨ i = .fenceSc sc w ∨ i = .wait w →
    Issues s i [] [] [] [] →
    let code := if i = .fenceAcq sc w ∨ i = .wait w then w.toNat else 3
    (s.posted s.core code = false → ∃ t, exec i s = .next t ∧ SlotOnly s t ∧ Retires s.me t.me []) ∧
    (s.posted s.core code = true → ∃ t, exec i s = .next t ∧ t.me.pc = s.me.pc ∧ t.mem = s.mem)

end

section
open Sys2Proof Machine Statements

/-- R282 and R149: waita on an aligned word of an own scratchpad allocation retires when the word differs from rb; when they are
equal the strand suspends past it and waits on that word, the byte of the scratchpad that the address reaches; an address of
another kind takes PROT. -/
def Sys2Proof.Statements.WaitOnAddress : Prop :=
  ∀ (a b : BitVec 5) (w : BitVec 2) (k : Nat) (s : State), Issues s (.waita a b w) [a, b] [] [] [] →
    s.posted s.core w.toNat = false →
    (InSpad s (s.src a) 8 k → BitVec.ofNat 64 (s.spm.readNat (spmAt s.core k) 8) ≠ (s.src b).signExtend 64 →
      ∃ t, exec (.waita a b w) s = .next t ∧ SlotOnly s t ∧ Retires s.me t.me []) ∧
    (InSpad s (s.src a) 8 k → BitVec.ofNat 64 (s.spm.readNat (spmAt s.core k) 8) = (s.src b).signExtend 64 → MaySuspend s →
      ∀ (y : State) (p : Packet), Suspends (s.acting [a, b]) id s.core y p →
        exec (.waita a b w) s = .next ((y.issued {}).enlist s.core
          { pkt := p, kind := .word k, ea := s.src a, back := s.core, since := s.now, limit := s.me.wlim.toNat % 2 ^ 48,
            acct := s.me.acct, inMem := false })) ∧
    ((s.src a).toNat % 8 = 0 → ¬ (2 ^ 28 ≤ (s.src a).toNat ∧ (s.src a).toNat < 2 ^ 32) →
      exec (.waita a b w) s = .next ((s.acting [a, b]).trap .prot (s.src a)))

end

section
open Sys2Proof Machine Statements

/-- R281 and R170: fence.acq and wait stall while the posted stores of the classes their code names are unacknowledged, fence.rel,
fence.ar and fence.sc while any is; then each retires and changes no register and no memory. R282 and R149: waita on an aligned
word of an own scratchpad allocation retires when the word differs from rb; when they are equal the strand suspends past it and
waits on that word, the byte of the scratchpad that the address reaches; an address of another kind takes PROT. -/
def Obligations.FencesAndAddressWaits : Prop :=
  Statements.FencesAndWaits ∧ Statements.WaitOnAddress

end


namespace Sys2Proof.Statements

open Sys2Proof.Machine

/-! ## Completion barriers (R150, R151, R283 to R285) -/

/-- A phase completes after an update that leaves ARR = EXP and TX = 0 (R151). -/
def phased (b : Bar) : Bar := if b.arr = b.exp ∧ b.tx = 0 then { b with phase := !b.phase, arr := 0 } else b

/-- A barrier after `cb.init` (1), `cb.arr` (2) or `cb.exp` (3) with an operand (R151, R284). -/
def barAfter (fn : Nat) (b : Bar) (x : Word) : Bar :=
  match fn with
  | 1 => { tx := 0, phase := false, err := false, sc := x.toNat / 2 ^ 14 % 4, exp := x.toNat % 2 ^ 14, arr := 0, ecause := 0,
           ecore := 0, eaddr := 0 }
  | 2 => phased (if b.arr = b.exp then { b with err := true } else { b with arr := b.arr + 1 })
  | _ => phased (if -(2 ^ 31) ≤ b.tx + x.toInt ∧ b.tx + x.toInt < 2 ^ 31 then { b with tx := b.tx + x.toInt } else { b with err := true })

/-- The updates of R284: the function, the register of the address and of the operand, and the classes waited for. -/
def barrierOf : Instr → Option (Nat × BitVec 5 × BitVec 5 × Nat)
  | .cbInit a b w => some (1, a, b, w.toNat)
  | .cbArr a _ => some (2, a, 16, 3)
  | .cbExp a b w => some (3, a, b, w.toNat)
  | _ => none

/-- The slot of the barrier region that an address names (R283). -/
def slotNamed (ea : Word) : Nat := ea.toNat / 16 % 64

/-- An address of a barrier slot that is reserved to a live strand of the process: IDX 31, bits 3:1 zero, and bit 0 too but for
`cb.wait` (R283). -/
def NamesBarrier (s : State) (ea : Word) (wait : Bool) : Prop :=
  ea.toNat / 2 ^ 27 = 31 ∧ ea.toNat / 2 % 8 = 0 ∧ (wait = false → ea.toNat % 2 = 0) ∧
    (spmCore ea.toNat = s.core → s.barOwned s.core (slotNamed ea) s.me.pid = true)

end Sys2Proof.Statements

section
open Sys2Proof Machine Statements

/-- R151 and R284: on a barrier of the own core that no strand or task waits on and whose words are correct, the form leaves the
barrier as its rule says, every other byte of the scratchpad and all of memory as before, and no register changed; on another
core's barrier it is a message of PROC 9 posted in class 2, with PADDR the byte of the scratchpad at which the slot stands (R121,
R283). -/
def Sys2Proof.Statements.BarrierUpdates : Prop :=
  ∀ (i : Instr) (fn wc : Nat) (a b : BitVec 5) (s : State), barrierOf i = some (fn, a, b, wc) →
    Issues s i (if fn = 2 then [a] else [a, b]) [] [] [] → s.posted s.core wc = false →
    NamesBarrier s (s.src a) false →
    (spmCore (s.src a).toNat = s.core → (∀ w ∈ s.here.waiters, ∀ ph, w.kind ≠ .barrier (slotNamed (s.src a)) ph) →
      (s.clusterAt (clusterOf s.core)).queue = [] → s.spmSound s.core (0x2FC00 + 16 * slotNamed (s.src a)) 16 →
      ∃ t, exec i s = .next t ∧ t = { s with cores := t.cores, clusters := t.clusters, spm := t.spm, badSpm := t.badSpm } ∧ OthersKept s t ∧
        t.here = { s.here with slots := t.here.slots } ∧ Retires s.me t.me [] ∧
        t.barRead s.core (slotNamed (s.src a)) = barAfter fn (s.barRead s.core (slotNamed (s.src a))) (s.src b) ∧
        ∀ x, x < spmAt s.core (0x2FC00 + 16 * slotNamed (s.src a)) ∨ spmAt s.core (0x2FC00 + 16 * slotNamed (s.src a)) + 16 ≤ x →
          t.spm.read x = s.spm.read x) ∧
    (spmCore (s.src a).toNat ≠ s.core → (s.here.strict = true ∨ s.me.board.length < 16) →
      ∃ t m, exec i s = .next t ∧ Sent s t m ∧ m.proc = 9 ∧ m.fn.toNat = fn ∧ m.stage = .toOwner ∧ m.cls = .two ∧ m.storing = true ∧
        m.dst = spmCore (s.src a).toNat ∧ m.va = s.src a ∧ m.paddr = 0x2FC00 + 16 * slotNamed (s.src a) ∧ (fn ≠ 2 → m.opa = (s.src b).signExtend 64) ∧ Advances s.me t.me)

end

section
open Sys2Proof Machine Statements

/-- R284 and R285: where the words of an own barrier are correct, cb.wait retires at once when the barrier's PHASE is bit 0 of its
address, and otherwise parks on the own core or sends its continuation to the barrier's core; cb.test reads the 32-bit word at
offset 4 of an own barrier, or sends an awaited message of PROC 8. -/
def Sys2Proof.Statements.BarrierWaits : Prop :=
  ∀ (d a : BitVec 5) (w : BitVec 2) (s : State), s.posted s.core w.toNat = false →
    let ea := s.src a
    let b := slotNamed ea
    let here := spmCore ea.toNat = s.core
    let phase := decide (ea.toNat % 2 = 1)
    (here → s.spmSound s.core (0x2FC00 + 16 * b) 16) →
    (Issues s (.cbWait a w) [a] [] [] [] → NamesBarrier s ea true →
      (here → (s.barRead s.core b).phase = phase → ∃ t, exec (.cbWait a w) s = .next t ∧ SlotOnly s t ∧ Retires s.me t.me []) ∧
      (¬ (here ∧ (s.barRead s.core b).phase = phase) → MaySuspend s → ∀ (y : State) (p : Packet),
        (s.acting [a]).suspend s.core s.slot id s.me.pc s.core 0 = (y, .ok p) →
        let wt : Waiter := { pkt := p, kind := .barrier b phase, ea := ea, back := s.core, since := s.now,
                             limit := s.me.wlim.toNat % 2 ^ 48, acct := s.me.acct, inMem := false }
        let z := y.countIssue s.core s.me.acct
        (here → exec (.cbWait a w) s = .next (z.enlist s.core wt)) ∧
        (¬ here → ∃ m, exec (.cbWait a w) s = .next (z.send m).1 ∧ m.proc = 9 ∧ m.fn = 4 ∧ m.dst = spmCore ea.toNat ∧ m.cont = some wt ∧
          m.paddr = 0x2FC00 + 16 * b ∧ m.opa.toNat = ea.toNat % 2))) ∧
    (Issues s (.cbTest d a w) [a] [d] [] [] → NamesBarrier s ea false →
      (here → ∃ t, exec (.cbTest d a w) s = .next t ∧ SlotOnly s t ∧
        Delivered s.me t.me s.now d (wrap (s.spm.readNat (spmAt s.core (0x2FC00 + 16 * b) + 4) 4)) false 1 ∧
        WindowKept s.me t.me [d] [] ∧ ScalarOnly s.me t.me ∧ Advances s.me t.me) ∧
      (¬ here → ∃ t m, exec (.cbTest d a w) s = .next t ∧ Sent s t m ∧ m.proc = 8 ∧ m.fn = 4 ∧ m.dst = spmCore ea.toNat ∧
        m.paddr = 0x2FC00 + 16 * b ∧ Awaits s.me t.me m (.result d false)))

end

section
open Sys2Proof Machine Statements

/-- R151 and R284: on a barrier of the own core that no strand or task waits on and whose words are correct, the form leaves the
barrier as its rule says, every other byte of the scratchpad and all of memory as before, and no register changed; on another
core's barrier it is a message of PROC 9 posted in class 2, with PADDR the byte of the scratchpad at which the slot stands (R121,
R283). R284 and R285: where the words of an own barrier are correct, cb.wait retires at once when the barrier's PHASE is bit 0 of
its address, and otherwise parks on the own core or sends its continuation to the barrier's core; cb.test reads the 32-bit word at
offset 4 of an own barrier, or sends an awaited message of PROC 8. -/
def Obligations.Barriers : Prop :=
  Statements.BarrierUpdates ∧ Statements.BarrierWaits

end


namespace Sys2Proof.Statements

open Sys2Proof.Machine

/-! ## Copies, allocation and launch (R122, R286 to R295) -/

/-- The fields of a copy descriptor are those of its bytes (R286). -/
def Describes (bs : List Byte) (d : CopyDesc) : Prop :=
  d.src.toNat = fieldAt bs 0 8 ∧ d.dst.toNat = fieldAt bs 8 8 ∧ fieldAt bs 16 8 = d.len + bit d.sbf * 2 ^ 30 + d.cmode.toNat * 2 ^ 32 +
    d.csc.toNat * 2 ^ 34 ∧ d.len < 2 ^ 30 ∧ d.caddr.toNat = fieldAt bs 24 8 ∧ d.cval.toNat = fieldAt bs 32 8

/-- A descriptor that is not malformed (R286). -/
def WellDescribed (bs : List Byte) : Prop :=
  fieldAt bs 0 8 < 2 ^ 48 ∧ fieldAt bs 8 8 < 2 ^ 48 ∧ fieldAt bs 24 8 < 2 ^ 48 ∧ fieldAt bs 16 8 < 2 ^ 36 ∧
    fieldAt bs 16 8 / 2 ^ 31 % 2 = 0 ∧ fieldAt bs 16 8 / 2 ^ 32 % 4 ≠ 3 ∧ fieldAt bs 16 8 % 2 ^ 30 ≠ 0 ∧ fieldAt bs 16 8 % 8 = 0 ∧
    fieldAt bs 0 8 % 8 = 0 ∧ fieldAt bs 8 8 % 8 = 0 ∧ fieldAt bs 40 8 = 0 ∧ fieldAt bs 48 8 = 0 ∧ fieldAt bs 56 8 = 0

/-- The `n` bytes of a table or a descriptor at an address, as an instruction that needs them to retire finds them: read at once in the
own vault or scratchpad, and otherwise brought by the requests that the instruction sent when it issued before (R276, R299). -/
def TableAt (s : State) (ea : Word) (n : Nat) (y : State) (bs : List Byte) : Prop :=
  s.regionCheck s.core s.slot ea.toNat = (s, none) ∧ bs.length = n ∧
    if isLocal s.core ea.toNat then
      (ea.toNat < 2 ^ 28 → s.vaultBusy (ownVault s ea) n = false) ∧ s.dataRead s.core s.slot ea.toNat n = (y, .ok bs)
    else s.me.fetched = some (ea, bs) ∧ y = s.onMe fun v => { v with fetched := none }

end Sys2Proof.Statements

section
open Sys2Proof Machine Statements

/-- R286, R287 and R289: cpy with a descriptor that is well-formed and passes its checks enters the core's copy engine as a
command with the descriptor's fields, the process, the privilege, the tag, the slot and the strand, and retires; a descriptor that
is not local is first asked for by awaited requests, with which the instruction issues again; a malformed descriptor takes ILLEGAL
with EVA the instruction word; cpy.q delivers 16 less the commands in progress. -/
def Sys2Proof.Statements.CopyCommands : Prop :=
  ∀ (d a : BitVec 5) (o sc w : BitVec 2) (s : State),
    (∀ (y : State) (bs : List Byte), Issues s (.cpy a o sc w) [a] [] [] [] →
      s.posted s.core (if o = 2 ∨ o = 3 then 3 else w.toNat) = false → (s.src a).toNat % 64 = 0 →
      TableAt (s.acting [a]) (s.src a) 64 y bs →
      (WellDescribed bs → ∀ e, Describes bs e → e.at_ = s.src a → y.completionCheck e = none → y.here.copies.length < 16 →
        (y.here.strict = true ∨ y.me.board.length < 16) →
        ∃ t x, exec (.cpy a o sc w) s = .next t ∧ t.here.copies = y.here.copies ++ [x] ∧ x.desc = e ∧ x.pid = y.me.pid ∧
          x.prv = y.privileged y.core y.slot ∧ x.slot = y.slot ∧ x.id = y.me.id ∧ x.acct = y.me.acct ∧ x.landed = [] ∧ x.sent = [] ∧ x.got = [] ∧
          x.base = 0 ∧ x.failed = none ∧ x.stopped = false ∧ x.tag = none ∧ t.mem = y.mem ∧ t.spm = y.spm ∧
          Advances y.me t.me) ∧
      (¬ WellDescribed bs → exec (.cpy a o sc w) s = .next (y.trap .illegal ((encode (.cpy a o sc w)).setWidth 48)))) ∧
    (Issues s (.cpy a o sc w) [a] [] [] [] → s.posted s.core (if o = 2 ∨ o = 3 then 3 else w.toNat) = false →
      (s.src a).toNat % 64 = 0 → (s.acting [a]).regionCheck s.core s.slot (s.src a).toNat = (s.acting [a], none) → isLocal s.core (s.src a).toNat = false →
      s.me.fetched = none →
      ∃ t x y, exec (.cpy a o sc w) s = .next t ∧ t.mesh = s.mesh ++ [x, y] ∧ x.va = s.src a ∧ y.va = s.src a + 32 ∧
        (∀ m ∈ [x, y], m.storing = false ∧ m.pid = s.me.pid ∧ m.src = s.core) ∧ t.me.pc = s.me.pc ∧ t.here.copies = s.here.copies ∧
        t.mem = s.mem ∧ t.spm = s.spm ∧ ∃ e, t.me.awaits = [e] ∧ e.seqs = [x.seq, y.seq] ∧ e.act = .table 64 []) ∧
    (Issues s (.cpyQ d sc w) [] [d] [] [] → s.posted s.core w.toNat = false → ∃ t, exec (.cpyQ d sc w) s = .next t ∧ SlotOnly s t ∧
      Delivered s.me t.me s.now d (wrap (16 - s.here.copies.length : Nat)) false 1 ∧ WindowKept s.me t.me [d] [] ∧
      ScalarOnly s.me t.me ∧ Advances s.me t.me)

end

section
open Sys2Proof Machine Statements

/-- R122 and R290: spal rounds its request up to a power of two and makes an allocation under the lowest free index at the lowest
free base, delivering its address, or delivers zero and changes nothing when it cannot; with bit 47 set it delivers a reserved
barrier slot's address; spfree ends an allocation of the caller's process and launch; spsz delivers the rounded size. -/
def Sys2Proof.Statements.ScratchpadAllocation : Prop :=
  ∀ (d a : BitVec 5) (h m : BitVec 1) (t3 : BitVec 3) (s : State),
    let x := s.src a
    let k := s.here
    let size := if x.toNat ≤ 256 then 256 else 2 ^ Nat.clog 2 x.toNat
    let gives (t : State) (v : Word) := Delivered s.me t.me s.now d v (h == 1) 1 ∧ WindowKept s.me t.me [d] (marked [(a, m)]) ∧
      Advances s.me t.me
    (Issues s (.spal d a h m t3) [a] [d] [] [] → (s.homeOf s.me.id).getD s.core = s.core →
      (x.toNat < 2 ^ 47 → (x = 0 ∨ 131072 < x.toNat ∨ k.freeIdx = none ∨ k.freeBase size = none) →
        ∃ t, exec (.spal d a h m t3) s = .next t ∧ SlotOnly s t ∧ gives t 0) ∧
      (∀ idx base, 0 < x.toNat → x.toNat ≤ 131072 → k.freeIdx = some idx → k.freeBase size = some base →
        size ≤ (s.acting [a, d]).spmFree s.core →
        ∃ t e, exec (.spal d a h m t3) s = .next t ∧ gives t (wrap (idx * 2 ^ 27 + s.core * 2 ^ 17)) ∧ t.mem = s.mem ∧ t.spm = s.spm ∧
          t.here.allocs = k.allocs ++ [e] ∧ e.idx = idx ∧ e.base = base ∧ e.size = size ∧ e.pid = s.me.pid ∧ e.lid = s.me.id.lid) ∧
      (2 ^ 47 ≤ x.toNat → ∃ t, exec (.spal d a h m t3) s = .next t ∧ SlotOnly s t ∧
        gives t (match (s.unfoldedAt s.me.id).bind fun u => u.bars[x.toNat % 16]? with
          | some b => wrap (31 * 2 ^ 27 + s.core * 2 ^ 17 + 16 * b)
          | none => 0))) ∧
    (Issues s (.spfree a m t3) [a] [] [] [] → 2 ^ 28 ≤ x.toNat → x.toNat < 2 ^ 32 → spmCore x.toNat = s.core →
      ∃ t, exec (.spfree a m t3) s = .next t ∧ t.mem = s.mem ∧ t.spm = s.spm ∧ Retires s.me t.me [(a, m)] ∧
        ∀ e, e ∈ t.here.allocs ↔ e ∈ k.allocs ∧ ∀ f, k.allocs.find? (fun f => f.idx == x.toNat / 2 ^ 27 && f.pid == s.me.pid &&
          f.lid == s.me.id.lid) = some f → e.idx ≠ f.idx) ∧
    (Issues s (.spsz d a h m t3) [a] [d] [] [] → spmCore x.toNat = s.core →
      ∃ t, exec (.spsz d a h m t3) s = .next t ∧ SlotOnly s t ∧
        gives t (if 2 ^ 28 ≤ x.toNat ∧ x.toNat < 2 ^ 32 then
          (match s.allocAt s.me.pid x.toNat with | some e => wrap e.size | none => 0) else 0))

end

section
open Sys2Proof Machine Statements

/-- R286, R287 and R289: cpy with a descriptor that is well-formed and passes its checks enters the core's copy engine as a
command with the descriptor's fields, the process, the privilege, the tag, the slot and the strand, and retires; a descriptor that
is not local is first asked for by awaited requests, with which the instruction issues again; a malformed descriptor takes ILLEGAL
with EVA the instruction word; cpy.q delivers 16 less the commands in progress. R122 and R290: spal rounds its request up to a
power of two and makes an allocation under the lowest free index at the lowest free base, delivering its address, or delivers zero
and changes nothing when it cannot; with bit 47 set it delivers a reserved barrier slot's address; spfree ends an allocation of
the caller's process and launch; spsz delivers the rounded size. -/
def Obligations.CopyAndAllocation : Prop :=
  Statements.CopyCommands ∧ Statements.ScratchpadAllocation

end

section
open Sys2Proof Machine Statements

/-- R291 to R295: lnch puts a message with the sender's process, tag, core and privilege and the record's physical address into
the inbox of the root core and retires after the round trip, behind every posted store of the strand to that core; grank and gsize
deliver the rank and the size of R53; task sets HANDLE and has the shadow registers reloaded, and a handle above NPKT takes PROT;
inq delivers 64·u + m. -/
def Obligations.LaunchesAndGroups : Prop :=
  ∀ (d a b : BitVec 5) (o sc w : BitVec 2) (s : State),
    let gives (i : Instr) (v : Word) := ∃ t, exec i s = .next t ∧ SlotOnly s t ∧ Delivered s.me t.me s.now d v false 1 ∧
      WindowKept s.me t.me [d] [] ∧ ScalarOnly s.me t.me ∧ Advances s.me t.me
    let g := (s.src b).toNat
    (∀ (y : State) (pa : Nat), Issues s (.lnch a b o sc w) [a, b] [] [] [] → (s.src b).toNat ≤ 1023 →
      (s.src a).toNat % 128 = 0 → (s.acting [a, b]).recordAddress (s.src a) = (y, .ok pa) →
      y.posted y.core (if o = 2 ∨ o = 3 then 3 else w.toNat) = false → y.storesTo y.me.id (s.src b).toNat = false → (y.coreAt (s.src b).toNat).killed = false →
      (y.coreAt (s.src b).toNat).inbox.length < 16 →
      ∃ t msg, exec (.lnch a b o sc w) s = .next t ∧
        (t.coreAt (s.src b).toNat).inbox = (y.coreAt (s.src b).toNat).inbox ++ [msg] ∧
        msg.extractLsb' 112 16 = y.me.pid ∧ msg.extractLsb' 96 16 = y.me.acct ∧ (msg.extractLsb' 86 10).toNat = y.core % 1024 ∧
        (msg.extractLsb' 85 1 = if y.privileged y.core y.slot then 1 else 0) ∧ (msg.extractLsb' 0 44).toNat = pa % 2 ^ 44 ∧
        t.mem = y.mem ∧ t.spm = y.spm ∧ Advances y.me t.me ∧ (y.now + 4 * distance y.core (s.src b).toNat) / 8 ≤ t.me.turnNext) ∧
    (Issues s (.grank d b sc w) [b] [d] [] [] → s.posted s.core w.toNat = false →
      (∀ u l e r, s.unfoldedAt s.me.id = some u → s.launchAt s.me.id.lid = some l → g ∈ u.groups → l.groups.find? (·.num == g) = some e →
        r < e.gcnt → s.me.id.sid = e.first + r * e.stride → (∀ q, q < r → s.me.id.sid ≠ e.first + q * e.stride) →
        gives (.grank d b sc w) (wrap r)) ∧
      (∀ u, s.unfoldedAt s.me.id = some u → g ∉ u.groups → gives (.grank d b sc w) (wrap (2 ^ 48 - 1)))) ∧
    (Issues s (.gsize d b sc w) [b] [d] [] [] → s.posted s.core w.toNat = false → ∀ l, s.launchAt s.me.id.lid = some l →
      gives (.gsize d b sc w) (match l.groups.find? (·.num == g) with
        | some e => if g ≤ 255 then wrap ((List.range e.gcnt).filter fun q => e.first + q * e.stride < l.count).length else 0
        | none => 0)) ∧
    (Issues s (.task a sc w) [a] [] [] [] → s.posted s.core w.toNat = false →
      ((s.src a).toNat ≤ s.packetLimit → ∃ t, exec (.task a sc w) s = .next t ∧ SlotOnly s t ∧ WindowKept s.me t.me [] [] ∧
        Advances s.me t.me ∧ t.me.needShadow = true ∧
        t.me.strand = s.me.strand.map fun x => { x with handle := (s.src a).setWidth 12 }) ∧
      (s.packetLimit < (s.src a).toNat → exec (.task a sc w) s = .next ((s.acting [a]).trap .prot (s.src a)))) ∧
    (Issues s (.inq d sc w) [] [d] [] [] → s.posted s.core w.toNat = false →
      gives (.inq d sc w) (wrap (64 * s.here.launches.length + s.here.inbox.length)))

end


namespace Sys2Proof.Statements

open Sys2Proof.Machine

/-! ## Vector instructions on rows (R84, R87, R190, R235, R297 to R304) -/

/-- The rows that an instruction names are rows of the strand's tiles (R84): the names are bound and are no streams, and no tile of
them is in error (R193) or in use by the engine (R200). -/
structure Names (s : State) (b : Binding) (names : List (BitVec 6)) : Prop where
  bound : s.binding = some b
  plain : ∀ n ∈ names, s.me.stream n = none
  sound : ∀ n ∈ names, (s.tileAt s.core (b.tile n)).err = false
  idle  : ∀ n ∈ names, s.here.usesTile (b.tile n) = false

/-- The rows that an instruction reads and writes are rows of the strand's tiles, and no float tile to be written has a full DRIFT, for
which a check comes first (R191). -/
structure Rows (s : State) (b : Binding) (reads writes : List (BitVec 6)) : Prop extends Names s b (reads ++ writes) where
  drift : ∀ n ∈ writes, tyFloat (s.tileAt s.core (b.tile n)).ty.toNat = false ∨ (s.tileAt s.core (b.tile n)).drift ≠ 255

/-- Lane `j` of a row of a type. -/
def lane (ty : Nat) (r : Row) (j : Nat) : Nat := r.toNat / 2 ^ (tyBits ty * j) % 2 ^ tyBits ty

/-- The lanes of a type to which written bytes of a row belong, in ascending order. -/
def lanesOn (ty : Nat) (on : Nat → Bool) : List Nat :=
  (List.range (tyLanes ty)).filter fun j => (List.range (tyBytes ty)).any fun k => on (tyBytes ty * j + k)

/-- The update of a sideband by one written row of a tile, whose rows after it are `rows` (R190), in the arithmetic of its type (R186):
the new sideband, and whether it was a delta update of a float tile. A lane's change is added to its column, and the sum of the
changes to the row. -/
def delta (ty : Nat) (mq : Moduli) (rows : List Row) (r : Nat) (old new : Row) (w : List Nat) (side : List XWord) : List XWord × Bool :=
  let o (j : Nat) := laneF32 ty (lane ty old j)
  let n (j : Nat) := laneF32 ty (lane ty new j)
  if tyFloat ty then
    if w.any fun j => nonFinite (o j) || nonFinite (n j) then
      (w.foldl (fun l j => putCol ty l j (formCol ty mq j (rows.map fun r => lane ty r j))) (putRow side r (formRow ty (rows.getD r 0))), false)
    else
      let d (j : Nat) := addF32 (n j) (o j ^^^ 2 ^ 31)
      let l := w.foldl (fun l j => putCol ty l j (addF32 (sideCol ty l j) (d j))) side
      (putRow l r (addF32 (sideRow l r) (w.foldl (fun a j => addF32 a (d j)) 0)), true)
  else if ty = 5 then
    let l := w.foldl (fun l j => putCol ty l j ((sideCol ty l j % mq.q j + n j % mq.q j + (mq.q j - o j % mq.q j)) % mq.q j)) side
    (putRow l r (((sideRow l r : Int) + w.foldl (fun a j => a + n j - o j) 0) % 2 ^ 64).toNat, false)
  else
    let d (j : Nat) := sx (tyBits ty) (n j) - sx (tyBits ty) (o j)
    let l := w.foldl (fun l j => putCol ty l j (((sideCol ty l j : Int) + d j) % 2 ^ colBits ty).toNat) side
    (putRow l r (((sideRow l r : Int) + w.foldl (fun a j => a + d j) 0) % 2 ^ 32).toNat, false)

/-- A tile after a vector instruction wrote its row `r`, of which the bytes `on` are written, and whether a delta update counts in
DRIFT. The sideband of a stale tile stays, and an MR64 one without moduli becomes stale (R186, R189, R190). -/
def rowTaken (mq : Moduli) (a : Tile × Bool) (r : Nat) (new : Row) (on : Nat → Bool) : Tile × Bool :=
  let x := { a.1 with rows := a.1.rows.set r new, prov := false }
  if a.1.stale = true ∨ a.1.ty = 5 ∧ mq = none then ({ x with stale := true }, a.2)
  else
    let l := delta x.ty.toNat mq x.rows r (a.1.rows.getD r 0) new (lanesOn x.ty.toNat on) x.side
    ({ x with side := l.1 }, a.2 || l.2)

/-- A tile after consecutive rows from row `k` on were written by one instruction: DRIFT grows by one for it (R190). -/
def rowsTaken (mq : Moduli) (x : Tile) (k : Nat) (rs : List (Row × (Nat → Bool))) : Tile :=
  let a := rs.zipIdx.foldl (fun a p => rowTaken mq a (k + p.2) p.1.1 p.1.2) (x, false)
  if a.2 then { a.1 with drift := min 255 (a.1.drift + 1) } else a.1

/-- The bytes of a row that the lane predicate of a slot lets a form of a type write (R235). -/
def enabledIn (v : Slot) (ty k : Nat) : Bool := v.lanes.getLsbD (k - k % tyBytes ty)

/-- The key under which a slot keeps the turn from which a bound row can be read: the row itself, by whatever name (R84, R231, R300). -/
def rowAt (b : Binding) (n : BitVec 6) : Nat := 64 + 32 * b.tile n + n.toNat % 32

/-- The turn from which a row can be read that was due in a turn and is written at another: one written in part waits for its older
producer too (R231, R300). -/
def rowTurn (on : Nat → Bool) (old : Option Nat) (due : Nat) : Nat := if (List.range 128).all on then due else max due (old.getD 0)

/-- An instruction wrote rows, each in some of its bytes, to the tile of a name, and of its core nothing else but its slot: the tile
takes the rows with their sideband and TKS, and every other tile and every window register are as before; the flags are ORed into FPC,
so many values are drawn, and the rows can be read from a turn on (R107, R189, R190, R231, R298). -/
structure TileRows (s t : State) (b : Binding) (d : BitVec 6) (rs : List (Row × (Nat → Bool))) (lat draws : Nat) (fl : Flags) : Prop where
  tiles  : ∀ k, k ≠ b.tile d → t.tileAt s.core k = s.tileAt s.core k
  tile   : t.tileAt s.core (b.tile d) = { rowsTaken s.me.mq (s.tileAt s.core (b.tile d)) (d.toNat % 32) rs with writer := s.me.pid }
  window : WindowKept s.me t.me [] []
  slot   : t.me = { s.me with
    lo := t.me.lo, hi := t.me.hi, ready := t.me.ready, fpc := raise s.me.fpc fl, rngCtr := s.me.rngCtr + BitVec.ofNat 64 draws,
    pc := t.me.pc, frame := t.me.frame, turnNext := t.me.turnNext, run := none }
  ready  : ∀ i (h : i < rs.length), let k := rowAt b (d + BitVec.ofNat 6 i)
    look k t.me.ready = some (rowTurn rs[i].2 (look k s.me.ready) (s.turn + lat))
  others : ∀ k, (∀ i, i < rs.length → k ≠ rowAt b (d + BitVec.ofNat 6 i)) → look k t.me.ready = look k s.me.ready
  pc     : Advances s.me t.me

/-- It wrote those rows and changed nothing else of the device: no memory, no other core. -/
structure RowsWritten (s t : State) (b : Binding) (d : BitVec 6) (rs : List (Row × (Nat → Bool))) (lat draws : Nat) (fl : Flags) : Prop where
  device : t = { s with cores := t.cores, clusters := t.clusters }
  others : OthersKept s t
  core   : t.here = { s.here with slots := t.here.slots, tiles := t.here.tiles }
  rows   : TileRows s t b d rs lat draws fl

/-- A row after an instruction: the enabled lanes hold the low bits of new values, the others what they held (R235, R298). -/
def LanesOf (on : BitVec 128) (ty : Nat) (old new : Row) (f : Nat → Nat) : Prop :=
  ∀ j, j < tyLanes ty → lane ty new j = if on.getLsbD (tyBytes ty * j) then f j % 2 ^ tyBits ty else lane ty old j

/-- The flags of the enabled lanes together. -/
def flagsOf (on : BitVec 128) (ty : Nat) (f : Nat → Flags) : Flags :=
  flagsAll ((List.range (tyLanes ty)).map fun j => if on.getLsbD (tyBytes ty * j) then f j else 0)

/-- A lane-by-lane instruction: the destination, the sources, whether the old destination is read too, its latency (R300), the types it
takes, and the value of a lane from the old lane and the source lanes under FPC. -/
structure LaneForm where
  d    : BitVec 6
  srcs : List (BitVec 6)
  acc  : Bool := false
  lat  : Nat
  ok   : Nat → Bool
  f    : Nat → BitVec 32 → Nat → Nat → Nat → Nat × Flags

/-- The rows it reads, in field order. -/
def LaneForm.reads (f : LaneForm) : List (BitVec 6) := if f.acc then f.d :: f.srcs else f.srcs

/-- An integer form of two sources, of a signed or unsigned value of any size. -/
def intLanes (lat : Nat) (d a b : BitVec 6) (f : Nat → Nat → Nat → Int) : LaneForm :=
  { d := d, srcs := [a, b], lat := lat, ok := fun ty => ty == 1 || ty == 3 || ty == 4, f := fun ty _ _ x y => ((f (tyBits ty) x y % 2 ^ tyBits ty).toNat, 0) }

/-- A value held between two bounds. -/
def within (lo hi v : Int) : Int := max lo (min hi v)

/-- The integer and logical instructions of R302. -/
def integerForm : Instr → Option LaneForm
  | .viadd d a b _ => some (intLanes 1 d a b fun w x y => sx w x + sx w y)
  | .visub d a b _ => some (intLanes 1 d a b fun w x y => sx w x - sx w y)
  | .viadds d a b _ => some (intLanes 1 d a b fun w x y => within (-(2 ^ (w - 1))) (2 ^ (w - 1) - 1) (sx w x + sx w y))
  | .visubs d a b _ => some (intLanes 1 d a b fun w x y => within (-(2 ^ (w - 1))) (2 ^ (w - 1) - 1) (sx w x - sx w y))
  | .viaddn d a b _ => some (intLanes 1 d a b fun w x y => within 0 (2 ^ w - 1) (x + y))
  | .visubn d a b _ => some (intLanes 1 d a b fun w x y => within 0 (2 ^ w - 1) ((x : Int) - y))
  | .vimul d a b _ => some (intLanes 2 d a b fun w x y => sx w x * sx w y)
  | .vimulh d a b _ => some (intLanes 2 d a b fun w x y => sx w x * sx w y / 2 ^ w)
  | .vimac d a b _ => some { intLanes 2 d a b (fun _ _ _ => 0) with
      acc := true, f := fun ty _ o x y => (((sx (tyBits ty) o + sx (tyBits ty) x * sx (tyBits ty) y) % 2 ^ tyBits ty).toNat, 0) }
  | .vimin d a b _ => some (intLanes 1 d a b fun w x y => min (sx w x) (sx w y))
  | .vimax d a b _ => some (intLanes 1 d a b fun w x y => max (sx w x) (sx w y))
  | .viminn d a b _ => some (intLanes 1 d a b fun _ x y => min x y)
  | .vimaxn d a b _ => some (intLanes 1 d a b fun _ x y => max x y)
  | .vshl d a b _ => some (intLanes 1 d a b fun w x y => if w ≤ y then 0 else x * 2 ^ y)
  | .vshr d a b _ => some (intLanes 1 d a b fun w x y => if w ≤ y then 0 else x / 2 ^ y)
  | .vsar d a b _ => some (intLanes 1 d a b fun w x y => sx w x / 2 ^ min y w)
  | .vand d a b _ => some { intLanes 1 d a b (fun _ x y => (x &&& y : Nat)) with ok := (· != 5) }
  | .vor d a b _ => some { intLanes 1 d a b (fun _ x y => (x ||| y : Nat)) with ok := (· != 5) }
  | .vxor d a b _ => some { intLanes 1 d a b (fun _ x y => (x ^^^ y : Nat)) with ok := (· != 5) }
  | _ => none

/-- The encoding of a float lane's type as a value of R92. -/
def floatLane (ty x : Nat) : Fp := if ty = 0 then decode32 x else decode16 x

/-- A float form: the exact result of two sources and the old lane, rounded once into the lane's format. -/
def floatLanes (lat : Nat) (d : BitVec 6) (l : List (BitVec 6)) (f : Mode → Fp → Fp → Fp → Fp × Bool × Flags) : LaneForm :=
  { d := d, srcs := l, lat := lat, ok := fun ty => ty == 0 || ty == 2,
    f := fun ty fpc o x y =>
      let r := f (modeOf fpc) (floatLane ty o) (floatLane ty x) (floatLane ty y)
      let e := encodeFloat (if ty = 0 then fp32 else bf16) (modeOf fpc) r.2.1 r.1
      (e.1, r.2.2 ||| e.2) }

/-- An exact result with the flags of its operation. -/
def ex (r : Fp × Flags) : Fp × Bool × Flags := (r.1, false, r.2)

/-- The float instructions of R301 and R308. -/
def floatForm : Instr → Option LaneForm
  | .vadd d a b _ => some (floatLanes 2 d [a, b] fun m _ x y => ex (addFp m x y))
  | .vsub d a b _ => some (floatLanes 2 d [a, b] fun m _ x y => ex (addFp m x y.flip))
  | .vmul d a b _ => some (floatLanes 3 d [a, b] fun _ _ x y => ex (mulFp x y))
  | .vfma d a b _ => some { floatLanes 3 d [a, b] (fun m o x y => ex (fmaFp m x y o)) with acc := true }
  | .vfms d a b _ => some { floatLanes 3 d [a, b] (fun m o x y => ex (fmaFp m x.flip y o)) with acc := true }
  | .vmin d a b _ => some (floatLanes 2 d [a, b] fun _ _ x y => ex (minFp x y))
  | .vmax d a b _ => some (floatLanes 2 d [a, b] fun _ _ x y => ex (maxFp x y))
  | .vabs d a _ => some (floatLanes 2 d [a] fun _ _ x _ =>
      (match x with | .fin _ m e => .fin false m e | .inf _ => .inf false | .nan q => .nan q, false, 0))
  | .vneg d a _ => some (floatLanes 2 d [a] fun _ _ x _ => (x.flip, false, 0))
  | .vdiv d a b _ => some (floatLanes 6 d [a, b] fun _ _ x y => divFp x y)
  | .vsqrt d a _ => some (floatLanes 6 d [a] fun _ _ x _ => sqrtFp x)
  | .vexp2 d a _ => some (floatLanes 4 d [a] fun _ _ x _ => special 0 x)
  | .vlog2 d a _ => some (floatLanes 4 d [a] fun _ _ x _ => special 1 x)
  | .vrcp d a _ => some (floatLanes 4 d [a] fun _ _ x _ => special 2 x)
  | .vrsqrt d a _ => some (floatLanes 4 d [a] fun _ _ x _ => special 3 x)
  | .vsin d a _ => some (floatLanes 4 d [a] fun _ _ x _ => special 4 x)
  | .vcos d a _ => some (floatLanes 4 d [a] fun _ _ x _ => special 5 x)
  | .vtanh d a _ => some (floatLanes 4 d [a] fun _ _ x _ => special 6 x)
  | .vexp d a _ => some (floatLanes 4 d [a] fun _ _ x _ => special 7 x)
  | .vlse d a b _ => some (floatLanes 6 d [a, b] fun _ _ x y => specialLse x y)
  | _ => none

/-- A lane-by-lane instruction that issues completes: each enabled lane of the destination takes the value of the form, every other
lane, row, register and byte is as before, and the flags of the enabled lanes are ORed into FPC. -/
def LanewiseResult (i : Instr) (f : LaneForm) (s : State) : Prop :=
  ∀ b, Rows s b f.reads [f.d] → (∀ n ∈ f.srcs, b.ty n = b.ty f.d) → f.ok (b.ty f.d) = true → Issues s i [] [] [] f.reads →
    let ty := b.ty f.d
    let row (k : Nat) := (f.srcs[k]?.map s.nameRow).getD 0
    let v (j : Nat) := f.f ty s.me.fpc (lane ty (s.nameRow f.d) j) (lane ty (row 0) j) (lane ty (row 1) j)
    ∃ t r, exec i s = .next t ∧ RowsWritten s t b f.d [(r, enabledIn s.me ty)] f.lat 0 (flagsOf s.me.lanes ty fun j => (v j).2) ∧
      LanesOf s.me.lanes ty (s.nameRow f.d) r fun j => (v j).1

end Sys2Proof.Statements

section
open Sys2Proof Machine Statements

/-- R302 and R298: in each enabled lane the sum, difference, product, saturated or extreme value, shift or logical combination
that the rule gives, with the width of the type; a form on rows that issues completes, writes one row, keeps the tile's sideband,
STALE, DRIFT and PROV as R189 and R190 say, lets the row be read after its latency, changes FPC in no bit and nothing else. -/
def Obligations.IntegerLanes : Prop :=
  ∀ (i : Instr) (f : LaneForm) (s : State), integerForm i = some f → LanewiseResult i f s

end

section
open Sys2Proof Machine Statements

/-- R301, R308 and R298: in each enabled lane the exact result of the operation rounded once into the lane's format under FPC.RM,
its flags ORed into FPC; a form on rows that issues completes, writes one row, keeps the tile's sideband, STALE, DRIFT and PROV as
R189 and R190 say, lets the row be read after its latency, and changes nothing else. -/
def Obligations.FloatLanes : Prop :=
  ∀ (i : Instr) (f : LaneForm) (s : State), floatForm i = some f → LanewiseResult i f s

end


namespace Sys2Proof.Statements

open Sys2Proof.Machine

/-- A comparison of two rows: its sources, the types it takes, the truth of a lane, and the flags of a lane. -/
structure CompareForm where
  a    : BitVec 6
  b    : BitVec 6
  ok   : Nat → Bool
  f    : Nat → Nat → Nat → Bool
  flag : Nat → Nat → Nat → Flags := fun _ _ _ => 0

/-- A float comparison; a quiet one raises NV for a signalling NaN only, the others for every NaN (R303). -/
def floatCompare (a b : BitVec 6) (quiet : Bool) (f : Fp → Fp → Bool) : CompareForm :=
  { a := a, b := b, ok := fun ty => ty == 0 || ty == 2, f := fun ty x y => f (floatLane ty x) (floatLane ty y),
    flag := fun ty x y =>
      let p := floatLane ty x
      let q := floatLane ty y
      if (if quiet then p.isSignal || q.isSignal else p.isNan || q.isNan) then flagNV else 0 }

/-- An integer comparison. -/
def intCompare (a b : BitVec 6) (f : Nat → Nat → Nat → Bool) : CompareForm :=
  { a := a, b := b, ok := fun ty => ty == 1 || ty == 3 || ty == 4, f := fun ty x y => f (tyBits ty) x y }

/-- The comparisons of R303. -/
def compareOf : Instr → Option CompareForm
  | .vcmpEq a b _ => some (floatCompare a b true eqFp)
  | .vcmpNe a b _ => some (floatCompare a b true fun x y => !eqFp x y)
  | .vcmpLt a b _ => some (floatCompare a b false ltFp)
  | .vcmpLe a b _ => some (floatCompare a b false fun x y => ltFp x y || eqFp x y)
  | .vcmpUn a b _ => some (floatCompare a b true fun x y => x.isNan || y.isNan)
  | .vicmpEq a b _ => some (intCompare a b fun _ x y => decide (x = y))
  | .vicmpLt a b _ => some (intCompare a b fun w x y => decide (sx w x < sx w y))
  | .vicmpLtn a b _ => some (intCompare a b fun _ x y => decide (x < y))
  | _ => none

/-- An instruction replaced the lane predicate of its slot and raised flags, and changed nothing else but its pc. -/
def PredicateReplaced (s t : State) (p : BitVec 128) (fl : Flags) : Prop :=
  SlotOnly s t ∧ WindowKept s.me t.me [] [] ∧ Advances s.me t.me ∧
    t.me = { s.me with lo := t.me.lo, hi := t.me.hi, lanes := p, fpc := raise s.me.fpc fl, pc := t.me.pc, frame := t.me.frame,
                       turnNext := t.me.turnNext, run := none }

end Sys2Proof.Statements

section
open Sys2Proof Machine Statements

/-- R303 and R304: a comparison gives the bytes of every lane, enabled or not, the truth of its comparison, and the lanes enabled
before raise the flags; vmsk enables the lanes whose bits are nonzero, and vmskall every lane; none of them changes anything else.
-/
def Sys2Proof.Statements.VectorCompares : Prop :=
  ∀ (s : State) (b : Binding),
    (∀ (i : Instr) (f : CompareForm), compareOf i = some f → Rows s b [f.a, f.b] [] → b.ty f.b = b.ty f.a → f.ok (b.ty f.a) = true →
      Issues s i [] [] [] [f.a, f.b] →
      let ty := b.ty f.a
      ∃ t p, exec i s = .next t ∧ PredicateReplaced s t p
          (flagsOf s.me.lanes ty fun j => f.flag ty (lane ty (s.nameRow f.a) j) (lane ty (s.nameRow f.b) j)) ∧
        ∀ k, k < 128 → p.getLsbD k = f.f ty (lane ty (s.nameRow f.a) (k / tyBytes ty)) (lane ty (s.nameRow f.b) (k / tyBytes ty))) ∧
    (∀ (a : BitVec 6) (t3 : BitVec 3), Rows s b [a] [] → Issues s (.vmsk a t3) [] [] [] [a] →
      ∃ t p, exec (.vmsk a t3) s = .next t ∧ PredicateReplaced s t p 0 ∧
        ∀ k, k < 128 → p.getLsbD k = decide (lane (b.ty a) (s.nameRow a) (k / tyBytes (b.ty a)) ≠ 0)) ∧
    (∀ t3 : BitVec 3, Issues s (.vmskall t3) [] [] [] [] →
      ∃ t, exec (.vmskall t3) s = .next t ∧ PredicateReplaced s t (BitVec.allOnes 128) 0)

end


namespace Sys2Proof.Statements

open Sys2Proof.Machine

/-! ## Moves, permutations and draws (R302, R312, R320 to R322) -/

/-- A move of raw lanes between rows of one type: its destination, its source, the lane that each lane takes, and the condition on the
number of lanes. -/
structure MoveForm where
  d    : BitVec 6
  a    : BitVec 6
  ok   : Nat → Bool := fun _ => true
  source : Nat → Nat → Nat

/-- The permutations of R312 that read one row: the butterfly stage, which exchanges index bits 0 and k, and the reversal. -/
def moveOf : Instr → Option MoveForm
  | .vbst d a k _ => some {
    d := d, a := a, ok := fun l => decide (2 ^ k.toNat < l),
    source := fun _ j => if j % 2 = j / 2 ^ k.toNat % 2 then j else if j % 2 = 1 then j - 1 + 2 ^ k.toNat else j + 1 - 2 ^ k.toNat }
  | .vrev d a _ => some { d := d, a := a, source := fun l j => l - 1 - j }
  | _ => none

end Sys2Proof.Statements

section
open Sys2Proof Machine Statements

/-- R302, R312 and R320: the permutations take for each enabled lane the lane of va that their rule names; vsel takes every lane,
from va where it is enabled and from vb elsewhere; vbcast gives each enabled lane the low bits of a scalar; vmov moves raw bytes;
vext delivers one lane as a scalar, or zero past the last; each row written keeps its tile's sideband as R190 says. -/
def Sys2Proof.Statements.LaneMoves : Prop :=
  ∀ (s : State) (b : Binding) (d a c : BitVec 6) (ra rd : BitVec 5) (t3 : BitVec 3),
    (∀ (i : Instr) (f : MoveForm), moveOf i = some f → Rows s b [f.a] [f.d] → b.ty f.a = b.ty f.d → f.ok (tyLanes (b.ty f.d)) = true →
      Issues s i [] [] [] [f.a] → ∃ t r, exec i s = .next t ∧ RowsWritten s t b f.d [(r, enabledIn s.me (b.ty f.d))] 1 0 0 ∧
        LanesOf s.me.lanes (b.ty f.d) (s.nameRow f.d) r fun j =>
          lane (b.ty f.d) (s.nameRow f.a) (f.source (tyLanes (b.ty f.d)) j)) ∧
    (Rows s b [a, c] [d] → b.ty a = b.ty d → tyLanes (b.ty d) ≤ tyLanes (b.ty c) → Issues s (.vshuf d a c t3) [] [] [] [a, c] →
      ∃ t r, exec (.vshuf d a c t3) s = .next t ∧ RowsWritten s t b d [(r, enabledIn s.me (b.ty d))] 1 0 0 ∧
        LanesOf s.me.lanes (b.ty d) (s.nameRow d) r fun j =>
          lane (b.ty d) (s.nameRow a) (lane (b.ty c) (s.nameRow c) j % tyLanes (b.ty d))) ∧
    (Rows s b [a, c] [d] → b.ty a = b.ty d → b.ty c = b.ty d → Issues s (.vsel d a c t3) [] [] [] [a, c] →
      ∃ t r, exec (.vsel d a c t3) s = .next t ∧ RowsWritten s t b d [(r, fun _ => true)] 1 0 0 ∧
        LanesOf s.me.lanes (b.ty d) (s.nameRow c) r fun j => lane (b.ty d) (s.nameRow a) j) ∧
    (Rows s b [] [d] → Issues s (.vbcast d ra t3) [ra] [] [] [] →
      ∃ t r, exec (.vbcast d ra t3) s = .next t ∧ RowsWritten s t b d [(r, enabledIn s.me (b.ty d))] 1 0 0 ∧
        LanesOf s.me.lanes (b.ty d) (s.nameRow d) r fun _ => (s.src ra).toNat) ∧
    (Rows s b [a] [d] → Issues s (.vmov d a t3) [] [] [] [a] →
      ∃ t r, exec (.vmov d a t3) s = .next t ∧ RowsWritten s t b d [(r, enabledIn s.me (b.ty d))] 1 0 0 ∧
        LanesOf s.me.lanes (b.ty d) (s.nameRow d) r fun j => lane (b.ty d) (s.nameRow a) j) ∧
    (Rows s b [a] [] → Issues s (.vext rd a ra t3) [ra] [rd] [] [a] →
      ∃ t, exec (.vext rd a ra t3) s = .next t ∧ SlotOnly s t ∧ ScalarOnly s.me t.me ∧ WindowKept s.me t.me [rd] [] ∧ Advances s.me t.me ∧
        Delivered s.me t.me s.now rd
          (if tyLanes (b.ty a) ≤ (s.src ra).toNat then 0
           else if b.ty a = 1 ∨ b.ty a = 3 ∨ b.ty a = 4 then wrap (sx (tyBits (b.ty a)) (lane (b.ty a) (s.nameRow a) (s.src ra).toNat))
           else wrap (lane (b.ty a) (s.nameRow a) (s.src ra).toNat)) false 1)

end

section
open Sys2Proof Machine Statements

/-- R303 and R304: a comparison gives the bytes of every lane, enabled or not, the truth of its comparison, and the lanes enabled
before raise the flags; vmsk enables the lanes whose bits are nonzero, and vmskall every lane; none of them changes anything else.
R302, R312 and R320: the permutations take for each enabled lane the lane of va that their rule names; vsel takes every lane, from
va where it is enabled and from vb elsewhere; vbcast gives each enabled lane the low bits of a scalar; vmov moves raw bytes; vext
delivers one lane as a scalar, or zero past the last; each row written keeps its tile's sideband as R190 says. -/
def Obligations.ComparesAndMoves : Prop :=
  Statements.VectorCompares ∧ Statements.LaneMoves

end


namespace Sys2Proof.Statements

open Sys2Proof.Machine

/-- The generator of R321 at a counter. -/
def mixed (key ctr : XWord) : XWord :=
  let a := key + ctr * 0x9E3779B97F4A7C15
  let b := (a ^^^ (a >>> 30)) * 0xBF58476D1CE4E5B9
  let c := (b ^^^ (b >>> 27)) * 0x94D049BB133111EB
  c ^^^ (c >>> 31)

end Sys2Proof.Statements

section
open Sys2Proof Machine Statements

/-- R321 and R322: vrand fills the enabled lanes of a row from sixteen draws of the slot's generator and advances its counter by
16; vseed sets the key to ra and the counter to rb·2^16. -/
def Sys2Proof.Statements.RandomDraws : Prop :=
  ∀ (s : State) (b : Binding) (d : BitVec 6) (x y : BitVec 5) (t3 : BitVec 3),
    (Rows s b [] [d] → Issues s (.vrand d t3) [] [] [] [] →
      ∃ t r q, exec (.vrand d t3) s = .next t ∧ RowsWritten s t b d [(r, enabledIn s.me (b.ty d))] 1 16 0 ∧
        (∀ k, k < 16 → lane 5 q k = (mixed s.me.rngKey (s.me.rngCtr + BitVec.ofNat 64 k)).toNat) ∧
        LanesOf s.me.lanes (b.ty d) (s.nameRow d) r fun j => lane (b.ty d) q j) ∧
    (Issues s (.vseed x y t3) [x, y] [] [] [] →
      ∃ t, exec (.vseed x y t3) s = .next t ∧ SlotOnly s t ∧ WindowKept s.me t.me [] [] ∧ Advances s.me t.me ∧
        t.me = { s.me with lo := t.me.lo, hi := t.me.hi, rngKey := (s.src x).setWidth 64,
                           rngCtr := BitVec.ofNat 64 ((s.src y).toNat * 2 ^ 16), pc := t.me.pc, frame := t.me.frame,
                           turnNext := t.me.turnNext, run := none })

end


namespace Sys2Proof.Statements

open Sys2Proof.Machine

/-! ## Reductions (R115, R319) -/

/-- A reduction: its destination and source, the neutral encoding and the binary32 operation of the float types, and what a result of
the integer types must be for the enabled lanes' signed values. -/
structure ReduceForm where
  d       : BitVec 5
  a       : BitVec 6
  neutral : Nat
  op      : Mode → Fp → Fp → Fp × Flags
  is      : List Int → Int → Prop

/-- The reductions of R319 with the neutral values of R115. -/
def reduceOf : Instr → Option ReduceForm
  | .vrsum d a _ => some ⟨d, a, 0, addFp, fun l v => v = l.sum⟩
  | .vrmax d a _ => some ⟨d, a, 0xFF800000, fun _ x y => maxFp x y, fun l v => v ∈ l ∧ ∀ x ∈ l, x ≤ v⟩
  | .vrmin d a _ => some ⟨d, a, 0x7F800000, fun _ x y => minFp x y, fun l v => v ∈ l ∧ ∀ x ∈ l, v ≤ x⟩
  | .vrprod d a _ => some ⟨d, a, 0x3F800000, fun _ x y => mulFp x y, fun l v => v = l.prod⟩
  | _ => none

/-- One combination of two binary32 encodings, rounded in a mode, with the flags so far. -/
def combine (op : Mode → Fp → Fp → Fp × Flags) (m : Mode) (p q : Nat × Flags) : Nat × Flags :=
  let r := op m (decode32 p.1) (decode32 q.1)
  let e := encodeFloat fp32 m false r.1
  (e.1, p.2 ||| q.2 ||| r.2 ||| e.2)

/-- The fixed tree of R115: neighbours are combined, level by level, until one value is left. -/
def levels {α : Type} (f : α → α → α) : Nat → List α → List α
  | 0, l => l
  | n + 1, l => levels f n (pairUp f l)

/-- A reduction delivered a scalar in three turns and raised flags; beside them and a counter of free values nothing changed. -/
def Reduced (s t : State) (d : BitVec 5) (v : Word) (fl : Flags) : Prop :=
  t = { s with cores := t.cores, clusters := t.clusters, free := t.free } ∧ OthersKept s t ∧
    t.here = { s.here with slots := t.here.slots } ∧ Delivered s.me t.me s.now d v false 3 ∧ WindowKept s.me t.me [d] [] ∧
    t.me.fpc = raise s.me.fpc fl ∧ Advances s.me t.me

end Sys2Proof.Statements

section
open Sys2Proof Machine Statements

/-- R319 and R115: a float reduction combines the lanes as binary32 in the fixed tree, disabled lanes standing for the neutral
value, and delivers the encoding; an integer reduction delivers mod 2^48 the sum, product, greatest or least signed value of the
enabled lanes; with every lane disabled an integer maximum or minimum has no value the rule states, and the form completes all the
same (log entry 11). -/
def Sys2Proof.Statements.Reductions : Prop :=
  ∀ (i : Instr) (f : ReduceForm) (s : State) (b : Binding), reduceOf i = some f → Rows s b [f.a] [] → b.ty f.a ≠ 5 →
    Issues s i [] [f.d] [] [f.a] →
    let ty := b.ty f.a
    let on (j : Nat) := s.me.lanes.getLsbD (tyBytes ty * j)
    let x (j : Nat) := lane ty (s.nameRow f.a) j
    let ints := (List.range (tyLanes ty)).filterMap fun j => if on j then some (sx (tyBits ty) (x j)) else none
    let floats := (List.range (tyLanes ty)).map fun j => ((if on j then if ty = 2 then x j * 65536 else x j else f.neutral), (0 : Flags))
    ((ty = 0 ∨ ty = 2) → ∀ r, levels (combine f.op (modeOf s.me.fpc)) 7 floats = [r] →
      ∃ t, exec i s = .next t ∧ Reduced s t f.d (wrap r.1) r.2) ∧
    ((ty = 1 ∨ ty = 3 ∨ ty = 4) → ∀ v, f.is ints v → ∃ t, exec i s = .next t ∧ Reduced s t f.d (wrap v) 0) ∧
    ((ty = 1 ∨ ty = 3 ∨ ty = 4) → ints = [] → ∃ t v, exec i s = .next t ∧ Reduced s t f.d v 0)

end

section
open Sys2Proof Machine Statements

/-- R321 and R322: vrand fills the enabled lanes of a row from sixteen draws of the slot's generator and advances its counter by
16; vseed sets the key to ra and the counter to rb·2^16. R319 and R115: a float reduction combines the lanes as binary32 in the
fixed tree, disabled lanes standing for the neutral value, and delivers the encoding; an integer reduction delivers mod 2^48 the
sum, product, greatest or least signed value of the enabled lanes; with every lane disabled an integer maximum or minimum has no
value the rule states, and the form completes all the same (log entry 11). -/
def Obligations.DrawsAndReductions : Prop :=
  Statements.RandomDraws ∧ Statements.Reductions

end


namespace Sys2Proof.Statements

open Sys2Proof.Machine

/-! ## Conversions (R105, R305 to R307) -/

/-- A conversion by elements: its rows, the source and destination types it takes, its latency beyond two turns, whether it draws under SR, and the conversion of
element `k` in a mode for a slot. -/
structure ConvForm where
  d  : BitVec 6
  a  : BitVec 6
  ok : Nat → Nat → Bool
  more : Slot → Nat := fun _ => 0
  sr : Nat → Bool := fun _ => false
  f  : Slot → Nat → Nat → Mode → Nat → Nat → Nat × Flags

/-- An integer or float type. -/
def isInt (ty : Nat) : Bool := ty == 1 || ty == 3 || ty == 4
def isFloat (ty : Nat) : Bool := ty == 0 || ty == 2

/-- The conversions of R306 that treat each element for itself. -/
def convOf : Instr → Option ConvForm
  | .vcvtBf d a _ => some {
      d := d, a := a, ok := fun x y => x == 0 && y == 2, sr := fun _ => true,
      f := fun _ _ _ m _ x => encodeFloat bf16 m false (decode32 x) }
  | .vcvtF8 d a _ => some {
      d := d, a := a, ok := fun x y => isFloat x && y == 4, sr := fun _ => true,
      f := fun v ty _ m _ x => encode8 m (satF8 v.fpc) (floatLane ty x) }
  | .vcvtF32 d a 0 _ => some { d := d, a := a, ok := fun x y => x == 2 && y == 0, f := fun _ _ _ m _ x => encodeFloat fp32 m false (decode16 x) }
  | .vcvtFlt d a _ => some {
      d := d, a := a, ok := fun x y => isInt x && isFloat y, sr := fun y => y == 2,
      f := fun _ ty td m _ x => encodeFloat (if td = 0 then fp32 else bf16) m false (ofInt (sx (tyBits ty) x)) }
  | .vcvtInt d a _ => some {
      d := d, a := a, ok := fun x y => isFloat x && isInt y,
      f := fun _ ty td m _ x =>
        let r := toIntSat m (-(2 ^ (tyBits td - 1))) (2 ^ (tyBits td - 1) - 1) (floatLane ty x)
        ((r.1 % 2 ^ tyBits td).toNat, r.2) }
  | .vnarrow d a _ => some {
      d := d, a := a, ok := fun x y => isInt x && isInt y && x != y,
      f := fun _ ty td _ _ x => ((sx (tyBits ty) x % 2 ^ tyBits td).toNat, 0) }
  | .vnarrows d a _ => some {
      d := d, a := a, ok := fun x y => isInt x && isInt y && x != y,
      f := fun _ ty td _ _ x => ((within (-(2 ^ (tyBits td - 1))) (2 ^ (tyBits td - 1) - 1) (sx (tyBits ty) x) % 2 ^ tyBits td).toNat, 0) }
  | .vcvtMr d a _ => some {
      d := d, a := a, ok := fun x y => isInt x && y == 5, more := fun v => v.muLatency,
      f := fun v ty _ _ k x => ((sx (tyBits ty) x % (v.mq.q (k % 16) : Int)).toNat, 0) }
  | _ => none

/-- The names of consecutive rows. -/
def names (n : BitVec 6) (k : Nat) : List (BitVec 6) := (List.range k).map fun i => n + BitVec.ofNat 6 i

end Sys2Proof.Statements

section
open Sys2Proof Machine Statements

/-- R305 and R306: element k of the rows from va is converted in RM, under SR where permitted with a draw of its own in ascending
k, and written to lane k mod L of row k / L from vd where that lane is enabled; only enabled elements raise flags; vcvt.mr needs
valid moduli. -/
def Sys2Proof.Statements.Conversions : Prop :=
  ∀ (i : Instr) (f : ConvForm) (s : State) (b : Binding), convOf i = some f → Rows s b [f.a] [f.d] → f.ok (b.ty f.a) (b.ty f.d) = true →
    let ty := b.ty f.a
    let td := b.ty f.d
    let n := max (tyLanes ty) (tyLanes td)
    let drawn := f.sr td && stochastic s.me.fpc
    let mode (k : Nat) := if drawn then .sr ((mixed s.me.rngKey (s.me.rngCtr + BitVec.ofNat 64 k)).toNat % 65536) else modeOf s.me.fpc
    let x (k : Nat) := lane ty (s.nameRow (f.a + BitVec.ofNat 6 (k / tyLanes ty))) (k % tyLanes ty)
    let v (k : Nat) := f.f s.me ty td (mode k) k (x k)
    let on (k : Nat) := s.me.lanes.getLsbD (tyBytes td * (k % tyLanes td))
    f.a.toNat % (n / tyLanes ty) = 0 → f.d.toNat % (n / tyLanes td) = 0 → (td = 5 → s.me.mqValid = true ∧ s.me.modLoaded = true) →
    Issues s i [] [] [] (names f.a (n / tyLanes ty)) →
    ∃ (t : State) (rs : List Row), exec i s = .next t ∧ rs.length = n / tyLanes td ∧
      RowsWritten s t b f.d (rs.map (·, enabledIn s.me td)) (2 + f.more s.me) (if drawn then n else 0) (flagsAll ((List.range n).map fun k => if on k then (v k).2 else 0)) ∧
      (∀ k, k < n → lane td (rs.getD (k / tyLanes td) 0) (k % tyLanes td) =
        if on k then (v k).1 % 2 ^ tyBits td else lane td (s.nameRow (f.d + BitVec.ofNat 6 (k / tyLanes td))) (k % tyLanes td))

end

section
open Sys2Proof Machine Statements

/-- R307: vcvt.f32 reads the FP8 or C4 elements of an S8 row, as FMT.AFMT names them, exactly, and writes and raises flags in the
enabled lanes only. vcvt.kb8 and vcvt.kb4, and vcvt.f32 from KB8 or KB4 elements, need operands of three types, and a binding's
two halves give their names two (R84, R297): each of them takes ILLEGAL with EVA the instruction word, in every state in which no
older access is awaited (log entry 90). -/
def Sys2Proof.Statements.BlockConversions : Prop :=
  ∀ (s : State) (d a c : BitVec 6) (t3 : BitVec 3), s.me.awaits = [] →
    ((Instr.vcvtKb8 d a c t3).WellFormed → exec (.vcvtKb8 d a c t3) s = .next (s.trap .illegal ((encode (.vcvtKb8 d a c t3)).setWidth 48))) ∧
    ((Instr.vcvtKb4 d a c t3).WellFormed → exec (.vcvtKb4 d a c t3) s = .next (s.trap .illegal ((encode (.vcvtKb4 d a c t3)).setWidth 48))) ∧
    ((Instr.vcvtF32 d a c t3).WellFormed → (s.me.fmt.toNat % 16 = 2 ∨ s.me.fmt.toNat % 16 = 3) → (∀ b, s.binding = some b → b.ty a ≠ 2) →
      exec (.vcvtF32 d a c t3) s = .next (s.trap .illegal ((encode (.vcvtF32 d a c t3)).setWidth 48))) ∧
    (∀ (b : Binding) (fmt : Nat), s.me.fmt.toNat % 16 = fmt → s.me.fmt.toNat < 2 ^ 20 → b.ty a = 4 → b.ty d = 0 → Rows s b [a] [d] →
      (fmt = 1 ∨ fmt = 5 ∧ (s.here.seen s.now).tagCheck (s.me.fmt.toNat / 256 % 4096) s.me.pid = none) →
      let n := if fmt = 5 then 256 else 128
      let raw (k : Nat) := if fmt = 5 then (s.nameRow a).toNat / 16 ^ k % 16 else (s.nameRow a).toNat / 256 ^ k % 256
      let v (k : Nat) := encodeFloat fp32 .rne false (if fmt = 5 then ofInt (c4Value (s.here.seen s.now).lut (raw k)) else floatElem 1 0 (k % 32) (raw k))
      d.toNat % (n / 32) = 0 → Issues s (.vcvtF32 d a 0 t3) [] [] [] [a] →
      ∃ (t : State) (rs : List Row), exec (.vcvtF32 d a 0 t3) s = .next t ∧ rs.length = n / 32 ∧
        RowsWritten s t b d (rs.map (·, enabledIn s.me 0)) 2 0 (flagsAll ((List.range n).map fun k => if s.me.lanes.getLsbD (4 * (k % 32)) then (v k).2 else 0)) ∧
        ∀ k, k < n → lane 0 (rs.getD (k / 32) 0) (k % 32) = if s.me.lanes.getLsbD (4 * (k % 32)) then (v k).1 % 2 ^ 32
          else lane 0 (s.nameRow (d + BitVec.ofNat 6 (k / 32))) (k % 32))

end

section
open Sys2Proof Machine Statements

/-- R305 and R306: element k of the rows from va is converted in RM, under SR where permitted with a draw of its own in ascending
k, and written to lane k mod L of row k / L from vd where that lane is enabled; only enabled elements raise flags; vcvt.mr needs
valid moduli. R307: vcvt.f32 reads the FP8 or C4 elements of an S8 row, as FMT.AFMT names them, exactly, and writes and raises
flags in the enabled lanes only. vcvt.kb8 and vcvt.kb4, and vcvt.f32 from KB8 or KB4 elements, need operands of three types, and a
binding's two halves give their names two (R84, R297): each of them takes ILLEGAL with EVA the instruction word, in every state in
which no older access is awaited (log entry 90). -/
def Obligations.AllConversions : Prop :=
  Statements.Conversions ∧ Statements.BlockConversions

end


namespace Sys2Proof.Statements

open Sys2Proof.Machine

/-! ## Modular arithmetic (R103, R309 to R311) -/

/-- A form on the residue lanes: its rows, whether it reads the old destination, its latency with canonical μ (R300), and its result before the last reduction: from the
reduced old lane and source lanes, or for a butterfly from the values of the pair. -/
structure ModForm where
  d    : BitVec 6
  srcs : List (BitVec 6)
  acc  : Bool := false
  bfly : Bool := false
  lat  : Nat
  f    : Nat → Int → Int → Int → Int

/-- The forms of R309 and R311. A butterfly's lane `j` is given its parity and x, y and w of its pair. -/
def modOf : Instr → Option ModForm
  | .vmadd d a b _ => some { d := d, srcs := [a, b], lat := 2, f := fun _ _ x y => x + y }
  | .vmsub d a b _ => some { d := d, srcs := [a, b], lat := 2, f := fun _ _ x y => x - y }
  | .vmmul d a b _ => some { d := d, srcs := [a, b], lat := 4, f := fun _ _ x y => x * y }
  | .vmmac d a b _ => some { d := d, srcs := [a, b], lat := 4, acc := true, f := fun _ o x y => o + x * y }
  | .vmneg d a _ => some { d := d, srcs := [a], lat := 2, f := fun _ _ x _ => -x }
  | .bflyCt d a b _ => some { d := d, srcs := [a, b], lat := 4, bfly := true, f := fun p x y w => if p = 0 then x + w * y else x - w * y }
  | .bflyGs d a b _ => some { d := d, srcs := [a, b], lat := 4, bfly := true, f := fun p x y w => if p = 0 then x + y else (x - y) * w }
  | _ => none

/-- The modulus of a lane (R89). -/
def modulus (v : Slot) (j : Nat) : Nat := ((v.moduli[j]?).map fun p => p.1.toNat).getD 1

/-- Every lane's μ is the canonical one, ⌊2^(2b) / q⌋ with b the bit length of q (R300, R310). -/
def muCanonical (v : Slot) : Bool := v.moduli.all fun p => p.2.toNat == 2 ^ (2 * (Nat.log 2 p.1.toNat + 1)) / p.1.toNat

/-- The lane moduli are loaded and valid: odd, at least 3, below 2^62 (R89, R310). -/
def ModuliReady (v : Slot) : Prop :=
  v.mqValid = true ∧ v.modLoaded = true ∧ ∀ j, j < 16 → modulus v j % 2 = 1 ∧ 3 ≤ modulus v j ∧ modulus v j < 2 ^ 62

end Sys2Proof.Statements

section
open Sys2Proof Machine Statements

/-- R309, R311 and R103: with valid moduli, every enabled residue lane takes the form's value modulo its q, each operand first
reduced; a butterfly's twiddle is the odd lane of vb; no flag is raised; a lane whose μ is not canonical adds four turns to the
latency. -/
def Sys2Proof.Statements.ModularForms : Prop :=
  ∀ (i : Instr) (f : ModForm) (s : State) (b : Binding), modOf i = some f → ModuliReady s.me →
    Rows s b (if f.acc then f.d :: f.srcs else f.srcs) [f.d] → b.ty f.d = 5 → (∀ n ∈ f.srcs, b.ty n = 5) →
    Issues s i [] [] [] (if f.acc then f.d :: f.srcs else f.srcs) →
    let row (k : Nat) := (f.srcs[k]?.map s.nameRow).getD 0
    let red (r : Row) (k j : Nat) : Int := (lane 5 r k % modulus s.me j : Nat)
    let v (j : Nat) : Int := if f.bfly then f.f (j % 2) (red (row 0) (2 * (j / 2)) j) (red (row 0) (2 * (j / 2) + 1) j)
        (red (row 1) (2 * (j / 2) + 1) j)
      else f.f 0 (red (s.nameRow f.d) j j) (red (row 0) j j) (red (row 1) j j)
    ∃ t r, exec i s = .next t ∧ RowsWritten s t b f.d [(r, enabledIn s.me 5)] (f.lat + if muCanonical s.me then 0 else 4) 0 0 ∧
      LanesOf s.me.lanes 5 (s.nameRow f.d) r fun j => (v j % modulus s.me j).toNat

end

section
open Sys2Proof Machine Statements

/-- R310: mqset with a table whose moduli are odd, at least 3 and below 2^62 writes all sixteen pairs and sets MQB to ra with bit
63 set; a table with another modulus takes ILLEGAL with EVA the instruction word; a misaligned address takes ALIGN. -/
def Sys2Proof.Statements.ModulusTable : Prop :=
  ∀ (a : BitVec 5) (t3 : BitVec 3) (s : State), Issues s (.mqset a t3) [a] [] [] [] →
    (∀ (y : State) (bs : List Byte), (s.src a).toNat % 256 = 0 → TableAt (s.acting [a]) (s.src a) 256 y bs →
      let q (j : Nat) := fieldAt bs (16 * j) 8
      let ok := ∀ j, j < 16 → q j % 2 = 1 ∧ 3 ≤ q j ∧ q j < 2 ^ 62
      (ok → ∃ t, exec (.mqset a t3) s = .next t ∧ Advances y.me t.me ∧ t.mem = y.mem ∧
        t.me.mqb = BitVec.ofNat 64 (2 ^ 63 + (s.src a).toNat) ∧ t.me.modLoaded = true ∧ t.me.moduli.length = 16 ∧
        ∀ j, j < 16 → t.me.moduli[j]? = some (BitVec.ofNat 64 (q j), BitVec.ofNat 64 (fieldAt bs (16 * j + 8) 8))) ∧
      (¬ ok → exec (.mqset a t3) s = .next (y.trap .illegal ((encode (.mqset a t3)).setWidth 48)))) ∧
    ((s.src a).toNat % 256 ≠ 0 → exec (.mqset a t3) s = .next ((s.acting [a]).trap .align (s.src a)))

end

section
open Sys2Proof Machine Statements

/-- R309, R311 and R103: with valid moduli, every enabled residue lane takes the form's value modulo its q, each operand first
reduced; a butterfly's twiddle is the odd lane of vb; no flag is raised; a lane whose μ is not canonical adds four turns to the
latency. R310: mqset with a table whose moduli are odd, at least 3 and below 2^62 writes all sixteen pairs and sets MQB to ra with
bit 63 set; a table with another modulus takes ILLEGAL with EVA the instruction word; a misaligned address takes ALIGN. -/
def Obligations.ModularArithmetic : Prop :=
  Statements.ModularForms ∧ Statements.ModulusTable

end


namespace Sys2Proof.Statements

open Sys2Proof.Machine

/-! ## Streams and vector accesses (R86 to R88, R313 to R318) -/

/-- The stream that a descriptor of 32 bytes describes for a name, under the constraints of R314. -/
structure StreamDescribed (d : BitVec 6) (bs : List Byte) (x : Stream) : Prop where
  name  : x.vd = d ∧ x.num = fieldAt bs 8 4 % 4 ∧ x.ahead = 0 ∧ x.done = 0 ∧ x.fifo = [] ∧ x.tag = none
  kind  : x.kind = (match fieldAt bs 8 4 / 4 % 4 with | 0 => .inPattern | 1 => .outPattern | 2 => .inChannel | _ => .outChannel)
  rsvd  : fieldAt bs 8 4 < 64 ∧ fieldAt bs 20 4 = 0
  chan  : 2 ≤ fieldAt bs 8 4 / 4 % 4 → fieldAt bs 0 8 = 0 ∧ fieldAt bs 12 4 = 0 ∧ fieldAt bs 16 4 = 0 ∧ fieldAt bs 24 4 = 0 ∧ fieldAt bs 28 4 = 0
  patt  : fieldAt bs 8 4 / 4 % 4 < 2 → fieldAt bs 0 8 < 2 ^ 48 ∧ fieldAt bs 0 8 % 128 = 0 ∧ 1 ≤ fieldAt bs 12 4 ∧ fieldAt bs 12 4 < 2 ^ 24 ∧
    1 ≤ fieldAt bs 16 4 ∧ fieldAt bs 16 4 < 2 ^ 24 ∧ fieldAt bs 24 4 % 128 = 0 ∧ fieldAt bs 28 4 % 128 = 0 ∧ fieldAt bs 8 4 / 16 % 4 = 0
  value : x.dir = fieldAt bs 8 4 / 16 % 4 ∧ x.base.toNat = fieldAt bs 0 8 ∧ x.cnt = fieldAt bs 12 4 ∧ x.icnt = fieldAt bs 16 4 ∧
    x.istr = sx 32 (fieldAt bs 24 4) ∧ x.ostr = sx 32 (fieldAt bs 28 4)

/-- The channel of a stream leads off the mesh, or a stream of another slot of the core binds it (R315). -/
def ChannelTaken (s : State) (x : Stream) : Prop :=
  (x.kind = .inChannel ∨ x.kind = .outChannel) ∧
    (x.dir = 0 ∧ s.core % 32 = 0 ∨ x.dir = 1 ∧ s.core % 32 = 31 ∨ x.dir = 2 ∧ s.core / 32 = 0 ∨ x.dir = 3 ∧ s.core / 32 = 31 ∨
      ∃ j < 8, j ≠ s.slot ∧ ∃ y ∈ (s.slotAt s.core j).streams, y.kind = x.kind ∧ y.dir = x.dir)

end Sys2Proof.Statements

section
open Sys2Proof Machine Statements

/-- R314, R315 and R318: strbind with a well-formed descriptor whose channel is free ends a drained stream of the same number and
binds vd to the stream described; a taken channel takes REFUSED with EVA ra; strend ends the binding of vd once its output pattern
has drained, and has no effect on a name bound to no stream. -/
def Sys2Proof.Statements.StreamBindings : Prop :=
  ∀ (d : BitVec 6) (a : BitVec 5) (t3 : BitVec 3) (s : State), s.binding.isSome = true →
    (∀ (y : State) (bs : List Byte) (x : Stream), Issues s (.strbind d a t3) [a] [] [] [] → (s.src a).toNat % 32 = 0 →
      TableAt (s.acting [a]) (s.src a) 32 y bs → StreamDescribed d bs x →
      (∀ z ∈ y.me.streams, z.vd = d → z.num = x.num) →
      (¬ ChannelTaken y x → (∀ z ∈ y.me.streams, z.num = x.num → z.undrained = false) → ∃ t, exec (.strbind d a t3) s = .next t ∧
        t.me.streams = y.me.streams.filter (fun z => z.num != x.num) ++ [x] ∧ Advances y.me t.me ∧ t.mem = y.mem ∧ t.spm = y.spm ∧
        (x.kind = .inChannel → (look x.dir t.here.inChan).getD [] = ((look x.dir y.here.inChan).getD []).filter fun e => e.pid == y.me.pid)) ∧
      (ChannelTaken y x → exec (.strbind d a t3) s = .next (y.trap .refused (s.src a)))) ∧
    (Issues s (.strend d t3) [] [] [] [] →
      (∀ x, s.me.stream d = some x → x.undrained = false → ∃ t, exec (.strend d t3) s = .next t ∧ SlotOnly s t ∧
        WindowKept s.me t.me [] [] ∧ Advances s.me t.me ∧ t.me.streams = s.me.streams.filter fun z => z.num != x.num) ∧
      (∀ x, s.me.stream d = some x → x.undrained = true → ∃ t, exec (.strend d t3) s = .next t ∧ t.me.pc = s.me.pc ∧
        t.me.streams = s.me.streams) ∧
      (s.me.stream d = none → ∃ t, exec (.strend d t3) s = .next t ∧ SlotOnly s t ∧ Retires s.me t.me []))

end

section
open Sys2Proof Machine Statements

/-- R87, R316 and R317: an instruction that reads a name bound to an input pattern pops the FIFO's first entry, waits while it is
empty or its bytes are on their way, takes the fault its read met, and past the last entry takes PROT with EVA the address that
entry would have; one that writes a name bound to an outbound channel pushes the row, in its enabled lanes the result. -/
def Sys2Proof.Statements.StreamOperands : Prop :=
  ∀ (s : State) (b : Binding) (d a : BitVec 6) (t3 : BitVec 3) (x : Stream), (∀ y ∈ s.me.streams, y.num = x.num → y = x) →
    (Rows s b [] [d] → Issues s (.vmov d a t3) [] [] [] [] → s.me.stream a = some x → x.kind = .inPattern →
      (∀ e r, x.done < x.cnt → x.fifo = e :: r → e.fault = none → e.wait = [] → ∃ t q, exec (.vmov d a t3) s = .next t ∧
        (t.tileAt s.core (b.tile d)).rows = (s.tileAt s.core (b.tile d)).rows.set (d.toNat % 32) q ∧
        LanesOf s.me.lanes (b.ty d) (s.nameRow d) q (fun j => lane (b.ty d) e.row j) ∧ Advances s.me t.me ∧
        t.me.stream a = some { x with done := x.done + 1, fifo := r }) ∧
      (x.done < x.cnt → (x.fifo = [] ∨ ∃ e r, x.fifo = e :: r ∧ e.fault = none ∧ e.wait ≠ []) → ∃ t, exec (.vmov d a t3) s = .next t ∧ t.me.pc = s.me.pc ∧ t.me.streams = s.me.streams) ∧
      (∀ e r c, x.done < x.cnt → x.fifo = e :: r → e.fault = some c → ∃ y : State, exec (.vmov d a t3) s = .next (y.trap c e.addr) ∧
        y.me.pc = s.me.pc ∧ y.mem = s.mem) ∧
      (x.cnt ≤ x.done → ∃ y : State, exec (.vmov d a t3) s = .next (y.trap .prot (wrap (x.base.toNat + (x.cnt % x.icnt : Nat) * x.istr +
        (x.cnt / x.icnt : Nat) * x.ostr))) ∧ y.me.pc = s.me.pc ∧ y.mem = s.mem)) ∧
    (∀ c : BitVec 6, Rows s b [c] [] → Issues s (.vmov d c t3) [] [] [] [c] → s.me.stream d = some x → x.kind = .outChannel →
      (s.chans.filter fun m => m.core == s.core && m.dir == x.dir).length < 8 →
      ∃ t m, exec (.vmov d c t3) s = .next t ∧ t.chans = s.chans ++ [m] ∧ m.core = s.core ∧ m.dir = x.dir ∧ m.entry.pid = s.me.pid ∧
        (∀ j, j < tyLanes (b.ty d) → s.me.lanes.getLsbD (tyBytes (b.ty d) * j) = true →
          lane (b.ty d) m.entry.row j = lane (b.ty d) (s.nameRow c) j) ∧ Advances s.me t.me)

end

section
open Sys2Proof Machine Statements

/-- R313: vld reads the 128 aligned bytes at ra into the enabled lanes of vd; vst writes the bytes of the enabled lanes of vd
there and no other byte of memory; a misaligned address takes ALIGN. At a global address a vld retires with the requests for its
four granules on their way and the row to come, and a vst with one message for each granule that an enabled lane touches, with its
32 bytes and the mask of its lanes. -/
def Obligations.VectorAccesses : Prop :=
  ∀ (s : State) (b : Binding) (d : BitVec 6) (a : BitVec 5) (t3 : BitVec 3),
    let ea := s.src a
    (Rows s b [] [d] → Issues s (.vld d a t3) [a] [] [] [] →
      (InVault s ea 128 → Unblocked s [a] ea 128 → ∃ t r, exec (.vld d a t3) s = .next t ∧
        t = { s with cores := t.cores, clusters := t.clusters } ∧
        OthersKept s t ∧ t.here = { s.here with slots := t.here.slots, tiles := t.here.tiles, banks := t.here.banks, ctl := t.here.ctl } ∧
        TileRows s t b d [(r, enabledIn s.me (b.ty d))] 1 0 0 ∧ LanesOf s.me.lanes (b.ty d) (s.nameRow d) r fun j =>
          leNat ((s.mem.readBytes (ownVault s ea) 128).drop (tyBytes (b.ty d) * j)) % 2 ^ tyBits (b.ty d)) ∧
      (Global ea 128 → ∃ (t : State) (ms : List Msg), exec (.vld d a t3) s = .next t ∧ t.mesh = s.mesh ++ ms ∧
        ms.map (·.va) = [ea, ea + 32, ea + 64, ea + 96] ∧
        (∀ m ∈ ms, m.proc = 0 ∧ m.stage = .toStation ∧ m.storing = false ∧ m.pid = s.me.pid ∧ m.src = s.core) ∧
        (∃ e mask, t.me.awaits = [e] ∧ e.seqs = ms.map (·.seq) ∧ e.ea = ea ∧ e.failed = none ∧ e.act = .row d mask [] ∧
          ∀ k, k < 128 → mask.getLsbD k = enabledIn s.me (b.ty d) k) ∧
        t.here.tiles = s.here.tiles ∧ t.mem = s.mem ∧ t.spm = s.spm ∧ Advances s.me t.me) ∧
      (ea.toNat % 128 ≠ 0 → ∃ y : State, exec (.vld d a t3) s = .next (y.trap .align ea) ∧ y.mem = s.mem ∧ y.me.pc = s.me.pc)) ∧
    (Rows s b [d] [] → Issues s (.vst d a t3) [a] [] [] [d] →
      (InVault s ea 128 → Unblocked s [a] ea 128 → ∃ t, exec (.vst d a t3) s = .next t ∧ VaultOnly s t ∧ Retires s.me t.me [] ∧
        (∀ k, k < 128 → t.mem.read (ownVault s ea + k) =
          if s.me.lanes.getLsbD (k - k % tyBytes (b.ty d)) then BitVec.ofNat 8 ((s.nameRow d).toNat / 256 ^ k)
          else s.mem.read (ownVault s ea + k)) ∧
        ∀ x, x < ownVault s ea ∨ ownVault s ea + 128 ≤ x → t.mem.read x = s.mem.read x) ∧
      (Global ea 128 → (s.here.strict = true ∨ s.me.board.length < 16) → ∃ (t : State) (ms : List Msg),
        exec (.vst d a t3) s = .next t ∧ t.mesh = s.mesh ++ ms ∧
        ms.map (·.va) = ((List.range 4).filter fun g => (List.range 32).any fun k => enabledIn s.me (b.ty d) (32 * g + k)).map
          (fun g => ea + BitVec.ofNat 48 (32 * g)) ∧
        (∀ m ∈ ms, m.proc = 1 ∧ m.stage = .toStation ∧ m.storing = true ∧ m.pid = s.me.pid ∧ m.src = s.core) ∧
        (∀ m ∈ ms, ∀ g, g < 4 → m.va = ea + BitVec.ofNat 48 (32 * g) →
          m.data = ((leBytes 128 (s.nameRow d).toNat).drop (32 * g)).take 32 ∧
          ∀ k, k < 32 → m.mask.getLsbD k = enabledIn s.me (b.ty d) (32 * g + k)) ∧
        t.mem = s.mem ∧ t.spm = s.spm ∧ Advances s.me t.me))

end


namespace Sys2Proof.Statements

open Sys2Proof.Machine

/-! ## Tiles, regions and rows (R84, R85, R138, R189, R323, R324, R328, R331 to R338) -/

/-- An instruction retires from a state it has reached: beside its slot's pc and marked sources, and the counters of its cluster,
that state is what it leaves. -/
structure Finished (y t : State) (srcs : List (BitVec 5 × BitVec 1)) : Prop where
  device : t = { y with cores := t.cores, clusters := t.clusters }
  others : OthersKept y t
  core   : t.here = { y.here with slots := t.here.slots }
  slot   : Retires y.me t.me srcs

/-- It retires from a state it has reached with a scalar destination. -/
structure FinishedWith (y t : State) (srcs : List (BitVec 5 × BitVec 1)) (d : BitVec 5) (x : Word) (short : Bool) (lat : Nat) : Prop where
  device : t = { y with cores := t.cores, clusters := t.clusters }
  others : OthersKept y t
  core   : t.here = { y.here with slots := t.here.slots }
  dest   : Delivered y.me t.me y.now d x short lat
  window : WindowKept y.me t.me [d] (marked srcs)
  slot   : ScalarOnly y.me t.me
  pc     : Advances y.me t.me

/-- No other strand binds a tile, the engine does not use it, and it is not in error under the caller's process (R193, R200, R328). -/
structure TileFree (s : State) (n : Nat) (exempt : Bool) : Prop where
  held  : ∀ e ∈ s.here.bound, e.1 ≠ s.me.id → e.2.lo ≠ n ∧ e.2.hi ≠ n
  idle  : s.here.usesTile n = false
  sound : exempt = false → (s.tileAt s.core n).writer = s.me.pid → (s.tileAt s.core n).err = false

/-- A tile zeroed for a process: every byte and its sideband are zero, and TKS but for TYPE (R85, R189). -/
def Tile.cleared (t : Tile) (pid : BitVec 16) : Tile :=
  { rows := List.replicate 32 0, side := List.replicate 64 0, drift := 0, err := false, stale := false, prov := false, ty := t.ty, writer := pid }

/-- What R85 leaves of a tile that a strand of a process acts on. -/
def Tile.owned (t : Tile) (pid : BitVec 16) : Tile := if t.writer = pid then t else Statements.Tile.cleared t pid

/-- A tile typed anew: its type where that differs, STALE, and not recomputable (R189). -/
def Tile.retyped (t : Tile) (ty : BitVec 3) : Tile := if t.ty = ty then t else { t with ty := ty, stale := true, prov := false }

end Sys2Proof.Statements

section
open Sys2Proof Machine Statements

/-- R331 and R332: tbind gives the strand the two tiles with their types and enables every lane; each tile is zeroed where another
process wrote it last and re-typed where its type differs, and no other tile and no other strand's binding changes; a tile that
another strand holds takes REFUSED with its number; tfree ends the binding and changes no tile; tzero zeroes the tile and its
sideband and keeps TYPE. -/
def Sys2Proof.Statements.TileBindings : Prop :=
  ∀ (d h l y t3 : BitVec 3) (s : State),
    let tile (n : BitVec 3) := s.tileAt s.core n.toNat
    let typed (n ty : BitVec 3) := Statements.Tile.retyped (Statements.Tile.owned (tile n) s.me.pid) ty
    let others (t : State) := ∀ e : StrandId × Binding, e.1 ≠ s.me.id → (e ∈ t.here.bound ↔ e ∈ s.here.bound)
    (Issues s (.tbind d h l y t3) [] [] [] [] →
      (TileFree s d.toNat false → TileFree s h.toNat false → ∃ t, exec (.tbind d h l y t3) s = .next t ∧
        t = { s with cores := t.cores, clusters := t.clusters } ∧ OthersKept s t ∧
        t.here = { s.here with slots := t.here.slots, tiles := t.here.tiles, bound := t.here.bound } ∧
        t.binding = some { lo := d.toNat, hi := h.toNat, tyl := l, tyh := y } ∧ others t ∧
        t.tileAt s.core d.toNat = typed d l ∧ t.tileAt s.core h.toNat = typed h y ∧
        (∀ n, n ≠ d.toNat → n ≠ h.toNat → t.tileAt s.core n = s.tileAt s.core n) ∧
        Retires { s.me with lanes := BitVec.allOnes 128 } t.me []) ∧
      ((∃ e ∈ s.here.bound, e.1 ≠ s.me.id ∧ (e.2.lo = d.toNat ∨ e.2.hi = d.toNat)) →
        exec (.tbind d h l y t3) s = .next ((s.acting []).trap .refused (wrap d.toNat)))) ∧
    (Issues s (.tfree t3) [] [] [] [] → ∃ t, exec (.tfree t3) s = .next t ∧ CoreOnly s t ∧
      t.here = { s.here with slots := t.here.slots, bound := t.here.bound } ∧ t.binding = none ∧ others t ∧ Retires s.me t.me []) ∧
    (Issues s (.tzero d t3) [] [] [] [] → TileFree s d.toNat true → ∃ t, exec (.tzero d t3) s = .next t ∧ CoreOnly s t ∧
      t.here = { s.here with slots := t.here.slots, tiles := t.here.tiles } ∧ Retires s.me t.me [] ∧
      t.tileAt s.core d.toNat = Statements.Tile.cleared (tile d) s.me.pid ∧
      ∀ n, n ≠ d.toNat → t.tileAt s.core n = s.tileAt s.core n)

end


namespace Sys2Proof.Statements

open Sys2Proof.Machine

/-- An address of a scratchpad tile region: in the window of the own core, in an allocation of the process of 4,096 bytes or more,
aligned (R323), with its number. -/
def NamesRegion (s : State) (ea : Word) (n : Nat) : Prop :=
  2 ^ 28 ≤ ea.toNat ∧ ea.toNat < 2 ^ 32 ∧ spmCore ea.toNat = s.core ∧ ea.toNat % 4096 = 0 ∧
    ∃ a, s.allocAt s.me.pid ea.toNat = some a ∧ 4096 ≤ a.size ∧ a.base + spmOff ea.toNat % a.size = 4096 * n

/-- The bytes of a declared region, as rows. -/
def regionRows (s : State) (n : Nat) : List Row :=
  (List.range 32).map fun i => rowOfBytes (s.spm.readBytes (spmAt s.core (4096 * n + 128 * i)) 128)

/-- The shadow store of a region after a whole-tile move, a check or a declaration, with the time of the last other write (R183, R189,
R351). -/
def shadowOf (n : Nat) (wrote : Option Nat) (t : Tile) : Region :=
  { num := n, side := t.side, drift := t.drift, err := t.err, stale := t.stale, prov := t.prov, ty := t.ty, wrote := wrote }

/-- A region's tile: its bytes with what the shadow store holds. -/
def tileOfRegion (s : State) (r : Region) : Tile :=
  { rows := regionRows s r.num, side := r.side, drift := r.drift, err := r.err, stale := r.stale, prov := r.prov, ty := r.ty, writer := 0 }

/-- No word of a region fails its ECC check, and none has an error armed (R406, R411). -/
def RegionSound (s : State) (n : Nat) : Prop := s.spmSound s.core (4096 * n) 4096

end Sys2Proof.Statements

section
open Sys2Proof Machine Statements

/-- R323 and R324: ftile, on a region that no operation in execution reads or writes and whose words are correct, declares an
undeclared one, or one of the same type, with checksums formed from its contents and STALE, ERR, PROV and DRIFT zero; on a region
of another type it re-types it and sets STALE; ftrel ends the declaration at ra; the bytes of the scratchpad do not change. -/
def Sys2Proof.Statements.RegionDeclarations : Prop :=
  ∀ (a : BitVec 5) (y : BitVec 6) (t3 : BitVec 3) (s : State) (n : Nat), NamesRegion s (s.src a) n →
    let old := s.here.regions.find? fun r => r.num == n
    let rest := s.here.regions.filter fun r => r.num != n
    let declared (t : State) (l : List Region) := CoreOnly s t ∧ Retires s.me t.me [] ∧
      t.here = { s.here with slots := t.here.slots, regions := rest ++ l }
    (Issues s (.ftile a y t3) [a] [] [] [] → s.regionInUse s.core n = false →
      (y ≠ 5 ∨ s.me.mqValid = true → RegionSound s n → (∀ r, old = some r → r.ty.toNat = y.toNat) →
        ∃ t x, exec (.ftile a y t3) s = .next t ∧ declared t [x] ∧ x.num = n ∧ x.ty.toNat = y.toNat ∧ x.drift = 0 ∧ x.err = false ∧
          x.stale = false ∧ x.prov = false ∧
          x.side = (Tile.reform { Tile.reset with rows := regionRows s n, side := (old.map (·.side)).getD (List.replicate 64 0), ty := y.setWidth 3 }
            s.me.mq).side) ∧
      (∀ r, old = some r → r.ty.toNat ≠ y.toNat → r.err = false →
        ∃ t, exec (.ftile a y t3) s = .next t ∧ declared t [{ r with num := n, ty := y.setWidth 3, stale := true, prov := false }])) ∧
    (Issues s (.ftrel a t3) [a] [] [] [] → ∃ t, exec (.ftrel a t3) s = .next t ∧ declared t [])

end

section
open Sys2Proof Machine Statements

/-- R331 and R332: tbind gives the strand the two tiles with their types and enables every lane; each tile is zeroed where another
process wrote it last and re-typed where its type differs, and no other tile and no other strand's binding changes; a tile that
another strand holds takes REFUSED with its number; tfree ends the binding and changes no tile; tzero zeroes the tile and its
sideband and keeps TYPE. R323 and R324: ftile, on a region that no operation in execution reads or writes and whose words are
correct, declares an undeclared one, or one of the same type, with checksums formed from its contents and STALE, ERR, PROV and
DRIFT zero; on a region of another type it re-types it and sets STALE; ftrel ends the declaration at ra; the bytes of the
scratchpad do not change. -/
def Obligations.TilesAndRegions : Prop :=
  Statements.TileBindings ∧ Statements.RegionDeclarations

end

section
open Sys2Proof Machine Statements

/-- R333, R328 and R189: tfill copies a declared region's bytes, sideband and TKS but for PROV into a tile; tdrain copies a tile
the other way, zeroed first where another process wrote it, unless it is a frozen operation's; a region into which a vector store
wrote in the same cycle is left STALE; neither checks, each holds the slot for 72 cycles, and no vault byte changes. -/
def Sys2Proof.Statements.TileMoves : Prop :=
  ∀ (d : BitVec 3) (a : BitVec 5) (t3 : BitVec 3) (s : State) (n : Nat) (r : Region), NamesRegion s (s.src a) n →
    s.here.regions.find? (fun r => r.num == n) = some r → TileFree s d.toNat true →
    (s.frozenTile s.core d.toNat = false ∨ s.privileged s.core s.slot = true) →
    let late (t : State) := s.now + 72 ≤ 8 * t.me.turnNext
    (Issues s (.tfill d a t3) [a] [] [] [] → RegionSound s n → ∃ t, exec (.tfill d a t3) s = .next t ∧ CoreOnly s t ∧
      t.here = { s.here with slots := t.here.slots, tiles := t.here.tiles } ∧ Retires s.me t.me [] ∧ late t ∧
      t.tileAt s.core d.toNat = { tileOfRegion s r with writer := s.me.pid, prov := false } ∧
      ∀ k, k ≠ d.toNat → t.tileAt s.core k = s.tileAt s.core k) ∧
    (Issues s (.tdrain d a t3) [a] [] [] [] → s.here.waiters = [] →
      let x := if s.frozenTile s.core d.toNat then s.tileAt s.core d.toNat else Statements.Tile.owned (s.tileAt s.core d.toNat) s.me.pid
      x.rows.length = 32 → ∃ t, exec (.tdrain d a t3) s = .next t ∧ t.mem = s.mem ∧ Retires s.me t.me [] ∧ late t ∧ OthersKept s t ∧
        Stored s.spm t.spm (spmAt s.core (4096 * n)) (x.rows.flatMap fun q => leBytes 128 q.toNat) ∧
        t.here.regions = (s.here.regions.filter fun r => r.num != n) ++
          [shadowOf n (some s.now) { x with prov := false, stale := x.stale || r.wrote == some s.now }] ∧
        t.tileAt s.core d.toNat = x ∧ ∀ k, k ≠ d.toNat → t.tileAt s.core k = s.tileAt s.core k)

end

section
open Sys2Proof Machine Statements

/-- R335 and R136: for a local-window address below the reserved range whose page the process owns, each form puts a request for
its row into the vault controller's queue where one of its eight tags is free and no request waits that came earlier, and changes
nothing else, and else keeps its place among those that wait; an address that fails takes PROT with EVA ra. -/
def Sys2Proof.Statements.RowRequests : Prop :=
  ∀ (a : BitVec 5) (t3 : BitVec 3) (s : State) (i : Instr) (f : Nat → CtlPacket),
    (i = .rowact a t3 ∧ f = .act ∨ i = .rowpre a t3 ∧ f = .pre) → Issues s i [a] [] [] [] →
    let ea := s.src a
    let page := s.core * 2 ^ 28 + ea.toNat / 65536 * 65536
    (ea.toNat < 0x0FF00000 → OwnerReadable s page → s.owns s.me.pid page = true → s.tagFree s.core s.me.place = true → ∃ t, exec i s = .next t ∧ CoreOnly s t ∧
      t.here = { s.here with slots := t.here.slots, ctl := s.here.ctl ++ [f (s.core * 2 ^ 28 + ea.toNat)] } ∧ Retires s.me t.me []) ∧
    (ea.toNat < 0x0FF00000 → OwnerReadable s page → s.owns s.me.pid page = true → s.tagFree s.core s.me.place = false →
      ∃ t, exec i s = .next t ∧ t.me.pc = s.me.pc ∧ t.here.ctl = s.here.ctl ∧ t.me.place = some (s.me.place.getD s.orders)) ∧
    ((0x0FF00000 ≤ ea.toNat ∨ OwnerReadable s page ∧ s.owns s.me.pid page = false) → exec i s = .next ((s.acting [a]).trap .prot ea))

end

section
open Sys2Proof Machine Statements

/-- R333, R328 and R189: tfill copies a declared region's bytes, sideband and TKS but for PROV into a tile; tdrain copies a tile
the other way, zeroed first where another process wrote it, unless it is a frozen operation's; a region into which a vector store
wrote in the same cycle is left STALE; neither checks, each holds the slot for 72 cycles, and no vault byte changes. R335 and
R136: for a local-window address below the reserved range whose page the process owns, each form puts a request for its row into
the vault controller's queue where one of its eight tags is free and no request waits that came earlier, and changes nothing else,
and else keeps its place among those that wait; an address that fails takes PROT with EVA ra. -/
def Obligations.TileMovesAndRows : Prop :=
  Statements.TileMoves ∧ Statements.RowRequests

end


namespace Sys2Proof.Statements

open Sys2Proof.Machine

/-! ## Checksums (R186, R192 to R201, R344 to R346) -/

/-- A sideband read under a selector: the low or the high part of an xword, TKS, or zero (R185, R346). -/
def sideRead (t : Tile) (v : Nat) : Word :=
  if v < 64 then wrap ((t.side.getD v 0).toNat % 2 ^ 48 : Nat)
  else if v < 128 then wrap ((t.side.getD (v - 64) 0).toNat / 2 ^ 48 : Nat)
  else if v = 128 then wrap (t.drift % 256 * 2 ^ 16 + bit t.err * 2 ^ 7 + bit t.stale * 2 ^ 6 + bit t.prov * 2 ^ 5 + t.ty.toNat : Nat)
  else 0

/-- What a check answers for a tile whose stored sideband is the one its contents form: with STALE set it forms the checksums, and
else it finds nothing to correct (R192, R344). -/
def verdict (t : Tile) : Word := if t.stale then 3 else 0

/-- The checksums of a tile agree with its contents, whether because they are stale and are formed anew or because they are those its
contents form. -/
def Agrees (t : Tile) (mq : Moduli) : Prop := t.stale = true ∨ t.drift = 0 ∧ t.side = formSide t.ty.toNat mq t.rows

/-- The tile after a check that finds no fault. -/
def Checks (t x : Tile) (mq : Moduli) : Prop :=
  x.rows = t.rows ∧ x.side = formSide t.ty.toNat mq t.rows ∧ x.stale = false ∧ x.drift = 0 ∧ x.err = t.err ∧ x.ty = t.ty

/-- A tile with every checksum formed from its contents (R192). -/
def formed (x : Tile) (mq : Moduli) : Tile := { x with side := formSide x.ty.toNat mq x.rows, drift := 0, stale := false }

/-- The value of a finite binary32 encoding. -/
def valueOf (x : Nat) : ℚ :=
  match decode32 x with
  | .fin neg m e => (if neg then -1 else 1) * m * (2 : ℚ) ^ e
  | _ => 0

/-- The largest finite magnitude among binary32 encodings. -/
def largest (l : List Nat) : ℚ := (l.filter fun x => !nonFinite x).foldl (fun m x => max m |valueOf x|) 0

/-- A float mismatch: |Δ| > n·2^−22·M. A NaN passes every comparison; an infinity passes only the same one, the model's choice (R187,
R188, log entry 64). -/
def FloatOff (stored made n : Nat) (l : List Nat) : Prop :=
  (decode32 stored).isNan = false ∧ (decode32 made).isNan = false ∧
    if nonFinite stored || nonFinite made then stored ≠ made
    else n * (2 : ℚ) ^ (-22 : ℤ) * largest l < |valueOf stored - valueOf made|

/-- The stored checksum of row `i` disagrees with the contents (R188). -/
def RowOff (x : Tile) (i : Nat) : Prop :=
  let ty := x.ty.toNat
  let r := x.rows.getD i 0
  if tyFloat ty then FloatOff (sideRow x.side i) (formRow ty r) (tyLanes ty) ((List.range (tyLanes ty)).map fun j => laneF32 ty (lane ty r j))
  else sideRow x.side i % 2 ^ rowBits ty ≠ formRow ty r

/-- The stored checksum of the column of lane `j` disagrees with the contents (R188). -/
def ColOff (x : Tile) (mq : Moduli) (j : Nat) : Prop :=
  let ty := x.ty.toNat
  let l := x.rows.map fun r => lane ty r j
  let made := formCol ty mq j l
  if tyFloat ty then FloatOff (sideCol ty x.side j) made (32 + x.drift) (l.map (laneF32 ty))
  else if ty = 5 then sideCol ty x.side j % mq.q j ≠ made
  else sideCol ty x.side j % 2 ^ colBits ty ≠ made

/-- No stored checksum disagrees. -/
def Matches (x : Tile) (mq : Moduli) : Prop := (∀ i, i < 32 → ¬ RowOff x i) ∧ ∀ j, j < tyLanes x.ty.toNat → ¬ ColOff x mq j

/-- The corrected element at row `i` and lane `j` of an exact type, if R196 corrects it. -/
def corrected (x : Tile) (mq : Moduli) (i j : Nat) : Option Nat :=
  let ty := x.ty.toNat
  let e : Int := lane ty (x.rows.getD i 0) j
  let rr : Int := (sideRow x.side i : Int) - formRow ty (x.rows.getD i 0)
  let rc : Int := (sideCol ty x.side j : Int) - formCol ty mq j (x.rows.map fun r => lane ty r j)
  if ty = 5 then
    if (e + rr) % 2 ^ 64 < mq.q j ∧ (e + rr) % 2 ^ 64 = (e + rc) % mq.q j then some ((e + rr) % 2 ^ 64).toNat else none
  else if rr % 2 ^ 32 = sx (colBits ty) (rc % 2 ^ colBits ty).toNat % 2 ^ 32 then some ((e + rr) % 2 ^ tyBits ty).toNat
  else none

/-- A tile with lane `j` of row `i` replaced. -/
def Placed (x y : Tile) (i j v : Nat) : Prop :=
  ∃ r, y = { x with rows := x.rows.set i r } ∧
    ∀ k, k < tyLanes x.ty.toNat → lane x.ty.toNat r k = if k = j then v % 2 ^ tyBits x.ty.toNat else lane x.ty.toNat (x.rows.getD i 0) k

/-- A tile as a check that passes leaves it: a float tile's checksums are those of the contents (R192). -/
def settled (x : Tile) (mq : Moduli) : Tile := if tyFloat x.ty.toNat then formed x mq else x

/-- How a check of R192 ends without a fault (R195 to R197): the tile, the corrections and the formations that CKEV counts, and the
result of R344. `again` is a float element as the engine that formed the tile evaluates it afresh. -/
inductive CheckEnds (x : Tile) (mq : Moduli) (again : Nat → Nat → Option Nat) : Tile → Nat → Nat → Nat → Prop where
  | stale : x.stale = true → CheckEnds x mq again (formed x mq) 0 1 3
  | pass : x.stale = false → Matches x mq → CheckEnds x mq again (settled x mq) 0 0 0
  | row (i : Nat) : x.stale = false → i < 32 → (∀ k, k < 32 → (RowOff x k ↔ k = i)) → (∀ j, j < tyLanes x.ty.toNat → ¬ ColOff x mq j) →
      CheckEnds x mq again (settled { x with side := putRow x.side i (formRow x.ty.toNat (x.rows.getD i 0)) } mq) 1 0 1
  | column (j : Nat) : x.stale = false → j < tyLanes x.ty.toNat → (∀ i, i < 32 → ¬ RowOff x i) →
      (∀ k, k < tyLanes x.ty.toNat → (ColOff x mq k ↔ k = j)) →
      CheckEnds x mq again
        (settled { x with side := putCol x.ty.toNat x.side j (formCol x.ty.toNat mq j (x.rows.map fun r => lane x.ty.toNat r j)) } mq) 1 0 1
  | element (i j v : Nat) (y : Tile) : x.stale = false → i < 32 → j < tyLanes x.ty.toNat → (∀ k, k < 32 → (RowOff x k ↔ k = i)) →
      (∀ k, k < tyLanes x.ty.toNat → (ColOff x mq k ↔ k = j)) →
      (if tyFloat x.ty.toNat then x.prov = true ∧ again i j = some v else corrected x mq i j = some v) → Placed x y i j v →
      Matches y mq → CheckEnds x mq again (settled y mq) 1 0 2

/-- It ends in a mismatch fault. -/
def CheckFails (x : Tile) (mq : Moduli) (again : Nat → Nat → Option Nat) : Prop := ∀ y a b c, ¬ CheckEnds x mq again y a b c

/-- CKEV has counted so many mismatch faults, corrections and formations, each counter saturating (R199). -/
def Counted (k l : BitVec 64) (faults fixes forms : Nat) : Prop :=
  let n (x : BitVec 64) (at_ : Nat) := x.toNat / 2 ^ at_ % 2 ^ 16
  n l 0 = min 65535 (n k 0 + faults) ∧ n l 16 = min 65535 (n k 16 + fixes) ∧ n l 32 = min 65535 (n k 32 + forms)

/-- A tile or region holds a type whose checksums can be formed: one of R83, an MR64 one only while the lane moduli are loaded. -/
def Formable (t : Tile) (s : State) : Prop :=
  t.ty.toNat ≤ 5 ∧ t.rows.length = 32 ∧ t.side.length = 64 ∧ (t.ty = 5 → s.me.mqValid = true ∧ s.me.modLoaded = true)

end Sys2Proof.Statements

section
open Sys2Proof Machine Statements

/-- R344, R345, R346 and R201: ck.ver of a tile whose checksums agree with its contents delivers 0, or 3 where STALE had it form
them, and leaves the contents; ck.fix forms every checksum and clears STALE, ERR and DRIFT; ck.rd delivers the selected part of
the sideband or TKS as stored and changes no tile; ck.sig delivers the signature, forming stale checksums first; ck.ver of a tile
with ERR takes CKSUM with EVA the tile number and bit 47. -/
def Sys2Proof.Statements.TileChecks : Prop :=
  ∀ (d : BitVec 3) (b c : BitVec 5) (t3 : BitVec 3) (s : State),
    let x := Statements.Tile.owned (s.tileAt s.core d.toNat) s.me.pid
    let mq := s.me.mq
    let frame (t : State) := CoreOnly s t ∧ t.here = { s.here with slots := t.here.slots, tiles := t.here.tiles, ckev := t.here.ckev } ∧
      Advances s.me t.me ∧ ∀ k, k ≠ d.toNat → t.tileAt s.core k = s.tileAt s.core k
    let gives (t : State) (v : Word) := Delivered s.me t.me s.now c v false 1 ∧ WindowKept s.me t.me [c] [] ∧ ScalarOnly s.me t.me
    (Formable x s → Agrees x mq → TileFree s d.toNat false →
      (Issues s (.ckVer d c t3) [] [c] [] [] → ∃ t, exec (.ckVer d c t3) s = .next t ∧ frame t ∧ gives t (verdict x) ∧
        Checks x (t.tileAt s.core d.toNat) mq) ∧
      (Issues s (.ckSig d c t3) [] [c] [] [] → ∃ t, exec (.ckSig d c t3) s = .next t ∧ frame t ∧
        gives t (wrap (Tile.signature (if x.stale then x.reform mq else x))) ∧ (t.tileAt s.core d.toNat).rows = x.rows)) ∧
    (Formable x s → TileFree s d.toNat true → Issues s (.ckFix d t3) [] [] [] [] → ∃ t, exec (.ckFix d t3) s = .next t ∧ frame t ∧
      WindowKept s.me t.me [] [] ∧ t.tileAt s.core d.toNat = { x with side := formSide x.ty.toNat mq x.rows, drift := 0, stale := false, err := false }) ∧
    (TileFree s d.toNat true → Issues s (.ckRd d b c t3) [b] [c] [] [] → ∃ t, exec (.ckRd d b c t3) s = .next t ∧ frame t ∧
      gives t (sideRead x (s.src b).toNat) ∧ t.tileAt s.core d.toNat = x) ∧
    (Formable x s → x.err = true → (∀ e ∈ s.here.bound, e.1 ≠ s.me.id → e.2.lo ≠ d.toNat ∧ e.2.hi ≠ d.toNat) →
      Issues s (.ckVer d c t3) [] [c] [] [] → exec (.ckVer d c t3) s = .next ((s.acting [c]).trap .cksum (wrap (2 ^ 47 + d.toNat))))

end

section
open Sys2Proof Machine Statements

/-- R188, R192 and R195 to R199 by ck.ver: a stale tile has its checksums formed, a tile whose checksums match passes, one
checksum that alone disagrees is rewritten, and where one row and one column disagree the crossing element is corrected, under
R196 in an exact type and by the engine's evaluation afresh while PROV is 1 in a float type, if the check then passes; each is
delivered and counted in CKEV, and a float tile's checksums become those of its contents. Every other outcome takes CKSUM, sets
ERR, counts in CKEV.MISM and leaves contents, sideband and DRIFT, a repeated check that fails after a correction among them
(notes/assumptions/59.md); an infinite float checksum compares as notes/assumptions/64.md says. R191: before a vector write to a
float tile of DRIFT 255 the same check comes: if it ends well the write acts as in a state in which its tile is as the check
leaves it, and else it takes CKSUM. -/
def Sys2Proof.Statements.CheckOutcomes : Prop :=
  (∀ (d : BitVec 3) (c : BitVec 5) (t3 : BitVec 3) (s : State),
    let x := Statements.Tile.owned (s.tileAt s.core d.toNat) s.me.pid
    let again := s.recompute s.core d.toNat
    let others (t : State) := ∀ k, k ≠ d.toNat → t.tileAt s.core k = s.tileAt s.core k
    Formable x s → TileFree s d.toNat false → Issues s (.ckVer d c t3) [] [c] [] [] →
    (∀ y fixes forms code, CheckEnds x s.me.mq again y fixes forms code → ∃ t, exec (.ckVer d c t3) s = .next t ∧ CoreOnly s t ∧
      t.here = { s.here with slots := t.here.slots, tiles := t.here.tiles, ckev := t.here.ckev, logs := t.here.logs } ∧
      Advances s.me t.me ∧ others t ∧ t.tileAt s.core d.toNat = y ∧ Counted s.here.ckev t.here.ckev 0 fixes forms ∧
      Delivered s.me t.me s.now c (wrap code) false 1 ∧ WindowKept s.me t.me [c] [] ∧ ScalarOnly s.me t.me) ∧
    (CheckFails x s.me.mq again → ∃ y : State, exec (.ckVer d c t3) s = .next (y.trap .cksum (wrap (2 ^ 47 + d.toNat))) ∧
      y.me = (s.acting [c]).me ∧ y.mem = s.mem ∧ y.spm = s.spm ∧ others y ∧ y.tileAt s.core d.toNat = { x with err := true } ∧
      y.here.ckev.toNat % 2 ^ 16 = min 65535 (s.here.ckev.toNat % 2 ^ 16 + 1))) ∧
  (∀ (i : Instr) (f : LaneForm) (s : State) (b : Binding), floatForm i = some f → Names s b (f.reads ++ [f.d]) →
    (∀ n ∈ f.srcs, b.ty n = b.ty f.d) → f.ok (b.ty f.d) = true → Issues s i [] [] [] f.reads →
    let n := b.tile f.d
    let x := s.tileAt s.core n
    Formable x s → tyFloat x.ty.toNat = true → x.drift = 255 →
    (∀ y fixes forms code, CheckEnds x s.me.mq (s.recompute s.core n) y fixes forms code → ∃ s' : State, exec i s = exec i s' ∧
      s' = { s with cores := s'.cores } ∧ (∀ k, k ≠ s.core → s'.coreAt k = s.coreAt k) ∧
      s'.here = { s.here with tiles := s'.here.tiles, ckev := s'.here.ckev, logs := s'.here.logs } ∧
      s'.tileAt s.core n = y ∧ y.drift = 0 ∧ (∀ k, k ≠ n → s'.tileAt s.core k = s.tileAt s.core k) ∧
      Counted s.here.ckev s'.here.ckev 0 fixes forms) ∧
    (CheckFails x s.me.mq (s.recompute s.core n) → ∃ y : State, exec i s = .next (y.trap .cksum (wrap (2 ^ 47 + n))) ∧
      y.me = (s.acting []).me ∧ y.mem = s.mem ∧ y.spm = s.spm ∧ y.tileAt s.core n = { x with err := true } ∧
      y.here.ckev.toNat % 2 ^ 16 = min 65535 (s.here.ckev.toNat % 2 ^ 16 + 1)))

end

section
open Sys2Proof Machine Statements

/-- R344, R345, R346 and R201 for a declared region: each acts on the region as its tile form does on a tile, and changes no byte
of the region that agrees with its checksums; a region with ERR takes CKSUM with EVA the window address with OFF 0 in the two
forms that R193 does not exempt. -/
def Sys2Proof.Statements.RegionChecks : Prop :=
  ∀ (a b c : BitVec 5) (t3 : BitVec 3) (s : State) (n : Nat) (r : Region), NamesRegion s (s.src a) n →
    s.here.regions.find? (fun r => r.num == n) = some r → s.core < 1024 → s.spm.wf = true → RegionSound s n →
    let x := tileOfRegion s r
    let mq := s.me.mq
    let rest := s.here.regions.filter fun r => r.num != n
    let frame (t : State) := CoreOnly s t ∧ Advances s.me t.me ∧
      t.here = { s.here with slots := t.here.slots, regions := t.here.regions, ckev := t.here.ckev }
    let gives (t : State) (v : Word) := Delivered s.me t.me s.now c v false 1 ∧ WindowKept s.me t.me [c] [] ∧ ScalarOnly s.me t.me
    (Formable x s → Agrees x mq → r.err = false →
      (Issues s (.ckVerg a c t3) [a] [c] [] [] → ∃ t y, exec (.ckVerg a c t3) s = .next t ∧ frame t ∧ gives t (verdict x) ∧
        t.here.regions = rest ++ [shadowOf n r.wrote y] ∧ Checks x y mq) ∧
      (Issues s (.ckSigg a c t3) [a] [c] [] [] → ∃ t, exec (.ckSigg a c t3) s = .next t ∧ frame t ∧
        gives t (wrap (Tile.signature (if x.stale then x.reform mq else x))))) ∧
    (Formable x s → Issues s (.ckFixg a t3) [a] [] [] [] → ∃ t, exec (.ckFixg a t3) s = .next t ∧ frame t ∧
      WindowKept s.me t.me [] [] ∧ t.here.regions = rest ++ [shadowOf n r.wrote { x with
        side := formSide x.ty.toNat mq x.rows, drift := 0, stale := false, err := false }]) ∧
    (Issues s (.ckRdg a b c t3) [a, b] [c] [] [] → ∃ t, exec (.ckRdg a b c t3) s = .next t ∧ SlotOnly s t ∧
      Advances s.me t.me ∧ gives t (sideRead x (s.src b).toNat)) ∧
    (r.err = true → (r.ty = 5 → s.me.mqValid = true ∧ s.me.modLoaded = true) →
      let eva := wrap ((s.src a).toNat / 2 ^ 17 * 2 ^ 17)
      (Issues s (.ckVerg a c t3) [a] [c] [] [] → exec (.ckVerg a c t3) s = .next ((s.acting [a, c]).trap .cksum eva)) ∧
      (Issues s (.ckSigg a c t3) [a] [c] [] [] → exec (.ckSigg a c t3) s = .next ((s.acting [a, c]).trap .cksum eva)))

end

section
open Sys2Proof Machine Statements

/-- R344, R345, R346 and R201: ck.ver of a tile whose checksums agree with its contents delivers 0, or 3 where STALE had it form
them, and leaves the contents; ck.fix forms every checksum and clears STALE, ERR and DRIFT; ck.rd delivers the selected part of
the sideband or TKS as stored and changes no tile; ck.sig delivers the signature, forming stale checksums first; ck.ver of a tile
with ERR takes CKSUM with EVA the tile number and bit 47. R188, R192 and R195 to R199 by ck.ver: a stale tile has its checksums
formed, a tile whose checksums match passes, one checksum that alone disagrees is rewritten, and where one row and one column
disagree the crossing element is corrected, under R196 in an exact type and by the engine's evaluation afresh while PROV is 1 in a
float type, if the check then passes; each is delivered and counted in CKEV, and a float tile's checksums become those of its
contents. Every other outcome takes CKSUM, sets ERR, counts in CKEV.MISM and leaves contents, sideband and DRIFT, a repeated check
that fails after a correction among them (notes/assumptions/59.md); an infinite float checksum compares as notes/assumptions/64.md
says. R191: before a vector write to a float tile of DRIFT 255 the same check comes: if it ends well the write acts as in a state
in which its tile is as the check leaves it, and else it takes CKSUM. R344, R345, R346 and R201 for a declared region: each acts
on the region as its tile form does on a tile, and changes no byte of the region that agrees with its checksums; a region with ERR
takes CKSUM with EVA the window address with OFF 0 in the two forms that R193 does not exempt. -/
def Obligations.Checks : Prop :=
  Statements.TileChecks ∧ Statements.CheckOutcomes ∧ Statements.RegionChecks

end


namespace Sys2Proof.Statements

open Sys2Proof.Machine

/-- Bytes of an A buffer from an offset on. -/
def bufferByte (e : Engine) (buf : BitVec 3) (o : Nat) : Byte :=
  (((if buf = 0 then e.abuf0 else e.abuf1).getD (o / 256) 0).extractLsb' (8 * (o % 256)) 8)

end Sys2Proof.Statements

section
open Sys2Proof Machine Statements

/-- R336 and R338: each turn of a tld brings up to eight beats of the vault's bytes at ra into the A buffer at its offset, other
bytes of both buffers and all of memory as they were, and the last turn retires it with TLDP.VALID 0; a misaligned one takes
ALIGN, an empty or overlong one PROT; bld with the resident key, K and format reads nothing and changes nothing, and else leaves
the engine with the columns it read and BKEY, BK and BFMT as named; where it names exactly a declared region, ERR takes CKSUM
before any effect, and a failed check takes it with BK zero. -/
def Obligations.OperandLoads : Prop :=
  ∀ (d : BitVec 3) (a b c : BitVec 5) (t3 : BitVec 3) (s : State),
    let ea := s.src a
    let n := (s.src b).toNat
    let o := (s.src c).toNat
    (Issues s (.tld d a b c t3) [a, b, c] [] [] [] →
      (∀ j x, (s.me.run = none ∧ s.me.tldp.getLsbD 31 = false ∧ j = 0 ∨ s.me.run = some (.tld j x false)) →
        ea.toNat % 64 = 0 → n % 64 = 0 → o % 64 = 0 → 64 * j < n → o + n ≤ 8192 → (ea.toNat + n + 2047) / 2048 ≤ ea.toNat / 2048 + 4 →
        OwnedPages s ea.toNat n → (∀ m ∈ s.here.engine.queue, m.fromTile = true ∨ m.abuf ≠ d.toNat) →
        s.here.engine.abuf0.length = 32 → s.here.engine.abuf1.length = 32 → s.core < 1024 → s.sound (s.core * 2 ^ 28 + ea.toNat) n →
        s.here.engine.badA = false → (s.me.run = none → Unblocked s [a, b, c] ea n) →
        ∃ t, exec (.tld d a b c t3) s = .next t ∧ t.mem = s.mem ∧ t.spm = s.spm ∧ WindowKept s.me t.me [] [] ∧
          (n ≤ 64 * j + 512 → Advances s.me t.me ∧ t.me.tldp.getLsbD 31 = false ∧ t.me.run = none) ∧
          (64 * j + 512 < n → t.me.pc = s.me.pc ∧ t.me.run = some (.tld (j + 8) (ea.toNat + 64 * (j + 8)) false)) ∧
          (∀ k, 64 * j ≤ k → k < min n (64 * j + 512) →
            bufferByte t.here.engine d (o + k) = s.mem.read (s.core * 2 ^ 28 + ea.toNat + k)) ∧
          (∀ k, k < 8192 → (k < o + 64 * j ∨ o + min n (64 * j + 512) ≤ k) → bufferByte t.here.engine d k = bufferByte s.here.engine d k) ∧
          (∀ e : BitVec 3, e.toNat ≤ 1 → e ≠ d → ∀ k, k < 8192 → bufferByte t.here.engine e k = bufferByte s.here.engine e k)) ∧
      (ea.toNat % 64 ≠ 0 ∨ n % 64 ≠ 0 ∨ o % 64 ≠ 0 → exec (.tld d a b c t3) s = .next ((s.acting [a, b, c]).trap .align ea)) ∧
      (ea.toNat % 64 = 0 → n % 64 = 0 → o % 64 = 0 → (n = 0 ∨ 8192 < o + n) →
        exec (.tld d a b c t3) s = .next ((s.acting [a, b, c]).trap .prot ea))) ∧
    (let f := s.me.fmt.toNat / 16 % 16
      let key := (s.src c).setWidth 32
      let e := s.here.engine
      let table := s.here.seen s.now
      let size := 32 * strideOf f n
      let region := s.exactRegion (s.ctx s.core s.slot) ea size
      let last := if ea.toNat < 2 ^ 28 then 2 ^ 28 else (ea.toNat / 2 ^ 17 + 1) * 2 ^ 17
      Issues s (.bld a b c t3) [a, b, c] [] [] [] → f ≤ 5 → s.me.fmt.toNat < 2 ^ 20 → 1 ≤ n → n ≤ 1024 → ea.toNat % 64 = 0 → e.queue = [] →
      s.core < 1024 → s.plainTask s.core = false →
      (ea.toNat < 2 ^ 28 ∧ s.behind s.me.id false (ownVault s ea) size = false ∨
        2 ^ 28 ≤ ea.toNat ∧ ea.toNat < 2 ^ 32 ∧ spmCore ea.toNat = s.core) →
      (f = 5 → table.tagCheck (s.me.fmt.toNat / 256 % 4096) s.me.pid = none) →
      (key ≠ 0 → key = e.bkey → n = e.bk → f = e.bfmt.toNat → ∃ t, exec (.bld a b c t3) s = .next t ∧ SlotOnly s t ∧ Retires s.me t.me []) ∧
      (¬ (key ≠ 0 ∧ key = e.bkey ∧ n = e.bk ∧ f = e.bfmt.toNat) →
        e.badB = false →
        (∀ (y z : State) (bs : List Byte) (cols : List (Nat × List Nat)), region = none → ea.toNat + size ≤ last →
          ((s.acting [a, b, c]).dropB s.core).readSpan (s.ctx s.core s.slot) ea size = (y, .ok bs) →
          y.columnsOf (s.ctx s.core s.slot) f n s.me.scb bs = (z, .ok cols) →
          ∃ t, exec (.bld a b c t3) s = .next t ∧ t.mem = z.mem ∧ t.spm = z.spm ∧ Advances s.me t.me ∧ t.here.engine.bk = n ∧
            t.here.engine.bfmt = BitVec.ofNat 4 f ∧ t.here.engine.bkey = key ∧
            t.here.engine.bcols = cols.map fun p => blocksOf f 20 n table.lut p.2 p.1) ∧
        (∀ r, region = some (s.core, r) → r.err = true →
          exec (.bld a b c t3) s = .next ((s.acting [a, b, c]).trap .cksum (wrap (ea.toNat / 2 ^ 17 * 2 ^ 17)))) ∧
        (∀ r, region = some (s.core, r) → r.err = false → r.ty.toNat < 5 → r.side.length = 64 → RegionSound s r.num → s.spm.wf = true →
          CheckFails (tileOfRegion s r) none (fun _ _ => none) → ∃ y : State,
            exec (.bld a b c t3) s = .next (y.trap .cksum (wrap (ea.toNat / 2 ^ 17 * 2 ^ 17))) ∧ y.mem = s.mem ∧
            y.here.engine.bk = 0 ∧ y.here.ckev.toNat % 2 ^ 16 = min 65535 (s.here.ckev.toNat % 2 ^ 16 + 1)) ∧
        (f ≠ 2 → f ≠ 3 → ea.toNat + size ≤ 2 ^ 28 → (∀ k, k < size → Admitted s (ea.toNat + k)) → s.sound (s.core * 2 ^ 28 + ea.toNat) size →
          ∃ t, exec (.bld a b c t3) s = .next t ∧ t.mem = s.mem ∧ t.spm = s.spm ∧ Advances s.me t.me ∧ WindowKept s.me t.me [] [] ∧
            t.here.engine.bk = n ∧ t.here.engine.bfmt = BitVec.ofNat 4 f ∧ t.here.engine.bkey = key ∧
            t.here.engine.bcols = (List.range 32).map fun i => blocksOf f 20 n table.lut []
              (leNat (s.mem.readBytes (s.core * 2 ^ 28 + ea.toNat + i * strideOf f n) (strideOf f n))))))

end


namespace Sys2Proof.Statements

open Sys2Proof.Machine

/-! ## Matrix operations, leaves, tasks (R110, R215, R339 to R343, R347 to R350) -/

/-- An MMA form: the tile of C, the registers of the operand word and of the barrier, whether it zeroes C, whether A is a tile, and the
register of the group where it is a part of a cooperative product. -/
structure MatrixForm where
  d    : BitVec 3
  a    : BitVec 5
  bar  : BitVec 5
  zero : Bool
  tile : Bool
  grp  : Option (BitVec 5)

/-- The forms of R340 and R343. -/
def matrixOf : Instr → Option MatrixForm
  | .mma d a b _ => some ⟨d, a, b, false, false, none⟩
  | .mmaZ d a b _ => some ⟨d, a, b, true, false, none⟩
  | .mmaM d a b _ => some ⟨d, a, b, false, true, none⟩
  | .mmag d a b c _ => some ⟨d, a, c, false, false, some b⟩
  | .mmagZ d a b c _ => some ⟨d, a, c, true, false, some b⟩
  | _ => none

/-- The registers a form reads, in field order. -/
def MatrixForm.reads (f : MatrixForm) : List (BitVec 5) := match f.grp with | none => [f.a, f.bar] | some g => [f.a, g, f.bar]

/-- The element width of a format code, in bits, which is also its A broadcast width (R91). -/
def formatBits (f : Nat) : Nat := if f = 0 then 16 else if f = 3 ∨ f = 5 then 4 else 8

/-- The conditions of R340 and R110 on an operand word, the formats, the resident B and the tiles. -/
structure MatrixLegal (s : State) (f : MatrixForm) (w : Nat) : Prop where
  fmt    : s.me.fmt.toNat < 2 ^ 20
  codes  : s.me.fmt.toNat % 16 ≤ 5 ∧ s.me.fmt.toNat / 16 % 16 ≤ 5 ∧ (s.me.fmt.toNat % 16 ≤ 3 ↔ s.me.fmt.toNat / 16 % 16 ≤ 3)
  b      : s.here.engine.bk ≠ 0 ∧ s.here.engine.bfmt.toNat = s.me.fmt.toNat / 16 % 16
  k      : w % 2048 ≠ 0 ∧ w / 2 ^ 17 % 32 + (w % 2048 + 31) / 32 ≤ (s.here.engine.bk + 31) / 32
  room   : w % 2048 * formatBits (s.me.fmt.toNat % 16) ≤ if f.tile then 1024 else 2048
  typeC  : (s.tileAt s.core f.d.toNat).ty = if s.me.fmt.toNat % 16 ≤ 3 then 0 else 1
  tileA  : f.tile = true → w / 2 ^ 28 % 8 ≠ f.d.toNat ∧
    (s.tileAt s.core (w / 2 ^ 28 % 8)).ty = if s.me.fmt.toNat % 16 = 0 then 2 else 4

/-- The charge of R342. -/
def matrixCharge (s : State) (w : Nat) : Nat :=
  2 + (16 * (w / 2 ^ 11 % 32 + 1) * ((w % 2048 + 31) / 32) * formatBits (s.me.fmt.toNat % 16) + 624) / 625

/-- The tile and the part that a strand computes of a cooperative product (R343). -/
def PartOf (s : State) (g w : Nat) (t p : Nat) : Prop :=
  let parts := w / 2 ^ 22 % 64 + 1
  ∃ l r z : Nat, (s.launchAt s.me.id.lid).map (·.cores) = some true ∧ s.homeOf s.me.id = some s.core ∧
    s.groupRank s.me.id g = wrap r ∧ r < 2 ^ 48 - 1 ∧ s.groupSize s.me.id.lid g = wrap z ∧ z < 2 ^ 48 ∧ l = r / parts ∧
    l < min (z / parts) 2048 ∧ t = l ∧ p = r % parts

end Sys2Proof.Statements

section
open Sys2Proof Machine Statements

/-- R340, R342, R343 and R215: a form whose operand word, formats, resident B and tiles R340 admits, whose barrier passes R283 and
whose strand holds a leave with the charge, enters the engine queue with its captured values, draws the charge from the leave, and
retires with no tile and no memory changed; mmag takes its part from the strand's rank, every part but the owner's from zero; an
operand word or format pair that R340 refuses takes ILLEGAL. -/
def Obligations.MatrixIssue : Prop :=
  ∀ (i : Instr) (f : MatrixForm) (s : State), matrixOf i = some f →
    Issues s i f.reads [] [] [] →
    let w := (s.src f.a).toNat
    let bar := s.src f.bar
    let e := s.here.engine
    (∀ part : Option (Nat × Nat × Nat),
      (match f.grp, part with
        | none, none => True
        | some g, some (n, t, p) => n = (s.src g).toNat ∧ PartOf s n w t p
        | _, _ => False) →
      MatrixLegal s f w → (bar ≠ 0 → bar.toNat % 16 = 0 ∧ NamesBarrier s bar false ∧ s.barOwned (spmCore bar.toNat) (slotNamed bar) s.me.pid = true) →
      (s.me.fmt.toNat % 16 = 5 → (s.here.seen s.now).tagCheck (s.me.fmt.toNat / 256 % 4096) s.me.pid = none) →
      (∀ t, (t = f.d.toNat ∨ f.tile = true ∧ t = w / 2 ^ 28 % 8) →
        (∀ b ∈ s.here.bound, b.1 ≠ s.me.id → b.2.lo ≠ t ∧ b.2.hi ≠ t) ∧
        ((s.tileAt s.core t).writer = s.me.pid → (s.tileAt s.core t).err = false)) →
      e.queue.length < 2 → (s.here.strict = true ∨ s.me.board.length < 16) → s.me.run = none →
      (∀ l, s.here.leaves.find? (fun l => l.owner == s.me.id) = some l → matrixCharge s w ≤ l.energy →
        (∀ q ∈ s.here.leaves, q.owner = s.me.id → q = l) →
        ∃ t o, exec i s = .next t ∧ t = { s with cores := t.cores, clusters := t.clusters } ∧ OthersKept s t ∧
          t.here = { s.here with slots := t.here.slots, leaves := t.here.leaves, seq := s.here.seq + 1, engine := { e with queue := e.queue ++ [o] } } ∧
          o.td = f.d.toNat ∧ o.word = s.src f.a ∧ o.bar = bar ∧ o.fromTile = f.tile ∧ o.fmt = s.me.fmt ∧ o.fpc = s.me.fpc ∧
          o.sca = s.me.sca ∧ o.scb = s.me.scb ∧ o.lut = (s.here.seen s.now).lut ∧ o.pid = s.me.pid ∧ o.prv = s.privileged s.core s.slot ∧ o.slot = s.slot ∧ o.scales = [] ∧ o.id = s.me.id ∧ o.blocks = 0 ∧
          o.group = part ∧ (o.zero = true ↔ f.zero = true ∨ ∃ n t p, part = some (n, t, p) ∧ p ≠ 0) ∧
          t.me.board.length = (if s.here.strict then s.me.board.length else s.me.board.length + 1) ∧
          Advances s.me t.me ∧ WindowKept s.me t.me [] [] ∧
          (t.here.leaves.find? fun l => l.owner == s.me.id).map (·.energy) =
            if l.energy = matrixCharge s w then none else some (l.energy - matrixCharge s w)) ∧
      ((∀ l ∈ s.here.leaves, l.owner ≠ s.me.id) → ∃ t r, exec i s = .next t ∧ t.me.pc = s.me.pc ∧ t.me.run = some .leave ∧
        r ∈ (t.clusterAt (clusterOf s.core)).leaves ∧ r.owner = s.me.id ∧ r.energy = matrixCharge s w ∧ r.current = 4 ∧
        t.here.engine.queue = e.queue)) ∧
    (f.grp = none → ¬ MatrixLegal s f w → exec i s = .next ((s.acting f.reads).trap .illegal ((encode i).setWidth 48)))

end

section
open Sys2Proof Machine Statements

/-- R349: leave with E of 1 to 2^20 - 1 that its cluster's budgets hold ends the strand's leave, records a request of E and the
current and stalls; it retires once the request has been granted; an E or a current above the budgets takes PROT with EVA ra;
leave.rel ends the leave and refunds nothing. -/
def Sys2Proof.Statements.Leaves : Prop :=
  ∀ (a b : BitVec 5) (t3 : BitVec 3) (s : State),
    let e := (s.src a).toNat
    let n := (s.src b).toNat
    let g := s.clusterAt (clusterOf s.core)
    let rest := s.here.leaves.filter fun l => l.owner != s.me.id
    (Issues s (.leave a b t3) [a, b] [] [] [] →
      (s.me.run = none → 1 ≤ e → e < 2 ^ 20 → e ≤ g.ebud → n ≤ g.ibud → ∃ t r, exec (.leave a b t3) s = .next t ∧ t.here.leaves = rest ∧
        t.me.pc = s.me.pc ∧ t.me.run = some .leave ∧ t.mem = s.mem ∧
        (t.clusterAt (clusterOf s.core)).leaves = (g.leaves.filter fun q => !(q.core == s.core && q.slot == s.slot)) ++ [r] ∧
        r.core = s.core ∧ r.slot = s.slot ∧ r.owner = s.me.id ∧ r.energy = e ∧ r.current = n) ∧
      (s.me.run = some .leave → (∀ r ∈ g.leaves, ¬ (r.core = s.core ∧ r.slot = s.slot ∧ r.owner = s.me.id)) →
        ∃ t, exec (.leave a b t3) s = .next t ∧ SlotOnly s t ∧ Retires s.me t.me []) ∧
      (s.me.run = none → (g.ebud < e ∨ g.ibud < n) → exec (.leave a b t3) s = .next ((s.acting [a, b]).trap .prot (s.src a)))) ∧
    (Issues s (.leaveRel t3) [] [] [] [] → ∃ t, exec (.leaveRel t3) s = .next t ∧ CoreOnly s t ∧ Retires s.me t.me [] ∧
      t.here = { s.here with slots := t.here.slots, leaves := rest })

end

section
open Sys2Proof Machine Statements

/-- R325, R350, R347 and R208: lutld takes sixteen bytes as the code table with the tag of rb and the strand's process as owner,
and a zero tag is ILLEGAL; fmtw writes FMT, SCA and SCB unchecked; tt.enq delivers the status of its record and, with status 0
alone, queues a task with the record and the captured FPC, FMT, SCA, SCB, process and tag in its own cluster; for another cluster
the record travels to that cluster's first core in a message whose answer is the status (notes/assumptions/125.md). -/
def Sys2Proof.Statements.FormatsAndTasks : Prop :=
  ∀ (a b c : BitVec 5) (t3 : BitVec 3) (s : State),
    let tag := (s.src b).toNat % 4096
    (Issues s (.lutld a b t3) [a, b] [] [] [] →
      (∀ y bs, tag ≠ 0 → (s.src a).toNat % 16 = 0 → TableAt (s.acting [a, b]) (s.src a) 16 y bs →
        ∃ t, exec (.lutld a b t3) s = .next t ∧ CoreOnly y t ∧ Retires y.me t.me [] ∧
          t.here = { y.here with slots := t.here.slots, lut := bs, ltag := BitVec.ofNat 32 (y.me.pid.toNat * 4096 + tag),
                                   lutWas := some (y.now, y.here.lut, y.here.ltag) }) ∧
      (tag = 0 → exec (.lutld a b t3) s = .next ((s.acting [a, b]).trap .illegal ((encode (.lutld a b t3)).setWidth 48)))) ∧
    (Issues s (.fmtw a b c t3) [a, b, c] [] [] [] → ∃ t, exec (.fmtw a b c t3) s = .next t ∧ SlotOnly s t ∧
      Retires { s.me with fmt := (s.src a).setWidth 32, sca := s.src b, scb := s.src c } t.me []) ∧
    (∀ y bs, Issues s (.ttEnq a c t3) [a] [c] [] [] → (s.src a).toNat % 64 = 0 →
      TableAt (s.acting [a, c]) (s.src a) 64 y bs →
      let clu := recClu bs
      let st := y.enqStatus bs y.me.fmt
      let captured (x : Task) := x.rec_ = bs ∧ x.pid = y.me.pid ∧ x.acct = y.me.acct ∧ x.fpc = y.me.fpc ∧ x.fmt = y.me.fmt ∧
        x.sca = y.me.sca ∧ x.scb = y.me.scb ∧ x.prv = y.privileged y.core y.slot
      (clu ≠ clusterOf s.core → ∃ t m x, exec (.ttEnq a c t3) s = .next t ∧ Sent y t m ∧ Awaits y.me t.me m (.result c false) ∧
        (clusterCores clu).head? = some m.dst ∧ m.rec_ = some x ∧ captured x ∧ ∀ g, (t.clusterAt g).queue = (y.clusterAt g).queue) ∧
      (clu = clusterOf s.core → ∃ t, exec (.ttEnq a c t3) s = .next t ∧ Delivered y.me t.me y.now c (wrap st) false 1 ∧ WindowKept y.me t.me [c] [] ∧
        ScalarOnly y.me t.me ∧ Advances y.me t.me ∧ t.mem = y.mem ∧ t.spm = y.spm ∧
        (st ≠ 0 → ∀ g, (t.clusterAt g).queue = (y.clusterAt g).queue) ∧
        (st = 0 → (∀ g, g ≠ clu → (t.clusterAt g).queue = (y.clusterAt g).queue) ∧
          (t.clusterAt clu).queue.length = (y.clusterAt clu).queue.length + 1 ∧
          ∃ x ∈ (t.clusterAt clu).queue, x.num = y.orders ∧ captured x)))

end

section
open Sys2Proof Machine Statements

/-- R349: leave with E of 1 to 2^20 - 1 that its cluster's budgets hold ends the strand's leave, records a request of E and the
current and stalls; it retires once the request has been granted; an E or a current above the budgets takes PROT with EVA ra;
leave.rel ends the leave and refunds nothing. R325, R350, R347 and R208: lutld takes sixteen bytes as the code table with the tag
of rb and the strand's process as owner, and a zero tag is ILLEGAL; fmtw writes FMT, SCA and SCB unchecked; tt.enq delivers the
status of its record and, with status 0 alone, queues a task with the record and the captured FPC, FMT, SCA, SCB, process and tag
in its own cluster; for another cluster the record travels to that cluster's first core in a message whose answer is the status
(notes/assumptions/125.md). -/
def Obligations.LeavesAndTasks : Prop :=
  Statements.Leaves ∧ Statements.FormatsAndTasks

end


namespace Sys2Proof.Statements

open Sys2Proof.Machine

/-! ## Attention and embedding forms (R360, R361) -/

/-- The forms that are requests to a vault's agent: the operand registers, the result's register, the procedure, the sub-operation,
and the alignment of an operand that is an offset. -/
structure AgentForm where
  a : BitVec 5
  b : Option (BitVec 5)
  c : Option (BitVec 5)
  proc : BitVec 4
  fn : BitVec 4
  align : Nat

/-- R360's table. -/
def agentOf : Instr → Option AgentForm
  | .kvApp a b c _ => some ⟨a, some b, some c, 7, 0, 32⟩
  | .kvFind a b c _ => some ⟨a, some b, some c, 7, 1, 0⟩
  | .kvFree a b c _ => some ⟨a, some b, some c, 7, 2, 0⟩
  | .kvGath a b _ => some ⟨a, some b, none, 7, 3, 32⟩
  | .rbSel a b c _ => some ⟨a, some b, some c, 7, 4, 32⟩
  | .rbSeln a b c _ => some ⟨a, some b, some c, 7, 5, 32⟩
  | .dpPlan a b c _ => some ⟨a, some b, some c, 7, 6, 32⟩
  | .embRed a c _ => some ⟨a, none, some c, 6, 0, 0⟩
  | _ => none

/-- The value of the second operand, zero where there is none. -/
def AgentForm.opnd (f : AgentForm) (s : State) : Word := match f.b with | some b => s.src b | none => 0

/-- The sources of a form. -/
def AgentForm.reads (f : AgentForm) : List (BitVec 5) := f.a :: f.b.toList

end Sys2Proof.Statements

section
open Sys2Proof Machine Statements

/-- R360: a form whose operands pass the checks and that has nothing posted sends one request of its procedure and sub-operation
to the vault that ra names, with PADDR ra translated, OPA rb and OPB the captured FPC and FMT; it retires with its result awaited,
or for kv.gath posted; an ra that is no multiple of 64 takes ALIGN with EVA ra, an offset outside the vault offsets PROT with EVA
rb. -/
def Obligations.AgentRequests : Prop :=
  ∀ (i : Instr) (f : AgentForm) (s : State), agentOf i = some f → Issues s i f.reads f.c.toList [] [] →
    let ea := s.src f.a
    let x := f.opnd s
    let y := s.acting (f.reads ++ f.c.toList)
    let local_ := ea.toNat < 2 ^ 28 ∧ Admitted s ea.toNat
    (∀ (z : State) (pa : Nat), ea.toNat % 64 = 0 → (f.align = 0 ∨ x.toNat % f.align = 0 ∧ x.toNat < 0x0FF00000) →
      (local_ ∧ z = y ∧ pa = ownVault s ea ∨ 2 ^ 28 ≤ ea.toNat ∧ y.agentAddress ea = (z, .ok pa)) →
      z.posted z.core 3 = false → (f.c = none → z.here.strict = true ∨ z.me.board.length < 16) →
      ∃ t m, exec i s = .next t ∧ Sent z t m ∧ m.proc = f.proc ∧ m.fn = f.fn ∧ m.dst = vaultOf pa ∧ m.paddr = pa ∧
        m.opa.toNat = x.toNat ∧ m.opb.toNat = z.me.fpc.toNat + z.me.fmt.toNat * 2 ^ 32 ∧ m.va = ea ∧ m.stage = .toOwner ∧
        (∀ c, f.c = some c → Awaits z.me t.me m (.result c false)) ∧
        (f.c = none → m.cls = .two ∧ m.storing = true ∧ Advances z.me t.me ∧ WindowKept z.me t.me [] [])) ∧
    (ea.toNat % 64 ≠ 0 → exec i s = .next (y.trap .align ea)) ∧
    (ea.toNat % 64 = 0 → local_ → 0 < f.align → x.toNat % f.align = 0 → 0x0FF00000 ≤ x.toNat → exec i s = .next (y.trap .prot x))

end


namespace Sys2Proof.Statements

open Sys2Proof.Machine

/-! ## Traps and the system forms (R376 to R404) -/

/-- The codes of R376. -/
def causeCode : Cause → Nat
  | .illegal => 0x01 | .priv => 0x02 | .understall => 0x03 | .expired => 0x04 | .poison => 0x05 | .spill => 0x06 | .fill => 0x07
  | .feature => 0x08 | .align => 0x09 | .xlate => 0x0A | .prot => 0x0B | .refused => 0x0C | .waitlim => 0x0D | .eccue => 0x0E
  | .cksum => 0x0F | .tldtherm => 0x10 | .luttag => 0x11 | .preempt => 0x12 | .brk => 0x13 | .syscall => 0x14 | .group => 0x15
  | .audit => 0x16

/-- The trap frame of a slot can be written: its address is one that ESB may hold, and the vault is sound there (R383). -/
def FrameSound (s : State) (c j : Nat) : Prop :=
  c < 1024 ∧ (s.slotAt c j).esb.toNat % 4096 = 0 ∧ 0x0FF52000 ≤ (s.slotAt c j).esb.toNat ∧ (s.slotAt c j).esb.toNat < 2 ^ 28 ∧
    s.sound (s.frameAddress c j) 4096

/-- What ECS holds after a trap (R382). -/
structure EcsAfter (v w : Slot) (c : Nat) (strict : Bool) (cause : Cause) (async : Bool) (sub : Nat) : Prop where
  cause   : w.ecs.toNat % 64 = causeCode cause
  inexact : w.ecs.getLsbD 7 = (strict && v.unack != 0)
  async   : w.ecs.getLsbD 8 = async
  rpt     : w.ecs.getLsbD 9 = v.frame.isSome
  hs      : w.ecs.getLsbD 10 = true
  dst     : w.ecs.toNat / 2 ^ 16 % 2 ^ 10 = c
  act     : w.ecs.toNat / 2 ^ 26 % 8 = 0
  unack   : w.ecs.toNat / 2 ^ 29 % 64 = if strict then min 63 v.unack else 0
  nsb     : w.ecs.toNat / 2 ^ 35 % 32 = if strict then 0 else w.board.length
  sub     : w.ecs.toNat / 2 ^ 40 = sub

end Sys2Proof.Statements

section
open Sys2Proof Machine Statements

/-- R380 and R382: a trap of a slot outside handler state sets EPC to the slot's pc, EPW to pw, EVA to the cause's value, ECS as
its map gives with HS 1, ACT 0 and DST the core, and the pc to vector 64 times the code above TVB.BASE; it writes 4,096 bytes of
frame at ESB, with TLDP and in non-strict mode the scoreboard entries, those that replies of the same cycle freed among them
(R405), no other byte of memory, and keeps every other register of the slot. -/
def Obligations.TrapEntry : Prop :=
  ∀ (s : State) (c j : Nat) (cause : Cause) (eva : Word) (async : Bool) (sub : Nat), FrameSound s c j → (s.slotAt c j).handler = false →
    (s.slotAt c j).board.length + (s.slotAt c j).freed.length ≤ 16 → sub < 256 →
    let v := s.slotAt c j
    let t := s.enterTrap c j cause eva async sub
    let w := t.slotAt c j
    let a := s.frameAddress c j
    w = { v with epc := v.pc, epw := v.pw, eva := eva, ecs := w.ecs, frame := none, run := none, fetched := none, streams := w.streams,
                 pc := w.pc, board := w.board, freed := [], early := none, trapAt := some s.now, turnNext := w.turnNext } ∧
      ((∀ e ∈ v.freed, e.1 ≠ s.now) → w.board = v.board) ∧ (∀ e, e ∈ w.board ↔ e ∈ v.board ∨ (s.now, e) ∈ v.freed) ∧
      EcsAfter v w c (s.coreAt c).strict cause async sub ∧
      w.pc = wrap (s.tvb.toNat % 2 ^ 48 / 4096 * 4096 + 64 * causeCode cause : Nat) ∧
      (∀ x, x < a ∨ a + 4096 ≤ x → t.mem.read x = s.mem.read x) ∧ t.spm = s.spm ∧ t.mem.readNat (a + 16) 8 = v.tldp.toNat ∧
      ((s.coreAt c).strict = false → ∀ n e, w.board[n]? = some e → t.mem.readNat (a + 0x100 + 192 * n) 8 = e.ctl % 2 ^ 64 ∧
        t.mem.readNat (a + 0x100 + 192 * n + 8) 8 = e.work.addr % 2 ^ 64 ∧ t.mem.readNat (a + 0x100 + 192 * n + 16) 8 = e.aux % 2 ^ 64) ∧
      (∀ k, k ≠ j → t.slotAt c k = s.slotAt c k) ∧ (∀ d, d ≠ c → t.coreAt d = s.coreAt d)

end

section
open Sys2Proof Machine Statements

/-- R399: trap retires and its strand then takes SYSCALL with EVA the code, and with EPC the next address under R380; brk does not
retire and takes BREAK with EVA the code; either in handler state is a double trap, which logs both causes and ends the strand. -/
def Sys2Proof.Statements.SystemCalls : Prop :=
  ∀ (n : BitVec 7) (t3 : BitVec 3) (s : State),
    (Issues s (.trap n t3) [] [] [] [] → ∃ y : State, SlotOnly s y ∧ Retires s.me y.me [] ∧
      exec (.trap n t3) s = .next (y.enterTrap y.core y.slot .syscall (n.setWidth 48) false 0)) ∧
    (Issues s (.brk n t3) [] [] [] [] →
      exec (.brk n t3) s = .next ((s.acting []).enterTrap s.core s.slot .brk (n.setWidth 48) false 0)) ∧
    (∀ cause eva async sub, s.me.handler = true → (∀ e ∈ s.me.board, e.state ≠ 0 ∨ e.stop = true) →
      s.enterTrap s.core s.slot cause eva async sub = (s.logError s.core 10 2 cause.code s.me.pc.toNat (s.me.ecs.toNat % 64)
        (s.who s.core s.slot) false).endStrand s.core s.slot false)

end


namespace Sys2Proof.Statements

open Sys2Proof.Machine

/-- The value of a control register (R245). -/
def controlValue (s : State) (n : Nat) : Word :=
  let v := s.me
  let k := s.here
  match n with
  | 0x00 => wrap v.fpc.toNat | 0x01 => wrap v.wlim.toNat | 0x02 => wrap k.mode.toNat | 0x03 => wrap v.fmt.toNat | 0x04 => v.sca
  | 0x05 => v.scb | 0x06 => wrap v.mqb.toNat | 0x07 => wrap k.ltag.toNat | 0x08 => wrap v.acct.toNat
  | 0x09 => wrap (match v.strand with | some b => b.eff.toNat * 32 + b.base.toNat | none => 0 : Nat)
  | 0x10 => v.epc | 0x11 => v.ecs | 0x12 => v.eva | 0x13 => wrap v.epw.toNat | 0x14 => v.esb | 0x15 => wrap v.tldp.toNat
  | 0x18 => wrap k.vevt.toNat | 0x19 => wrap k.ckev.toNat | 0x1A => k.eia | 0x1B => k.eic
  | _ => 0

/-- The writable bits of a register replaced. -/
def replaced {n : Nat} (old : BitVec n) (mask x : Nat) : BitVec n := (old &&& ~~~(BitVec.ofNat n mask)) ||| BitVec.ofNat n (x &&& mask)

/-- A slot as a write of one of its control registers leaves it; those of the core and the read-only ones leave it as it is (R104,
R245, R381 to R384, R142, R223). -/
def slotWritten (v : Slot) (n x : Nat) : Slot :=
  match n with
  | 0x00 => { v with fpc := BitVec.ofNat 32 (x / 2 ^ 8 % 32 * 2 ^ 8 + x / 8 % 2 * 8 + if x % 8 ≤ 4 then x % 8 else v.fpc.toNat % 8) }
  | 0x01 => { v with wlim := BitVec.ofNat 64 (x % 2 ^ 48) }
  | 0x08 => { v with acct := BitVec.ofNat 16 x }
  | 0x10 => { v with epc := wrap x }
  | 0x11 => { v with ecs := replaced v.ecs 0x1FFF0000 x }
  | 0x12 => { v with eva := wrap x }
  | 0x13 => { v with epw := BitVec.ofNat 32 x }
  | 0x14 => if 0x0FF52000 ≤ x % 2 ^ 28 / 4096 * 4096 then { v with esb := wrap (x % 2 ^ 28 / 4096 * 4096 : Nat) } else v
  | 0x15 => { v with tldp := BitVec.ofNat 32 (x % 2 ^ 32 / 2 ^ 31 * 2 ^ 31 + x % 128) }
  | _ => v

/-- A core as a write of one of its control registers other than EIC leaves it (R144, R199, R232, R410). -/
def coreWritten (k : Core) (n x : Nat) : Core :=
  match n with
  | 0x02 => { k with mode := BitVec.ofNat 32 (x % 4) }
  | 0x18 => { k with vevt := BitVec.ofNat 64 (x % 2 ^ 48) }
  | 0x19 => { k with ckev := BitVec.ofNat 64 (x % 2 ^ 48) }
  | 0x1A => { k with eia := wrap (x % 2 ^ 44 : Nat) }
  | _ => k

end Sys2Proof.Statements

section
open Sys2Proof Machine Statements

/-- R245, R400, R391 and R410: crd delivers the register that imm7 names; cwr writes its writable fields from ra and ignores a
read-only one; a change of MODE.STRICT waits until no slot of the core has work outstanding and no posted request of the core is
in flight; a write of EIC replaces BIT, TGT and DBL, clears FIRED where written as 1, and arms or disarms. -/
def Sys2Proof.Statements.ControlRegisters : Prop :=
  ∀ (d a : BitVec 5) (n : BitVec 7) (t3 : BitVec 3) (s : State),
    (Issues s (.crd d n t3) [] [d] [] [] → ∃ t, exec (.crd d n t3) s = .next t ∧ SlotOnly s t ∧
      Delivered s.me t.me s.now d (controlValue s n.toNat) false 1 ∧ WindowKept s.me t.me [d] [] ∧ ScalarOnly s.me t.me ∧ Advances s.me t.me) ∧
    (Issues s (.cwr a n t3) [a] [] [] [] →
      let x := (s.src a).toNat
      let quiet := (∀ j < 8, (s.slotAt s.core j).unack = 0 ∧ (s.slotAt s.core j).board = []) ∧
        ∀ m ∈ s.mesh, m.storing = true → m.src ≠ s.core
      (n ≠ 0x1B → (n = 2 → (s.src a).getLsbD 0 = s.here.mode.getLsbD 0 ∨ quiet) → ∃ t, exec (.cwr a n t3) s = .next t ∧ CoreOnly s t ∧
        t.here = { coreWritten s.here n.toNat x with slots := t.here.slots } ∧ Retires (slotWritten s.me n.toNat x) t.me []) ∧
      (n = 2 → (s.src a).getLsbD 0 ≠ s.here.mode.getLsbD 0 → ¬ quiet → ∃ t, exec (.cwr a n t3) s = .next t ∧ t.me.pc = s.me.pc ∧
        t.here.mode = s.here.mode) ∧
      (n = 0x1B → ∃ t, exec (.cwr a n t3) s = .next t ∧ t.mem = s.mem ∧ Retires s.me t.me [] ∧
        t.here.eic.getLsbD 3 = (s.here.eic.getLsbD 3 && !(s.src a).getLsbD 3) ∧ t.here.eic.toNat / 2 ^ 8 = x / 2 ^ 8 % 2 ^ 8 ∧
        t.here.eic.getLsbD 2 = (s.src a).getLsbD 2 ∧ t.here.eic.getLsbD 1 = (s.src a).getLsbD 1 ∧
        t.here.eic.getLsbD 0 = ((s.src a).getLsbD 0 && if (s.src a).getLsbD 2 then decide (s.here.eia.toNat % 2 ^ 44 < 2 ^ 18)
          else decide (s.here.eia.toNat % 2 ^ 44 < 2 ^ 38)))) 

end

section
open Sys2Proof Machine Statements

/-- R401: selectors 0 to 3 and 4 read and write a register and the save address of older window w, reading zero and writing
nothing when w is out of range, and a window's registers once its bank is on, its parity good and, for a read, its stored copy
sound; selector 5 reads the number of older windows, and writes it by dropping the deepest or by adding one zero window; selector
6 reads the core that owns the vault a global address reaches. -/
def Sys2Proof.Statements.WindowSelectors : Prop :=
  ∀ (d a : BitVec 5) (n : BitVec 7) (t3 : BitVec 3) (s : State),
    let w := (s.src a).toNat
    let at_ := if w = 0 then none else s.me.older[w - 1]?
    let x := s.src d
    let reach (reads : Prop) := ∀ o, at_ = some o → (reads → o.spoilt = false) ∧ (o.inFile = true → o.quad.power = .on ∧ o.quad.poisoned 0 = none)
    (Issues s (.xrd d a n t3) [a] [d] [] [] →
      (n.toNat ≤ 5 → (n.toNat ≤ 3 → reach True) → ∃ t, exec (.xrd d a n t3) s = .next t ∧ (Unflawed s.me → SlotOnly s t) ∧ Delivered s.me t.me s.now d (match n.toNat with
          | 4 => (at_.map (·.save)).getD 0
          | 5 => wrap s.me.older.length
          | i => (at_.map fun o => (o.quad.get i).flushed s.now).getD 0) false 1 ∧
        WindowKept s.me t.me [d] [] ∧ ScalarOnly { s.me with older := t.me.older } t.me ∧ Advances s.me t.me ∧
        t.me.older.length = s.me.older.length ∧ ∀ (k : Nat) (o : OldWin), s.me.older[k]? = some o → ∃ q : OldWin, t.me.older[k]? = some q ∧
          q = { o with quad := { o.quad with touched := q.quad.touched }, flawed := q.flawed } ∧ (q.flawed = true → o.flawed = true)) ∧
      (n = 6 → ∀ y r, (s.acting [a, d]).ownerCore (s.src a) .route = (y, r) → ∃ t, exec (.xrd d a n t3) s = .next t ∧
        FinishedWith y t [] d (match r with | .ok (o, _) => wrap o | .error _ => wrap (2 ^ 48 - 1)) false 1)) ∧
    (Issues s (.xwr d a n t3) [a, d] [] [] [] → (n.toNat ≤ 3 → reach False) → ∃ t, exec (.xwr d a n t3) s = .next t ∧ SlotOnly s t ∧ Advances s.me t.me ∧
      WindowKept s.me t.me [] [] ∧ t.me.preds = s.me.preds ∧ t.me.fl = s.me.fl ∧
      (n.toNat ≤ 4 → t.me.older.length = s.me.older.length ∧ ∀ (k : Nat) (o : OldWin), s.me.older[k]? = some o → ∃ q : OldWin, t.me.older[k]? = some q ∧
        (k + 1 ≠ w → q = o) ∧
        (k + 1 = w → n = 4 → q = { o with save := x }) ∧
        (k + 1 = w → n.toNat ≤ 3 → q.save = o.save ∧ (q.quad.get n.toNat).val = x ∧ (q.quad.get n.toNat).mark = none ∧
          (q.quad.get n.toNat).live = true ∧ ∀ i, i < 4 → i ≠ n.toNat → q.quad.get i = o.quad.get i)) ∧
      (n = 5 → (x.toNat ≤ s.me.older.length → t.me.older = s.me.older.take x.toNat) ∧
        (x.toNat = s.me.older.length + 1 → x.toNat ≤ 31 → ∃ o, t.me.older = s.me.older ++ [o] ∧ o.save = 0 ∧ ∀ i, i < 4 → (o.quad.get i).val = 0) ∧
        (s.me.older.length + 1 < x.toNat ∨ x.toNat = s.me.older.length + 1 ∧ 31 < x.toNat → t.me.older = s.me.older)))

end

section
open Sys2Proof Machine Statements

/-- R245, R400, R391 and R410: crd delivers the register that imm7 names; cwr writes its writable fields from ra and ignores a
read-only one; a change of MODE.STRICT waits until no slot of the core has work outstanding and no posted request of the core is
in flight; a write of EIC replaces BIT, TGT and DBL, clears FIRED where written as 1, and arms or disarms. R401: selectors 0 to 3
and 4 read and write a register and the save address of older window w, reading zero and writing nothing when w is out of range,
and a window's registers once its bank is on, its parity good and, for a read, its stored copy sound; selector 5 reads the number
of older windows, and writes it by dropping the deepest or by adding one zero window; selector 6 reads the core that owns the
vault a global address reaches. -/
def Obligations.ControlAndWindows : Prop :=
  Statements.ControlRegisters ∧ Statements.WindowSelectors

end

section
open Sys2Proof Machine Statements

/-- R403, R404 and R416: halt retires and stops issue in the core; idle retires and its strand issues nothing further; kill of
another core that is not yet killed retires with that core listed to be killed, the list in ascending core id; at the end of the
cycle the listed cores are killed in that order, each with its bit in the killed map set, its engine stopped without B, its inbox,
ring, overflow and waiter lists empty and every slot of it idle; a kill of the own core or of a number above 1,023 takes PROT with
EVA ra. -/
def Sys2Proof.Statements.HaltIdleKill : Prop :=
  ∀ (a : BitVec 5) (t3 : BitVec 3) (s : State),
    (Issues s (.halt t3) [] [] [] [] → ∃ t, exec (.halt t3) s = .next t ∧ CoreOnly s t ∧ Retires s.me t.me [] ∧
      t.here = { s.here with slots := t.here.slots, halted := true }) ∧
    (Issues s (.idle t3) [] [] [] [] → s.me.handler = false → ∃ t, exec (.idle t3) s = .next t ∧ SlotOnly s t ∧ WindowKept s.me t.me [] [] ∧
      Advances s.me t.me ∧ t.me.run = some (.idle false)) ∧
    (Issues s (.kill a t3) [a] [] [] [] →
      let x := (s.src a).toNat
      (x ≠ s.core → x ≤ 1023 → (s.coreAt x).killed = false → ∃ t, exec (.kill a t3) s = .next t ∧ Advances s.me t.me ∧ t.mem = s.mem ∧
        t.spm = s.spm ∧ (∀ d, d ≠ s.core → d ≠ x → t.coreAt d = s.coreAt d) ∧ (∃ k ∈ t.kills, k.1 = x) ∧ (∀ k ∈ s.kills, k ∈ t.kills) ∧
        (∀ k ∈ t.kills, k ∈ s.kills ∨ k.1 = x) ∧ (s.kills.Pairwise (·.1 < ·.1) → t.kills.Pairwise (·.1 < ·.1))) ∧
      (x = s.core ∨ 1023 < x → exec (.kill a t3) s = .next ((s.acting [a]).trap .prot (s.src a)))) ∧
    (∀ n, s.now < n → (∀ x m b, s.kills = [(x, m, b)] → x ≤ 1023 → (s.coreAt x).killed = false →
        let t := s.endCycle n
        let k := t.coreAt x
        k.killed = true ∧ k.engine.frozen = true ∧ k.engine.bk = 0 ∧ k.engine.queue = [] ∧ k.inbox = [] ∧ k.ring = [] ∧ k.overflow = [] ∧
          k.waiters = [] ∧ k.copies = [] ∧ ∀ j, j < 8 → (t.slotAt x j).strand = none ∧ (t.slotAt x j).k = (s.slotAt x j).k) ∧
      (∀ x y, s.kills = [x, y] → s.endCycle n =
        (({ s with kills := [] } : State).killCore x.1 x.2.1 x.2.2).killCore y.1 y.2.1 y.2.2))

end

section
open Sys2Proof Machine Statements

/-- R397: freeze of an engine of the cluster whose running operation, if any, may be stopped leaves it frozen with no B resident
and retires, and one already frozen has no effect; it waits while the running operation belongs to a strand that is not in handler
state; thaw lets the engine start its queue; a core outside the cluster takes PROT with EVA ra. -/
def Sys2Proof.Statements.FreezeAndThaw : Prop :=
  ∀ (a : BitVec 5) (t3 : BitVec 3) (s : State),
    let x := (s.src a).toNat
    let near := x ≤ 1023 ∧ clusterOf x = clusterOf s.core
    let e := (s.coreAt x).engine
    let busy := e.frozen = false ∧ ∃ o, e.queue.head? = some o ∧ o.task = none ∧
      ¬ ((s.slotAt x o.slot).handler = true ∧ (s.slotAt x o.slot).strand.map (·.id) = some o.id)
    (Issues s (.freeze a t3) [a] [] [] [] →
      (near → e.frozen = true → ∃ t, exec (.freeze a t3) s = .next t ∧ SlotOnly s t ∧ Retires s.me t.me []) ∧
      (near → e.frozen = false → ¬ busy → ∃ t, exec (.freeze a t3) s = .next t ∧ (t.coreAt x).engine.frozen = true ∧ (t.coreAt x).engine.bk = 0 ∧
        (t.coreAt x).engine.bkey = 0 ∧ (t.coreAt x).engine.abuf0 = e.abuf0 ∧ (t.coreAt x).engine.abuf1 = e.abuf1 ∧ Advances s.me t.me ∧
        (e.queue = [] → t.mem = s.mem ∧ ∀ k, (t.tileAt x k).rows = (s.tileAt x k).rows)) ∧
      (near → busy → ∃ t, exec (.freeze a t3) s = .next t ∧ t.me.pc = s.me.pc ∧ (t.coreAt x).engine = e) ∧
      (¬ near → exec (.freeze a t3) s = .next ((s.acting [a]).trap .prot (s.src a)))) ∧
    (Issues s (.thaw a t3) [a] [] [] [] →
      (near → ∃ t, exec (.thaw a t3) s = .next t ∧ t = { s with cores := t.cores, clusters := t.clusters } ∧ Retires s.me t.me [] ∧
        (t.coreAt x).engine.frozen = false ∧ (e.frozen = false → (t.coreAt x).engine = e) ∧
        (e.frozen = true → (t.coreAt x).engine.queue.tail = e.queue.tail ∧
          (t.coreAt x).engine.queue.head? = e.queue.head?.map fun o => { o with started := s.now })) ∧
      (¬ near → exec (.thaw a t3) s = .next ((s.acting [a]).trap .prot (s.src a))))

end

section
open Sys2Proof Machine Statements

/-- R403, R404 and R416: halt retires and stops issue in the core; idle retires and its strand issues nothing further; kill of
another core that is not yet killed retires with that core listed to be killed, the list in ascending core id; at the end of the
cycle the listed cores are killed in that order, each with its bit in the killed map set, its engine stopped without B, its inbox,
ring, overflow and waiter lists empty and every slot of it idle; a kill of the own core or of a number above 1,023 takes PROT with
EVA ra. R397: freeze of an engine of the cluster whose running operation, if any, may be stopped leaves it frozen with no B
resident and retires, and one already frozen has no effect; it waits while the running operation belongs to a strand that is not
in handler state; thaw lets the engine start its queue; a core outside the cluster takes PROT with EVA ra. -/
def Obligations.StoppingCores : Prop :=
  Statements.HaltIdleKill ∧ Statements.FreezeAndThaw

end

section
open Sys2Proof Machine Statements

/-- R402, R396 and R66: stinv, once nothing of the strand is outstanding, sends each of the 64 stations an invalidation with the
page, process and selections of its operands, and retires once all have acknowledged; preempt makes the request of its word,
retires at once with the number of cores released, or 0 when refused, and else when no selected core is vacating any more, with
the number of those vacated and not killed. -/
def Obligations.Invalidations : Prop :=
  ∀ (d a : BitVec 5) (t3 : BitVec 3) (s : State),
    (Issues s (.stinv d a t3) [a, d] [] [] [] →
      (s.me.run ≠ some .stinv → s.posted s.core 3 = false → ∃ t l, exec (.stinv d a t3) s = .next t ∧ t.invs = s.invs ++ l ∧ l.length = 64 ∧
        t.me.run = some .stinv ∧ t.me.pc = s.me.pc ∧ t.mem = s.mem ∧ t.mesh = s.mesh ∧
        ∀ n, n < 64 → ∃ m, l[n]? = some m ∧ m.station = n ∧ m.core = s.core ∧ m.slot = s.slot ∧ m.page.toNat = (s.src a).toNat / 2 ^ 16 ∧
          m.pid.toNat = (s.src d).toNat % 2 ^ 16 ∧ m.allv = (s.src d).getLsbD 16 ∧ m.allp = (s.src d).getLsbD 17) ∧
      (s.me.run = some .stinv → (∀ m ∈ s.invs, ¬ (m.core = s.core ∧ m.slot = s.slot)) →
        ∃ t, exec (.stinv d a t3) s = .next t ∧ SlotOnly s t ∧ Retires s.me t.me [])) ∧
    (Issues s (.preempt d a t3) [a] [d] [] [] →
      (∀ y l, s.me.run = none → (s.acting [a, d]).request ((s.src a).toNat % 2 ^ 32) s.core = (y, l) →
        (((s.src a).getLsbD 31 = true ∨ l = []) → ∃ t, exec (.preempt d a t3) s = .next t ∧ FinishedWith y t [] d (wrap l.length) false 1) ∧
        ((s.src a).getLsbD 31 = false → l ≠ [] → ∃ t, exec (.preempt d a t3) s = .next t ∧ t.me.pc = y.me.pc ∧
          t.me.run = some (.preempt l false) ∧ ∀ c, (t.coreAt c).vacating = (y.coreAt c).vacating)) ∧
      (∀ l r, s.me.run = some (.preempt l r) → (∀ c ∈ l, (s.coreAt c).vacating = false) → ∃ t, exec (.preempt d a t3) s = .next t ∧ SlotOnly s t ∧
        Delivered s.me t.me s.now d (wrap (l.filter fun c => (s.coreAt c).vacated && !(s.coreAt c).killed).length) false 1 ∧ WindowKept s.me t.me [d] [] ∧
        ScalarOnly s.me t.me ∧ Advances s.me t.me))

end


namespace Sys2Proof.Statements

open Sys2Proof.Machine

/-- ACT of a slot's ECS (R382). -/
def actOf (v : Slot) : Nat := v.ecs.toNat / 2 ^ 26 % 8

/-- A slot as `rte` leaves handler state (R392). -/
def Left (v w : Slot) : Prop :=
  w = { v with lo := w.lo, hi := w.hi, board := [], pend := v.pend.filter (·.entry.isNone), ecs := replaced v.ecs 0x400 0,
               preds := v.epw.extractLsb' 1 11, pc := v.epc, frame := none, run := none, turnNext := w.turnNext }

end Sys2Proof.Statements

section
open Sys2Proof Machine Statements

/-- R392: with every entry settled and none failed, rte under ACT 0 resumes at EPC outside handler state with p1 to p11 from EPW
and no entry, the held causes of the cleared entries dropped with them (notes/assumptions/44.md) and nothing else changed; under
ACT 1 and 2 it migrates with KIND 1 and 3 to DST, under ACT 5 it suspends into the core's ring, and under ACT 4 it ends the
strand; ACT above 5 and rte outside handler state are ILLEGAL. -/
def Sys2Proof.Statements.ReturnFromTrap : Prop :=
  ∀ (t3 : BitVec 3) (s : State), Issues s (.rte t3) [] [] [] [] →
    (s.me.handler = true → (∀ e ∈ s.me.board, e.state ≠ 0) →
      (actOf s.me = 0 → s.me.ecs.getLsbD 9 = false → ∃ t, exec (.rte t3) s = .next t ∧ SlotOnly s t ∧ WindowKept s.me t.me [] [] ∧ Left s.me t.me) ∧
      (∀ (y : State) (p : Packet), s.me.ecs.getLsbD 9 = false → s.posted s.core 3 = false → s.me.draining = false →
        ((actOf s.me = 1 ∨ actOf s.me = 2) →
          (s.acting []).suspend s.core s.slot Slot.leaving s.me.epc (s.me.ecs.toNat / 2 ^ 16 % 2 ^ 10)
            (if actOf s.me = 1 then 1 else 3) = (y, .ok p) → exec (.rte t3) s = .next ((y.issued { st := t3 }).sendPacket p)) ∧
        (actOf s.me = 5 → (s.acting []).suspend s.core s.slot Slot.leaving s.me.epc s.core 0 = (y, .ok p) →
          exec (.rte t3) s = .next ((y.issued { st := t3 }).makeReady s.core p))) ∧
      (actOf s.me = 4 → exec (.rte t3) s = .next (((s.acting []).issued { st := t3 }).endStrand s.core s.slot false)) ∧
      (actOf s.me = 3 → exec (.rte t3) s = .next (((s.acting []).issued { st := t3 }).restartHere s.core s.slot)) ∧
      ((5 < actOf s.me ∨ (actOf s.me = 1 ∨ actOf s.me = 2 ∨ actOf s.me = 5) ∧ s.me.ecs.getLsbD 9 = true) →
        exec (.rte t3) s = .next ((s.acting []).trap .illegal ((encode (.rte t3)).setWidth 48)))) ∧
    (s.me.handler = false → exec (.rte t3) s = .next (s.trap .illegal ((encode (.rte t3)).setWidth 48)))

end

section
open Sys2Proof Machine Statements

/-- R388: settle of an empty entry delivers 0; of an entry it leaves the entry, or with act 1 or 2 and STOP set gives it STATE 1,
2 or 3 by what was performed, writes the entry to the frame and delivers CTL bits 63:16; with act 3 it reissues the remainder of a
retryable entry of STATE 2 or 3; with act 1 it waits while STOP is 0. -/
def Sys2Proof.Statements.Settling : Prop :=
  ∀ (d a : BitVec 5) (t3 : BitVec 3) (s : State), Issues s (.settle d a t3) [a] [d] [] [] →
    let j := (s.src a).toNat % 16
    let act := (s.src a).toNat / 16 % 4
    let at_ := s.frameAddress s.core s.slot + 0x100 + 192 * j
    (s.me.board[j]? = none → ∃ t, exec (.settle d a t3) s = .next t ∧ SlotOnly s t ∧ Delivered s.me t.me s.now d 0 false 1 ∧
      WindowKept s.me t.me [d] [] ∧ Advances s.me t.me) ∧
    (∀ e, s.me.board[j]? = some e → FrameSound s s.core s.slot →
      let f := if act = 1 ∨ act = 2 then { e with state := if e.state ≠ 0 then e.state else if e.cause = none then 1 else if e.part then 3 else 2 }
        else e
      let retryable := (e.state = 2 ∨ e.state = 3) ∧ ∀ o, e.work = .matrix o → ¬ (e.aux = 0 ∧ e.cause ≠ none)
      ((act = 0 ∨ act = 3 ∧ ¬ retryable ∨ (act = 1 ∨ act = 2) ∧ e.stop = true) → ∃ t, exec (.settle d a t3) s = .next t ∧
        t.me.board = s.me.board.set j f ∧ Delivered s.me t.me s.now d (wrap (f.ctl % 2 ^ 64 / 2 ^ 16 : Nat)) false 1 ∧
        WindowKept s.me t.me [d] [] ∧ Advances s.me t.me ∧ Stored s.mem t.mem at_ f.bytes ∧ t.spm = s.spm) ∧
      (act = 3 → retryable → ∀ y g, (s.acting [a, d]).retry e = some (y, g) → FrameSound y s.core s.slot →
        ∃ t, exec (.settle d a t3) s = .next t ∧ t.me.board = y.me.board.set j g ∧ Stored y.mem t.mem at_ g.bytes ∧ Advances y.me t.me ∧
          t.mesh = y.mesh ∧ t.here.copies = y.here.copies ∧ t.here.engine = y.here.engine) ∧
      (act = 1 → e.stop = false → ∃ t, exec (.settle d a t3) s = .next t ∧ t.me.pc = s.me.pc ∧ t.me.board = s.me.board ∧ t.mem = s.mem))

end

section
open Sys2Proof Machine Statements

/-- R399: trap retires and its strand then takes SYSCALL with EVA the code, and with EPC the next address under R380; brk does not
retire and takes BREAK with EVA the code; either in handler state is a double trap, which logs both causes and ends the strand.
R392: with every entry settled and none failed, rte under ACT 0 resumes at EPC outside handler state with p1 to p11 from EPW and
no entry, the held causes of the cleared entries dropped with them (notes/assumptions/44.md) and nothing else changed; under ACT 1
and 2 it migrates with KIND 1 and 3 to DST, under ACT 5 it suspends into the core's ring, and under ACT 4 it ends the strand; ACT
above 5 and rte outside handler state are ILLEGAL. R388: settle of an empty entry delivers 0; of an entry it leaves the entry, or
with act 1 or 2 and STOP set gives it STATE 1, 2 or 3 by what was performed, writes the entry to the frame and delivers CTL bits
63:16; with act 3 it reissues the remainder of a retryable entry of STATE 2 or 3; with act 1 it waits while STOP is 0. -/
def Obligations.CallsToTheSystem : Prop :=
  Statements.SystemCalls ∧ Statements.ReturnFromTrap ∧ Statements.Settling

end


namespace Sys2Proof.Statements

open Sys2Proof.Machine

/-- A field of a word. -/
def bitsAt (w : BitVec 32) (lo n : Nat) : Nat := w.toNat / 2 ^ lo % 2 ^ n

end Sys2Proof.Statements

section
open Sys2Proof Machine Statements

/-- R236 to R238: rpt whose len words are all admitted retires with a frame of those words at its own pc; in a frame the next word
issues after each, the frame again up to cnt times, and after the last word of the last replay the pc is the word after the frame;
replay k of a vector word adds k times the strides to its three names modulo 64, but not to a vb that its form does not use, and
changes no other bit; a word outside the majors 0x06 to 0x13 and 0x28 to 0x2E without mqset, nop and the VMISC minors 0 to 6, 9
and 10 is refused, and rpt takes ILLEGAL with the address of the first word refused. -/
def Obligations.RepeatFrames : Prop :=
  (∀ (len : BitVec 4) (cnt : BitVec 6) (sd sa sb : BitVec 4) (t3 : BitVec 3) (s y : State) (ws : List (BitVec 32)),
    let i : Instr := .rpt len cnt sd sa sb t3
    Issues s i [] [] [] [] → s.me.frame = none →
    State.captureFrom s.core s.slot sd.toInt sa.toInt sb.toInt (len.toNat + 1) (s.me.pc + 4) (s.acting []) = (y, .ok ws) →
    ∃ t f, exec i s = .next t ∧ t = { y with cores := t.cores, clusters := t.clusters } ∧ t.me.pc = s.me.pc ∧ t.me.frame = some f ∧
      ws.length = len.toNat + 1 ∧ f.addr = s.me.pc ∧ f.words = ws ∧ f.cnt = cnt.toNat + 1 ∧ f.pos = 0 ∧ f.rep = 0 ∧ f.sd = sd.toInt ∧
      f.sa = sa.toInt ∧ f.sb = sb.toInt) ∧
  (∀ (v : Slot) (f : Frame), v.frame = some f → f.pos < f.words.length → f.rep < f.cnt →
    let w := v.step
    w = { v with pc := w.pc, frame := w.frame } ∧
    (f.pos + 1 < f.words.length → w.pc = v.pc ∧ w.frame = some { f with pos := f.pos + 1 }) ∧
    (f.pos + 1 = f.words.length → f.rep + 1 < f.cnt → w.pc = v.pc ∧ w.frame = some { f with pos := 0, rep := f.rep + 1 }) ∧
    (f.pos + 1 = f.words.length → f.rep + 1 = f.cnt → w.frame = none ∧ w.pc = wrap (f.addr.toNat + 4 + 4 * f.words.length : Nat))) ∧
  (∀ (w : BitVec 32) (sd sa sb : Int) (k : Nat) (ignores : BitVec 32 → Bool), 0x28 ≤ bitsAt w 26 6 → rolesOfWord w = some (.vec, .vec, .vec) →
    let x := rotateWord w sd sa sb k ignores
    (bitsAt x 20 6 : Int) = (bitsAt w 20 6 + k * sd) % 64 ∧ (bitsAt x 14 6 : Int) = (bitsAt w 14 6 + k * sa) % 64 ∧
      ((∀ z, ignores z = false) → (bitsAt x 8 6 : Int) = (bitsAt w 8 6 + k * sb) % 64) ∧
      ((∀ z, ignores z = true) → bitsAt x 8 6 = bitsAt w 8 6) ∧ bitsAt x 26 6 = bitsAt w 26 6 ∧ bitsAt x 0 8 = bitsAt w 0 8) ∧
  (∀ (s y : State) (c j : Nat) (w : BitVec 32) (sd sa sb : Int) (n : Nat) (a : Word), s.fetchWord c j a = (y, .ok w) →
    let op := bitsAt w 26 6
    let fn := bitsAt w 3 5
    (¬ (0x06 ≤ op ∧ op ≤ 0x13 ∨ bitsAt w 3 29 = 0x100000 / 8 ∨ 0x28 ≤ op ∧ op ≤ 0x2E ∧ ¬ (op = 0x2D ∧ fn = 5) ∨
        op = 0x30 ∧ (fn ≤ 6 ∨ fn = 9 ∨ fn = 10)) →
      State.captureFrom c j sd sa sb (n + 1) a s = (y, .error (.illegal, a))) ∧
    (y.refuseWord c j w sd sa sb = none → ∀ z cause b, State.captureFrom c j sd sa sb n (a + 4) y = (z, .error (cause, b)) →
      State.captureFrom c j sd sa sb (n + 1) a s = (z, .error (cause, b)))) ∧
  (∀ (len : BitVec 4) (cnt : BitVec 6) (sd sa sb : BitVec 4) (t3 : BitVec 3) (s y : State) (cause : Cause) (b : Word),
    let i : Instr := .rpt len cnt sd sa sb t3
    Issues s i [] [] [] [] → s.me.frame = none →
    State.captureFrom s.core s.slot sd.toInt sa.toInt sb.toInt (len.toNat + 1) (s.me.pc + 4) (s.acting []) = (y, .error (cause, b)) →
    exec i s = .next (y.trap cause b))

end


namespace Sys2Proof.Statements

open Sys2Proof.Machine

/-! ## Issue, the step, reset, and the encoding -/

/-- The forms that R244 marks P, but for `rte`, which outside handler state is ILLEGAL before it is PRIV (R392). -/
def privForm : Instr → Bool
  | .settle _ _ _ | .xrd _ _ _ _ | .xwr _ _ _ _ | .preempt _ _ _ | .freeze _ _ | .thaw _ _ | .stinv _ _ _ | .halt _ | .idle _ | .kill _ _ => true
  | .crd _ n _ => n.toNat = 2 || 8 ≤ n.toNat && n.toNat ≠ 9
  | .cwr _ n _ => n.toNat = 2 || 8 ≤ n.toNat && n.toNat ≠ 9
  | _ => false

/-- The unit that an instruction needs, as its bit of the feature mask: the modular lanes, the special-function unit, the matrix engine
(R20). -/
def unitOf : Instr → Option Nat
  | .vcvtMr _ _ _ | .vmadd _ _ _ _ | .vmsub _ _ _ _ | .vmmul _ _ _ _ | .vmmac _ _ _ _ | .vmneg _ _ _ | .mqset _ _ | .bflyCt _ _ _ _ | .bflyGs _ _ _ _ => some 0
  | .vexp2 _ _ _ | .vlog2 _ _ _ | .vrcp _ _ _ | .vrsqrt _ _ _ | .vsin _ _ _ | .vcos _ _ _ | .vtanh _ _ _ | .vexp _ _ _ | .vlse _ _ _ _ => some 1
  | .tfill _ _ _ | .tdrain _ _ _ | .rowact _ _ | .rowpre _ _ | .tld _ _ _ _ _ | .bld _ _ _ _ | .mma _ _ _ _ | .mmaZ _ _ _ _ | .mmaM _ _ _ _
  | .mmag _ _ _ _ _ | .mmagZ _ _ _ _ _ => some 2
  | _ => none

/-- Those of them that no state makes ILLEGAL at issue: they name no vector register, no buffer and no format. -/
def untyped : Instr → Bool
  | .mqset _ _ | .tfill _ _ _ | .tdrain _ _ _ | .rowact _ _ | .rowpre _ _ | .mma _ _ _ _ | .mmaZ _ _ _ _ | .mmaM _ _ _ _
  | .mmag _ _ _ _ _ | .mmagZ _ _ _ _ _ => true
  | _ => false

/-- An instruction ends with a trap; while an access of its strand is awaited it does not issue, since its trap would come before
the access is performed (R377). -/
def Stops (i : Instr) (s : State) (k : Cause) (eva : Word) : Prop := exec i s = .next (if s.me.awaits = [] then s.trap k eva else s)

/-- An instruction consumes a result before it is ready: it stalls, or under MODE.SBC takes UNDERSTALL; while an access of its strand is
awaited the trap is kept until that access is performed (R231, R377). -/
def TooEarly (i : Instr) (s : State) (eva : Word) : Prop :=
  exec i s = .next (if s.here.mode.getLsbD 1 = false then s else if s.me.awaits = [] then s.trap .understall eva
    else s.onMe fun v => { v with early := some eva })

/-- The instruction takes no PRIV: its strand is privileged, or the form is not a P form and names no k register (R69, R244). -/
def TakesNoPriv (i : Instr) (s : State) : Prop :=
  ((formOf i).priv || (formOf i).codes.any fun c => decide (24 ≤ c.toNat)) = true → s.privileged s.core s.slot = true

end Sys2Proof.Statements

section
open Sys2Proof Machine Statements

/-- R246, R231, R81 and R79: a scalar instruction that names a k register unprivileged, and any P form, takes PRIV; an instruction
that takes no PRIV and whose unit the core lacks takes FEATURE where it is not ILLEGAL, each with EVA the word; then the first
unready source stalls the slot, or takes UNDERSTALL with its code under MODE.SBC, and with EVA 17 for a predicate
(notes/assumptions/9.md); then a bank that is not on is woken while the pc stays, and a register that it reads found poisoned
takes POISON with its number (notes/assumptions/119.md); then the first lapsed source takes EXPIRED with its code. While an access
of the strand is awaited an instruction that would trap, or that names a code whose value is on its way, waits, and an UNDERSTALL
met then is taken afterwards (notes/assumptions/3.md). -/
def Obligations.IssueChecks : Prop :=
  (∀ (i : Instr) (s : State), privForm i = true → i.WellFormed → s.privileged s.core s.slot = false → Stops i s .priv ((encode i).setWidth 48)) ∧
  (∀ (i : Instr) (b : Nat) (s : State), unitOf i = some b → i.WellFormed → TakesNoPriv i s → s.here.feat.getLsbD b = false →
    Stops i s .feature ((encode i).setWidth 48) ∨ untyped i = false ∧ Stops i s .illegal ((encode i).setWidth 48)) ∧
  (∀ (i : Instr) (f : ScalarForm) (s : State), scalarForm i = some f →
    let codes := f.srcs.map (·.1) ++ [f.d]
    let high := ∃ c ∈ codes, 24 ≤ c.toNat
    let unready := (f.srcs.map (·.1)).find? fun c => !s.me.codeReady s.turn c
    let sleeps := s.me.asleep codes
    let poison := s.me.poisonIn (banksOf (f.srcs.map (·.1)))
    (i.WellFormed → high → s.privileged s.core s.slot = false → Stops i s .priv ((encode i).setWidth 48)) ∧
    let busy := (∃ c ∈ f.srcs, s.me.busy c.1 = true) ∨ (∃ p ∈ f.preds, p ≠ 0) ∧ s.me.busy 17 = true
    let late := ∃ p ∈ f.preds, s.me.predReady s.turn p = false
    (busy → exec i s = .next s) ∧
    (i.WellFormed → (high → s.privileged s.core s.slot = true) → ¬ busy →
      (∀ e, s.me.early = some e → Stops i s .understall e) ∧
      (s.me.early = none → ∀ c, unready = some c → TooEarly i s (c.setWidth 48)) ∧
      (s.me.early = none → unready = none → late → TooEarly i s 17) ∧
      (s.me.early = none → unready = none → ¬ late → s.me.busy f.d = true → exec i s = .next s) ∧
      (s.me.early = none → unready = none → ¬ late →
        (∀ n, poison = some n → s.me.awaits = [] → ∃ t : State, exec i s = .next (t.trap .poison (BitVec.ofNat 48 n)) ∧ t.me.pc = s.me.pc ∧
          t.spm = s.spm) ∧
        (sleeps ≠ (false, false) → poison = none →
          (s.me.awaits = [] ∨ s.me.busy f.d = false) →
          ∃ t, exec i s = .next t ∧ t.me.pc = s.me.pc ∧ t.mem = s.mem ∧
          (sleeps.1 = true → t.me.lo.power = .on) ∧ (sleeps.2 = true → t.me.hi.power = .on) ∧
          ∀ n, n < 8 → (s.me.reg n).bad = false → (t.me.reg n).val = (s.me.reg n).val) ∧
        (sleeps = (false, false) → poison = none → ∀ c,
          (f.srcs.map (·.1)).find? (fun c => decide (c.toNat < 8) && (s.me.reg c.toNat).expired s.now) = some c →
          Stops i s .expired (c.setWidth 48)))))

end

section
open Sys2Proof Machine Statements

/-- With a slot's turn next on the agenda and nothing to come before its instruction, a word that decodes is executed for that
slot, in a cycle that is the slot's own (R18), and one that does not takes ILLEGAL with EVA the word (R227, R246); a failing fetch
takes its cause with EVA the pc; both wait while an access of the strand is awaited. The word of a slot outside a repeat frame is
the four bytes, little-endian, at the physical address its pc translates to (R117, R225), and inside one the frame's word with its
registers rotated; nothing comes before an instruction of a slot that may issue and has no cause, load or run pending; an event of
the agenda is executed; a move that names a unit the device lacks faults. That the agenda orders the moves is the model's choice
(notes/assumptions/2.md). -/
def Obligations.StepRunsDecoded : Prop :=
  (∀ (s y : State) (n c j : Nat) (r : List Move) (x : Except Cause (BitVec 32)), s.agenda = .issue n c j :: r → c < 1024 → j < 8 →
    let p : State := ({ s with agenda := r }).atIssue n c j
    p.before c j = none → (p.synced c j).nextWord c j = (y, x) →
      (∀ w i, x = .ok w → decode w = .ok i → step s = exec i y) ∧
      (∀ w e, x = .ok w → decode w = .error e →
        step s = .next (if (y.slotAt c j).awaits = [] then y.enterTrap c j .illegal (w.setWidth 48) false 0 else y)) ∧
      (∀ k, x = .error k → step s = .next (if (y.slotAt c j).awaits = [] then y.enterTrap c j k (y.slotAt c j).pc false 0 else y))) ∧
  (∀ (s : State) (n c j : Nat), let t := s.atIssue n c j
    j < 8 → t.now % 8 = j ∧ s.now + n ≤ t.now ∧ t.core = c ∧ t.slot = j ∧
      t = { s.endCycle t.now with now := t.now, rank := t.rank, core := c, slot := j } ∧ (s.kills = [] → s.endCycle t.now = s)) ∧
  (∀ (s y : State) (c j pa : Nat), let v := s.slotAt c j
    v.frame = none → v.pc.toNat % 4 = 0 → 2 ^ 32 ≤ v.pc.toNat →
    s.translate (s.who c j) (if v.ecs.getLsbD 10 then s.spid else v.pid) (s.privileged c j) v.pc.toNat .fetch = (y, .ok pa) → pa < 2 ^ 38 →
    (y.coreAt (pa / 2 ^ 28)).killed = false → y.sound pa 4 →
    ∃ z, s.nextWord c j = (z, .ok (BitVec.ofNat 32 (s.mem.readNat pa 4))) ∧ z.mem = s.mem ∧ z.spm = s.spm ∧ z.core = s.core ∧ z.slot = s.slot) ∧
  (∀ (s : State) (c j : Nat) (f : Frame), (s.slotAt c j).frame = some f → s.nextWord c j = (s, .ok (s.frameWord c j f))) ∧
  (∀ (s : State) (c j : Nat), let v := s.slotAt c j
    s.turns c j = true → (s.coreAt c).spoilt = false → v.run = none → (∀ l, s.launchAt v.id.lid = some l → l.ending = false) →
      v.needShadow = false → v.needScb = false → v.pend = [] → v.preempt = false → s.auditCause c j = none → v.first = [] →
      s.before c j = none) ∧
  (∀ (s : State) (n : Nat) (e : Instr) (r : List Move), s.agenda = .event n e :: r → isEvent e = true →
    step s = exec e (({ s with agenda := r }).atEvent n e)) ∧
  (∀ (s : State) (m : Move) (r : List Move), s.agenda = m :: r → m.named = false → step s = .fault .noSuchUnit)

end

section
open Sys2Proof Machine Statements

/-- No instruction and no event is refused and none faults: exec answers a next state for each, in every state, so a step answers
one too unless its move names a unit the device does not have. -/
def Obligations.StepAlwaysAnswers : Prop :=
  (∀ (i : Instr) (s : State), ∃ t, exec i s = .next t) ∧
  ∀ (s : State), s.nextMove.1.named = true → ∃ t, step s = .next t

end

section
open Sys2Proof Machine Statements

/-- R431, R12 and the reset columns: after a reset whose bring-up has completed every vault byte reads zero, every full/empty bit
is full, no launch, strand or message exists, translation is off, every core is in strict mode with FPC, WLIM, MQB, LTAG, ECS but
its DST, EIC and the counters zero and DST its own number, every tile is zero of type 1 with consistent checksums, every link is
up, and the clusters are at nominal with GATE, BEN and ECO 0. The values of registers the spec gives none for are the model's (log
entries 13 to 18). -/
def Obligations.ResetValues : Prop :=
  let s := State.reset
  (∀ a, s.mem.read a = 0) ∧ s.empties = [] ∧ s.stpt = 0 ∧ s.tvb = 0 ∧ s.mesh = [] ∧ s.packets = [] ∧ s.notes = [] ∧
    (∀ c, (s.coreAt c).strict = true ∧ (s.coreAt c).sbc = false ∧ (s.coreAt c).killed = false ∧ (s.coreAt c).launches = [] ∧ (s.coreAt c).ltag = 0 ∧
      (s.coreAt c).eic = 0 ∧ (s.coreAt c).vevt = 0 ∧ (s.coreAt c).ckev = 0 ∧ (s.coreAt c).lut = List.replicate 16 0) ∧
    (∀ c j, (s.slotAt c j).strand = none ∧ (s.slotAt c j).fpc = 0 ∧ (s.slotAt c j).wlim = 0 ∧ (s.slotAt c j).mqb = 0 ∧ (s.slotAt c j).board = []) ∧
    (∀ c j, c < 1024 → j < 8 → (s.slotAt c j).ecs.toNat = c * 2 ^ 16 ∧ (s.slotAt c j).handler = false) ∧
    (∀ c t, (s.tileAt c t).ty = 1 ∧ (s.tileAt c t).err = false ∧ (s.tileAt c t).stale = false ∧ ∀ r ∈ (s.tileAt c t).rows, r = 0) ∧
    (∀ n, (s.linkAt n).up = true) ∧ s.medlar.up = true ∧ s.medlar.rdy = true ∧
    ∀ g, (s.clusterAt g).step = .nominal ∧ (s.clusterAt g).power = .up ∧ (s.clusterAt g).cpwr.toNat % 2 ^ 12 = 0

end

section
open Sys2Proof Machine Statements

/-- State.reset lists no byte of vault or scratchpad, so both memories have their canonical form; that unlisted bytes read zero is
R431 for the vaults and the model's choice for the scratchpads (notes/assumptions/13.md). -/
def Obligations.ResetMemoryForm : Prop :=
  State.reset.MemoryWf ∧ (∀ a, State.reset.mem.read a = 0) ∧ ∀ a, State.reset.spm.read a = 0

end

section
open Sys2Proof Machine Statements

/-- Where the vault memory and the scratchpads list addresses that strictly rise and no zero byte, they do so after any step that
answers a next state, whatever instruction or event it was; the canonical form is the model's, and the steps are those of the
opcode table. -/
def Obligations.StepKeepsMemoryForm : Prop :=
  ∀ s t : State, s.MemoryWf → step s = .next t → t.MemoryWf

end

section
open Sys2Proof Machine Statements

/-- Words that the spec writes out beside their instructions decode to them: those of R398 for the SYS forms, of the worked
program of the scalar chapter and of the encoding chapter for the ALU, immediate, branch, call, loop, load, store, vector and
repeat forms. -/
def Obligations.DecodedWords : Prop :=
  decode 0x00100000 = .ok (.nop 0) ∧ decode 0x00200028 = .ok (.trap 5 0) ∧ decode 0x00300000 = .ok (.brk 0 0) ∧
  decode 0x00400000 = .ok (.rte 0) ∧ decode 0x00508800 = .ok (.settle 1 2 0) ∧ decode 0x00618080 = .ok (.crd 3 0x10 0) ∧
  decode 0x00700408 = .ok (.cwr 1 1 0) ∧ decode 0x00810420 = .ok (.xrd 2 1 4 0) ∧ decode 0x00910400 = .ok (.xwr 2 1 0 0) ∧
  decode 0x00A10400 = .ok (.preempt 2 1 0) ∧ decode 0x00B00400 = .ok (.freeze 1 0) ∧ decode 0x00C00400 = .ok (.thaw 1 0) ∧
  decode 0x00D10400 = .ok (.stinv 2 1 0) ∧ decode 0x00E00000 = .ok (.halt 0) ∧ decode 0x00F00000 = .ok (.idle 0) ∧
  decode 0x01000400 = .ok (.kill 1 0) ∧
  decode 0x18288000 = .ok (.add 1 8 16 0 0 0) ∧ decode 0x30400000 = .ok (.li 2 0 0) ∧ decode 0x68810000 = .ok (.ldx 4 1 0 0 0 0) ∧
  decode 0x18422008 = .ok (.add 2 2 4 0 1 0) ∧ decode 0x1C210080 = .ok (.addi 1 1 8 0 0) ∧ decode 0x1460FFD0 = .ok (.loop 3 0xFFD 0) ∧
  decode 0x7849A000 = .ok (.stx 2 9 2 2 0 0) ∧ decode 0x100001C0 = .ok (.exit 0) ∧ decode 0xA0586818 = .ok (.vfma 5 33 40 0) ∧
  decode 0x04FFFFFD = .ok (.bn 3 0x1FFFFD) ∧ decode 0xF0678880 = .ok (.rpt 3 15 1 1 0 0) ∧ decode 0x0C000003 = .ok (.call 3) ∧
  decode 0x3C204020 = .ok (.cmpiLt 1 0 2 0 0) ∧ decode 0x04400006 = .ok (.b 1 6) ∧ decode 0x100000C0 = .ok (.wpf 0) ∧
  decode 0x18002241 = .ok (.mul 0 0 4 0 0 1) ∧ decode 0x10000000 = .ok (.ret 0) ∧ decode 0 = .error .zeroWord

end

section
open Sys2Proof Machine Statements

/-- For every well-formed instruction the decoder reads the word of it back as that instruction, with every operand at every value
its encoding admits, and a word that the decoder accepts is the word of the well-formed instruction it reads, so that no two words
mean the same and no word means two instructions. -/
def Obligations.RoundTrip : Prop :=
  (∀ i : Instr, i.WellFormed → decode (encode i) = .ok i) ∧
  ∀ (w : BitVec 32) (i : Instr), decode w = .ok i → i.WellFormed ∧ encode i = w

end


namespace Sys2Proof.Statements

open Sys2Proof.Machine

/-! ## Events of slots (R37, R49, R57, R76 to R82, R89, R377, R395) -/

/-- A slot at an instruction boundary at which asynchronous causes are taken: outside frames and outside handler state, with nothing
begun but the wait for a leave, no access awaited and the loads of its take-up done (R231, R238, R377). -/
structure AtBoundary (v : Slot) : Prop where
  strand  : v.strand.isSome = true
  awaits  : v.awaits = []
  run     : v.run = none ∨ v.run = some .leave
  frame   : v.frame = none
  handler : v.ecs.getLsbD 10 = false
  loaded  : v.needShadow = false ∧ v.needScb = false

/-- The effective priority of a ring entry (R57): its base plus one for each 2^16 cycles waited, at most 31. -/
def effective (e : RingEntry) (now : Nat) : Nat := min 31 (e.pkt.bpri.toNat + (now - e.since + e.w0) / 2 ^ 16)

/-- `f` goes ahead of `e` in a ring: a higher effective priority, or among equals a displaced strand (R57, R67). -/
def ahead (now : Nat) (f e : RingEntry) : Prop :=
  effective e now < effective f now ∨ effective f now = effective e now ∧ f.pkt.ahead = true ∧ e.pkt.ahead = false

/-- What a slot holds that has taken up a ring entry whose record's continuation lies in 64 bytes: the registers, pc, scratch and
predicate word of the record, the identity of the packet, and everything else as a free slot has it (R35, R36, R57). -/
structure Loaded (v w : Slot) (e : RingEntry) (now : Nat) (m : Memory) (b : Nat) : Prop where
  strand  : w.strand = some (Bound.mk e.pkt.cont.id e.pkt.pid e.pkt.bpri (BitVec.ofNat 5 (effective e now))
    (BitVec.ofNat 12 (m.readNat (b + 60) 4 / 2 ^ 20)) (BitVec.ofNat 4 (m.readNat (b + 60) 4 / 2 ^ 16)) e.pkt.lrec)
  regs    : ∀ n, n < 8 → w.reg n = Reg.written (BitVec.ofNat 48 (m.readNat (b + 6 * n) 6)) none 0
  pc      : w.pc = BitVec.ofNat 48 (m.readNat (b + 48) 6)
  scratch : w.fl = BitVec.ofNat 48 (m.readNat (b + 54) 6)
  preds   : w.preds = BitVec.ofNat 11 (m.readNat (b + 60) 4 / 2)
  fresh   : w.older = [] ∧ w.streams = [] ∧ w.board = [] ∧ w.awaits = [] ∧ w.frame = none ∧ w.run = none ∧ w.pend = [] ∧ w.preempt = false
  first   : w.first = e.pkt.cont.pend.toList
  tag     : w.acct = e.pkt.pid
  times   : w.takenAt = now
  handler : w.handler = false
  kept    : w.k = v.k ∧ w.esb = v.esb ∧ w.fpc = v.fpc ∧ w.wlim = v.wlim ∧ w.mqb = v.mqb

/-- The bytes of a work-packet entry that must be zero (R48). -/
def packetGaps : List Nat := [4, 5, 6, 7, 14, 15, 22, 23, 30, 31, 38, 39, 46, 47, 54, 55, 62, 63]

end Sys2Proof.Statements

section
open Sys2Proof Machine Statements

/-- R377, R380, R37, R57, R395 and R403: at a boundary a slot takes the failure of its oldest entry, else AUDIT, else begins the
save of PREEMPT, else the cause its take-up left, and while an access of the strand is awaited the first three wait; the causes
that take-up leaves are taken one at a time in the order found (notes/assumptions/47.md); quantum expiry returns a strand that has
held an unreserved slot of a core that is not halted for 2^18 cycles to the ring when an entry of at least its base priority
waits, nothing drains and no cause is due, and else does nothing; where the write-back fails its cause is pending and the quantum
starts again (notes/assumptions/119.md); a drained strand that is being saved leaves its slot for its continuation-area slot and
waits with the core, and one whose drain has failed ends with the failure and PREEMPT logged. -/
def Obligations.SlotBoundaries : Prop :=
  ∀ (c j : Nat) (s : State), let v := s.slotAt c j
    (∀ g a, s.auditCause c j = some (g, a) →
      j = 0 ∧ v.pid = s.spid ∧ s.supervisorFor g = some c ∧ ∃ k, (g, k) ∈ s.clusters ∧ k.raised = some a) ∧
    (s.turns c j = true → AtBoundary v →
      (∀ i p, v.pend[i]? = some p → (∀ k q, v.pend[k]? = some q → p.entry.getD 0 < q.entry.getD 0 ∨ p.entry.getD 0 = q.entry.getD 0 ∧ i ≤ k) →
        exec (.trapEntry c j) s = .next ((s.putSlot c j { v with pend := v.pend.take i ++ v.pend.drop (i + 1) }).enterTrap c j p.cause p.eva true p.sub)) ∧
      (v.pend = [] → ∀ g a, s.auditCause c j = some (g, a) → exec (.trapEntry c j) s =
        .next ((s.putCluster g { s.clusterAt g with audit := none, raised := none }).enterTrap c j .audit a true 0)) ∧
      (v.pend = [] → s.auditCause c j = none → v.preempt = true → exec (.trapEntry c j) s = .next (s.putSlot c j { v with run := some .saving })) ∧
      (v.pend = [] → s.auditCause c j = none → v.preempt = false → ∀ cause eva r, v.first = (cause, eva) :: r →
        exec (.trapEntry c j) s = .next ((s.putSlot c j { v with first := r }).enterTrap c j cause eva false 0))) ∧
    (AtBoundary { v with awaits := [] } → v.awaits ≠ [] → v.pend ≠ [] ∨ s.auditCause c j ≠ none ∨ v.preempt = true →
      exec (.trapEntry c j) s = .next s) ∧
    (v.pend ≠ [] ∨ v.first ≠ [] ∨ v.preempt = true ∨ s.auditCause c j ≠ none ∨ (s.coreAt c).halted = true → exec (.quantumExpiry c j) s = .next s) ∧
    ((s.coreAt c).halted = false → AtBoundary v → v.pend = [] → v.first = [] → v.preempt = false → s.auditCause c j = none → v.reserved = none → s.posted c 3 = false →
      v.draining = false →
      (s.now < v.takenAt + 2 ^ 18 → exec (.quantumExpiry c j) s = .next s) ∧
      (v.takenAt + 2 ^ 18 ≤ s.now → ∀ b, v.strand = some b →
        ((∀ e ∈ (s.coreAt c).ring, effective e s.now < b.base.toNat) → exec (.quantumExpiry c j) s = .next s) ∧
        ((∃ e ∈ (s.coreAt c).ring, b.base.toNat ≤ effective e s.now) →
          (∀ y p, s.suspend c j id v.pc c 0 = (y, .ok p) → exec (.quantumExpiry c j) s = .next (y.makeReady c p)) ∧
          (∀ y cause a, s.suspend c j id v.pc c 0 = (y, .error (cause, a)) → exec (.quantumExpiry c j) s = .next (y.onSlot c j fun w =>
            { w with takenAt := y.now, pend := w.pend ++ [{ cause := cause, eva := a, sub := 0, entry := none }] }))))) ∧
    (v.preempt = true → v.run = some .saving →
      (∀ p l, v.pend = p :: l → exec (.preemptSave c j) s =
        .next (((s.logError c 10 2 p.cause.code v.pc.toNat Cause.preempt.code (s.who c j) false).endSettled c j).finishVacate c)) ∧
      (v.pend = [] → v.unack = 0 → (∀ e ∈ v.board, e.stop = true) → s.posted c 3 = false → v.draining = false →
        (∀ o ∈ (s.coreAt c).engine.queue, o.id = v.id → o.task.isSome = true) →
        ∀ y z p, s.suspend c j (fun w => { w with run := none }) v.pc c 4 = (y, .ok p) → y.saveSlot c p (2 ^ 63) = (z, true) →
          exec (.preemptSave c j) s = .next ((z.onCore c fun k =>
            { k with held := k.held ++ [{ pkt := { p with ahead := true }, since := z.now, w0 := 0, pos := 0 }] }).finishVacate c)) ∧
      (v.pend = [] → s.posted c 3 = true ∨ v.unack ≠ 0 ∨ (∃ e ∈ v.board, e.stop = false) → exec (.preemptSave c j) s = .next s))

end

section
open Sys2Proof Machine Statements

/-- R57, R49, R82 and R89: an idle unreserved slot of a running core takes up the ring entry of highest effective priority,
displaced strands first and then the oldest, and holds the registers, pc, predicates and handle that the record in the ring's
bytes of the vault has, and the process and priority of the packet, with the shadow load due, and the block load too but for a
strand that starts; the shadow load sets FMT, SCA and SCB from the work-packet entry of HANDLE, leaving ILLEGAL or the failure for
the next instruction, WPKT being walked as a global address (notes/assumptions/134.md); the block load sets FPC, WLIM and MQB from
the control block, its rsvd bits ignored (notes/assumptions/131.md), and a failing write of the fresh block leaves its cause for
the next instruction too (notes/assumptions/136.md); the modulus reload sets the sixteen pairs from the table at MQB. -/
def Obligations.TakingUp : Prop :=
  ∀ (c j : Nat) (s : State), let v := s.slotAt c j
    let k := s.coreAt c
    (v.strand = none → v.inbound = none → k.killed = false → k.vacating = false → (s.clusterAt (clusterOf c)).isUp = true → k.overflow = [] →
      (∀ i, i < 8 → (s.slotAt c i).reserved = none) →
      (k.ring = [] → exec (.takeUp c j) s = .next s) ∧
      (∀ (i : Nat) (e : RingEntry), k.ring[i]? = some e → (∀ (n : Nat) (f : RingEntry), k.ring[n]? = some f → ¬ ahead s.now f e ∧ (n < i → ahead s.now e f)) →
        let b := s.ringAddress c e.pos + 16
        s.sound b 64 →
        (e.pkt.cont.fresh = false → e.pkt.ahead = false →
          ∃ t, exec (.takeUp c j) s = .next t ∧ Loaded v (t.slotAt c j) e s.now s.mem b ∧ (t.slotAt c j).needShadow = true ∧
            (t.slotAt c j).needScb = true ∧ (t.coreAt c).ring = k.ring.filter (·.pos != e.pos) ∧ t.mem = s.mem ∧ t.spm = s.spm ∧
            (∀ d, d ≠ c → t.coreAt d = s.coreAt d) ∧ ∀ n, n ≠ j → t.slotAt c n = s.slotAt c n) ∧
        (e.pkt.cont.fresh = true → e.pkt.ahead = false → ∃ u : State, let w := u.slotAt c j
          Loaded { v with fpc := 0, wlim := 0, mqb := 0 } w e s.now s.mem b ∧ w.needShadow = true ∧ w.needScb = false ∧ u.mem = s.mem ∧ u.spm = s.spm ∧
            (u.coreAt c).ring = k.ring.filter (·.pos != e.pos) ∧
          ∀ y r, u.dataWrite c j (s.scbAddress e.pkt.cont.id) (List.replicate 64 0) = (y, r) →
            exec (.takeUp c j) s = .next (match r with
              | none => y
              | some cause => y.onSlot c j fun x => { x with first := x.first ++ [(cause, wrap (s.scbAddress e.pkt.cont.id : Nat))] })))) ∧
    (∀ b l, v.strand = some b → v.needShadow = true → s.launchAt b.id.lid = some l →
      let a := (l.wpkt.toNat + 64 * b.handle.toNat) % 2 ^ 48
      let x := s.putSlot c j { v with needShadow := false }
      ∀ y r, x.readGlobal (s.who c j) b.pid (b.pid == s.spid) a 64 .read = (y, r) →
        (∀ bs, r = .ok bs → (∀ o ∈ packetGaps, bs[o]? = some 0) → exec (.shadowRegisterLoad c j) s = .next (y.onSlot c j fun w => { w with
          fmt := BitVec.ofNat 32 (leNat (bs.take 4)), sca := BitVec.ofNat 48 (leNat ((bs.drop 8).take 8)),
          scb := BitVec.ofNat 48 (leNat ((bs.drop 16).take 8)) })) ∧
        (∀ bs o x, r = .ok bs → o ∈ packetGaps → bs[o]? = some x → x ≠ 0 →
          exec (.shadowRegisterLoad c j) s = .next (y.onSlot c j fun w => { w with first := w.first ++ [(.illegal, wrap (a : Nat))] })) ∧
        (∀ cause, r = .error cause →
          exec (.shadowRegisterLoad c j) s = .next (y.onSlot c j fun w => { w with first := w.first ++ [(cause, wrap (a : Nat))] }))) ∧
    (∀ b l, v.strand = some b → v.needScb = true → s.launchAt b.id.lid = some l →
      let a := (l.stkb.toNat + b.id.sid * 2 ^ l.stks) % 2 ^ 48
      let x := s.putSlot c j { v with needScb := false }
      ∀ y r, x.dataRead c j a 64 = (y, r) →
        (∀ bs, r = .ok bs → exec (.strandControlBlockLoad c j) s = .next (y.onSlot c j fun w => { w with
          fpc := (slotWritten { w with fpc := 0 } 0 (leNat (bs.take 4))).fpc,
          wlim := BitVec.ofNat 64 (leNat ((bs.drop 8).take 6)),
          mqb := BitVec.ofNat 64 (leNat ((bs.drop 16).take 8) &&& 0x8000FFFFFFFFFFFF) })) ∧
        (∀ cause, r = .error cause →
          exec (.strandControlBlockLoad c j) s = .next (y.onSlot c j fun w => { w with first := w.first ++ [(cause, wrap (a : Nat))] }))) ∧
    (v.strand.isSome = true → v.modLoaded = false → v.mqb.getLsbD 63 = true →
      ∀ y bs, s.dataRead c j (v.mqb.toNat % 2 ^ 48) 256 = (y, .ok bs) →
        let pairs := (List.range 16).map fun i => (BitVec.ofNat 64 (leNat ((bs.drop (16 * i)).take 8)), BitVec.ofNat 64 (leNat ((bs.drop (16 * i + 8)).take 8)))
        ((∀ p ∈ pairs, modulusOk p.1.toNat = true) →
          exec (.laneModulusReload c j) s = .next (y.onSlot c j fun w => { w with moduli := pairs, modLoaded := true })) ∧
        ((∃ p ∈ pairs, modulusOk p.1.toNat = false) → exec (.laneModulusReload c j) s = .next s)) ∧
    (v.strand.isSome = true → v.modLoaded = false → v.mqb.getLsbD 63 = true →
      ∀ y cause, s.dataRead c j (v.mqb.toNat % 2 ^ 48) 256 = (y, .error cause) → exec (.laneModulusReload c j) s = .next s)

end

section
open Sys2Proof Machine Statements

/-- R81, R78, R79 and R76: a bank that is on goes into retention once it has not been accessed for 4,096 cycles, and holds its
registers; a refresh changes no register; a marked register lapses at an age of 2,048 cycles and not before; each prefetch request
due moves the shallowest older window of the stack store into the window file, which holds at most three. -/
def Obligations.BanksAndMarks : Prop :=
  ∀ (c j : Nat) (s : State), let v := s.slotAt c j
    let kept (q : Quad) : Quad := { q with power := if q.power = .on ∧ q.touched + 4096 ≤ s.now ∧ q.fails < 3 then .retention else q.power }
    (∀ b, b < 2 → exec (.retention c j b) s = .next (s.putSlot c j (if b = 0 then { v with lo := kept v.lo } else { v with hi := kept v.hi }))) ∧
    (∀ n, ∃ t, exec (.retention c j (n + 2)) s = .next t ∧ let w := t.slotAt c j
      t = s.putSlot c j { v with older := w.older } ∧ w.older.length = v.older.length ∧
      ∀ (k : Nat) (o : OldWin), v.older[k]? = some o → w.older[k]? = some (if k = n ∧ o.inFile = true then { o with quad := kept o.quad } else o)) ∧
    (∃ t, exec (.gainCellRefresh c j) s = .next t ∧ t = s.putSlot c j { v with refreshed := s.now }) ∧
    (∀ n, n < 8 → ∃ t, exec (.shortLivedLapse c j n) s = .next t ∧ (∀ d, d ≠ c → t.coreAt d = s.coreAt d) ∧ t.mem = s.mem ∧
      let w := t.slotAt c j
      w = { v with lo := w.lo, hi := w.hi } ∧ (∀ i, i < 8 → i ≠ n → w.reg i = v.reg i) ∧
        w.reg n = { v.reg n with lapsed := (v.reg n).lapsed || match (v.reg n).mark with | some t => decide (t + 2048 ≤ s.now) | none => false }) ∧
    (∃ t, exec (.operandPrefetchCompletion c j) s = .next t ∧
      let w := t.slotAt c j
      let due := (v.prefetch.filter fun x => x ≤ s.now).length
      let held := (v.older.filter fun o => o.inFile).length
      (Unflawed v → t = s.putSlot c j w) ∧ w = { v with prefetch := v.prefetch.filter fun x => s.now < x, older := w.older, spare := w.spare } ∧
        w.older.length = v.older.length ∧ (held ≤ 3 → (w.older.filter fun o => o.inFile).length ≤ 3) ∧
        (∀ (i : Nat) (o : OldWin), v.older[i]? = some o → ∃ q : OldWin, w.older[i]? = some q ∧ (o.inFile = true → q.inFile = true) ∧
          q = { o with inFile := q.inFile, quad := { o.quad with fails := q.quad.fails }, flawed := q.flawed } ∧ (q.flawed = true → o.flawed = true)) ∧
        (due = 0 ∨ 3 ≤ held ∨ v.older.length ≤ held → w.older = v.older ∧ w.spare = v.spare) ∧
        (due = 1 → held < 3 → held < v.older.length → w.spare = v.spare.drop 1 ∧ ∀ (i : Nat) (o : OldWin), v.older[i]? = some o →
          w.older[i]? = some (if i = held then { o with inFile := true, quad := { o.quad with fails := v.spare.headD 0 }, flawed := o.inFile && o.flawed } else o)))

end


namespace Sys2Proof.Statements

open Sys2Proof.Machine

/-! ## Launches (R40 to R67, R291, R292, R420) -/

/-- The list without its element at a place. -/
def without {α : Type} (l : List α) (i : Nat) : List α := l.take i ++ l.drop (i + 1)

/-- A launch message as the Medlar port passes it on: SRC 0x3FF and PRV 1 (R420). -/
def fromPort (m : BitVec 128) : BitVec 128 := (m &&& ~~~(BitVec.ofNat 128 (0x7FF * 2 ^ 85))) ||| BitVec.ofNat 128 (0x7FF * 2 ^ 85)

/-- The strand `sid` of a launch as it is born (R46): its packet's continuation. -/
def Born (l : Launch) (lid : BitVec 16) (sid : Nat) (k : Cont) : Prop :=
  k.id = { lid := lid, sid := sid } ∧ k.pc = l.entry ∧ k.fl = wrap (l.stkb.toNat + (sid + 1) * 2 ^ l.stks : Nat) ∧ k.preds = 0 ∧
    k.handle.toNat = sid % (l.npkt + 1) % 2 ^ 12 ∧ k.hops = 0 ∧ ∀ i, k.a.getD i 0 = 0

/-- A core takes a strand of a launch in slot `j`, the lowest that is idle: it is of the allowed set, alive, and has the bytes and barrier
slots the launch asks for (R54). -/
def FitsAt (s : State) (l : Launch) (c j : Nat) : Prop :=
  c ∈ l.allowed ∧ (s.coreAt c).killed = false ∧ l.barn ≤ (s.coreAt c).freeBars.length ∧ 256 * l.spmn ≤ s.spmFree c ∧ j < 8 ∧
    (s.slotAt c j).idle = true ∧ ∀ i, i < j → (s.slotAt c i).idle = false

/-- No slot of a core fits. -/
def FitsNowhere (s : State) (l : Launch) (c : Nat) : Prop := ∀ j, ¬ FitsAt s l c j

/-- A packet enters the ring of a core: it is the last entry, at a place that no entry held, its wait counted from now with
w = (EPRI - BPRI) * 2^16, and its header and record are written to the 80 bytes of the place (R56, R57, R59). -/
def Enters (s t : State) (c : Nat) (p : Packet) : Prop :=
  ∃ pos, pos < 4096 ∧ (∀ e ∈ (s.coreAt c).ring, e.pos ≠ pos) ∧
    (t.coreAt c).ring = (s.coreAt c).ring ++ [{ pkt := p, since := s.now, w0 := (p.epri.toNat - p.bpri.toNat) * 2 ^ 16, pos := pos }] ∧
    (s.sound (s.ringAddress c pos) 80 → Stored s.mem t.mem (s.ringAddress c pos) (p.header ++ p.cont.bytes))

/-- What core `c` has counted of a launch: messages sent and received (R64). -/
def tally (s : State) (c : Nat) (lid : BitVec 16) : Nat × Nat :=
  (((s.coreAt c).traffic.find? (·.lid == lid)).map fun t => (t.sent, t.recv)).getD (0, 0)

/-- The ids of the launches that are live. -/
def live (s : State) : List (BitVec 16) := s.cores.flatMap fun (e : Nat × Core) => e.2.launches.map fun l => BitVec.ofNat 16 (e.1 * 64 + l.index)

/-- Strand `sid` of a co-resident launch holds its place (R55): slot `j` of core `d`, with the barrier slots and the bytes of a strand. -/
structure Reserved (t : State) (m : Launch) (lid : BitVec 16) (sid d j : Nat) : Prop where
  slot   : (t.slotAt d j).reserved = some { lid := lid, sid := sid }
  strand : ∃ u ∈ m.strands, u.sid = sid ∧ u.home = some d ∧ u.slot = some j ∧ u.left = 256 * m.spmn ∧ u.bars.length = m.barn ∧
    ∀ b ∈ u.bars, (b, ({ lid := lid, sid := sid } : StrandId)) ∈ (t.coreAt d).bars

/-- How many of the strands before `i` were dealt to the core of strand `i`. -/
def dealtBefore (plan : List (Nat × Nat)) (i : Nat) : Nat :=
  ((plan.take i).filter fun e => (plan[i]?.map (·.1)) == some e.1).length

/-- The packet `k` of the mesh has left it. -/
def landed (s : State) (k : Nat) : State := { s with packets := without s.packets k }

end Sys2Proof.Statements

section
open Sys2Proof Machine Statements

/-- R292, R416 and R420: a message enters the inbox of its core behind the messages there when it holds fewer than sixteen, waits
when it is full, and goes to the acting supervisor when the core has been killed; MLPOST holds a message with SRC 0x3FF and PRV 1,
and before RDY, or beyond sixteen, refuses it by setting DROP; the oldest held message enters core 0's inbox when that has room.
-/
def Sys2Proof.Statements.LaunchMessages : Prop :=
  (∀ (k c : Nat) (m : BitVec 128) (s : State), s.notes[k]? = some (c, m) →
    ((s.coreAt c).killed = false → (s.coreAt c).inbox.length < 16 → ∃ t, exec (.taskInboxAccept k) s = .next t ∧ t.notes = without s.notes k ∧
      (t.coreAt c).inbox = (s.coreAt c).inbox ++ [m] ∧ (∀ d, d ≠ c → t.coreAt d = s.coreAt d) ∧ t.mem = s.mem ∧ t.mesh = s.mesh) ∧
    ((s.coreAt c).killed = false → 16 ≤ (s.coreAt c).inbox.length → exec (.taskInboxAccept k) s = .next s) ∧
    ((s.coreAt c).killed = true → ∀ p, s.supervisorFor (clusterOf c) = some p →
      exec (.taskInboxAccept k) s = .next { s with notes := s.notes.set k (p, m) })) ∧
  (∀ (m : BitVec 128) (s : State), s.medlar.up = true →
    (s.medlar.rdy = true → s.medlar.held.length < 16 → exec (.mlpost m) s = .next { s with medlar := { s.medlar with held := s.medlar.held ++ [fromPort m] } }) ∧
    (s.medlar.rdy = false ∨ 16 ≤ s.medlar.held.length → ∃ t, exec (.mlpost m) s = .next t ∧ t.medlar.drop = true ∧ t.medlar.held = s.medlar.held ∧
      t.medlar.errors = s.medlar.errors + 1 ∧ t = { s with medlar := t.medlar })) ∧
  ∀ (m : BitVec 128) (r : List (BitVec 128)) (s : State), s.medlar.held = m :: r → (s.coreAt 0).killed = false →
    ((s.coreAt 0).inbox.length < 16 → ∃ t, exec .launchMessageForward s = .next t ∧ t.medlar.held = r ∧
      (t.coreAt 0).inbox = (s.coreAt 0).inbox ++ [m] ∧ t.mem = s.mem ∧ ∀ d, d ≠ 0 → t.coreAt d = s.coreAt d) ∧
    (16 ≤ (s.coreAt 0).inbox.length → exec .launchMessageForward s = .next s)

end

section
open Sys2Proof Machine Statements

/-- R44, R45, R55 and R292: the launch unit takes the oldest message of its inbox with the lowest free entry; a record that its
own fields or another process's message make malformed has its completion word filled with status 2; a good one empties the word
with value 0 and forms the allowed set of unkilled cores of the rectangle with the vacated status and the features asked for,
filling the word with 3 when it is empty and, for co-resident launches, with 1 when fewer places exist than strands; else the
launch is live and nothing of it has unfolded, a co-resident one holding a slot, its barrier slots and its bytes for every strand,
dealt in ascending sid round-robin over the allowed set with no core beyond its fit count. -/
def Sys2Proof.Statements.LaunchAcceptance : Prop :=
  ∀ (c n pa : Nat) (m : BitVec 128) (r : List (BitVec 128)) (s : State), (s.coreAt c).inbox = m :: r → (s.coreAt c).killed = false →
    (s.coreAt c).spoilt = false →
    n < 64 → (∀ l ∈ (s.coreAt c).launches, l.index ≠ n) → (∀ i, i < n → ∃ l ∈ (s.coreAt c).launches, l.index = i) →
    let rec_ := m.toNat % 2 ^ 44
    let x := s.onCore c fun k => { k with inbox := r }
    let lid := BitVec.ofNat 16 (c * 64 + n)
    rec_ < 2 ^ 38 → (s.coreAt (rec_ / 2 ^ 28)).killed = false →
    ∀ y bs, x.vaultRead { core := c, pid := m.extractLsb' 112 16, id := { lid := lid, sid := 0 } } rec_ 128 = (y, 0, bs) →
      let l := launchOf n rec_ bs
      let bad := recordBad rec_ bs = true ∨ m.getLsbD 85 = false ∧ l.pid ≠ m.extractLsb' 112 16
      let w : Who := { core := c, pid := l.pid, id := { lid := 0, sid := 0 } }
      ∀ z, leNat ((bs.drop 0x50).take 8) = 0 ∨ bad → l.done.toNat % 8 = 0 → 2 ^ 32 ≤ l.done.toNat →
      y.translate w l.pid (l.pid == s.spid) l.done.toNat .write = (z, .ok pa) → pa < 2 ^ 38 → pa % 8 = 0 → (z.coreAt (pa / 2 ^ 28)).killed = false →
      z.sound pa 8 →
      let allowed := l.allowed.filter fun d => !(s.coreAt d).killed && !(s.coreAt d).vacating && (s.coreAt d).vacated == l.vac &&
        (s.coreAt d).feat &&& l.feat == l.feat
      let refused (t : State) (status : Nat) : Prop := Stored s.mem t.mem pa (leBytes 8 (status * 2 ^ 56)) ∧ pa / 8 ∉ t.empties ∧
        (t.coreAt c).launches = (s.coreAt c).launches
      ∃ t, exec (.launchAcceptance c) s = .next t ∧ (t.coreAt c).inbox = r ∧
        (bad → refused t 2) ∧
        (¬ bad → ∀ q, z.vaultWrite w pa (leBytes 8 0) = (q, 0) → let e : State := { q with empties := insertNat (pa / 8) q.empties }
          e.translate w l.pid (l.pid == s.spid) l.done.toNat .write = (e, .ok pa) →
          (allowed = [] → refused t 3) ∧
          (allowed ≠ [] → l.cores = true → (allowed.map fun d => e.fitCount { l with allowed := allowed } d).sum < l.count → refused t 1)) ∧
        (¬ bad → allowed ≠ [] → l.cores = false → (t.coreAt c).launches = (s.coreAt c).launches ++ [{ l with allowed := allowed }] ∧
          Stored s.mem t.mem pa (leBytes 8 0) ∧ pa / 8 ∈ t.empties) ∧
        (¬ bad → c < 1024 → ∀ q, z.vaultWrite w pa (leBytes 8 0) = (q, 0) → let e : State := { q with empties := insertNat (pa / 8) q.empties }
          let fit := e.fitCount { l with allowed := allowed }
          allowed ≠ [] → l.cores = true → l.count ≤ (allowed.map fit).sum →
          ∃ m : Launch, (t.coreAt c).launches = (s.coreAt c).launches ++ [m] ∧
            m = { l with allowed := allowed, strands := m.strands, plan := m.plan } ∧ m.plan.length = l.count ∧
            (∀ i d j, m.plan[i]? = some (d, j) → d ∈ allowed ∧ j < 8 ∧ (s.slotAt d j).idle = true ∧ Reserved t m lid i d j) ∧
            (∀ d, (m.plan.filter fun p => p.1 == d).length ≤ fit d) ∧
            (∀ i k p q, i < k → m.plan[i]? = some p → m.plan[k]? = some q →
              dealtBefore m.plan i < dealtBefore m.plan k ∨ dealtBefore m.plan i = dealtBefore m.plan k ∧ p.1 < q.1) ∧
            Stored s.mem t.mem pa (leBytes 8 0) ∧ pa / 8 ∈ t.empties)

end

section
open Sys2Proof Machine Statements

/-- R292, R416 and R420: a message enters the inbox of its core behind the messages there when it holds fewer than sixteen, waits
when it is full, and goes to the acting supervisor when the core has been killed; MLPOST holds a message with SRC 0x3FF and PRV 1,
and before RDY, or beyond sixteen, refuses it by setting DROP; the oldest held message enters core 0's inbox when that has room.
R44, R45, R55 and R292: the launch unit takes the oldest message of its inbox with the lowest free entry; a record that its own
fields or another process's message make malformed has its completion word filled with status 2; a good one empties the word with
value 0 and forms the allowed set of unkilled cores of the rectangle with the vacated status and the features asked for, filling
the word with 3 when it is empty and, for co-resident launches, with 1 when fewer places exist than strands; else the launch is
live and nothing of it has unfolded, a co-resident one holding a slot, its barrier slots and its bytes for every strand, dealt in
ascending sid round-robin over the allowed set with no core beyond its fit count. -/
def Obligations.LaunchIntake : Prop :=
  Statements.LaunchMessages ∧ Statements.LaunchAcceptance

end

section
open Sys2Proof Machine Statements

/-- R46, R47, R53 and R54: the first launch in descending PRIO that has a place unfolds its next strand, one without a place not
holding the others up (notes/assumptions/133.md), born with pc ENTRY, fl at the top of its stack area, registers zero and HANDLE
sid mod NPKT plus 1; without a hint it joins the fallback queue, with one it leaves as a placement packet; the fallback's head
goes to the first core after its launch's last dispatch, or from the lowest allowed core before any (notes/assumptions/132.md),
that fits, which reserves the slot, the barrier slots and the bytes at once; a packet takes the first core on its way that fits
within RAD of its hint and goes on from one that does not; at its core, each core between having counted it as sent and received,
the strand runs, once the core's cluster is up. -/
def Obligations.UnfoldingAndPlacement : Prop :=
  (∀ (c : Nat) (l : Launch) (s : State), (s.coreAt c).byPrio.find? (fun l => s.canUnfold l) = some l → l.cores = false →
    (s.coreAt c).spoilt = false → (s.coreAt c).launches.Pairwise (fun a b => a.index ≠ b.index) → c < 1024 → l.index < 64 →
    let lid := BitVec.ofNat 16 (c * 64 + l.index)
    let u := l.birth l.nextSid
    (l.mode ≠ 1 ∨ (∀ g ∈ l.groups, g.num ≠ u.lowest) → ∃ t, exec (.unfolding c) s = .next t ∧ t.packets = s.packets ∧
      t.launchAt lid = some { l with nextSid := l.nextSid + 1, strands := l.strands ++ [u], queue := joinQueue (u.lowest, l.nextSid) l.queue }) ∧
    (l.mode = 1 → ∀ g, l.groups.find? (fun g => g.num == u.lowest) = some g → (s.coreAt (32 * g.hy + g.hx)).vacated = false →
      (s.coreAt (32 * g.hy + g.hx)).vacating = false → ∃ t p, exec (.unfolding c) s = .next t ∧ t.packets = s.packets ++ [p] ∧
        Born l lid l.nextSid p.cont ∧ p.hint = true ∧ p.at_ = c ∧ p.org = c ∧ p.rad = l.rad ∧ p.kind = 2 ∧ p.bpri = l.prio ∧ p.pid = l.pid ∧
        p.hx = (32 * g.hy + g.hx) % 32 ∧ p.hy = (32 * g.hy + g.hx) / 32 ∧
        t.launchAt lid = some { l with nextSid := l.nextSid + 1, strands := l.strands ++ [u] })) ∧
  (∀ (c d j g sid : Nat) (r : List (Nat × Nat)) (l : Launch) (s : State),
    (s.coreAt c).byPrio.find? (fun l => !l.queue.isEmpty && (s.fallbackCore l).isSome) = some l → l.queue = (g, sid) :: r →
    let scan := match l.last with | none => l.allowed | some e => l.allowed.filter (fun x => e < x) ++ l.allowed.filter fun x => x ≤ e
    ∀ before after, scan = before ++ d :: after → (∀ e ∈ before, FitsNowhere s l e) → FitsAt s l d j →
    let lid := BitVec.ofNat 16 (c * 64 + l.index)
    (s.coreAt c).launches.Pairwise (fun a b => a.index ≠ b.index) → c < 1024 → l.index < 64 →
    ∀ u, l.strands.find? (fun u => u.sid == sid) = some u →
    ∃ t p, exec (.roundRobinFallback c) s = .next t ∧ t.packets = s.packets ++ [p] ∧ Born l lid sid p.cont ∧ p.dst = d ∧
      p.slot = some j ∧ p.hint = false ∧ p.kind = 2 ∧ (t.slotAt d j).inbound = some { lid := lid, sid := sid } ∧
      (∃ m, t.launchAt lid = some m ∧ m.queue = r ∧ m.last = some d) ∧
      t.homeOf { lid := lid, sid := sid } = some d ∧ (t.coreAt d).bars.length = (s.coreAt d).bars.length + l.barn ∧ t.mem = s.mem) ∧
  (∀ (k : Nat) (p : Packet) (s : State), s.packets[k]? = some p →
    (p.hint = false → ∀ j, p.slot = some j → p.at_ ≠ p.dst →
      let between := ((route p.at_ p.dst).drop 1).dropLast
      ∃ u : State, exec (.placementPacket k) s = exec (.placementPacket k) u ∧ u = { s with cores := u.cores, packets := s.packets.set k { p with at_ := p.dst } } ∧
        ∀ d lid, tally u d lid = if d ∈ between ∧ (s.coreAt d).killed = false ∧ lid = p.cont.id.lid then
          ((tally s d lid).1 + 1, (tally s d lid).2 + 1) else tally s d lid) ∧
    (p.hint = false → ∀ j, p.slot = some j → p.at_ = p.dst → (s.slotAt p.dst j).inbound = some p.cont.id ∨ (s.slotAt p.dst j).reserved = some p.cont.id →
      (s.coreAt p.dst).killed = false → (s.coreAt p.dst).vacating = false → (s.coreAt p.dst).vacated = false →
      if (s.clusterAt (clusterOf p.dst)).isUp then exec (.placementPacket k) s = .next ((landed s k).place p.dst j p)
      else ∃ t, exec (.placementPacket k) s = .next t ∧ t.packets = s.packets.set k p ∧ t.cores = s.cores ∧ t.mem = s.mem ∧
        ((s.clusterAt (clusterOf p.dst)).power = .gated → (t.clusterAt (clusterOf p.dst)).power = .queued)) ∧
    (p.hint = true → ∀ l, s.launchAt p.cont.id.lid = some l → let hint := 32 * p.hy + p.hx
      (∀ j, gap (p.at_ % 32) (hint % 32) + gap (p.at_ / 32) (hint / 32) ≤ p.rad → FitsAt s l p.at_ j →
        let r := (s.reserve l p.cont.id p.at_ j).onSlot p.at_ j fun v => { v with inbound := some p.cont.id }
        if (s.clusterAt (clusterOf p.at_)).isUp then exec (.placementPacket k) s = .next ((landed r k).place p.at_ j p)
        else ∃ t, exec (.placementPacket k) s = .next t ∧ t.cores = r.cores ∧
          t.packets = s.packets.set k { p with hint := false, slot := some j, dst := p.at_ }) ∧
      ((p.rad < gap (p.at_ % 32) (hint % 32) + gap (p.at_ / 32) (hint / 32) ∨ FitsNowhere s l p.at_) → ∀ a b d, route p.org hint = a ++ p.at_ :: d :: b →
        p.at_ ∉ a → ∃ t, exec (.placementPacket k) s = .next t ∧ t.packets = s.packets.set k { p with at_ := d } ∧ t.mem = s.mem)))

end

section
open Sys2Proof Machine Statements

/-- R61, R38, R65, R66, R148 and R272: a migration packet enters the ring of its destination, with HOPS one more where another
core wrote its record, or goes on parking there under the limit that has run since its park, returns to its sender with REFUSED
from a killed core, and goes on to the nearest available core from a vacated one; a sweep sweeps every live launch, and one ends
at the second sweep that finds it idle with equal totals, and its entry is freed; a request for no core or more than 1,024, or
with fewer candidates than cores, changes nothing, and one that is met selects exactly its count; a waiter that has waited longer
than its limit is ready with WAITLIM pending, and a parked strand past its time is ready without it. -/
def Obligations.MigrationAndWaits : Prop :=
  (∀ (k : Nat) (p : Packet) (s : State), s.packets[k]? = some p → p.hint = false → p.slot = none →
    let d := s.coreAt p.dst
    let hopped (k : Cont) (c : Nat) : Cont := if p.wrote = c then k else { k with hops := k.hops + 1 }
    (d.killed = false → d.vacating = false → d.vacated = false → p.park = none → d.ring.length < 4096 →
      ∃ t, exec (.migrationPacketArrival k) s = .next t ∧ t.packets = without s.packets k ∧ Enters s t p.dst { p with cont := hopped p.cont p.dst }) ∧
    (∀ since limit, d.killed = false → d.vacating = false → d.vacated = false → p.park = some (since, limit) →
      (d.waiters.filter fun w => w.list == 64 && !w.inMem).length < 64 → ∃ t, exec (.migrationPacketArrival k) s = .next t ∧
        t.packets = without s.packets k ∧ t.mem = s.mem ∧ (t.coreAt p.dst).waiters = d.waiters ++
          [{ pkt := p, kind := .timed, ea := 0, back := p.dst, since := since, limit := limit, acct := p.pid, inMem := false }]) ∧
    (d.killed = true → (s.coreAt p.org).killed = false → (s.coreAt p.org).vacating = false → (s.coreAt p.org).vacated = false →
      (s.coreAt p.org).ring.length < 4096 → ∃ t, exec (.migrationPacketArrival k) s = .next t ∧ t.packets = without s.packets k ∧
        Enters s t p.org { p with cont := hopped { p.cont with pend := some (.refused, wrap (p.dst : Nat)) } p.org, park := none }) ∧
    (d.killed = false → d.vacating = true → ∀ n, s.nearestAvailable p.dst = some n → ∃ t, exec (.migrationPacketArrival k) s = .next t ∧
      t.packets = s.packets.set k { p with dst := n })) ∧
  (∀ (lid : BitVec 16) (l : Launch) (s : State),
    s.launchAt lid = some l → l.ending = false → let sent := (s.totals lid).1
    ((s.idleFor l lid = false ∨ sent ≠ (s.totals lid).2) → s.sweepOne lid = s.onLaunch lid fun l => { l with swept := none }) ∧
    (s.idleFor l lid = true → sent = (s.totals lid).2 → l.swept ≠ some sent →
      s.sweepOne lid = s.onLaunch lid fun l => { l with swept := some sent }) ∧
    (s.idleFor l lid = true → sent = (s.totals lid).2 → l.swept = some sent →
      ∀ y, s.fillDone (l.heir.getD (rootOf lid)) l.pid l.done (if l.dead then 4 else 0) l.ndone = (y, true) →
        let t := s.sweepOne lid
        t.launchAt lid = none ∧ t.mem = y.mem ∧ t.empties = y.empties)) ∧
  (∀ s : State, exec .launchSweep s = .next ((live s).foldl State.sweepOne s) ∧
    ((live s).Nodup → (∀ lid ∈ live s, ∃ l, s.launchAt lid = some l ∧ l.ending = false ∧
        (s.idleFor l lid = true → (s.totals lid).1 = (s.totals lid).2 → l.swept ≠ some (s.totals lid).1)) →
      ∃ t, exec .launchSweep s = .next t ∧ t = { s with cores := t.cores } ∧ ∀ lid ∈ live s, ∀ l, s.launchAt lid = some l →
        t.launchAt lid = some { l with swept := if s.idleFor l lid = true ∧ (s.totals lid).1 = (s.totals lid).2 then some (s.totals lid).1 else none })) ∧
  (∀ (w : BitVec 32) (s : State), let k := w.toNat % 2 ^ 11
    let inside (c : Nat) : Prop := w.toNat / 2 ^ 11 % 32 ≤ c % 32 ∧ c % 32 ≤ w.toNat / 2 ^ 21 % 32 ∧ w.toNat / 2 ^ 16 % 32 ≤ c / 32 ∧ c / 32 ≤ w.toNat / 2 ^ 26 % 32
    let candidate (c : Nat) : Prop := c < 1024 ∧ inside c ∧ (s.coreAt c).vacated = false ∧ (s.coreAt c).killed = false
    ((k = 0 ∨ 1024 < k) → exec (.spatialPreemptionRequest w) s = .next s) ∧
    (w.getLsbD 31 = false → 1 ≤ k → k ≤ 1024 → (∀ l : List Nat, l.Nodup → (∀ c ∈ l, candidate c) → l.length < k) →
      exec (.spatialPreemptionRequest w) s = .next s) ∧
    (w.getLsbD 31 = false → 1 ≤ k → k ≤ 1024 → (∃ l : List Nat, l.Nodup ∧ (∀ c ∈ l, candidate c) ∧ k ≤ l.length) →
      ∃ l : List Nat, l.length = k ∧ l.Nodup ∧ (∀ c ∈ l, candidate c) ∧
        (∀ c ∈ l, ∀ d, candidate d → d ∉ l → (s.coreAt c).occupied < (s.coreAt d).occupied ∨ (s.coreAt c).occupied = (s.coreAt d).occupied ∧ c < d) ∧
        exec (.spatialPreemptionRequest w) s = .next (l.foldl State.beginVacate s)) ∧
    (w.getLsbD 31 = true → (∀ c, c < 1024 → inside c → (s.coreAt c).vacated = false) → exec (.spatialPreemptionRequest w) s = .next s)) ∧
  (∀ (c n : Nat) (w : Waiter) (s : State), (s.coreAt c).waiters[n]? = some w →
    let past := 0 < w.limit ∧ w.since + w.limit < s.now
    (¬ past → exec (.waitLimitExpiry c n) s = .next s ∧ exec (.parkWake c n) s = .next s) ∧
    (past → (if w.kind = .timed then exec (.waitLimitExpiry c n) s = .next s else exec (.parkWake c n) s = .next s)) ∧
    (w.inMem = false → (∀ x ∈ (s.coreAt c).waiters, x.inMem = true → x.list ≠ w.list) → past →
      let gone := s.onCore c fun k => { k with waiters := k.waiters.erase w }
      if w.kind = .timed then exec (.parkWake c n) s = .next (gone.releaseWaiter c w none)
      else exec (.waitLimitExpiry c n) s = .next (gone.releaseWaiter c w (some (.waitlim, w.ea)))))

end


namespace Sys2Proof.Statements

open Sys2Proof.Machine

/-! ## Messages at stations, at their owners and back (R123, R126, R129 to R135, R145, R146, R276, R279, R280, R285) -/

/-- Message `k` of the mesh has come to a core of the device, with a procedure, and no older message of its strand that may reach one
of its words has still to be performed (R163). It carries no record of a task queue. -/
structure AtOwner (s : State) (k : Nat) (m : Msg) (proc : Nat) : Prop where
  there  : s.mesh[k]? = some m
  stage  : m.stage = .toOwner
  which  : m.proc.toNat = proc
  rec_   : m.rec_ = none
  dst    : m.dst < 1024
  inTurn : m.tag = none → s.blocked k m = false

/-- It has arrived at a live core, whose vault agent has a tag for it (R136). -/
structure Arrived (s : State) (k : Nat) (m : Msg) (proc : Nat) : Prop extends AtOwner s k m proc where
  alive : (s.coreAt m.dst).killed = false
  tags  : m.atVault = true → s.tagFree m.dst m.tag = true

/-- A message that goes back to its originator with a status of R135 and an xword. -/
structure Replied (m r : Msg) (status : Nat) (x : XWord) : Prop where
  reply  : r = { m with stage := .replied, tag := none, status := status, cause := r.cause, result := x }
  cause  : r.cause = none ↔ status = 0
  prot   : status = 1 → r.cause = some .prot
  eccue  : status = 2 ∨ status = 3 → r.cause = some .eccue
  refuse : status = 4 → r.cause = some .refused

/-- The message has been answered in its place of the mesh, and no other message has changed. -/
def Answered (s t : State) (k : Nat) (m : Msg) (status : Nat) (x : XWord) : Prop :=
  ∃ r, Replied m r status x ∧ t.mesh = s.mesh.set k r

/-- Bytes that a message touches at its owner's vault, which is sound there. -/
def AtVault (s : State) (m : Msg) (n : Nat) : Prop := m.paddr < 2 ^ 38 ∧ vaultOf m.paddr = m.dst ∧ s.sound m.paddr n

/-- The last reply to an awaited access of slot `j` of core `c`, which has issued some before it and some after it. No reply has brought
any of them a failure. -/
structure AwaitedReply (s : State) (k : Nat) (m : Msg) (c j : Nat) (before after : List Await) (a : Await) : Prop where
  there  : s.mesh[k]? = some m
  stage  : m.stage = .replied
  client : m.client = .slot c j (s.slotAt c j).id
  strand : (s.slotAt c j).strand.isSome = true
  awaits : (s.slotAt c j).awaits = before ++ a :: after
  seq    : a.seqs = [m.seq]
  other  : ∀ b ∈ before, m.seq ∉ b.seqs
  failed : ∀ b ∈ before ++ a :: after, b.failed = none
  kind   : m.storing = false
  dst    : m.dst < 1024

/-- The events that perform a message at its owner. -/
noncomputable def ownerEvent (proc k : Nat) : Instr :=
  match proc with
  | 0 => .load k | 1 => .store k | 2 => .atomic k | 3 => .fullEmptyLoad k | 4 => .fullEmptyStore k | 5 => .copySegment k | 6 => .gatherReduce k
  | 7 => .kvTableOperation k | 8 => .scratchpadLoad k | 9 => .scratchpadStore k | _ => .unknownProcedure k

end Sys2Proof.Statements

section
open Sys2Proof Machine Statements

/-- R135, R136, R145, R146, R276, R279 and R280: a request waits for an older one of its strand that may reach one of its words
(R163), and one to a vault whose agent has no tag for it waits in the order of arrival; at a sound vault a load answers with the
bytes read and changes no byte; a store writes its size, or the enabled bytes of a granule, and nothing else; an atomic writes the
function of the old word and answers the old word; a full/empty request whose condition holds is performed and sets the bit its
form gives, and one whose condition fails answers status 5 and changes nothing; a parked continuation whose condition fails joins
the bank's waiters; a killed owner answers status 4 and a procedure above 10 is refused with 4. -/
def Obligations.OwnerAccesses : Prop :=
  (∀ (k proc : Nat) (m : Msg) (s : State), s.mesh[k]? = some m → m.stage = .toOwner → m.proc.toNat = proc → proc ≠ 10 → (proc ≠ 9 ∨ m.fn = 0) →
    m.tag = none → s.blocked k m = true → exec (ownerEvent proc k) s = .next s) ∧
  (∀ (k proc : Nat) (m : Msg) (s : State), AtOwner s k m proc → m.atVault = true → (s.coreAt m.dst).killed = false → s.tagFree m.dst m.tag = false →
    (m.tag = none → exec (ownerEvent proc k) s = .next { s with mesh := s.mesh.set k { m with tag := some s.orders }, orders := s.orders + 1 }) ∧
    (m.tag ≠ none → exec (ownerEvent proc k) s = .next s)) ∧
  (∀ (k : Nat) (m : Msg) (s : State), Arrived s k m 0 → m.data = [] →
    (m.mask = 0 → AtVault s m (2 ^ m.size.toNat) → ∃ t, exec (.load k) s = .next t ∧
      Answered s t k m 0 (BitVec.ofNat 64 (s.mem.readNat m.paddr (2 ^ m.size.toNat))) ∧ t.mem = s.mem ∧ t.spm = s.spm ∧ t.empties = s.empties) ∧
    (m.mask ≠ 0 → AtVault s m 32 → ∃ t, exec (.load k) s = .next t ∧ Answered s t k { m with data := s.mem.readBytes m.paddr 32 } 0 0 ∧
      t.mem = s.mem ∧ t.spm = s.spm ∧ t.empties = s.empties)) ∧
  (∀ (k : Nat) (m : Msg) (s : State), Arrived s k m 1 →
    (m.data = [] → AtVault s m (2 ^ m.size.toNat) → ∃ t, exec (.store k) s = .next t ∧ Answered s t k m 0 0 ∧
      Stored s.mem t.mem m.paddr (leBytes (2 ^ m.size.toNat) m.opa.toNat) ∧ t.spm = s.spm ∧ t.empties = s.empties) ∧
    (m.data.length = 32 → AtVault s m 32 → ∃ t, exec (.store k) s = .next t ∧ Answered s t k m 0 0 ∧ t.spm = s.spm ∧ t.empties = s.empties ∧
      (∀ i b, m.data[i]? = some b → t.mem.read (m.paddr + i) = if m.mask.getLsbD i then b else s.mem.read (m.paddr + i)) ∧
      ∀ x, x < m.paddr ∨ m.paddr + 32 ≤ x → t.mem.read x = s.mem.read x)) ∧
  (∀ (k : Nat) (m : Msg) (s : State), Arrived s k m 2 → AtVault s m 8 → m.paddr % 8 = 0 → m.fn.toNat ≤ 9 → ∃ t, exec (.atomic k) s = .next t ∧
    let old := BitVec.ofNat 64 (s.mem.readNat m.paddr 8)
    Answered s t k m 0 old ∧ Stored s.mem t.mem m.paddr (leBytes 8 (atomicWord m.fn.toNat old m.opa m.opb).toNat) ∧ t.spm = s.spm) ∧
  (∀ (k : Nat) (m : Msg) (isLoad : Bool) (s : State), Arrived s k m (if isLoad then 3 else 4) → AtVault s m 8 → m.paddr % 8 = 0 → m.fn.toNat ≤ 1 →
    let e : Instr := if isLoad then .fullEmptyLoad k else .fullEmptyStore k
    let full := !s.empties.contains (m.paddr / 8)
    let may := if isLoad then full else m.fn == 0 || !full
    (may = false → ∃ t, exec e s = .next t ∧ Answered s t k m 5 0 ∧ t.mem = s.mem ∧ t.empties = s.empties) ∧
    (may = true → (∀ w ∈ (s.coreAt m.dst).waiters, w.onWord m.paddr = false) → ∃ t, exec e s = .next t ∧
      (isLoad = true → Answered s t k m 0 (BitVec.ofNat 64 (s.mem.readNat m.paddr 8)) ∧ t.mem = s.mem ∧
        t.empties = if m.fn = 0 then s.empties else insertNat (m.paddr / 8) s.empties) ∧
      (isLoad = false → Answered s t k m 0 0 ∧ Stored s.mem t.mem m.paddr (leBytes 8 m.opa.toNat) ∧
        t.empties = s.empties.filter fun w => w != m.paddr / 8))) ∧
  (∀ (k fn : Nat) (m : Msg) (w : Waiter) (isLoad : Bool) (rd : BitVec 5) (x : XWord) (s : State), s.mesh[k]? = some m → m.stage = .toOwner → m.proc = 10 →
    m.cont = some w → w.kind = .fullEmpty m.paddr isLoad fn rd x → m.dst = vaultOf m.paddr → w.inMem = false → s.isLost m.paddr = false →
    ((s.coreAt m.dst).killed = true → exec (.parkedContinuation k) s =
      .next (({ s with mesh := without s.mesh k }.countRecv m.src m.lid).releaseWaiter m.src w (some (.refused, w.ea)))) ∧
    ((s.coreAt m.dst).killed = false → (s.coreAt m.dst).waiters.length < 64 → (∀ v ∈ (s.coreAt m.dst).waiters, v.onWord m.paddr = false) →
      (if isLoad then s.empties.contains (m.paddr / 8) else fn ≠ 0 && !s.empties.contains (m.paddr / 8)) = true →
      ∃ t, exec (.parkedContinuation k) s = .next t ∧ t.mesh = without s.mesh k ∧ (t.coreAt m.dst).waiters = (s.coreAt m.dst).waiters ++ [w] ∧
        t.mem = s.mem ∧ t.empties = s.empties)) ∧
  (∀ (proc k : Nat) (m : Msg) (s : State), AtOwner s k m proc → (proc ≠ 9 ∨ m.fn = 0) → proc ≠ 10 → (s.coreAt m.dst).killed = true →
    let r : Msg := { m with stage := .replied, status := 4, cause := some .refused, result := 0, dst := 1024 }
    exec (ownerEvent proc k) s = .next { s with mesh := s.mesh.set k r }) ∧
  (∀ (proc k : Nat) (m : Msg) (s : State), Arrived s k m proc → 11 ≤ proc → ∃ t, exec (.unknownProcedure k) s = .next t ∧ Answered s t k m 4 0 ∧
    t.mem = s.mem ∧ t.spm = s.spm)

end

section
open Sys2Proof Machine Statements

/-- R123, R145, R153, R283, R284 and R285: a scratchpad load answers with the bytes of the sender's allocation, or zero where it
has none, and a store writes them there; cb.test answers with the slot's status word, and a phase test status 0 or 5; the SPM
forms are performed at the core; a barrier update leaves the slot as its form gives, or answers status 1 where the slot is not the
process's; a remote cb.wait returns at once with its pc past the form, returns with PROT, or is enlisted; a copy segment for a
scratchpad writes or reads its allocation there, and one for a vault writes its bytes, sets their words full and is acknowledged,
or brings the bytes it reads back (notes/assumptions/127.md). -/
def Obligations.ScratchpadMessages : Prop :=
  (∀ (k : Nat) (m : Msg) (s : State), Arrived s k m 8 → m.data = [] → m.mask = 0 → spmCore m.va.toNat = m.dst →
    (m.fn = 0 → (∀ b, s.spmByte m.pid m.va.toNat = some b → s.spmSound m.dst b (2 ^ m.size.toNat) → ∃ t, exec (.scratchpadLoad k) s = .next t ∧
        Answered s t k m 0 (BitVec.ofNat 64 (s.spm.readNat (spmAt m.dst b) (2 ^ m.size.toNat))) ∧ t.mem = s.mem ∧ t.spm = s.spm) ∧
      (s.spmByte m.pid m.va.toNat = none → ∃ t, exec (.scratchpadLoad k) s = .next t ∧ Answered s t k m 0 0 ∧ t.mem = s.mem ∧ t.spm = s.spm)) ∧
    (s.barOwned m.dst (slotNamed m.va) m.pid = true → s.spmSound m.dst (barByte (slotNamed m.va)) 16 → (m.fn = 4 → ∃ t, exec (.scratchpadLoad k) s = .next t ∧
        Answered s t k m 0 (BitVec.ofNat 64 (s.spm.readNat (spmAt m.dst (0x2FC00 + 16 * slotNamed m.va) + 4) 4)) ∧ t.spm = s.spm) ∧
      (m.fn = 5 → ∃ t r, exec (.scratchpadLoad k) s = .next t ∧ t.mesh = s.mesh.set k r ∧ r.stage = .replied ∧ t.spm = s.spm ∧
        r.status = if bit (s.barRead m.dst (slotNamed m.va)).phase = m.opa.toNat then 0 else 5)) ∧
    (s.barOwned m.dst (slotNamed m.va) m.pid = false → m.fn = 4 ∨ m.fn = 5 → ∃ t, exec (.scratchpadLoad k) s = .next t ∧ Answered s t k m 1 0)) ∧
  (∀ (k : Nat) (m : Msg) (s : State), Arrived s k m 9 → spmCore m.va.toNat = m.dst →
    (m.fn = 0 → m.data = [] →
      (∀ b, s.spmByte m.pid m.va.toNat = some b → s.spmSound m.dst b (2 ^ m.size.toNat) → ∃ t, exec (.scratchpadStore k) s = .next t ∧
        Answered s t k m 0 0 ∧ Stored s.spm t.spm (spmAt m.dst b) (leBytes (2 ^ m.size.toNat) m.opa.toNat)) ∧
      (s.spmByte m.pid m.va.toNat = none → ∃ t, exec (.scratchpadStore k) s = .next t ∧ Answered s t k m 0 0 ∧ t.spm = s.spm ∧ t.mem = s.mem)) ∧
    (5 ≤ m.fn.toNat → m.fn.toNat ≤ 7 → ∀ y x, (if m.fromPeer then s else s.countRecv m.dst m.lid).spmOp m.dst m.fn.toNat m.strand m.pid m.opa.toNat = (y, x) →
      ∃ t, exec (.scratchpadStore k) s = .next t ∧ t = { y with mesh := t.mesh } ∧ Answered s t k m 0 (x.setWidth 64)) ∧
    (1 ≤ m.fn.toNat → m.fn.toNat ≤ 3 → ∀ x : Word, m.opa = x.signExtend 64 →
      (s.barOwned m.dst (slotNamed m.va) m.pid = false → ∃ t, exec (.barrierUpdate k) s = .next t ∧ Answered s t k m 1 0 ∧ t.spm = s.spm) ∧
      (s.barOwned m.dst (slotNamed m.va) m.pid = true → (m.fn ≠ 1 → s.spmSound m.dst (barByte (slotNamed m.va)) 16) → ∃ t, exec (.barrierUpdate k) s = .next t ∧ Answered s t k m 0 0 ∧
        Stored s.spm t.spm (spmAt m.dst (0x2FC00 + 16 * slotNamed m.va)) (barAfter m.fn.toNat (s.barRead m.dst (slotNamed m.va)) x).bytes)) ∧
    (m.fn = 4 → ∀ w, m.cont = some w → w.inMem = false →
      let y := { s with mesh := without s.mesh k }.countRecv m.dst m.lid
      let phase := bit (s.barRead m.dst (slotNamed m.va)).phase
      (s.barOwned m.dst (slotNamed m.va) m.pid = false → exec (.waitOnAddress k) s = .next (y.releaseWaiter m.dst w (some (.prot, w.ea)))) ∧
      (s.barOwned m.dst (slotNamed m.va) m.pid = true → s.spmSound m.dst (barByte (slotNamed m.va)) 16 → phase = m.opa.toNat → exec (.waitOnAddress k) s = .next (y.releaseWaiter m.dst
        { w with pkt := { w.pkt with cont := { w.pkt.cont with pc := w.pkt.cont.pc + 4 } } } none)) ∧
      (s.barOwned m.dst (slotNamed m.va) m.pid = true → s.spmSound m.dst (barByte (slotNamed m.va)) 16 → phase ≠ m.opa.toNat → (s.coreAt m.dst).waiters.length < 64 → ∃ t,
        exec (.waitOnAddress k) s = .next t ∧ (t.coreAt m.dst).waiters = (s.coreAt m.dst).waiters ++ [w] ∧ t.mesh = without s.mesh k))) ∧
  (∀ (k b : Nat) (m : Msg) (s : State), Arrived s k m 5 → m.toSpad = true → spmCore m.va.toNat = m.dst → s.spmByte m.pid m.va.toNat = some b →
    (m.fn = 0 → m.data.length ≤ 256 → s.spmSound m.dst b m.data.length → (s.coreAt m.dst).waiters = [] → ∃ t, exec (.copySegment k) s = .next t ∧
      Answered s t k m 0 0 ∧ Stored s.spm t.spm (spmAt m.dst b) m.data ∧ t.mem = s.mem) ∧
    (m.fn = 1 → m.opa.toNat ≤ 256 → s.spmSound m.dst b m.opa.toNat → ∃ t, exec (.copySegment k) s = .next t ∧
      Answered s t k { m with data := s.spm.readBytes (spmAt m.dst b) m.opa.toNat } 0 0 ∧ t.mem = s.mem ∧ t.spm = s.spm)) ∧
  (∀ (k : Nat) (m : Msg) (s : State), Arrived s k m 5 → m.toSpad = false → m.paddr < 2 ^ 38 →
    (m.fn = 0 → AtVault s m m.data.length → (s.coreAt m.dst).waiters = [] → 0 < m.data.length → m.paddr % 2 ^ 28 + m.data.length ≤ 2 ^ 28 →
      ∃ t, exec (.copySegment k) s = .next t ∧ Answered s t k m 0 0 ∧ Stored s.mem t.mem m.paddr m.data ∧ t.spm = s.spm ∧
        ∀ w, w ∈ t.empties ↔ w ∈ s.empties ∧ ¬ (m.paddr / 8 ≤ w ∧ w < (m.paddr + m.data.length + 7) / 8)) ∧
    (m.fn = 1 → AtVault s m m.opa.toNat → ∃ t, exec (.copySegment k) s = .next t ∧
      Answered s t k { m with data := s.mem.readBytes m.paddr m.opa.toNat } 0 0 ∧ t.mem = s.mem ∧ t.spm = s.spm ∧ t.empties = s.empties))

end

section
open Sys2Proof Machine Statements

/-- R126, R129, R130, R131, R135 and R231: a station with the page cached sends a vault request on to its owner with the physical
address, or refuses it with PROT where the page is not writable; one without it has the request wait for a walk; a completed walk
is cached and its requests go on; with translation off a request takes XLATE; an invalidation drops the entries its selections
name and is acknowledged; the reply of a load or an atomic delivers its value extended as the form says, a failing one takes its
cause with EVA the address of its access once every older access has had its reply, undoing what issued behind it, and the last
acknowledgement of a posted access frees its entry or records the failure, at the entry or in strict mode as REFUSED with EVA the
number of the request. -/
def Obligations.StationsAndReplies : Prop :=
  (∀ (k : Nat) (m : Msg) (s : State), s.mesh[k]? = some m → m.stage = .toStation →
    let n := 2 * (m.src / 32) + if m.src % 32 < 16 then 0 else 1
    (s.stpt.getLsbD 0 = false → ∃ t, exec (.stationRequest k) s = .next t ∧ t.mem = s.mem ∧
      ∃ r, t.mesh = s.mesh.set k r ∧ r.stage = .replied ∧ r.cause = some .xlate) ∧
    (s.stpt.getLsbD 0 = true → ∀ e, (s.stationAt n).hit m.pid m.va.toNat = some e → e.bad = false → let pa := e.frame + m.va.toNat % 2 ^ pageBits e.level
      (e.w = true ∨ m.proc = 0 ∨ m.proc = 3) → pa < 2 ^ 38 → ∃ t, exec (.stationRequest k) s = .next t ∧ t.mem = s.mem ∧ t.stations = s.stations ∧
        t.mesh = s.mesh.set k { m with paddr := pa, dst := pa / 2 ^ 28, stage := .toOwner, cls := if m.storing then .one else m.cls }) ∧
    (s.stpt.getLsbD 0 = true → ∀ e, (s.stationAt n).hit m.pid m.va.toNat = some e → e.bad = false → e.w = false → (m.proc = 1 ∨ m.proc = 2 ∨ m.proc = 4) →
      ∃ t r, exec (.stationRequest k) s = .next t ∧ t.mesh = s.mesh.set k r ∧ r.stage = .replied ∧ r.cause = some .prot ∧ r.status = 1) ∧
    (s.stpt.getLsbD 0 = true → (s.stationAt n).hit m.pid m.va.toNat = none → (s.stationAt n).walks = [] → ∃ t, exec (.stationRequest k) s = .next t ∧
      t.mesh = s.mesh.set k { m with stage := .walking } ∧
      (t.stationAt n).walks = [{ pid := m.pid, va := wrap (m.va.toNat / 2 ^ 16 * 2 ^ 16 : Nat) }] ∧ (t.stationAt n).cache = (s.stationAt n).cache)) ∧
  (∀ (n k : Nat) (w : Walk) (m : Msg) (y : State) (f : Leaf) (s : State), (s.stationAt n).walks = [w] → s.stpt.getLsbD 0 = true → s.mesh = [m] →
    m.stage = .walking → stationOf m.src = n → m.pid = w.pid → m.va.toNat / 2 ^ 16 * 2 ^ 16 = w.va.toNat → m.storing = false → m.proc = 0 →
    let x := s.putStation n { s.stationAt n with walks := [] }
    x.walk { core := stationCore n, pid := w.pid, id := { lid := 0, sid := 0 } } w.pid w.va.toNat = (y, .ok f) →
    let pa := f.frame + m.va.toNat % 2 ^ pageBits f.level
    pa < 2 ^ 38 → k = 0 → ∃ t, exec (.tableWalk n k) s = .next t ∧ t.mem = y.mem ∧ (t.stationAt n).walks = [] ∧
      (t.stationAt n).cache = (y.stationAt n |>.keep w.pid w.va.toNat f).cache ∧ t.mesh = [{ m with paddr := pa, dst := pa / 2 ^ 28, stage := .toOwner }]) ∧
  (∀ (k : Nat) (v : InvMsg) (s : State), s.invs[k]? = some v → (∀ m ∈ s.mesh, m.stage = .replied) → ∃ t, exec (.stationInvalidation k) s = .next t ∧
    t.mem = s.mem ∧ t.invs = without s.invs k ∧ (t.stationAt v.station).cache = (s.stationAt v.station).cache.filter fun e =>
      !(v.allp || e.pid == v.pid && (v.allv || decide (v.page.toNat * 2 ^ 16 / 2 ^ pageBits e.level = e.vpage)))) ∧
  (∀ (k c j : Nat) (m : Msg) (before after : List Await) (a : Await) (s : State), AwaitedReply s k m c j before after a →
    let v := s.slotAt c j
    let gone : State := { s with mesh := without s.mesh k }
    let written (rd : BitVec 5) (x : Word) : Prop := v.poisonIn (banksOf [rd]) = none → ∃ t, exec (.reply k) s = .next t ∧ t.mem = s.mem ∧ t.mesh = without s.mesh k ∧
      let w := t.slotAt c j
      Delivered v w s.now rd x false 0 ∧ WindowKept v w [rd] [] ∧ w.awaits.map (·.ea) = (before ++ after).map (·.ea) ∧
        w.awaits.map (·.seqs) = (before ++ after).map (·.seqs) ∧
        w = { v with lo := w.lo, hi := w.hi, ready := w.ready, preds := w.preds, fl := w.fl, k := w.k, awaits := w.awaits }
    (∀ size signed rd, a.act = .load size signed rd → m.cause = none → written rd (if size = 8 then m.result.setWidth 48
      else if signed then wrap (sx (8 * size) m.result.toNat) else wrap (m.result.toNat % 2 ^ (8 * size) : Nat))) ∧
    (∀ rd, a.act = .atomic rd → m.cause = none → written rd (m.result.setWidth 48)) ∧
    (∀ cause, m.cause = some cause → cause ≠ .poison → m.status ≠ 5 → m.status ≠ 8 → before = [] → exec (.reply k) s =
      .next ((gone.onSlot c j fun w => { a.saved.onto w with awaits := [], early := none, run := none }).enterTrap c j cause a.ea false 0)) ∧
    (∀ cause, m.cause = some cause → m.status ≠ 5 → m.status ≠ 8 → before ≠ [] → exec (.reply k) s =
      .next (gone.putSlot c j { v with awaits := before ++ { a with failed := some (cause, a.ea) } :: after }))) ∧
  (∀ (k c j : Nat) (m : Msg) (s : State), s.mesh[k]? = some m → m.stage = .replied → m.storing = true → m.client = .slot c j (s.slotAt c j).id →
    (s.slotAt c j).strand.isSome = true → m.dst < 1024 → m.proc ≠ 7 → (s.slotAt c j).handler = false → (s.slotAt c j).trapAt ≠ some s.now →
    let v := s.slotAt c j
    let gone : State := { s with mesh := without s.mesh k }
    (m.cause = none → m.entry = none → exec (.reply k) s = .next (gone.putSlot c j { v with unack := v.unack - 1 })) ∧
    (∀ n, m.cause = none → m.entry = some n → (∀ e ∈ v.board, e.num = n → e.left ≤ 1 ∧ e.cause = none) →
      ∃ l, exec (.reply k) s = .next (gone.putSlot c j { v with board := v.board.filter fun e => e.num != n, freed := l }) ∧
        ∀ e ∈ v.board, e.num = n → (s.now, { e with stop := true, part := true, aux := 0 }) ∈ l) ∧
    (∀ n cause e, m.cause = some cause → m.entry = some n → v.board.find? (fun e => e.num == n) = some e → e.left ≤ 1 → e.cause = none →
      exec (.reply k) s = .next (gone.putSlot c j { v with
        board := v.board.map fun x =>
          if x.num = n then { x with stop := true, cause := some cause, eva := wrap (e.work.addr : Nat), sub := m.status, aux := 0, part := e.part } else x,
        pend := v.pend ++ [Pend.mk cause (wrap (e.work.addr : Nat)) m.status (some n)] })) ∧
    (∀ n e, m.entry = some n → v.board.find? (fun e => e.num == n) = some e → 1 < e.left → e.cause = none →
      let f : SbEntry := if m.cause = none then { e with left := e.left - 1, part := true }
        else { e with left := e.left - 1, cause := m.cause, eva := wrap (e.work.addr : Nat), sub := m.status }
      exec (.reply k) s = .next (gone.putSlot c j { v with board := v.board.map fun x => if x.num = n then f else x })) ∧
    (∀ cause, m.cause = some cause → m.entry = none → exec (.reply k) s = .next (gone.putSlot c j { v with
      unack := v.unack - 1, pend := v.pend ++ [Pend.mk .refused (m.seq.setWidth 48) m.status none] })))

end


namespace Sys2Proof.Statements

open Sys2Proof.Machine

/-! ## Copies, gathers and the agent's work (R153, R286, R287, R354 to R374) -/

/-- A copy command of a core whose two ranges lie in the core's own window, in pages of its process, apart from each other and below the
reserved region, with no region carried. -/
structure PlainCopy (s : State) (c n : Nat) (x : CopyCmd) : Prop where
  there  : (s.coreAt c).copies.find? (fun y => y.num == n) = some x
  core   : c < 1024
  base   : s.reservedBase c = 0x0FF00000
  len    : x.desc.len ≠ 4096 ∧ x.desc.sbf = false
  src    : x.desc.src.toNat + x.desc.len ≤ 0x0FF00000
  dst    : x.desc.dst.toNat + x.desc.len ≤ 0x0FF00000
  apart  : x.desc.src.toNat + x.desc.len ≤ x.desc.dst.toNat ∨ x.desc.dst.toNat + x.desc.len ≤ x.desc.src.toNat
  owned  : ∀ i, i < x.desc.len → s.owns x.pid (c * 2 ^ 28 + x.desc.src.toNat + i) = true ∧ s.owns x.pid (c * 2 ^ 28 + x.desc.dst.toNat + i) = true
  map    : ∀ i, i < x.desc.len → OwnerReadable s (c * 2 ^ 28 + x.desc.src.toNat + i) ∧ OwnerReadable s (c * 2 ^ 28 + x.desc.dst.toNat + i)
  mode   : x.desc.cmode ≠ 1

/-- No cause has sent a slot to its handler in this cycle, so that an entry that stops now changes no trap frame (R405). -/
def Unframed (s : State) (c j : Nat) : Prop := (s.slotAt c j).trapAt ≠ some s.now

/-- The work of the agent for a KV function (R360). -/
def agentJob (m : Msg) : Job Nat :=
  let a : Agent := { vault := m.dst, who := m.who, acct := m.acct }
  let h := m.paddr % 2 ^ 28
  let x := m.opa.toNat
  match m.fn.toNat with
  | 1 => kvFind a h x | 2 => kvFree a h x | 4 => rbSelect false a h x | 5 => rbSelect true a h x | _ => dpPlan a h x

/-- The appends of `n` entries of a batch from entry `i` on, each served (R363). -/
def appendsFrom (a : Agent) (tb : KvTable) (d : Batch) : Nat → Nat → State → State → Prop
  | _, 0, y, z => z = y
  | i, n + 1, y, z => ∃ w, runJob (appendOne a tb d i) y = (w, .ok none) ∧ appendsFrom a tb d (i + 1) n w z

/-- Two ranges of bytes that share none. -/
def Apart (p q : Nat × Nat) : Prop := p.1 + p.2 ≤ q.1 ∨ q.1 + q.2 ≤ p.1

/-- The state in which a message's procedure begins at a vault agent: in a cycle in which the agent has accepted no other request of the
mesh (R132), and counted by its core (R64). -/
def counted (s : State) (m : Msg) : State :=
  let n := if (s.coreAt m.dst).meshAt = some s.now then s.now + 1 else s.now
  let t := ({ s with now := n }).onCore m.dst fun k => { k with meshAt := some n }
  if m.fromPeer then t else t.countRecv m.dst m.lid

end Sys2Proof.Statements

section
open Sys2Proof Machine Statements

/-- R153, R145, R287 and R370: a chunk of a copy waits for the posted stores that its strand made before the command and that may
reach its words (notes/assumptions/120.md), and for a tag of the own vault's agent; then it writes its bytes from source to
destination and nothing else, sets the words it writes full, and is landed; a command whose ranges overlap fails with ILLEGAL at
its source (notes/assumptions/88.md) and writes nothing; a command with bytes left that has neither failed nor been stopped stays;
a whole one, once no such store may reach what tells its end, leaves the engine, frees its scoreboard entry and under CMODE 2
writes CVAL at CADDR; a chunk of a gather waits likewise and lands in its destination, the last one ends the gather, and a failing
one ends it too. -/
def Obligations.CopyAndGatherChunks : Prop :=
  (∀ (c n off : Nat) (x : CopyCmd) (s : State), PlainCopy s c n x → x.stopped = false → x.failed = none → off % 64 = 0 → x.base ≤ off →
    off < x.desc.len → off ∉ x.landed → x.sent = [] → (s.coreAt c).waiters = [] → s.chunkBehind c x off = false →
    let k := min 64 (x.desc.len - off)
    let a := c * 2 ^ 28 + x.desc.src.toNat + off
    let b := c * 2 ^ 28 + x.desc.dst.toNat + off
    (s.tagFree c x.tag = false → (x.tag ≠ none → exec (.copyChunk c n off) s = .next s) ∧
      (x.tag = none → ∃ t, exec (.copyChunk c n off) s = .next t ∧ t.mem = s.mem ∧ t.spm = s.spm ∧ t.orders = s.orders + 1 ∧
        (t.coreAt c).copies = (s.coreAt c).copies.map fun y => if y.num = n then { x with tag := some s.orders } else y)) ∧
    (s.tagFree c x.tag = true → s.sound a k → s.sound b k → ∃ t, exec (.copyChunk c n off) s = .next t ∧ Stored s.mem t.mem b (s.mem.readBytes a k) ∧ t.spm = s.spm ∧
      (t.coreAt c).copies = (s.coreAt c).copies.map (fun y => if y.num = n then { x with landed := off :: x.landed, tag := none } else y) ∧
      ∀ w, w ∈ t.empties ↔ w ∈ s.empties ∧ ¬ (b / 8 ≤ w ∧ w < (b + k + 7) / 8))) ∧
  (∀ (c n off : Nat) (x : CopyCmd) (s : State), (s.coreAt c).copies.find? (fun y => y.num == n) = some x → s.chunkBehind c x off = true →
    exec (.copyChunk c n off) s = .next s) ∧
  (∀ (c n off : Nat) (x : CopyCmd) (s : State), (s.coreAt c).copies.find? (fun y => y.num == n) = some x → x.stopped = false → x.failed = none →
    off % 64 = 0 → x.base ≤ off → off < x.desc.len → off ∉ x.landed → x.sent = [] → x.desc.cmode ≠ 1 → s.chunkBehind c x off = false → (s.chunkHere x off c = true → s.tagFree c x.tag = true) →
    x.desc.src.toNat < x.desc.dst.toNat + x.desc.len → x.desc.dst.toNat < x.desc.src.toNat + x.desc.len →
    ∃ t, exec (.copyChunk c n off) s = .next t ∧ t.mem = s.mem ∧ t.spm = s.spm ∧
      (t.coreAt c).copies = (s.coreAt c).copies.map fun y => if y.num = n then { x with failed := some (.illegal, x.desc.src), tag := none } else y) ∧
  (∀ (c n : Nat) (x : CopyCmd) (s : State), (s.coreAt c).copies.find? (fun y => y.num == n) = some x → x.desc.sbf = false → x.desc.len ≠ 4096 →
    Unframed s c x.slot →
    (x.left ≠ 0 → x.failed = none → x.stopped = false → exec (.copyCompletion c n) s = .next s) ∧
    (x.sent ≠ [] ∨ s.copyEndBehind c x = true → exec (.copyCompletion c n) s = .next s) ∧
    (x.left = 0 → x.sent = [] → s.copyEndBehind c x = false →
      let dropped (t : State) := (t.coreAt c).copies = (s.coreAt c).copies.filter fun y => y.num != n
      (x.desc.cmode ≠ 2 → ∃ t, exec (.copyCompletion c n) s = .next t ∧ dropped t ∧ t.mem = s.mem ∧ t.spm = s.spm ∧
        (∀ e, x.entry = some e → (s.slotAt c x.slot).strand.map (fun b => b.id) = some x.id → (s.slotAt c x.slot).handler = false →
          (∃ q ∈ (s.slotAt c x.slot).board, q.num = e) →
          t.slotAt c x.slot = { s.slotAt c x.slot with board := (s.slotAt c x.slot).board.filter fun q => q.num != e, freed := (t.slotAt c x.slot).freed })) ∧
      (x.desc.cmode = 2 → ∀ b, 2 ^ 28 ≤ x.desc.caddr.toNat → x.desc.caddr.toNat < 2 ^ 32 → spmCore x.desc.caddr.toNat = c →
        2 ≤ idxOf x.desc.caddr.toNat → idxOf x.desc.caddr.toNat ≠ 31 → (s.coreAt c).killed = false → (s.coreAt c).waiters = [] → s.spmByte x.pid x.desc.caddr.toNat = some b →
        s.spmSound c b 8 → ∃ t, exec (.copyCompletion c n) s = .next t ∧ dropped t ∧ t.mem = s.mem ∧
          Stored s.spm t.spm (spmAt c b) (leBytes 8 x.desc.cval.toNat)))) ∧
  (∀ (c n off : Nat) (g : GatherCmd) (s y : State) (r : Except Nat (List Byte)), (s.coreAt c).gathers.find? (fun y => y.num == n) = some g →
    off % 64 = 0 → off < g.total → off ∉ g.landed → g.cb = 0 → s.gatherBehind c g off = false → runJob (gatherBytes g (g.agent c) off) s = (y, r) →
    (∀ bs z, r = .ok bs → y.gatherWrite c g off bs = (z, none) → Unframed z g.from_ g.slot → ∃ t, exec (.gatherChunk c n off) s = .next t ∧ t.mem = z.mem ∧ t.spm = z.spm ∧
      (64 * (g.landed.length + 1) < g.total → (t.coreAt c).gathers = (z.coreAt c).gathers.map fun q => if q.num = n then { g with landed := off :: g.landed } else q) ∧
      (64 * (g.landed.length + 1) = g.total → ∀ q ∈ (t.coreAt c).gathers, q.num ≠ n)) ∧
    (∀ bs z cause, r = .ok bs → y.gatherWrite c g off bs = (z, some cause) → Unframed z g.from_ g.slot → ∃ t, exec (.gatherChunk c n off) s = .next t ∧ t.mem = z.mem ∧
      ∀ q ∈ (t.coreAt c).gathers, q.num ≠ n) ∧
    (∀ e, r = .error e → Unframed y g.from_ g.slot → ∃ t, exec (.gatherChunk c n off) s = .next t ∧ t.mem = y.mem ∧ ∀ q ∈ (t.coreAt c).gathers, q.num ≠ n)) ∧
  (∀ (c n off : Nat) (g : GatherCmd) (s : State), (s.coreAt c).gathers.find? (fun y => y.num == n) = some g → s.gatherBehind c g off = true →
    exec (.gatherChunk c n off) s = .next s)

end

section
open Sys2Proof Machine Statements

/-- R360, R361, R363 and R374: a KV operation but kv.app is one step that answers status 0 with its result, or a status with
nothing of memory changed; kv.app appends the entries of its batch in list order and answers N, or stops before one that is bad or
finds no free block and answers its index with bit 46 or 47, the appends before it remaining, as they do before a malformation
(status 6), while any other status leaves memory as it was (notes/assumptions/82.md); an append stops as BAD at an id beyond NSEQ,
at a full sequence and at a block that is not there, and as DRY with no block to take, and one that is served adds one to its
sequence's length, stores its key and value row and the block's token count, and changes nothing else but the block's rind; after
kv.free the sequence's length is zero; kv.gath with a good descriptor puts a gather under way and answers at once; emb.red answers
its counts, or status 8 with the offset of the index that the trap policy stops at. -/
def Obligations.AgentWork : Prop :=
  (∀ (k : Nat) (m : Msg) (s : State), Arrived s k m 7 →
    (m.fn = 1 ∨ m.fn = 2 ∨ m.fn = 4 ∨ m.fn = 5 ∨ m.fn = 6 → ∀ z r, runJob (agentJob m) (counted s m) = (z, r) →
      (∀ n, r = .ok n → ∃ t, exec (.kvTableOperation k) s = .next t ∧ Answered z t k m 0 (BitVec.ofNat 64 n) ∧ t = { z with mesh := t.mesh }) ∧
      (∀ e, r = .error e → ∃ t q, exec (.kvTableOperation k) s = .next t ∧ t.mesh = z.mesh.set k q ∧ q.status = e ∧ q.stage = .replied ∧ t.mem = s.mem)) ∧
    (m.fn = 0 → let a : Agent := { vault := m.dst, who := m.who, acct := m.acct }
      (∀ y r, runJob (do let h ← header a (m.paddr % 2 ^ 28); let d ← batchOf a m.opa.toNat; return (h, d)) (counted s m) = (y, r) →
        (∀ e, r = .error e → ∃ t q, exec (.kvTableOperation k) s = .next t ∧ t.mesh = y.mesh.set k q ∧ q.status = e ∧ q.stage = .replied ∧ t.mem = s.mem) ∧
        (∀ tb d n z, r = .ok (tb, d) → d.first + n ≤ d.n → appendsFrom a tb d d.first n y z →
          (d.first + n = d.n → ∃ t, exec (.kvTableOperation k) s = .next t ∧ Answered z t k m 0 (BitVec.ofNat 64 d.n) ∧ t = { z with mesh := t.mesh }) ∧
          (d.first + n < d.n → ∀ w why, runJob (appendOne a tb d (d.first + n)) z = (w, .ok (some why)) → ∃ t, exec (.kvTableOperation k) s = .next t ∧
            Answered w t k m 0 (BitVec.ofNat 64 (d.first + n + match why with | .dry => 2 ^ 47 | .bad => 2 ^ 46)) ∧ t.mem = z.mem) ∧
          (d.first + n < d.n → ∀ w e, runJob (appendOne a tb d (d.first + n)) z = (w, .error e) → ∃ t q, exec (.kvTableOperation k) s = .next t ∧
            t.mesh = w.mesh.set k q ∧ q.status = e ∧ q.stage = .replied ∧ t.mem = if e = 6 then z.mem else s.mem)))) ∧
    (m.fn = 2 → ∀ y tb z n, runJob (header { vault := m.dst, who := m.who, acct := m.acct } (m.paddr % 2 ^ 28)) (counted s m) = (y, .ok tb) →
      runJob (agentJob m) (counted s m) = (z, .ok n) → ∃ t, exec (.kvTableOperation k) s = .next t ∧
        t.mem.readNat (m.dst * 2 ^ 28 + tb.sqbase + 8 * (m.opa.toNat % 2 ^ 24)) 8 = 0) ∧
    (m.fn = 3 → ∀ c j id, m.client = .slot c j id → ∀ x d, (if m.data = [] then
          runJob (rd { vault := m.dst, who := m.who, acct := m.acct } m.opa.toNat 32) (counted s m) = (x, .ok d)
        else x = counted s m ∧ d = m.data) →
      let noted := x.noteWork c j id m.entry fun e => match e.work with | .gather g => { e with work := .gather { g with bytes := d } } | _ => e
      ∀ y g, runJob (gatherOf { vault := m.dst, who := m.who, acct := m.acct } (m.paddr % 2 ^ 28) d) noted = (y, .ok g) → ∃ t h, exec (.kvTableOperation k) s = .next t ∧ Answered y t k m 0 0 ∧ t.mem = y.mem ∧
          (t.coreAt m.dst).gathers = (y.coreAt m.dst).gathers ++ [h] ∧ h.list = g.list ∧ h.nl = g.nl ∧ h.dst = g.dst ∧ h.ctl = g.ctl ∧ h.landed = [] ∧
          h.slot = j ∧ h.entry = m.entry)) ∧
  (∀ (a : Agent) (tb : KvTable) (d : Batch) (i id : Nat) (y y1 : State), runJob (seqId a d.soff i) y = (y1, .ok id) →
    (tb.nseq ≤ id → ∃ z, runJob (appendOne a tb d i) y = (z, .ok (some .bad))) ∧
    (id < tb.nseq → ∀ l y2, runJob (seqLen a tb id) y1 = (y2, .ok l) →
      (l = 2 ^ 29 → ∃ z, runJob (appendOne a tb d i) y = (z, .ok (some .bad))) ∧
      (l < 2 ^ 29 → l % 32 ≠ 0 → ∀ y3, runJob (lookup a tb id (l / 32)) y2 = (y3, .ok none) → ∃ z, runJob (appendOne a tb d i) y = (z, .ok (some .bad))) ∧
      (l < 2 ^ 29 → l % 32 = 0 → tb.win = 0 → ∀ y3, runJob (freeCount a tb) y2 = (y3, .ok 0) → ∃ z, runJob (appendOne a tb d i) y = (z, .ok (some .dry))) ∧
      (∀ z, runJob (appendOne a tb d i) y = (z, .ok none) → let at_ := a.vault * 2 ^ 28
        z.mem.readNat (at_ + tb.sqbase + 8 * id) 8 = l + 1 ∧ z.spm = y.spm ∧
        (l % 32 ≠ 0 → tb.win = 0 → ∀ b y3, runJob (lookup a tb id (l / 32)) y2 = (y3, .ok (some b)) →
          let key := (tb.kbase + 8192 * b + 256 * (l % 32), 256)
          let val := (tb.vbase + 8192 * b + 256 * (l % 32), 256)
          let rind := (tb.rbase + 512 * b, 512)
          let ent := (tb.tbase + 16 * b, 16)
          let len := (tb.sqbase + 8 * id, 8)
          [key, val, rind, ent, len].Pairwise Apart →
          z.mem.readBytes (at_ + key.1) 256 = y.mem.readBytes (at_ + d.ksrc + 256 * i) 256 ∧
          z.mem.readBytes (at_ + val.1) 256 = y.mem.readBytes (at_ + d.vsrc + 256 * i) 256 ∧
          z.mem.readNat (at_ + ent.1) 16 / 2 ^ 53 % 2 ^ 6 = l % 32 + 1 ∧
          ∀ x, (∀ r ∈ [key, val, rind, ent, len], x < at_ + r.1 ∨ at_ + r.1 + r.2 ≤ x) → z.mem.read x = y.mem.read x)))) ∧
  (∀ (k : Nat) (m : Msg) (s z : State), Arrived s k m 6 →
    let job := embReduce { vault := m.dst, who := m.who, acct := m.acct } (m.paddr % 2 ^ 28) (m.opb.setWidth 32)
    (∀ n, runJob job (counted s m) = (z, .ok (.inl n)) → ∃ t, exec (.gatherReduce k) s = .next t ∧ Answered z t k m 0 (BitVec.ofNat 64 n) ∧ t.mem = z.mem) ∧
    (∀ o, runJob job (counted s m) = (z, .ok (.inr o)) → ∃ t, exec (.gatherReduce k) s = .next t ∧ Answered z t k m 8 (BitVec.ofNat 64 o) ∧ t.mem = z.mem) ∧
    (∀ e, runJob job (counted s m) = (z, .error e) → ∃ t q, exec (.gatherReduce k) s = .next t ∧ t.mesh = z.mesh.set k q ∧ q.status = e ∧ t.mem = s.mem))

end


namespace Sys2Proof.Statements

open Sys2Proof.Machine

/-! ## DRAM, streams and channels (R86, R138 to R142, R156, R157, R314 to R317, R410, R411) -/

/-- The address of entry `k` of a pattern (R314). -/
def entryAddress (x : Stream) (k : Nat) : Word := wrap (x.base.toNat + (k % x.icnt : Nat) * x.istr + (k / x.icnt : Nat) * x.ostr)

/-- The stream of a slot with a number and a kind. -/
def HasStream (v : Slot) (n : Nat) (kind : StreamKind) (x : Stream) : Prop :=
  v.streams.find? (fun y => y.num == n && y.kind == kind) = some x ∧ ∀ y ∈ v.streams, y.num = n → y = x

/-- A slot with one of its streams replaced. -/
def withStream (v : Slot) (n : Nat) (x : Stream) : Slot := { v with streams := v.streams.map fun y => if y.num = n then x else y }

/-- The event log has one more entry. -/
def Logged (s t : State) : Prop := t.quince.logCount = s.quince.logCount + 1

end Sys2Proof.Statements

section
open Sys2Proof Machine Statements

/-- R138, R140, R141, R142, R156, R157 and R411: a refresh that is due closes the bank's row and falls due again tREFI later, or
waits while a segment of a tld or of a task's tld transfers there; hot mode is entered with the first hot layer and left with the
last, each logged; the throttle's onset stops each tld of the cluster, those of its tile tasks too; rowact opens its row and
rowpre closes its bank, the requests of one bank in the order of their arrival; a lost part is marked and logged, and a core whose
whole vault is lost is listed to be killed at the end of the cycle; arming places the error that EIA and EIC name, in place of one
armed before, or leaves ARM 0. -/
def Obligations.BanksAndThrottle : Prop :=
  (∀ (c b : Nat) (s : State), let x := s.bankAt c b
    let busy := (∃ e ∈ (s.coreAt c).slots, ∃ beats next stopped, e.2.run = some (.tld beats next stopped) ∧ next / 2 ^ 23 % 32 = b) ∨
      ∃ r ∈ (s.clusterAt (clusterOf c)).running, r.core = c ∧ ∃ q, r.tld = some q ∧ q.next / 2 ^ 23 % 32 = b
    (s.now < x.due → x.waiting = false → exec (.refresh c b) s = .next s) ∧
    (x.due ≤ s.now ∨ x.waiting = true → busy → exec (.refresh c b) s = .next (s.putBank c b { x with waiting := true })) ∧
    (x.due ≤ s.now ∨ x.waiting = true → ¬ busy → exec (.refresh c b) s =
      .next (s.putBank c b { x with openRow := none, waiting := false, due := x.due + if s.quince.hot = [] then 6825 else 3412 }))) ∧
  (∀ (l : Nat) (hot : Bool) (s : State), ∃ t, exec (.hotMode l hot) s = .next t ∧ t = { s with quince := t.quince } ∧
    (∀ n, n ∈ t.quince.hot ↔ if n = l then hot = true else n ∈ s.quince.hot) ∧
    ((s.quince.hot = [] ↔ t.quince.hot = []) → t.quince.logCount = s.quince.logCount) ∧ (¬ (s.quince.hot = [] ↔ t.quince.hot = []) → Logged s t)) ∧
  (∀ (g : Nat) (s : State), g < 64 → ((s.clusterAt g).now.getLsbD 1 = true → exec (.dramThermalThrottle g) s = .next s) ∧
    ((s.clusterAt g).now.getLsbD 1 = false → ∃ t, exec (.dramThermalThrottle g) s = .next t ∧ Logged s t ∧ t.mem = s.mem ∧
      (∀ r ∈ (s.clusterAt g).running, ∀ q, r.tld = some q → { r with tld := some { q with stopped := true } } ∈ (t.clusterAt g).running) ∧
      (t.clusterAt g).now = (s.clusterAt g).now ||| 2 ∧ (t.clusterAt g).seen = (s.clusterAt g).seen ||| 2 ∧
      ∀ c ∈ clusterCores g, ∀ j, j < 8 → ∀ beats next stopped, (s.slotAt c j).run = some (.tld beats next stopped) →
        t.slotAt c j = { s.slotAt c j with run := some (.tld beats next true) })) ∧
  (∀ (c n a : Nat) (s : State), let older := ((s.coreAt c).ctl.take n).any fun q => q.addr / 2 ^ 23 % 32 == a / 2 ^ 23 % 32
    (older = true → (s.coreAt c).ctl[n]? = some (.act a) ∨ (s.coreAt c).ctl[n]? = some (.pre a) → exec (.vaultControllerPacket c n) s = .next s) ∧
    (older = false → (s.coreAt c).ctl[n]? = some (.act a) → s.isLost a = false → ∃ t, exec (.vaultControllerPacket c n) s = .next t ∧
      t.mem = s.mem ∧ (t.bankAt (a / 2 ^ 28 % 1024) (a / 2 ^ 23 % 32)).openRow = some (a / 2 ^ 11 % 4096) ∧ (t.coreAt c).ctl = without (s.coreAt c).ctl n) ∧
    (older = false → (s.coreAt c).ctl[n]? = some (.pre a) → ∃ t, exec (.vaultControllerPacket c n) s = .next t ∧ t.mem = s.mem ∧
      (t.bankAt (a / 2 ^ 28 % 1024) (a / 2 ^ 23 % 32)).openRow = none ∧ (t.coreAt c).ctl = without (s.coreAt c).ctl n)) ∧
  (∀ (c b : Nat) (s : State), c < 1024 → b < 32 → (c, b) ∉ s.quince.lost →
    ((∃ d, b < d ∧ d < 32 ∧ (c, d) ∉ s.quince.lost) → ∃ t, exec (.lossOfMemory 0 c b) s = .next t ∧ t = { s with quince := t.quince } ∧ Logged s t ∧
      t.quince.lost = s.quince.lost ++ [(c, b)] ∧ (c, b) ∉ t.quince.failing) ∧
    ((s.coreAt c).killed = false → ∃ t, exec (.lossOfMemory 1 c b) s = .next t ∧ (∃ k ∈ t.kills, k.1 = c) ∧ ∀ d, d < 32 → (c, d) ∈ t.quince.lost)) ∧
  (∀ (c : Nat) (s : State), let e := (s.coreAt c).eic
    let a := (s.coreAt c).eia.toNat % 2 ^ 44
    let ok := if e.getLsbD 2 then a < 2 ^ 18 else a < 2 ^ 38
    ∃ t, exec (.eicArm c) s = .next t ∧ t.mem = s.mem ∧ (t.coreAt c).eic.getLsbD 0 = decide ok ∧ (∀ i, 0 < i → (t.coreAt c).eic.getLsbD i = e.getLsbD i) ∧
      t.injected = (s.injected.filter fun x => x.1 != c) ++
        if ok then [(c, if e.getLsbD 2 then 2 ^ 40 + c * 2 ^ 15 + a / 8 else a / 32, e.toNat / 2 ^ 8 % 2 ^ 8, e.getLsbD 1)] else [])

end

section
open Sys2Proof Machine Statements

/-- R86, R314, R316 and R317: a pattern read of an input with room puts the row at its next address at the end of the FIFO, or
holds the fault of that read there, or at a global address an entry whose four granules are asked for; it waits for a posted store
of its strand that may reach the row, and for a tag of the own vault's agent; a pattern write of an output in the own window
stores the oldest pushed entry at its address and pops it, and elsewhere posts it as a store of four granules; an entry that is
the oldest of its channel reaches the neighbour's inbound channel on the opposite side when that holds fewer than eight, waits
when it is full, and is discarded by a killed neighbour. -/
def Sys2Proof.Statements.StreamEvents : Prop :=
  (∀ (c j n : Nat) (x : Stream) (s : State), HasStream (s.slotAt c j) n .inPattern x → x.icnt ≠ 0 →
    let a := entryAddress x x.ahead
    let with_ (e : FifoEntry) (v : Slot) : Slot := withStream v n { x with ahead := x.ahead + 1, fifo := x.fifo ++ [e], tag := none }
    let stored := x.tag.isNone && s.engineBehind (s.ctx c j) a.toNat 128 .read
    (4 ≤ x.fifo.length ∨ x.cnt ≤ x.ahead → exec (.streamPatternRead c j n) s = .next s) ∧
    (x.fifo.length < 4 → x.ahead < x.cnt →
      (∀ y cause, s.regionCheck c j a.toNat = (y, some cause) →
        exec (.streamPatternRead c j n) s = .next (y.onSlot c j (with_ (FifoEntry.mk 0 (some cause) a [])))) ∧
      (s.regionCheck c j a.toNat = (s, none) → stored = true → exec (.streamPatternRead c j n) s = .next s) ∧
      (s.regionCheck c j a.toNat = (s, none) → stored = false → a.toNat < 2 ^ 28 → s.tagFree c x.tag = false →
        (x.tag ≠ none → exec (.streamPatternRead c j n) s = .next s) ∧
        (x.tag = none → exec (.streamPatternRead c j n) s =
          .next { s.onSlot c j fun v => withStream v n { x with tag := some s.orders } with orders := s.orders + 1 })) ∧
      (s.regionCheck c j a.toNat = (s, none) → stored = false →
        (∀ y r, a.toNat < 2 ^ 28 ∧ s.tagFree c x.tag = true ∨ 2 ^ 28 ≤ a.toNat ∧ a.toNat < 2 ^ 32 ∧ spmCore a.toNat = c →
          s.dataRead c j a.toNat 128 = (y, r) → (y.slotAt c j).streams = (s.slotAt c j).streams →
          (∀ bs, r = .ok bs → exec (.streamPatternRead c j n) s =
            .next (y.onSlot c j (with_ (FifoEntry.mk (BitVec.ofNat 1024 (leNat bs)) none a [])))) ∧
          (∀ cause, r = .error cause → exec (.streamPatternRead c j n) s = .next (y.onSlot c j (with_ (FifoEntry.mk 0 (some cause) a []))))) ∧
        (2 ^ 32 ≤ a.toNat → a.toNat % 128 = 0 → ∃ (t : State) (ms : List Msg), exec (.streamPatternRead c j n) s = .next t ∧ t.mesh = s.mesh ++ ms ∧
          ms.map (·.va) = [a, a + 32, a + 64, a + 96] ∧
          (∀ (i : Nat) (m : Msg), ms[i]? = some m → m.client = .stream c j (s.slotAt c j).id n i ∧ m.proc = 0 ∧ m.stage = .toStation ∧ m.storing = false ∧ m.src = c) ∧
          t.slotAt c j = with_ (FifoEntry.mk 0 none a (ms.zipIdx.map fun p => (p.2, p.1.seq))) (s.slotAt c j) ∧ t.mem = s.mem)))) ∧
  (∀ (c j n : Nat) (x : Stream) (e : FifoEntry) (l : List FifoEntry) (s : State), HasStream (s.slotAt c j) n .outPattern x → x.fifo = e :: l →
    ((s.coreAt c).strict = true ∨ (s.slotAt c j).board.length < 16) →
    (e.addr.toNat + 128 ≤ 0x0FF00000 → s.reservedBase c = 0x0FF00000 → e.addr.toNat % 128 = 0 → c < 1024 →
      s.owns (s.slotAt c j).pid (c * 2 ^ 28 + e.addr.toNat) = true → OwnerReadable s (c * 2 ^ 28 + e.addr.toNat) → s.sound (c * 2 ^ 28 + e.addr.toNat) 128 →
      s.tagFree c x.tag = true → s.behind (s.slotAt c j).id false (c * 2 ^ 28 + e.addr.toNat) 128 = false →
      ∃ t, exec (.streamPatternWrite c j n) s = .next t ∧ Stored s.mem t.mem (c * 2 ^ 28 + e.addr.toNat) (leBytes 128 e.row.toNat) ∧ t.spm = s.spm ∧
        t.slotAt c j = withStream (s.slotAt c j) n { x with done := x.done + 1, fifo := l, tag := none } ∧ t.mesh = s.mesh) ∧
    (2 ^ 32 ≤ e.addr.toNat → ∃ (t : State) (ms : List Msg), exec (.streamPatternWrite c j n) s = .next t ∧ t.mesh = s.mesh ++ ms ∧
      ms.map (·.va) = [e.addr, e.addr + 32, e.addr + 64, e.addr + 96] ∧
      (∀ (i : Nat) (m : Msg), ms[i]? = some m → m.proc = 1 ∧ m.storing = true ∧ m.src = c ∧ m.data = ((leBytes 128 e.row.toNat).drop (32 * i)).take 32 ∧
        ∀ k, k < 32 → m.mask.getLsbD k = true) ∧
      t.mem = s.mem ∧ (t.slotAt c j).streams = (withStream (s.slotAt c j) n { x with done := x.done + 1, fifo := l, tag := none }).streams)) ∧
  (∀ (k n : Nat) (m : ChanMsg) (s : State), s.chans[k]? = some m → (∀ i x, i < k → s.chans[i]? = some x → ¬ (x.core = m.core ∧ x.dir = m.dir)) →
    (m.dir = 0 ∧ m.core % 32 ≠ 0 ∧ n + 1 = m.core ∨ m.dir = 1 ∧ m.core % 32 ≠ 31 ∧ n = m.core + 1 ∨ m.dir = 2 ∧ 32 ≤ m.core ∧ n + 32 = m.core ∨
      m.dir = 3 ∧ m.core / 32 ≠ 31 ∧ n = m.core + 32) →
    let side := if m.dir % 2 = 0 then m.dir + 1 else m.dir - 1
    let q := (look side (s.coreAt n).inChan).getD []
    ((s.coreAt n).killed = false → q.length < 8 → ∃ t, exec (.channelEntryArrival k) s = .next t ∧ t.chans = without s.chans k ∧
      look side (t.coreAt n).inChan = some (q ++ [m.entry]) ∧ t.mem = s.mem ∧ t.mesh = s.mesh) ∧
    ((s.coreAt n).killed = false → 8 ≤ q.length → exec (.channelEntryArrival k) s = .next s) ∧
    ((s.coreAt n).killed = true → exec (.channelEntryArrival k) s = .next { s with chans := without s.chans k }))

end

section
open Sys2Proof Machine Statements

/-- R314, R315 and R318: strbind with a well-formed descriptor whose channel is free ends a drained stream of the same number and
binds vd to the stream described; a taken channel takes REFUSED with EVA ra; strend ends the binding of vd once its output pattern
has drained, and has no effect on a name bound to no stream. R87, R316 and R317: an instruction that reads a name bound to an
input pattern pops the FIFO's first entry, waits while it is empty or its bytes are on their way, takes the fault its read met,
and past the last entry takes PROT with EVA the address that entry would have; one that writes a name bound to an outbound channel
pushes the row, in its enabled lanes the result. R86, R314, R316 and R317: a pattern read of an input with room puts the row at
its next address at the end of the FIFO, or holds the fault of that read there, or at a global address an entry whose four
granules are asked for; it waits for a posted store of its strand that may reach the row, and for a tag of the own vault's agent;
a pattern write of an output in the own window stores the oldest pushed entry at its address and pops it, and elsewhere posts it
as a store of four granules; an entry that is the oldest of its channel reaches the neighbour's inbound channel on the opposite
side when that holds fewer than eight, waits when it is full, and is discarded by a killed neighbour. -/
def Obligations.Streams : Prop :=
  Statements.StreamBindings ∧ Statements.StreamOperands ∧ Statements.StreamEvents

end


namespace Sys2Proof.Statements

open Sys2Proof.Machine

/-! ## The engine and the tasks of a cluster (R113, R192 to R194, R209 to R213, R341, R343, R348, R412 to R414) -/

/-- Element `p` of row `i` of A of an integer-class operation; the padding of its last K-block is zero (R99, R111). -/
def aValue (s : State) (c : Nat) (o : MmaOp) (i p : Nat) : Int :=
  if p < o.k then intElem o.afmt o.lut (elemAt (formatBits o.afmt) p (s.aRow c o i)) else 0

/-- Element `j` of K-block `kb` of column `n` of the resident B. -/
def bValue (e : Engine) (n kb j : Nat) : Int := (((e.bcols.getD n [])[kb]?).map fun x => x.vals.getD j 0).getD 0

/-- The sum of `n` terms. -/
def total (n : Nat) (f : Nat → Int) : Int := ((List.range n).map f).sum

/-- The queue of an engine whose first operation has left it: the next one starts (R341). -/
def started (now : Nat) : List MmaOp → List MmaOp
  | _ :: o :: r => { o with started := now } :: r
  | _ => []

/-- A task on an engine, with what its execution holds. -/
def RunsTask (s : State) (c : Nat) (r : Running) : Prop :=
  (s.clusterAt (clusterOf c)).running.find? (fun r => r.core == c && r.task.audit.isNone) = some r

/-- An admitted task begins on its engine, which leaves `t`: a waited barrier's error ends it (notes/assumptions/156.md), an MMA form loads
and enters the engine's queue or ends with its failure, a `bld` compares the code-table tags and captures the table or ends with its
failure, and any other form waits for its completion (R99, R209, R213). -/
structure TaskIssues (y : State) (g c : Nat) (x : Task) (t : State) : Prop where
  failed : x.bad ≠ none → t = y.endTask g c x none
  mma    : x.bad = none → ∀ z m w f, (recCmd x.rec_).form = some (.mma z m) → y.startMma c x z m = (w, f) →
    (f = none → t = w) ∧ (f ≠ none → t = w.endTask g c x f)
  bld    : x.bad = none → (recCmd x.rec_).form = some .bld → (∀ f, y.issueBld c x (recCmd x.rec_) = .error f → t = y.endTask g c x (some f)) ∧
    ∀ l, y.issueBld c x (recCmd x.rec_) = .ok l → t = y.onRunning g x.num fun r => { r with lut := l }
  other  : x.bad = none → ∀ f, (recCmd x.rec_).form = some f → f.isMma = false → f ≠ .bld → t = y

/-- The tasks in execution of a cluster without one. -/
def othersRunning (s : State) (g : Nat) (x : Task) : List Running := (s.clusterAt g).running.filter fun r => r.task.num != x.num

/-- An item comes before another in the scheduler's order (R210): a higher priority, or the same and ready earlier. -/
def Sooner (i j : Item) : Prop := j.prio < i.prio ∨ i.prio = j.prio ∧ i.order < j.order

/-- The charge and the load of a cluster have room for an item, with amounts kept free (R210, R211). -/
def HasRoom (s : State) (g : Nat) (i : Item) (energy current : Nat) : Prop :=
  (s.clusterAt g).charge + i.energy + energy ≤ (s.clusterAt g).budget ∧ s.loadOf g + i.current + current ≤ (s.clusterAt g).ibud ∧
  ∀ x, i = .task x → ∃ c, s.engineFor g x = some c

end Sys2Proof.Statements

section
open Sys2Proof Machine Statements

/-- R113, R341 and R343: an integer-class product leaves each element of C's rows 0 to M - 1 the element before plus the sum over
its K-blocks of A times B, mod 2^32; a running operation completes once its cycles have run and no posted store that its strand
made before may reach its barrier, and not before, with the tile its product leaves, and the next one starts; a buffer or macro
whose parity has failed stops it with ECCUE and the tile as it was; a partial is held while fewer than four are, waits for the
owner's own part and for those held before it, is then added element by element, and one that disagrees with the owner's operation
ends it with GROUP; a partial for a killed owner fails its sender with REFUSED. -/
def Obligations.MatrixProducts : Prop :=
  (∀ (s y : State) (c : Nat) (o p : MmaOp) (upto n : Nat) (x : Tile) (f : Option (Cause × Word)), s.runOp c o upto = (y, p, x, n, f) →
    ((s.coreAt c).engine.badB = true ∨ (s.coreAt c).engine.badA = true ∧ o.fromTile = false →
      n = o.blocks ∧ x = s.tileAt c o.td ∧ ∃ a, f = some (.eccue, a)) ∧
    ((s.coreAt c).engine.badB = false → (s.coreAt c).engine.badA = false ∨ o.fromTile = true → o.afmt = 4 ∨ o.afmt = 5 → (s.tileAt c o.td).ty = 1 → (s.tileAt c o.td).rows.length = 32 →
    y = s ∧ p = o ∧ f = none ∧ n = max o.blocks (min upto o.b) ∧ x.rows.length = 32 ∧ ∀ i j, i < 32 → j < 32 →
      let old := lane 1 ((s.tileAt c o.td).rows.getD i 0) j
      (lane 1 (x.rows.getD i 0) j : Int) = if o.m ≤ i then (old : Int) else
        ((old : Int) + total (n - o.blocks) fun b => total 32 fun p =>
          aValue s c o i (32 * (o.blocks + b) + p) * bValue (s.coreAt c).engine j (o.kb0 + o.blocks + b) p) % 2 ^ 32)) ∧
  (∀ (c : Nat) (s : State), let e := (s.coreAt c).engine
    (e.frozen = true ∨ e.queue = [] → exec (.mmaCompletion c) s = .next s) ∧
    (∀ o rest, e.queue = o :: rest → e.frozen = false → o.task = none → o.group = none → s.plainTask c = false →
      (s.now < o.started + o.cycles → exec (.mmaCompletion c) s = .next s) ∧
      (s.opBehind c o = true → exec (.mmaCompletion c) s = .next s) ∧
      (o.started + o.cycles ≤ s.now → s.opBehind c o = false → ∀ y p f, s.product c o true = (y, p, f) → exec (.mmaCompletion c) s = .next (y.closeOp c p f) ∧
        (o.bar = 0 → f = none → Unframed y c o.slot → ∃ t, exec (.mmaCompletion c) s = .next t ∧ t.mem = y.mem ∧ t.spm = y.spm ∧ (∀ n, t.tileAt c n = y.tileAt c n) ∧
          (t.coreAt c).engine = { (y.coreAt c).engine with queue := started y.now (y.coreAt c).engine.queue } ∧
          ∀ k, o.entry = some k → (y.slotAt c o.slot).strand.map (·.id) = some o.id → (y.slotAt c o.slot).handler = false →
            (∃ q ∈ (y.slotAt c o.slot).board, q.num = k) →
            t.slotAt c o.slot = { y.slotAt c o.slot with board := (y.slotAt c o.slot).board.filter fun q => q.num != k, freed := (t.slotAt c o.slot).freed })))) ∧
  (∀ (k : Nat) (m : Partial) (s : State), s.partials[k]? = some m →
    let x := s.tileAt m.owner
    let kept (q : Partial) : Bool := !(q.held && q.owner == m.owner && q.lid == m.lid && q.group == m.group && q.tile == m.tile)
    ((s.coreAt m.owner).killed = true →
      exec (.mmagPartial k) s = .next (({ s with partials := without s.partials k } : State).partSent m (some (.refused, 0)))) ∧
    ((s.coreAt m.owner).killed = false → m.held = false →
      let n := (s.partials.filter fun q => q.held && q.owner == m.owner).length
      (4 ≤ n → s.ownerOp m = none → exec (.mmagPartial k) s = .next s) ∧
      (n < 4 ∨ s.ownerOp m ≠ none →
        exec (.mmagPartial k) s = .next (({ s with partials := without s.partials k ++ [{ m with held := true }] } : State).partSent m none))) ∧
    ((s.coreAt m.owner).killed = false → m.held = true →
      (s.ownerOp m = none → exec (.mmagPartial k) s = .next s) ∧
      ∀ o, s.ownerOp m = some o →
        let first := (s.partials.take k).all kept
        (o.blocks < o.b ∨ first = false → exec (.mmagPartial k) s = .next s) ∧
        (first = true → o.b ≤ o.blocks → (o.word ≠ m.op.word ∨ o.fmt.toNat % 256 ≠ m.op.fmt.toNat % 256 ∨ o.fpc.toNat % 8 ≠ m.op.fpc.toNat % 8) →
          exec (.mmagPartial k) s = .next (({ s with partials := s.partials.filter kept } : State).closeOp m.owner o (some (.group, wrap m.group)))) ∧
        (first = true → o.b ≤ o.blocks → o.word = m.op.word → o.fmt.toNat % 256 = m.op.fmt.toNat % 256 → o.fpc.toNat % 8 = m.op.fpc.toNat % 8 →
          o.got + 2 < o.parts → ∃ t, exec (.mmagPartial k) s = .next t ∧ t.partials = without s.partials k ∧ t.mem = s.mem ∧
            (t.coreAt m.owner).engine.queue = { o with got := o.got + 1 } :: (s.coreAt m.owner).engine.queue.drop 1 ∧
            (∀ n, n ≠ o.td → t.tileAt m.owner n = x n) ∧
            (4 ≤ o.afmt → o.afmt ≤ 5 → (x o.td).ty = 1 → (x o.td).rows.length = 32 → ∀ i j, i < 32 → j < 32 →
              lane 1 ((t.tileAt m.owner o.td).rows.getD i 0) j = match m.rows[i]? with
                | some r => (lane 1 ((x o.td).rows.getD i 0) j + lane 1 r j) % 2 ^ 32
                | none => lane 1 ((x o.td).rows.getD i 0) j))))

end

section
open Sys2Proof Machine Statements

/-- R210, R211, R213, R348 and R412 to R414: the item admitted is ready or pending, fits the budgets beside the reservation, and
comes before every other that does, unless it holds the reservation itself; an admitted leave replaces its strand's; an admitted
task leaves the queue for an engine and enters the charge, and begins there once no posted store that its strand made before may
reach what it reads, writes or signals (notes/assumptions/120.md); nothing is admitted while admission is stopped; a task whose
command is not an MMA form ends with its form performed, a tld after its beats or at the DRAM throttle, and arrives on SIG, or
applies its failure first, or logs it without SIG; an MMA task ends only once its cycles have run; a record that another cluster
has sent is taken into the queue before the scheduler's step of its own event, and its status goes back
(notes/assumptions/125.md); a replay whose signature agrees with the slot's frees the audit slot, and one that does not, or whose
slot cannot be read (notes/assumptions/124.md), counts a mismatch, logs it and raises AUDIT for the cluster's acting supervisor.
-/
def Obligations.ClusterTasks : Prop :=
  (∀ (g : Nat) (s : State), let k := s.clusterAt g
    (∀ i, s.chosen g = some i → (∀ j ∈ s.items g, j.prio ≤ 31 ∧ j.order < 2 ^ 64) → i ∈ s.items g ∧ HasRoom s g i 0 0 ∧ k.noAdmit = false ∧ k.switching = false ∧ k.power = .up ∧
      (s.reserved g = none → ∀ j ∈ s.items g, HasRoom s g j 0 0 → ¬ Sooner j i) ∧
      (∀ r, s.reserved g = some r → HasRoom s g r 0 0 → i = r) ∧
      (∀ r, s.reserved g = some r → ¬ HasRoom s g r 0 0 → HasRoom s g i r.energy r.current ∧
        ∀ j ∈ s.items g, HasRoom s g j r.energy r.current → ¬ Sooner j i)) ∧
    ((∀ m ∈ s.mesh, m.rec_ = none) → (∀ x ∈ k.queue, s.doomedTask g x = false) →
      (s.chosen g = none → ∃ t, exec (.admission g) s = .next t ∧ t = { s with clusters := t.clusters } ∧
        t.clusterAt g = { k with reserve := (s.reserved g).map Item.name } ∧ ∀ h, h ≠ g → t.clusterAt h = s.clusterAt h) ∧
      (∀ r, s.chosen g = some (.leave r) → ∃ t, exec (.admission g) s = .next t ∧ t.mem = s.mem ∧ t.spm = s.spm ∧
        (t.clusterAt g).charge = k.charge + r.energy ∧ (t.clusterAt g).leaves = k.leaves.filter (fun q => q.order != r.order) ∧
        (t.clusterAt g).queue = k.queue ∧ (t.clusterAt g).running = k.running ∧
        (t.coreAt r.core).leaves = ((s.coreAt r.core).leaves.filter fun l => l.owner != r.owner) ++ [Leave.mk r.owner r.energy r.current]) ∧
      (∀ x c, s.chosen g = some (.task x) → s.engineFor g x = some c → ∃ y : State, y = { s with clusters := y.clusters } ∧
        (∀ h, h ≠ g → y.clusterAt h = s.clusterAt h) ∧ (y.clusterAt g).charge = k.charge + recEnj x.rec_ ∧
        (y.clusterAt g).queue = k.queue.filter (fun q => q.num != x.num) ∧ (y.clusterAt g).leaves = k.leaves ∧
        (y.clusterAt g).running = k.running ++ [Running.mk x c (recIpk x.rec_) false [] none none] ∧
        (x.audit ≠ none ∨ y.taskBehind c x = true → exec (.admission g) s = .next y) ∧
        (x.audit = none → y.taskBehind c x = false → ∃ t, exec (.admission g) s = .next t ∧
          TaskIssues (y.onRunning g x.num fun r => { r with begun := true }) g c x t))) ∧
    (∀ x l, (∀ m ∈ s.mesh, m.rec_ = none) → k.queue = x :: l → s.doomedTask g x = true → x.audit = none → x.bad = none →
      recWord x.rec_ 0x30 < 2 ^ 31 → ∃ t, exec (.admission g) s = .next t ∧
      (t.clusterAt g).queue = l.filter (fun q => q.num != x.num) ∧ (t.clusterAt g).running = k.running ∧ t.mem = s.mem ∧ t.spm = s.spm ∧
      Logged s t) ∧
    (∀ n m x y st, s.mesh[n]? = some m → m.stage = .toOwner → m.rec_ = some x → recClu x.rec_ = g →
      (∀ (i : Nat) (q : Msg), s.mesh[i]? = some q → i ≠ n → q.rec_ = none) → (s.countRecv m.dst m.lid).enqueue x = (y, st) →
      exec (.admission g) s = exec (.admission g) { y with
        mesh := y.mesh.set n { m with stage := .replied, status := 0, cause := none, result := BitVec.ofNat 64 st } })) ∧
  (∀ (c : Nat) (s : State), let g := clusterOf c
    ((∀ r ∈ (s.clusterAt g).running, r.core = c → r.task.audit ≠ none) → exec (.tileTaskCompletion c) s = .next s) ∧
    (∀ r, RunsTask s c r → r.begun = false → (s.coreAt c).killed = false →
      (s.taskBehind c r.task = true → exec (.tileTaskCompletion c) s = .next s) ∧
      (s.taskBehind c r.task = false → ∃ t, exec (.tileTaskCompletion c) s = .next t ∧
        TaskIssues (s.onRunning g r.task.num fun r => { r with begun := true }) g c r.task t)) ∧
    (∀ r, RunsTask s c r → r.task.bad = none → let x := r.task
      let sig := recWord x.rec_ 0x30
      let h := sig / 2 ^ 6 % 2 ^ 10
      let b := sig % 2 ^ 6
      let ended (y : State) (f : Option (Cause × Word)) : Prop :=
        (sig.testBit 31 = true → f = none → exec (.tileTaskCompletion c) s = .next ((y.dropTask g c x).barSend c x.id.lid h b .arrive)) ∧
        (sig.testBit 31 = true → ∀ cause a, f = some (cause, a) → exec (.tileTaskCompletion c) s =
          .next (((y.dropTask g c x).barSend c x.id.lid h b (.fail cause.code c a.toNat 0)).barSend c x.id.lid h b .arrive)) ∧
        (sig.testBit 31 = false → ∃ t, exec (.tileTaskCompletion c) s = .next t ∧ t.mem = y.mem ∧ t.spm = y.spm ∧
          (t.clusterAt g).running = othersRunning y g x ∧ (∀ n, t.tileAt c n = y.tileAt c n) ∧ (f = none → t.quince = y.quince) ∧
          (f ≠ none → Logged y t))
      ((s.coreAt c).killed = true → ended s (some (.refused, 0))) ∧
      ((s.coreAt c).killed = false → r.begun = true → ∀ f, (recCmd x.rec_).form = some f → f.isMma = false → f ≠ .tld →
        ∀ y e, s.taskForm c x (recCmd x.rec_) f r.lut = (y, e) → ended y e) ∧
      ((s.coreAt c).killed = false → r.begun = true → (recCmd x.rec_).form = some .tld →
        (∀ q, r.tld = some q → q.stopped = true → ∃ y : State, y.mem = s.mem ∧ y.spm = s.spm ∧ ended y (some (.tldtherm, x.opd (recCmd x.rec_).ra))) ∧
        (∀ q, r.tld = some q → q.stopped = false → s.now < q.from_ → exec (.tileTaskCompletion c) s = .next s) ∧
        (∀ y f, r.tld = none → s.tldRefused c x (recCmd x.rec_) = (y, some f) → ended y (some f)) ∧
        (∀ y e, s.stepTld r (recCmd x.rec_) = (y, some e) → ended y e) ∧
        (∀ y, s.stepTld r (recCmd x.rec_) = (y, none) → exec (.tileTaskCompletion c) s = .next y)) ∧
      ((s.coreAt c).killed = false → r.begun = true → ∀ z m, (recCmd x.rec_).form = some (.mma z m) → let e := (s.coreAt c).engine
        (e.frozen = true ∨ e.queue = [] → exec (.tileTaskCompletion c) s = .next s) ∧
        ∀ o l, e.queue = o :: l → e.frozen = false → (s.now < o.started + o.cycles → exec (.tileTaskCompletion c) s = .next s) ∧
          (o.started + o.cycles ≤ s.now → s.auditDue g = false → ∀ y p, s.product c o true = (y, p, none) →
            (recOpd x.rec_ 2 % 2 ^ 48 = 0 → ended (y.onCluster g fun k => { k with finished := k.finished + 1 }) none) ∧
            (recOpd x.rec_ 2 % 2 ^ 48 ≠ 0 → ∀ w, (y.chargeGranules c x.acct 4608).writeSpan (x.ctx c) (x.opd 2) (y.tileAt c o.td).image = (w, none) →
              ended (w.onCluster g fun k => { k with finished := k.finished + 1 }) none)) ∧
          (o.started + o.cycles ≤ s.now → s.auditDue g = false → ∀ y p f, s.product c o true = (y, p, some f) → ended y (some f))))) ∧
  (∀ (g : Nat) (s : State), let free := (s.clusterAt g).audit
    (free = none → exec (.auditReplay g) s = .next s) ∧
    (∀ c h, free = some (c, h) → (∀ r ∈ (s.clusterAt h).running, r.task.audit ≠ some g) → exec (.auditReplay g) s = .next s) ∧
    (∀ c h r, free = some (c, h) → (s.clusterAt h).running.find? (fun r => r.task.audit == some g) = some r →
      ∀ z n bs, s.vaultRead (r.task.ctx r.core).who (s.auditSlot g) 0x20000 = (z, n, bs) →
      let x := replayTile bs
      let y := z.auditWrite g r.core 0x18000 x.image
      let agrees := n = 0 ∧ x.signature = leNat ((bs.drop 0x1A400).take 4)
      (agrees → ∃ t, exec (.auditReplay g) s = .next t ∧ (t.clusterAt g).audit = none ∧ t.audc = s.audc ∧ t.mem = y.mem ∧
        (t.clusterAt h).running = othersRunning z h r.task) ∧
      (¬ agrees → s.audc.getLsbD 6 = false → ∃ t, exec (.auditReplay g) s = .next t ∧ (t.clusterAt g).audit = some (c, h) ∧ t.mem = y.mem ∧
        t.audc.toNat / 2 ^ 32 % 2 ^ 16 = min 0xFFFF (s.audc.toNat / 2 ^ 32 % 2 ^ 16 + 1) ∧
        (t.clusterAt g).raised = some (wrap (s.auditSlot g)) ∧ Logged y t ∧ (t.clusterAt h).running = othersRunning z h r.task)))

end


namespace Sys2Proof.Statements

open Sys2Proof.Machine

/-! ## Power (R25, R26, R202, R204, R216 to R222, R224) -/

/-- A cluster is idle (R219). -/
def IdleCluster (s : State) (g : Nat) : Prop :=
  (s.clusterAt g).running = [] ∧ (∀ x ∈ (s.clusterAt g).queue, x.readyAt = none) ∧ ∀ c ∈ clusterCores g,
    (s.coreAt c).engine.queue = [] ∧ (s.coreAt c).bound = [] ∧
    ∀ j, j < 8 → (s.slotAt c j).strand = none ∧ (s.slotAt c j).reserved = none

/-- A cluster has an engine operation in progress (R218). -/
def EnginesBusy (s : State) (g : Nat) : Prop := (s.clusterAt g).running ≠ [] ∨ ∃ c ∈ clusterCores g, (s.coreAt c).engine.queue ≠ []

/-- A cluster claims boost with a number of permits (R216). -/
def Claims (s : State) (g permits : Nat) : Prop :=
  let k := s.clusterAt g
  k.cpwr.getLsbD 2 = true ∧ k.cpwr.getLsbD 1 = false ∧ 1 ≤ permits ∧ k.now.getLsbD 0 = false ∧ k.now.getLsbD 2 = false ∧
    k.now.getLsbD 3 = false ∧
    (k.running ≠ [] ∨ ∃ c ∈ clusterCores g, ∃ e ∈ (s.coreAt c).slots, e.2.strand ≠ none)

/-- The permits of a cluster once the interval that ends has been charged (R217). -/
def charged (k : Cluster) : Nat := if k.step = .boost then k.permits - 1 else k.permits

/-- A cluster holds a slot once the fall step has released its own (R217). -/
def Holds (k : Cluster) : Prop := k.slot = true ∧ k.step ≠ .fall

/-- What keeps a cluster at economy (R204, R221): ECO, and a CORE reason that was held for 16 µs and has not cleared. -/
def Eco (k : Cluster) : Prop := k.cpwr.getLsbD 1 = true ∨ k.coreEco = true

/-- How many of the 64 clusters have a slot. -/
def slotsOf (s : State) : Nat := ((List.range 64).filter fun g => (s.clusterAt g).slot).length

end Sys2Proof.Statements

section
open Sys2Proof Machine Statements

/-- R204, R219, R221, R224 and R26: at a control-interval boundary every cluster's charge begins at 0, EBUD, IBUD and the cap's
scale take effect, an overspent interval is deducted, ECO and a CORE reason held for 16 microseconds put the cluster into economy
(its clock first, then the rail) and without them a rail switch begins that takes it out, a cluster idle through the interval with
GATE 1 gates for 3,500 cycles, and each tag's counter grows by half of the halves it owes (floors and carried halves:
notes/assumptions/28.md), a boosted cluster that must run at economy goes there at once and gives its slot up
(notes/assumptions/48.md), and the engine's frozen flag is among what a gate loses (notes/assumptions/49.md); R216 and R217: at a
boost boundary each boosted cluster spends a permit and falls when it no longer claims, the fall step ends, a cluster that holds a
slot while it still leaves economy keeps it as long as it claims, free slots go to the highest claim priorities and at most
sixteen hold one; R218: a refill period without work adds a permit, up to 64. -/
def Sys2Proof.Statements.IntervalBoundaries : Prop :=
  (∀ (l : List Nat) (s : State),
    (∀ g, g < 64 → ∀ x ∈ (s.clusterAt g).queue, recEnj x.rec_ ≤ (s.clusterAt g).cpwr.toNat / 2 ^ 12 % 2 ^ 20 ∧
      recIpk x.rec_ ≤ (s.clusterAt g).cpwr.toNat / 2 ^ 32 % 2 ^ 16) →
    ∃ t, exec (.controlInterval l) s = .next t ∧ t.quince = { s.quince with pcap := s.quince.pcapNext } ∧ t.mem = s.mem ∧ t.spm = s.spm ∧
      (∀ n, (look n t.energy).getD 0 = (look n s.energy).getD 0 + ((List.range 64).map fun g =>
        ((((s.clusterAt g).shares (l.getD g 0)).filter fun e => e.1 == n).map fun e => e.2 / 2).sum).sum) ∧
      ∀ g, g < 64 → let k := s.clusterAt g
        let x := t.clusterAt g
        x.charge = 0 ∧ x.ebud = k.cpwr.toNat / 2 ^ 12 % 2 ^ 20 ∧ x.ibud = k.cpwr.toNat / 2 ^ 32 % 2 ^ 16 ∧ x.deduct = l.getD g 0 - k.budget ∧
          x.noAdmit = k.now.getLsbD 2 ∧ x.queue = k.queue ∧ x.permits = k.permits ∧ x.issued = [] ∧
          (x.active = false ↔ IdleCluster s g) ∧
          x.scale = k.scaleNext ∧ x.low = k.low ∧ x.coreEco = k.coreEco ∧
          (k.switching = false ∧ Eco k ∧ k.step ≠ .economy → x.step = .economy ∧ x.switching = true ∧ x.slot = false) ∧
          (k.switching = false ∧ ¬ Eco k ∧ k.step = .economy → x.step = .economy ∧ x.switching = true ∧ x.slot = k.slot) ∧
          (k.switching = true ∨ (Eco k ↔ k.step = .economy) → x.step = k.step ∧ x.slot = k.slot ∧ x.switching = k.switching) ∧
          (IdleCluster s g ∧ k.active = false ∧ k.switching = false ∧ k.power = .up ∧ k.cpwr.getLsbD 3 = true →
            x.power = .held (s.now + 3500) false ∧ ∀ c ∈ clusterCores g, (t.coreAt c).engine = Engine.reset ∧ (∀ n, t.tileAt c n = Tile.reset) ∧
              (t.coreAt c).lut = List.replicate 16 0 ∧ (t.coreAt c).ltag = 0 ∧ (t.coreAt c).mode = (s.coreAt c).mode ∧ (t.coreAt c).bars = (s.coreAt c).bars ∧
              ∀ j, (t.slotAt c j).k = (s.slotAt c j).k ∧ (t.slotAt c j).ecs = (s.slotAt c j).ecs ∧ (t.slotAt c j).esb = (s.slotAt c j).esb ∧
                (t.slotAt c j).rngKey = 0 ∧ (t.slotAt c j).rngCtr = 0 ∧ (t.slotAt c j).modLoaded = false) ∧
          (¬ (IdleCluster s g ∧ k.active = false ∧ k.switching = false ∧ k.power = .up ∧ k.cpwr.getLsbD 3 = true) →
            x.power = k.power ∧ ∀ c ∈ clusterCores g, t.coreAt c = s.coreAt c)) ∧
  (∀ (k : Cluster) (m n : Nat), (k.issued.map (·.1)).Nodup → (k.dues.map (·.1)).Nodup →
    (look n (k.shares m)).getD 0 = (look n k.dues).getD 0 +
      (2 * m - (k.dues.map (·.2)).sum) * (look n k.issued).getD 0 / (k.issued.map (·.2)).sum) ∧
  (∀ s : State, (∀ g, (s.clusterAt g).claimPrio ≤ 31) → ∃ t, exec .boostInterval s = .next t ∧ t.mem = s.mem ∧ t.cores = s.cores ∧
    slotsOf t ≤ max 16 (slotsOf s) ∧
    (∀ g, g < 64 → let k := s.clusterAt g
      let x := t.clusterAt g
      x.claimPrio = 0 ∧ x.permits = charged k ∧ x.now = (if k.step = .boost ∧ k.permits ≤ 1 then k.now ||| 16 else k.now) ∧
        (k.step = .boost → Claims s g (charged k) → x.step = .boost) ∧ (k.step = .boost → k.slot = true → ¬ Claims s g (charged k) → x.step = .fall) ∧
        (k.step = .fall → x.step = .nominal ∨ x.step = .boost) ∧ (¬ Claims s g (charged k) → k.step = .fall → x.slot = false) ∧
        (Holds k → k.step = .boost ∨ Claims s g (charged k) → x.slot = true) ∧
        (Holds k → k.step ≠ .boost → x.step = k.step ∧ (¬ Claims s g (charged k) → x.slot = false)) ∧
        (¬ Holds k → x.slot = true → Claims s g (charged k) ∧
          x.step = if k.low = true ∨ k.step = .economy then (if k.step = .fall then .nominal else k.step) else .boost)) ∧
    ∀ h, h < 64 → Claims s h (charged (s.clusterAt h)) → ¬ Holds (s.clusterAt h) → (t.clusterAt h).slot = false →
      16 ≤ slotsOf t ∧ ∀ g, g < 64 → ¬ Holds (s.clusterAt g) → (t.clusterAt g).slot = true → (s.clusterAt h).claimPrio ≤ (s.clusterAt g).claimPrio) ∧
  (∀ s : State, ∃ t, exec .refillPeriod s = .next t ∧ t = { s with clusters := t.clusters } ∧ ∀ g, g < 64 → let k := s.clusterAt g
    (k.activeRefill = false → ¬ EnginesBusy s g → (t.clusterAt g).permits = min 64 (k.permits + 1) ∧ (t.clusterAt g).now.getLsbD 4 = false) ∧
    (k.activeRefill = true ∨ EnginesBusy s g → (t.clusterAt g).permits = k.permits ∧ (t.clusterAt g).now = k.now) ∧
    ((t.clusterAt g).activeRefill = true ↔ EnginesBusy s g))

end

section
open Sys2Proof Machine Statements

/-- R219, R220 and R204: a hold that has ended queues a latched request and else leaves the cluster gated; the in-rush slot serves
the oldest request and its cluster runs; CPWR.WAKE latches a request in a hold, queues one for a gated cluster, and does nothing
else; R26: the end of a rail switch lets the cores run from the other rail, and the clock rises, to boost for a cluster that has
been given a slot, only once that rail is the high one; R221 and R222: an onset sets NOW and SEEN and is logged, once while in
force; CORE held for 28,000 cycles asks for economy from the next boundary, CURR stops admission, PCAP scales every budget in
effect down by the cap over the power from the next boundary, and the end of a reason clears NOW and not SEEN. -/
def Sys2Proof.Statements.WakeAndThrottles : Prop :=
  ∀ (g : Nat) (s : State), let k := s.clusterAt g
    let others (t : State) : Prop := t = { s with clusters := t.clusters, quince := t.quince } ∧ ∀ h, h ≠ g → t.clusterAt h = s.clusterAt h
    let queued (t : State) : Prop := others t ∧ t.clusterAt g = { k with power := .queued } ∧
      t.quince = { s.quince with inrush := s.quince.inrush ++ [g] }
    (∀ ends asked, k.power = .held ends asked →
      (s.now < ends → exec (.holdEnd g) s = .next s) ∧
      (ends ≤ s.now → asked = true → ∃ t, exec (.holdEnd g) s = .next t ∧ queued t) ∧
      (ends ≤ s.now → asked = false → ∃ t, exec (.holdEnd g) s = .next t ∧ others t ∧ t.clusterAt g = { k with power := .gated } ∧ t.quince = s.quince) ∧
      ∃ t, exec (.cpwrWake g) s = .next t ∧ others t ∧ t.clusterAt g = { k with power := .held ends true } ∧ t.quince = s.quince) ∧
    (k.power = .gated → exec (.holdEnd g) s = .next s ∧ ∃ t, exec (.cpwrWake g) s = .next t ∧ queued t) ∧
    (k.power = .up ∨ k.power = .queued → exec (.holdEnd g) s = .next s ∧ exec (.cpwrWake g) s = .next s) ∧
    (s.quince.inrush = [] → exec .inRushSlot s = .next s) ∧
    (∀ r, s.quince.inrush = g :: r → ∃ t, exec .inRushSlot s = .next t ∧ others t ∧ t.clusterAt g = { k with power := .up, active := true } ∧
      t.quince = { s.quince with inrush := r }) ∧
    (k.switching = false → exec (.railSwitch g) s = .next s) ∧
    (k.switching = true → ∃ t, exec (.railSwitch g) s = .next t ∧ others t ∧ t.quince = s.quince ∧
      t.clusterAt g = { k with switching := false, low := !k.low, step := if k.low then (if k.slot then .boost else .nominal) else k.step }) ∧
    (k.now.getLsbD 0 = true → exec (.coreThrottle g) s = .next s) ∧
    (k.now.getLsbD 0 = false → ∃ t, exec (.coreThrottle g) s = .next t ∧ others t ∧ Logged s t ∧
      t.clusterAt g = { k with now := k.now ||| 1, seen := k.seen ||| 1, coreSince := s.now }) ∧
    (∃ t, exec (.coreThrottleEconomy g) s = .next t ∧ others t ∧ t.quince = s.quince ∧ t.clusterAt g =
      if k.now.getLsbD 0 = true ∧ k.coreSince + 28000 ≤ s.now then { k with coreEco := true } else k) ∧
    (∃ t, exec (.currThrottle g) s = .next t ∧ others t ∧ (k.now.getLsbD 2 = false → Logged s t) ∧ (k.now.getLsbD 2 = true → t.quince = s.quince) ∧
      t.clusterAt g = { k with noAdmit := true, now := k.now ||| 4, seen := if k.now.getLsbD 2 then k.seen else k.seen ||| 4 }) ∧
    (∀ watts, (watts ≤ s.quince.pcap → exec (.pcapThrottle watts) s = .next s) ∧
      (s.quince.pcap < watts → g < 64 → ∃ t x y, exec (.pcapThrottle watts) s = .next t ∧ t = { s with clusters := t.clusters, quince := t.quince } ∧
        x * (k.scale.2 * watts) = y * (k.scale.1 * s.quince.pcap) ∧ (0 < k.scale.2 → 0 < y) ∧
        t.clusterAt g = { k with scaleNext := (x, y), now := k.now ||| 8, seen := if k.now.getLsbD 3 then k.seen else k.seen ||| 8 })) ∧
    (∀ n, n < 5 → ∃ t, exec (.throttleClear g n) s = .next t ∧ others t ∧ t.quince = s.quince ∧
      t.clusterAt g = { k with now := k.now &&& ~~~(1#5 <<< n), scaleNext := if n = 3 then (1, 1) else k.scaleNext,
                                 coreEco := k.coreEco && n != 0 })

end

section
open Sys2Proof Machine Statements

/-- R204, R219, R221, R224 and R26: at a control-interval boundary every cluster's charge begins at 0, EBUD, IBUD and the cap's
scale take effect, an overspent interval is deducted, ECO and a CORE reason held for 16 microseconds put the cluster into economy
(its clock first, then the rail) and without them a rail switch begins that takes it out, a cluster idle through the interval with
GATE 1 gates for 3,500 cycles, and each tag's counter grows by half of the halves it owes (floors and carried halves:
notes/assumptions/28.md), a boosted cluster that must run at economy goes there at once and gives its slot up
(notes/assumptions/48.md), and the engine's frozen flag is among what a gate loses (notes/assumptions/49.md); R216 and R217: at a
boost boundary each boosted cluster spends a permit and falls when it no longer claims, the fall step ends, a cluster that holds a
slot while it still leaves economy keeps it as long as it claims, free slots go to the highest claim priorities and at most
sixteen hold one; R218: a refill period without work adds a permit, up to 64. R219, R220 and R204: a hold that has ended queues a
latched request and else leaves the cluster gated; the in-rush slot serves the oldest request and its cluster runs; CPWR.WAKE
latches a request in a hold, queues one for a gated cluster, and does nothing else; R26: the end of a rail switch lets the cores
run from the other rail, and the clock rises, to boost for a cluster that has been given a slot, only once that rail is the high
one; R221 and R222: an onset sets NOW and SEEN and is logged, once while in force; CORE held for 28,000 cycles asks for economy
from the next boundary, CURR stops admission, PCAP scales every budget in effect down by the cap over the power from the next
boundary, and the end of a reason clears NOW and not SEEN. -/
def Obligations.ClusterPower : Prop :=
  Statements.IntervalBoundaries ∧ Statements.WakeAndThrottles

end


namespace Sys2Proof.Statements

open Sys2Proof.Machine

/-! ## Registers, Quince and the ports (R12, R403, R412, R415, R418 to R433) -/

/-- The xword of system space at an offset. -/
def sysAt (o : Nat) : BitVec 44 := BitVec.ofNat 44 (2 ^ 42 + o)

/-- The offsets of system space whose xword a write may change, or start something by. -/
def Writable (o : Nat) : Prop :=
  o ∈ [0x2000, 0x3000, 0x6000, 0x6008, 0x8000, 0x8010, 0x8018, 0xA000, 0xA008, 0xA010] ∨ 0x4000 ≤ o ∧ o < 0x4800 ∧ o % 32 ≤ 8 ∨
  0x7000 ≤ o ∧ o < 0x7200 ∨ 0x9000 ≤ o ∧ o < 0x9080

/-- MLPOST has refused a write (R421). -/
def PostRefused (s : State) : State := { s with medlar := { s.medlar with drop := true } }

/-- A mailbox command is running. -/
def Commanded (s : State) (n : Nat) : Prop := s.quince.busy = true ∧ s.quince.cmd.toNat = n

/-- A command has ended in success, and nothing else of Quince but `f` has changed. -/
def Succeeded (s t : State) (f : Quince → Quince) : Prop := t.quince = { f s.quince with busy := false, sts := 1 }

/-- A command has been refused, for a reason. -/
def Declined (s t : State) (reason : Nat) : Prop :=
  t.quince.busy = false ∧ t.quince.sts.toNat = 2 + reason * 2 ^ 8 ∧ t = { s with quince := t.quince, free := t.free } ∧
  t.quince = { s.quince with busy := false, sts := t.quince.sts }

/-- The buffer a command names. -/
def bufferOf (s : State) : Nat := s.quince.arg.toNat % 2 ^ 44

/-- `n` bytes of one live vault. -/
def InLiveVault (s : State) (a n : Nat) : Prop := a + n ≤ 2 ^ 38 ∧ a < 2 ^ 38 ∧ (s.coreAt (a / 2 ^ 28)).killed = false ∧ s.sound a n

/-- A link over which requests with some addresses go is lost: the loss is logged, each request on its way over the link is answered
with status 4, and everything else goes on (R422, R425). -/
def LinkLost (s t : State) (over_ : Nat → Prop) : Prop :=
  t.mesh.length = s.mesh.length ∧ Logged s t ∧ t.mem = s.mem ∧ t.cores = s.cores ∧ t.notes = s.notes ∧
  ∀ (i : Nat) (m : Msg), s.mesh[i]? = some m →
    (m.stage = .toOwner → m.dst = noCore → over_ m.paddr →
      ∃ r : Msg, t.mesh[i]? = some r ∧ r.stage = .replied ∧ r.status = 4 ∧ r.client = m.client ∧ r.seq = m.seq) ∧
    (¬ (m.stage = .toOwner ∧ m.dst = noCore ∧ over_ m.paddr) → t.mesh[i]? = some m)

/-- The device after a reset (R433): everything at reset with every link down, but for the feature masks, the event log, the lost parts,
and a staged image, which is active; the memory of the host and of the peers is theirs. -/
def WasReset (s t : State) : Prop :=
  (∀ a, a < 2 ^ 43 → t.mem.read a = 0) ∧ (∀ a, 2 ^ 43 ≤ a → t.mem.read a = s.mem.read a) ∧ t.spm = [] ∧ t.empties = [] ∧ t.badGran = [] ∧
  (∀ c, t.coreAt c = { Core.reset with feat := (s.coreAt c).feat }) ∧ (∀ g, t.clusterAt g = Cluster.reset g) ∧
  (∀ n, t.stationAt n = Station.reset) ∧ t.kills = [] ∧ t.mesh = [] ∧ t.packets = [] ∧ t.notes = [] ∧ t.stpt = 0 ∧ t.tvb = 0 ∧ t.audc = 0 ∧ t.audb = 0 ∧ t.energy = [] ∧
  (∀ n, n < 16 → (t.linkAt n).up = false) ∧ t.medlar.up = false ∧ t.medlar.rdy = false ∧ t.medlar.held = [] ∧
  t.quince = { Quince.reset with
    log := s.quince.log, logCount := s.quince.logCount, lost := s.quince.lost, active := s.quince.staged.getD s.quince.active,
    floor := (s.quince.staged.map imageVersion).getD s.quince.floor }

end Sys2Proof.Statements

section
open Sys2Proof Machine Statements

/-- R12, R127, R379, R204, R222, R412, R415, R421, R426 and R427: an eight-byte register write changes the writable fields of its
register and nothing else, reserved fields read zero, ones clear the bits of SEEN, DROP, DOWNS and REPLAY, CPWR.WAKE raises a wake
request, K and, in the model's reading, SCORE keep their values when the write names ones they cannot take (for SCORE a core of
another cluster: notes/assumptions/94.md), CMD is ignored while a command runs, MLPOST refuses eight bytes and sets DROP, fewer
bytes change their own alone (notes/assumptions/93.md), and a write to any other xword, or outside system space, changes nothing;
an eight-byte read of a register gives its xword. -/
def Obligations.RegisterWrites : Prop :=
  ∀ (v : BitVec 64) (s : State), let write (o : Nat) := exec (.registerWrite (sysAt o) 8 v) s
    write 0x2000 = .next { s with stpt := v &&& 0x00000FFFFFFFF001 } ∧
    write 0x3000 = .next { s with tvb := v &&& 0xFFFFFFFFFFFFF000 } ∧
    (∀ g, g < 64 → let y := s.putCluster g { s.clusterAt g with cpwr := v &&& 0x0000FFFFFFFFF00E }
      (v.getLsbD 0 = false → write (0x4000 + 32 * g) = .next y) ∧ (v.getLsbD 0 = true → write (0x4000 + 32 * g) = .next (y.wakeRequest g)) ∧
      write (0x4008 + 32 * g) = .next (s.putCluster g { s.clusterAt g with seen := (s.clusterAt g).seen &&& ~~~ v.setWidth 5 }) ∧
      write (0x7000 + 8 * g) = .next (s.putCluster g { s.clusterAt g with
        srec := v.extractLsb' 16 44,
        score := if clusterOf (v.toNat % 2 ^ 10) = g then v.toNat % 2 ^ 10 else (s.clusterAt g).score })) ∧
    (v.toNat % 32 ≤ 20 → write 0x6000 = .next { s with audc := v &&& 0xFFFFFFFF0000007F }) ∧
    (20 < v.toNat % 32 → write 0x6000 = .next { s with audc := (v &&& 0xFFFFFFFF00000060) ||| (s.audc &&& 0x1F) }) ∧
    write 0x6008 = .next { s with audb := v &&& 0x00000FFFFF800000 } ∧
    write 0x8000 = .next { s with medlar := { s.medlar with
      replay := if v.toNat / 2 ^ 8 % 2 ^ 8 = 0 then s.medlar.replay else 0, drop := s.medlar.drop && !v.getLsbD 2 } } ∧
    (∀ n, n < 16 → ∃ l, write (0x9000 + 8 * n) = .next (s.putLink n l) ∧ l.up = (s.linkAt n).up ∧
      (∀ i, l.downs.testBit i = ((min 0xFFFF (s.linkAt n).downs).testBit i && !v.getLsbD (16 + i))) ∧
      ∀ i, l.replay.testBit i = ((min 0xFFFFFFFF (s.linkAt n).replay).testBit i && !v.getLsbD (32 + i))) ∧
    (s.quince.busy = true → write 0xA000 = .next s) ∧
    (s.quince.busy = false → write 0xA000 = .next { s with quince := { s.quince with cmd := v, busy := true, sts := 0 } }) ∧
    write 0xA008 = .next { s with quince := { s.quince with arg := v } } ∧ write 0xA010 = .next { s with quince := { s.quince with len := v } } ∧
    write 0x8010 = .next (PostRefused s) ∧ write 0x8018 = .next (PostRefused s) ∧
    (∀ n, n ≤ 8 → exec (.registerWrite (sysAt 0xA010) n v) s = .next { s with quince := { s.quince with
      len := BitVec.ofNat 64 (s.quince.len.toNat / 2 ^ (8 * n) * 2 ^ (8 * n) + v.toNat % 2 ^ (8 * n)) } }) ∧
    (∀ (a : BitVec 44) (n : Nat), ∃ t, exec (.registerWrite a n v) s = .next t ∧ t = { s with
      stpt := t.stpt, tvb := t.tvb, clusters := t.clusters, audc := t.audc, audb := t.audb, medlar := t.medlar, links := t.links,
      quince := t.quince }) ∧
    (∀ o, o % 8 = 0 → o < 2 ^ 42 → ¬ Writable o → write o = .next s) ∧
    (∀ (a : BitVec 44) (n : Nat), a.toNat < 2 ^ 42 ∨ 2 ^ 43 ≤ a.toNat → exec (.registerWrite a n v) s = .next s) ∧
    (∀ o, o % 8 = 0 → o < 2 ^ 42 → leNat (s.sysRead (2 ^ 42 + o) 8) = s.sysXword o % 2 ^ 64) ∧
    s.sysXword 0x2000 = s.stpt.toNat ∧ s.sysXword 0x3000 = s.tvb.toNat ∧ s.sysXword 0xA018 = s.quince.sts.toNat ∧
    s.sysXword 0x8000 = min 255 s.medlar.replay * 2 ^ 8 + s.medlar.held.length % 32 * 2 ^ 3 +
      ((if s.medlar.drop then 4 else 0) + (if s.medlar.rdy then 2 else 0) + if s.medlar.up then 1 else 0)

end

section
open Sys2Proof Machine Statements

/-- R427, R428, R429, R430, R221, R403: a running command, and only that one, reads the newest log entries into its buffer oldest
first, writes the report after the nonce, stages an image that passes or refuses it with reason 2, 3 or 4 and logs either, sets
the cap of the next interval within 100 to 1,500 W, restarts a halted core that is alive, or is refused with reason 1; R433 and
R431: command 6 with 0x5253, or RSTN low for 10 us, resets the device but for what R433 keeps, with every link down; bring-up then
trains the links and sets RDY, kills each core whose stack store failed, and a failed one leaves RDY at 0 and is logged. The
places of the header's fields, the keys, the serial number and the reasons that the spec does not give are free values
(notes/assumptions/11.md); the 512-byte header, SHA-384 and the order of the checks, signatures, digest, version, are the model's
(notes/assumptions/138.md), as are the layout of the report (notes/assumptions/139.md), buffers at physical addresses
(notes/assumptions/105.md) and all sixteen links trained at bring-up (notes/assumptions/15.md). -/
def Obligations.MailboxAndReset : Prop :=
  ∀ s : State, let a := bufferOf s
    let q := s.quince
    (¬ Commanded s 1 → exec .readEventLog s = .next s) ∧ (¬ Commanded s 2 → exec .attest s = .next s) ∧
    (¬ Commanded s 3 → exec .stageFirmware s = .next s) ∧ (¬ Commanded s 4 → exec .setPowerCap s = .next s) ∧
    (¬ Commanded s 5 → exec .restartCore s = .next s) ∧ (¬ Commanded s 6 → exec .resetDevice s = .next s) ∧
    (∀ n, Commanded s 1 → n = min q.len.toNat (min q.logCount 4096) → InLiveVault s a (32 * n) →
      let entries := (List.range n).map fun i => (look ((q.logCount - n + i) % 4096) q.log).getD 0
      ∃ t, exec .readEventLog s = .next t ∧ Succeeded s t id ∧ Stored s.mem t.mem a (entries.flatMap fun e => leBytes 32 e.toNat)) ∧
    (Commanded s 2 →
      let masks := (List.range 1024).flatMap fun c => leBytes 4 (s.coreAt c).feat.toNat
      let body := s.mem.readBytes a 48 ++ leBytes 8 Config.serial.toNat ++ sha384 q.active ++ sha384 Config.columnRemap ++ sha384 masks ++
        leBytes 4 q.floor.toNat ++ leBytes 8 s.now
      let report := body ++ leBytes 96 (Config.attestSignature body).toNat
      InLiveVault s a 48 → InLiveVault s (a + 48) report.length →
      ∃ t, exec .attest s = .next t ∧ Succeeded s t id ∧ Stored s.mem t.mem (a + 48) report) ∧
    (Commanded s 3 → ∀ y image, s.quinceRead a (q.len.toNat % 2 ^ 44) = (y, some image) →
      let refused (r : Nat) : Prop := ∃ t, exec .stageFirmware s = .next t ∧ Logged y t ∧ t.mem = y.mem ∧ t.quince.staged = q.staged ∧
        t.quince.active = q.active ∧ t.quince.busy = false ∧ t.quince.sts.toNat = 2 + r * 2 ^ 8
      let field (f n : Nat) := ((image.take 512).drop (Config.headerAt f)).take n
      let fields := image.take (Config.headerAt 2)
      let signed : Prop := Config.ecdsaVerifies fields (field 2 96) = true ∧ Config.lmsVerifies fields (field 3 512) = true
      let whole : Prop := field 1 48 = sha384 (image.drop 512)
      let ver := leNat (field 0 4)
      (¬ signed → refused 2) ∧ (signed → ¬ whole → refused 3) ∧ (signed → whole → ver < q.floor.toNat → refused 4) ∧
      (signed → whole → q.floor.toNat ≤ ver →
        ∃ t, exec .stageFirmware s = .next t ∧ Logged y t ∧ t.mem = y.mem ∧ t.quince.staged = some image ∧ t.quince.active = q.active ∧
          t.quince.busy = false ∧ t.quince.sts = 1)) ∧
    (Commanded s 4 → (100 ≤ q.arg.toNat → q.arg.toNat ≤ 1500 → ∃ t, exec .setPowerCap s = .next t ∧ t = { s with quince := t.quince } ∧
        Succeeded s t fun x => { x with pcapNext := q.arg.toNat }) ∧
      (q.arg.toNat < 100 ∨ 1500 < q.arg.toNat → ∃ t r, exec .setPowerCap s = .next t ∧ r < 256 ∧ Declined s t r)) ∧
    (Commanded s 5 → let c := q.arg.toNat
      (c < 1024 → (s.coreAt c).halted = true → (s.coreAt c).killed = false → ∃ t, exec .restartCore s = .next t ∧ Succeeded s t id ∧
        t.coreAt c = { s.coreAt c with halted := false } ∧ (∀ d, d ≠ c → t.coreAt d = s.coreAt d) ∧ t.mem = s.mem) ∧
      (1024 ≤ c ∨ (s.coreAt c).halted = false ∨ (s.coreAt c).killed = true → ∃ t r, exec .restartCore s = .next t ∧ r < 256 ∧ Declined s t r)) ∧
    (Commanded s 6 → (q.arg = 0x5253 → ∃ t, exec .resetDevice s = .next t ∧ WasReset s t) ∧
      (q.arg ≠ 0x5253 → ∃ t, exec .resetDevice s = .next t ∧ Declined s t 1)) ∧
    (q.busy = false ∨ 1 ≤ q.cmd.toNat ∧ q.cmd.toNat ≤ 6 → exec .mailboxRefusal s = .next s) ∧
    (q.busy = true → q.cmd.toNat = 0 ∨ 6 < q.cmd.toNat → ∃ t, exec .mailboxRefusal s = .next t ∧ Declined s t 1) ∧
    (∀ ns, (ns < 10000 → exec (.rstn ns) s = .next s) ∧ (10000 ≤ ns → ∃ t, exec (.rstn ns) s = .next t ∧ WasReset s t)) ∧
    (∀ failed bad, s.medlar.rdy = true ∨ q.stuck = true → exec (.bringUp failed bad) s = .next s) ∧
    (s.medlar.rdy = false → q.stuck = false →
      (∀ bad, ∃ t, exec (.bringUp true bad) s = .next t ∧ Logged s t ∧ t = { s with quince := t.quince } ∧ t.quince.stuck = true) ∧
      (∃ t y, exec (.bringUp false []) s = .next t ∧ WasReset s y ∧ t = { y with links := t.links, medlar := { y.medlar with up := true, rdy := true } } ∧
        ∀ n, (t.linkAt n).up = true) ∧
      ∀ bad, ∃ t, exec (.bringUp false bad) s = .next t ∧ t.medlar.rdy = true ∧ ∀ c ∈ bad, c < 1024 → (t.coreAt c).killed = true)

end

section
open Sys2Proof Machine Statements

/-- R418, R422, R425 and R426: a host write to a live vault with a free tag writes its bytes and no others, and waits at the port
without one (notes/assumptions/143.md), a host read of it or of a register gives its bytes, and a request to a killed vault, to
Quince's own range or to no vault or register gives an error; with the link down nothing is performed; losing a link sets UP 0,
logs it and answers 4 to each request on its way over it, and held launch messages stay; a link retrains once the device is up; a
flit replay is counted; R423 and R424: a peer's load, store, atomic or copy segment goes to the agent of its vault where the owner
map gives its process the page, else it is answered 1 where the map can be read, an operation that the fabric does not carry is
answered 4 (notes/assumptions/104.md), and one over a link that is down is discarded. -/
def Obligations.PortsAndLinks : Prop :=
  (∀ (a : BitVec 44) (l : List (BitVec 8)) (n : Nat) (s : State), let w := a.toNat
    let failed (o : Out) : Prop := ∃ t, o = .next t ∧ t.medlar = { s.medlar with errors := s.medlar.errors + 1 } ∧ t.mem = s.mem ∧ t.spm = s.spm
    let gives (o : Out) (bs : List (BitVec 8)) : Prop := ∃ t, o = .next t ∧ t.medlar = { s.medlar with reads := s.medlar.reads ++ [bs] } ∧ t.mem = s.mem
    (s.medlar.up = false → exec (.hostWrite a l) s = .next s ∧ exec (.hostRead a n) s = .next s) ∧
    (s.medlar.up = true →
      (InLiveVault s w l.length → s.tagFree (w / 2 ^ 28) none = true → ∃ t, exec (.hostWrite a l) s = .next t ∧ Stored s.mem t.mem w l ∧ t.spm = s.spm ∧ t.medlar = s.medlar ∧
        t.mesh = s.mesh) ∧
      (w < 2 ^ 38 → (s.coreAt (w / 2 ^ 28)).killed = false → s.tagFree (w / 2 ^ 28) none = false →
        exec (.hostWrite a l) s = .next s ∧ exec (.hostRead a n) s = .next s) ∧
      (InLiveVault s w n → s.tagFree (w / 2 ^ 28) none = true → gives (exec (.hostRead a n) s) (s.mem.readBytes w n)) ∧
      (w < 2 ^ 38 → (s.coreAt (w / 2 ^ 28)).killed = true → failed (exec (.hostWrite a l) s) ∧ failed (exec (.hostRead a n) s)) ∧
      (2 ^ 38 ≤ w → w < 2 ^ 42 ∨ 2 ^ 43 ≤ w → failed (exec (.hostWrite a l) s) ∧ failed (exec (.hostRead a n) s)) ∧
      (2 ^ 42 + 0xF00000 ≤ w → w < 2 ^ 42 + 0x1000000 → failed (exec (.hostWrite a l) s) ∧ failed (exec (.hostRead a n) s)) ∧
      (2 ^ 42 ≤ w → w < 2 ^ 43 → ¬ (2 ^ 42 + 0xF00000 ≤ w ∧ w < 2 ^ 42 + 0x1000000) → gives (exec (.hostRead a n) s) (s.sysRead w n)) ∧
      (w = 2 ^ 42 + 0x8010 → l.length ≠ 16 ∧ l ≠ [] ∧ l.length ≤ 16 ∨ l.length = 16 ∧ (s.medlar.rdy = false ∨ 16 ≤ s.medlar.held.length) → ∃ t,
        exec (.hostWrite a l) s = .next t ∧ t = { s with medlar := { s.medlar with drop := true, errors := s.medlar.errors + 1 } }) ∧
      (w = 2 ^ 42 + 0x8010 → l.length = 16 → s.medlar.rdy = true → s.medlar.held.length < 16 → ∃ t, exec (.hostWrite a l) s = .next t ∧
        t.medlar = { s.medlar with held := s.medlar.held ++ [fromPort (BitVec.ofNat 128 (leNat l))] } ∧ t.mem = s.mem))) ∧
  (∀ s : State,
    (s.medlar.up = false → exec .medlarLinkLoss s = .next s) ∧
    (s.medlar.up = true → ∃ t, exec .medlarLinkLoss s = .next t ∧ LinkLost s t (fun a => 2 ^ 43 ≤ a ∧ a < 3 * 2 ^ 42) ∧
      t.medlar = { s.medlar with up := false }) ∧
    (s.medlar.rdy = true → exec .medlarRetrain s = .next { s with medlar := { s.medlar with up := true } }) ∧
    (s.medlar.rdy = false → exec .medlarRetrain s = .next s ∧ ∀ n, exec (.sloeRetrain n) s = .next s) ∧
    (∀ n, (15 < n ∨ (s.linkAt n).up = false → exec (.sloeLinkLoss n) s = .next s) ∧
      (n < 16 → (s.linkAt n).up = true → ∃ t, exec (.sloeLinkLoss n) s = .next t ∧
        LinkLost s t (fun a => 3 * 2 ^ 42 ≤ a ∧ a / 2 ^ 38 % 16 = n) ∧ t.linkAt n = { s.linkAt n with up := false, downs := (s.linkAt n).downs + 1 } ∧
        ∀ i, i ≠ n → t.linkAt i = s.linkAt i) ∧
      (n < 16 → s.medlar.rdy = true → exec (.sloeRetrain n) s = .next (s.putLink n { s.linkAt n with up := true })) ∧
      (n < 16 → exec (.flitReplay n) s = .next (s.putLink n { s.linkAt n with replay := (s.linkAt n).replay + 1 })) ∧
      (16 ≤ n → exec (.flitReplay n) s = .next { s with medlar := { s.medlar with replay := s.medlar.replay + 1 } }))) ∧
  (∀ (n : Nat) (h0 h1 h2 h3 : BitVec 64) (l : List (BitVec 8)) (s : State), let op := h0.toNat / 2 ^ 8 % 2 ^ 4
    let a := h1.toNat % 2 ^ 38
    let pid := h0.extractLsb' 48 16
    let span := if l = [] then 2 ^ (h0.toNat % 4) else l.length
    let go := exec (.sloeRequest n h0 h1 h2 h3 l) s
    let answered (x : Nat) : Prop := ∃ m, go = .next { s with mesh := s.mesh ++ [m] } ∧ m.stage = .replied ∧ m.status = x ∧ m.client = .peer n ∧
      m.seq = h0.extractLsb' 32 16
    (15 < n ∨ (s.linkAt n).up = false → go = .next s) ∧
    (n < 16 → (s.linkAt n).up = true →
      (op ≠ 0 ∧ op ≠ 1 ∧ op ≠ 2 ∧ op ≠ 5 → answered 4) ∧
      (op = 0 ∨ op = 1 ∨ op = 2 ∨ op = 5 →
        (OwnerReadable s a → s.owns pid a = false → answered 1) ∧
        (OwnerReadable s a → s.owns pid a = true → OwnerReadable s (a + span - 1) → s.owns pid (a + span - 1) = false → answered 1) ∧
        (OwnerReadable s a → s.owns pid a = true → OwnerReadable s (a + span - 1) → s.owns pid (a + span - 1) = true → ∃ m, go = .next { s with mesh := s.mesh ++ [m] } ∧
          m.stage = .toOwner ∧ m.proc.toNat = op ∧ m.pid = pid ∧ m.acct = h1.extractLsb' 48 16 ∧ m.paddr = a ∧ m.dst = a / 2 ^ 28 ∧
          m.fn = h1.extractLsb' 44 4 ∧ m.opa = h2 ∧ m.opb = h3 ∧ m.data = l ∧ m.client = .peer n ∧ m.seq = h0.extractLsb' 32 16 ∧
          m.size = h0.extractLsb' 0 2))))

end
end

