-- ==== Sys2Proof/Tests/Slice0.lean ====
section
/-! SUPPORT. Tests: decoding from words written out by the layouts of R226, refusals, small steps with values worked out from the
rules, and for each statement a concrete state and operands that meet its hypotheses. -/

namespace Sys2Proof.Tests

open Sys2Proof Machine Statements

set_option Elab.async false

/-! ## Decoding (R226 to R229, R239 to R244): one word for each major opcode, its fields from bit 31 down -/

theorem test_decode_B : decode 0b000001_1011_0_101010101010101010101 = .ok (.b 11 0x155555) := by rfl
theorem test_decode_BN : decode 0b000001_0011_1_111111111111111111111 = .ok (.bn 3 0x1FFFFF) := by rfl
theorem test_decode_J : decode 0b000010_10101010101010101010101010 = .ok (.j 0x2AAAAAA) := by rfl
theorem test_decode_CALL : decode 0b000011_11111111111111111111111111 = .ok (.call 0x3FFFFFF) := by rfl
theorem test_decode_CTL : decode 0b000100_00000_00110_00000_00010_0_10_101 = .ok (.callr 6 1 5) := by rfl
theorem test_decode_LOOP : decode 0b000101_00111_00000_101010111100_0_110 = .ok (.loop 7 0xABC 6) := by rfl
theorem test_decode_ALU : decode 0b000110_00001_00010_00011_00001_1_01_100 = .ok (.sub 1 2 3 1 1 4) := by rfl
theorem test_decode_ADDI : decode 0b000111_00001_00010_100000000000_1_011 = .ok (.addi 1 2 0x800 1 3) := by rfl
theorem test_decode_ANDI : decode 0b001000_11111_11000_111100001111_0_000 = .ok (.andi 31 24 0xF0F 0 0) := by rfl
theorem test_decode_ORI : decode 0b001001_00101_00110_111111111111_0_111 = .ok (.ori 5 6 0xFFF 0 7) := by rfl
theorem test_decode_XORI : decode 0b001010_00000_00111_000000000001_1_001 = .ok (.xori 0 7 1 1 1) := by rfl
theorem test_decode_SHI : decode 0b001011_00011_00100_010000101111_1_010 = .ok (.shri 3 4 47 1 2) := by rfl
theorem test_decode_LI : decode 0b001100_00010_100000000000000001_101 = .ok (.li 2 0x20001 5) := by rfl
theorem test_decode_LUI : decode 0b001101_00011_111111111111111110_001 = .ok (.lui 3 0x3FFFE 1) := by rfl
theorem test_decode_CMP : decode 0b001110_01011_00110_00111_00010_0_11_010 = .ok (.cmpLt 11 6 7 3 2) := by rfl
theorem test_decode_CMPI : decode 0b001111_00100_00101_011100000000_1_000 = .ok (.cmpiGe 4 5 0x100 1 0) := by rfl
theorem test_decode_PRED : decode 0b010000_00001_00010_00011_00011_0_00_100 = .ok (.pandn 1 2 3 4) := by rfl
theorem test_decode_SEL : decode 0b010001_00001_00010_00011_11011_1_10_110 = .ok (.seln 1 2 3 11 1 2 6) := by rfl
theorem test_decode_ADDR : decode 0b010010_00100_00101_00110_00010_0_00_000 = .ok (.lea4 4 5 6 0 0 0) := by rfl
theorem test_decode_BITF : decode 0b010011_00001_00010_00011_00010_0_11_111 = .ok (.bfi 1 2 3 0 3 7) := by rfl
theorem test_decode_LDS8 : decode 0b010100_00001_00010_01_10_11_1000000000 = .ok (.ldS8 1 2 1 2 3 0x200) := by rfl
theorem test_decode_LDN8 : decode 0b010101_00011_00100_00_00_00_0111111111 = .ok (.ldN8 3 4 0 0 0 0x1FF) := by rfl
theorem test_decode_LDS16 : decode 0b010110_00011_00100_11_01_10_0000000001 = .ok (.ldS16 3 4 3 1 2 1) := by rfl
theorem test_decode_LDN16 : decode 0b010111_00101_00110_01_11_01_0000000010 = .ok (.ldN16 5 6 1 3 1 2) := by rfl
theorem test_decode_LDS32 : decode 0b011000_00111_00000_00_10_00_0000000011 = .ok (.ldS32 7 0 0 2 0 3) := by rfl
theorem test_decode_LDN32 : decode 0b011001_11000_11111_11_00_11_1111111111 = .ok (.ldN32 24 31 3 0 3 0x3FF) := by rfl
theorem test_decode_LDX : decode 0b011010_10001_10010_01_01_01_0101010101 = .ok (.ldx 17 18 1 1 1 0x155) := by rfl
theorem test_decode_STB : decode 0b011011_00001_00010_10_01_11_1010101010 = .ok (.stb 1 2 2 1 3 0x2AA) := by rfl
theorem test_decode_STH : decode 0b011100_00011_00100_11_10_00_0000000001 = .ok (.sth 3 4 3 2 0 1) := by rfl
theorem test_decode_STW : decode 0b011101_00101_00110_00_11_01_0000000100 = .ok (.stw 5 6 0 3 1 4) := by rfl
theorem test_decode_STX : decode 0b011110_00111_10000_10_00_10_1100000000 = .ok (.stx 7 16 2 0 2 0x300) := by rfl
theorem test_decode_LDF : decode 0b011111_00001_00010_01_10_11_1110101011 = .ok (.ldFe 1 2 1 2 3 0x1AB) := by rfl
theorem test_decode_STF : decode 0b100000_00011_00100_10_01_00_1001010101 = .ok (.stEf 3 4 2 1 0 0x055) := by rfl
theorem test_decode_AMO : decode 0b100001_00001_00010_00011_1001_11_10_01_0 = .ok (.amoCas 1 2 3 3 2 1) := by rfl
theorem test_decode_FENCE : decode 0b100010_00000_00000_00000_0010_00_01_10_0 = .ok (.fenceAr 1 2) := by rfl
theorem test_decode_CB : decode 0b100011_00000_00101_00110_0010_00_00_11_0 = .ok (.cbExp 5 6 3) := by rfl
theorem test_decode_CPY : decode 0b100100_00100_00000_00000_0001_00_10_01_0 = .ok (.cpyQ 4 2 1) := by rfl
theorem test_decode_RPC : decode 0b100101_00101_00110_00000_0001_10_01_11_0 = .ok (.stxM 5 6 2 1 3) := by rfl
theorem test_decode_LNCH : decode 0b100110_00000_00110_00111_0000_10_10_01_0 = .ok (.lnch 6 7 2 2 1) := by rfl
theorem test_decode_SPM : decode 0b100111_00001_00010_00000_00010_1_10_011 = .ok (.spsz 1 2 1 1 3) := by rfl
theorem test_decode_VARF : decode 0b101000_111111_100000_000001_00011_111 = .ok (.vfma 63 32 1 7) := by rfl
theorem test_decode_VARI : decode 0b101001_000001_000010_000011_01000_000 = .ok (.vimac 1 2 3 0) := by rfl
theorem test_decode_VCMP : decode 0b101010_000000_100001_100010_00011_001 = .ok (.vcmpLe 33 34 1) := by rfl
theorem test_decode_VCVT : decode 0b101011_000100_001000_001100_00010_010 = .ok (.vcvtKb8 4 8 12 2) := by rfl
theorem test_decode_VSFU : decode 0b101100_001001_001010_001011_01000_011 = .ok (.vlse 9 10 11 3) := by rfl
theorem test_decode_VMOD : decode 0b101101_001100_001101_001110_00011_100 = .ok (.vmmac 12 13 14 4) := by rfl
theorem test_decode_VPERM : decode 0b101110_001111_010000_000110_00010_101 = .ok (.vbst 15 16 6 5) := by rfl
theorem test_decode_VMEM : decode 0b101111_010001_010010_000000_00001_110 = .ok (.vst 17 18 6) := by rfl
theorem test_decode_VMISC : decode 0b110000_000000_000100_000101_00111_000 = .ok (.ftile 4 5 0) := by rfl
theorem test_decode_TILE : decode 0b110001_00000_010_1111010110_00000_001 = .ok (.tbind 2 7 5 3 1) := by rfl
theorem test_decode_ROW : decode 0b110010_00010_001_00011_00100_00101_010 = .ok (.tld 1 3 4 5 2) := by rfl
theorem test_decode_MMA : decode 0b110011_00010_111_00001_00010_00000_011 = .ok (.mmaM 7 1 2 3) := by rfl
theorem test_decode_CK : decode 0b110100_00010_011_00000_00100_00101_100 = .ok (.ckRd 3 4 5 4) := by rfl
theorem test_decode_TT : decode 0b110101_00001_000_00110_00111_00000_101 = .ok (.leave 6 7 5) := by rfl
theorem test_decode_FMT : decode 0b110110_00001_000_00001_00010_00011_110 = .ok (.fmtw 1 2 3 6) := by rfl
theorem test_decode_MMAG : decode 0b110111_00000_100_00101_00110_00111_111 = .ok (.mmag 4 5 6 7 7) := by rfl
theorem test_decode_KV : decode 0b111000_00000_000_00001_00010_00011_000 = .ok (.kvApp 1 2 3 0) := by rfl
theorem test_decode_RIND : decode 0b111001_00000_000_00100_00101_00110_001 = .ok (.rbSel 4 5 6 1) := by rfl
theorem test_decode_EMB : decode 0b111010_00000_000_00111_00000_00001_010 = .ok (.embRed 7 1 2) := by rfl
theorem test_decode_PLAN : decode 0b111011_00000_000_00010_00011_00100_011 = .ok (.dpPlan 2 3 4 3) := by rfl
theorem test_decode_SYS : decode 0b000000_001001_00011_00100_0000100_110 = .ok (.xwr 3 4 4 6) := by rfl

/-! ## A small machine -/

/-- A bank that is on. -/
def onBank (a b c d : Word) : Quad :=
  { r0 := Reg.written a none 0, r1 := Reg.written b none 0, r2 := Reg.written c none 0, r3 := Reg.written d none 0, power := .on, touched := 0,
    fails := 0, poison := false }

/-- Strand 0 of launch 0, of process 1, in a slot of core 0 with the values of a0 to a7. -/
def rigSlot (r : List Word) : Slot :=
  let a (i : Nat) := r.getD i 0
  { Slot.reset 0 0 with
    strand := some (Bound.mk { lid := 0, sid := 0 } 1 0 0 0 0 0), pc := 0x100000000, fl := 0x200020, acct := 1,
    lo := onBank (a 0) (a 1) (a 2) (a 3), hi := onBank (a 4) (a 5) (a 6) (a 7) }

/-- That slot running on core 0, its process TVB.SPID and the owner of page 0 of the core's vault. -/
def rig (r : List Word) : State :=
  { State.reset with
    tvb := 0x0001000000000000, mem := [(0x0FF50000, 1)], cores := [(0, { Core.reset with slots := [(0, rigSlot r)] })] }

/-- The rig with its slot changed. -/
def rigWith (r : List Word) (f : Slot → Slot) : State := (rig r).onMe f

/-- The rig with its core changed. -/
def rigCore (r : List Word) (f : Core → Core) : State := (rig r).onHere f

/-- A privileged slot whose registers can all be read at once and that awaits no reply. -/
def Eager (s : State) : Bool :=
  s.privileged s.core s.slot && s.me.ready.isEmpty && s.me.early.isNone && s.me.lo.power == .on && s.me.hi.power == .on && s.me.awaits.isEmpty &&
    !s.me.lo.poison && !s.me.hi.poison &&
    (List.range 8).all fun i => (s.me.reg i).ready == 0 && (s.me.reg i).mark == none

/-- Every well-formed instruction whose unit the core has issues there. -/
theorem eager_issues {s : State} {i : Instr} (reads writes : List (BitVec 5)) (preds : List Nat) (vecs : List (BitVec 6)) (young : Young)
    (moved : List (BitVec 5)) (h : Eager s = true) (w : i.WellFormed) (u : s.here.hasUnit (formOf i).unit = true) :
    Issues s i reads writes preds vecs young moved := by
  simp only [Eager, Bool.and_eq_true, List.all_eq_true, List.mem_range, beq_iff_eq, List.isEmpty_iff, Option.isNone_iff_eq_none, Bool.not_eq_true'] at h
  obtain ⟨⟨⟨⟨⟨⟨⟨⟨hp, hr⟩, hy⟩, hl⟩, hh⟩, he⟩, hq⟩, hs⟩, ha⟩ := h
  have hk (c : BitVec 5) : s.me.codeReady s.turn c = true := by
    unfold Slot.codeReady
    by_cases hc : c.toNat < 8
    · simp [hc, (ha c.toNat hc).1]
    · simp [hc, hr, look, Slot.predReady]
  refine ⟨w, fun _ => hp, u, fun c _ => hk c, fun c _ => hk c, ?_, ?_, hy, ?_, ?_, .inl he, ?_⟩
  · intro p _; simp [Slot.predReady, hr, look]
  · intro n _; simp [State.vecReady, hr, look]
  · simp [Slot.asleep, hl, hh]
  · simp [Slot.poisonIn, Quad.poisoned, Quad.checks, hl, hh, hq, hs]
  · intro c _ hc
    simp [Reg.expired, (ha c.toNat hc).2]

/-- The same, its premises decided. -/
theorem iss {s : State} {i : Instr} {reads writes : List (BitVec 5)} {preds : List Nat} {vecs : List (BitVec 6)} {young : Young}
    {moved : List (BitVec 5)} (h : Eager s = true := by decide +kernel)
    (w : i.WellFormed := by decide +kernel) (u : s.here.hasUnit (formOf i).unit = true := by decide +kernel) : Issues s i reads writes preds vecs young moved :=
  eager_issues reads writes preds vecs young moved h w u


/-- A computation that succeeds. -/
theorem gives_ok {α β ε : Type} (x : α × Except ε β) (h : x.2.isOk = true) : ∃ y r, x = (y, .ok r) := by
  obtain ⟨a, e | r⟩ := x
  · cases h
  · exact ⟨a, r, rfl⟩

/-- A computation that succeeds with a value known. -/
theorem gives_exactly {α β ε : Type} {x : α × Except ε β} {b : β} (h : x.2.toOption = some b) : x = (x.1, .ok b) := by
  obtain ⟨a, e | r⟩ := x
  · cases h
  · cases h; rfl

/-- A computation that fails with an error known. -/
theorem gives_error_with {α β ε : Type} {x : α × Except ε β} {e : ε} (h : (match x.2 with | .error e => some e | .ok _ => none) = some e) :
    x = (x.1, .error e) := by
  obtain ⟨a, b | r⟩ := x
  · cases h; rfl
  · cases h

/-- A computation that fails. -/
theorem gives_error {α β ε : Type} (x : α × Except ε β) (h : x.2.isOk = false) : ∃ y e, x = (y, .error e) := by
  obtain ⟨a, e | r⟩ := x
  · exact ⟨a, e, rfl⟩
  · cases h

/-! ## Hypotheses met: scalar and control instructions -/

theorem witness_ScalarResults : (scalarForm (.divn 0 1 2 1 3 7)).isSome = true ∧
    Issues (rig [0, 5, 0]) (.divn 0 1 2 1 3 7) [1, 2] [0] [] [] .registers := ⟨rfl, iss⟩

theorem witness_PredicateResults : (predForm (.cmpiLt 11 1 0x1FF 0 0)).isSome = true ∧
    Issues (rig [0, 5]) (.cmpiLt 11 1 0x1FF 0 0) [1] [17] [] [] .registers := ⟨rfl, iss⟩

theorem witness_Branches : (rig []).me.frame = none ∧ Issues (rig []) (.b 11 0x1FFFFF) [] [] [11] [] .registers ∧
    Issues (rig []) (.bn 0 0x100000) [] [] [0] [] .registers ∧ Issues (rig []) (.j 0x3FFFFFF) [] [] [] [] .registers :=
  ⟨rfl, iss, iss,
    iss⟩

theorem witness_CountedLoopsAndRegisterJumps :
    (rig [1]).me.frame = none ∧ Issues (rig [1]) (.loop 0 0x800 0) [0] [0] [] [] .registers ∧ wrap (((rig [1]).src 0).toNat - 1) = 0 ∧
    Issues (rig [0x100000004]) (.jr 0 1 0) [0] [] [] [] .registers ∧ ((rig [0x100000004]).src 0).toNat % 4 = 0 ∧
    Issues (rig [0x100000002]) (.jr 0 1 0) [0] [] [] [] .registers ∧ ((rig [0x100000002]).src 0).toNat % 4 ≠ 0 ∧ (rig [0x100000002]).me.awaits = [] :=
  ⟨rfl, iss, by decide, iss, by decide, iss, by decide, rfl⟩

/-- An older window in the window file or in the stack store. -/
def older (inFile : Bool) : OldWin := { quad := onBank 1 2 3 4, save := 0x200000, inFile := inFile, spoilt := false, flawed := false }

/-- The rig with older windows. -/
def rigDeep (r : List Word) (l : List OldWin) : State := rigWith r fun v => { v with older := l }

theorem witness_Calls : let s := rigDeep [0x100000000] (List.replicate 30 (older true))
    s.me.fl.toNat % 32 = 0 ∧ s.me.older.length ≠ 31 ∧ Issues s (.call 4) [18] [7] [] [] (moved := windowCodes 8) ∧ (target s.me.pc 4).toNat % 4 = 0 ∧
      Issues s (.callr 0 1 0) [0, 18] [7] [] [] (moved := windowCodes 8) ∧ (s.src 0).toNat % 4 = 0 :=
  ⟨by decide, by decide, iss, by decide,
    iss, by decide⟩

theorem witness_CallTraps :
    (Issues (rig [0x100000002]) (.callr 0 0 0) [0, 18] [7] [] [] (moved := windowCodes 8) ∧ ((rig [0x100000002]).src 0).toNat % 4 ≠ 0) ∧
    (let s := rigWith [0] fun v => { v with fl := 0x200010 };
      Issues s (.callr 0 0 0) [0, 18] [7] [] [] (moved := windowCodes 8) ∧ (s.src 0).toNat % 4 = 0 ∧ s.me.fl.toNat % 32 ≠ 0) ∧
    (let s := rigDeep [0] (List.replicate 31 (older true));
      Issues s (.callr 0 0 0) [0, 18] [7] [] [] (moved := windowCodes 8) ∧ (s.src 0).toNat % 4 = 0 ∧ s.me.fl.toNat % 32 = 0 ∧ s.me.older.length = 31) :=
  ⟨⟨iss, by decide⟩,
    ⟨iss, by decide, by decide⟩,
    iss, by decide, by decide, by decide⟩

theorem witness_Returns :
    (∃ o r, Issues (rigDeep [] [older true]) (.ret 0) [3, 18] [] [] [] (moved := windowCodes 4) ∧ (rigDeep [] [older true]).me.older = o :: r ∧ o.inFile = true ∧
      o.spoilt = false ∧ ((rigDeep [] [older true]).src 3).toNat % 4 = 0) ∧ Unflawed (rigDeep [] [older true]).me ∧
    (∃ o r, Issues (rigDeep [] [older false]) (.ret 0) [3, 18] [] [] [] (moved := windowCodes 4) ∧ (rigDeep [] [older false]).me.older = o :: r ∧
      (rigDeep [] [older false]).me.inFile = 0 ∧ o.spoilt = false ∧ (rigDeep [] [older false]).me.prefetch = [] ∧
      ((rigDeep [] [older false]).src 3).toNat % 4 = 0) ∧
    (let s := rigDeep [] [{ older true with spoilt := true }];
      ∃ o r, Issues s (.ret 0) [3, 18] [] [] [] (moved := windowCodes 4) ∧ s.me.older = o :: r ∧ o.spoilt = true ∧ s.me.prefetch = [] ∧ (s.src 3).toNat % 4 = 0) ∧
    Issues (rig []) (.ret 0) [18] [] [] [] ∧ (rig []).me.older = [] :=
  ⟨⟨_, _, iss, rfl, rfl, rfl, by decide⟩, by unfold Unflawed; decide, ⟨_, _, iss, rfl, by decide, rfl, rfl, by decide⟩, ⟨_, _, iss, rfl, rfl, rfl, by decide⟩, iss, rfl⟩

theorem witness_WindowPrefetch :
    (let s := rigWith [] fun v => { v with prefetch := [4] };
      s.me.frame = none ∧ Issues s (.nop 7) [] [] [] [] .registers ∧ Issues s (.wpf 0) [] [] [] [] ∧ (s.me.prefetch.filter (s.now < ·)).length < 2) ∧
    (let s := rigWith [] fun v => { v with prefetch := [4, 8] };
      Issues s (.wpf 0) [] [] [] [] ∧ 2 ≤ (s.me.prefetch.filter (s.now < ·)).length) :=
  ⟨⟨rfl, iss, iss, by decide⟩,
    iss, by decide⟩

/-- A launch of process 1 in entry 0 of core 0, its stacks at local address 0, with strand 0 unfolded on core 0. -/
def rigLaunch : Launch :=
  { index := 0, lrec := 0x3000, pid := 1, entry := 0x100000000, count := 2, prio := 0, feat := 0, consts := [], wpkt := 0, done := 0x100008000,
    cont := 0, stkb := 0, vac := false, barn := 1, spmn := 4, npkt := 0, stks := 10, cores := true, rad := 0, mode := 0,
    groups := [{ num := 1, first := 0, gcnt := 2, stride := 1, hx := 0, hy := 0 }], allowed := [0], nextSid := 1, queue := [], last := none,
    plan := [], strands := [{ sid := 0, home := some 0, groups := [1], gfault := none, left := 1024, bars := [5], slot := none, done := false }],
    ndone := 0, dead := false, ending := false, swept := none, heir := none }

/-- The rig with its launch live, barrier slot 5 reserved to its strand, and an allocation of 4,096 bytes. -/
def rigLive (r : List Word) : State :=
  rigCore r fun k => { k with
    launches := [rigLaunch], bars := [(5, { lid := 0, sid := 0 })],
    allocs := [{ idx := 2, base := 4096, size := 4096, pid := 1, lid := 0, holder := 0, charged := 4096 }] }

theorem witness_LeavingTheSlot : let s := rigLive []
    MaySuspend s ∧ Issues s (.yield 0) [] [] [] [] ∧ Issues s (.park 0) [] [] [] [] ∧ Issues s (.exit 0) [] [] [] [] ∧
      (∃ y p, Suspends (s.acting []) id s.core y p) ∧ s.me.wlim.toNat % 2 ^ 48 = 0 ∧ s.busyWork s.me.id = false :=
  ⟨⟨by decide, by decide, by decide⟩, iss,
    iss, iss,
    gives_ok _ (by rfl), by decide, by decide⟩

/-- The live rig with the level-0, level-1 and level-2 entries of a 1 GiB leaf for process 1 at 4 GiB. -/
def rigMapped (r : List Word) : State :=
  { rigLive r with
    stpt := 0x1001,
    mem := [(0x1008, 1), (0x1009, 0x20), (0x2000, 1), (0x2001, 0x30), (0x3020, 0x0F), (0x0FF50000, 1)] }

theorem witness_Going :
    (let s := rigLive [0x20];
      s.me.handler = false ∧ Issues s (.go 0 1 0) [0] [] [] [] ∧
        (∃ y o, (s.acting [0]).ownerCore (s.src 0) .route = (y, .ok (y.core, o)) ∧ MaySuspend y) ∧
        ∃ y, ((rigLive [0x100000000]).acting [0]).ownerCore 0x100000000 .route = (y, .error .xlate)) ∧
    (let s := rigMapped [0x110000000];
      Issues s (.go 0 1 0) [0] [] [] [] ∧ ∃ y o z p, (s.acting [0]).ownerCore (s.src 0) .route = (y, .ok (1, o)) ∧ 1 ≠ y.core ∧ MaySuspend y ∧
        Suspends y ({ srcs := [(0, 1)] : Use }.free) 1 z p) := by
  refine ⟨⟨by decide, iss, ⟨_, none, gives_exactly (by decide), by decide, by decide, by decide⟩, _, gives_error_with (by decide)⟩, iss, ?_⟩
  obtain ⟨z, p, h⟩ := gives_ok ((((rigMapped [0x110000000]).acting [0]).ownerCore 0x110000000 .route).1.suspend 0 0
    ({ srcs := [(0, 1)] : Use }.free) ((((rigMapped [0x110000000]).acting [0]).ownerCore 0x110000000 .route).1.me.pc + 4) 1 0) (by rfl)
  exact ⟨_, some 0x10000000, z, p, gives_exactly (by decide), by decide, ⟨by decide, by decide, by decide⟩, h⟩

/-! ## Hypotheses met: loads, stores, full/empty forms, atomics, fences -/

/-- The rig with word 0x1000 of the vault empty. -/
def rigEmpty (r : List Word) : State := { rig r with empties := [0x200] }

theorem witness_LocalLoads :
    (∃ f, loadOf (.ldS16 0 1 3 0 0 0x3FF) = some f ∧ (rig [0, 0x10000]).posted 0 (if f.o = 3 then 3 else f.w.toNat) = false ∧
      Issues (rig [0, 0x10000]) (.ldS16 0 1 3 0 0 0x3FF) [f.a] [f.d] [] [] (if f.o = 3 then .waits else .load) ∧
      InVault (rig [0, 0x10000]) (f.ea (rig [0, 0x10000])) f.size ∧ Unblocked (rig [0, 0x10000]) [f.a, f.d] (f.ea (rig [0, 0x10000])) f.size) ∧
    (∃ f b, loadOf (.ldx 7 1 0 0 3 0x1FF) = some f ∧
      Issues (rigLive [0, 0x10000000]) (.ldx 7 1 0 0 3 0x1FF) [f.a] [f.d] [] [] (if f.o = 3 then .waits else .load) ∧
      (rigLive [0, 0x10000000]).posted 0 3 = false ∧ InSpad (rigLive [0, 0x10000000]) (f.ea (rigLive [0, 0x10000000])) f.size b) ∧
    (∃ f, loadOf (.ldN32 0 1 0 0 0 0) = some f ∧
      Issues (rig [0, 2]) (.ldN32 0 1 0 0 0 0) [f.a] [f.d] [] [] (if f.o = 3 then .waits else .load) ∧
      (f.ea (rig [0, 2])).toNat % f.size ≠ 0 ∧ (rig [0, 2]).me.awaits = []) :=
  ⟨⟨_, rfl, by decide, iss, ⟨by decide, by decide, by decide, by unfold Admitted OwnerReadable; decide, by unfold State.sound; decide⟩, by unfold Unblocked; decide⟩, ⟨_, 4096 + 4088, rfl, iss, by decide, ⟨by decide, by decide, by decide, by decide, by rfl, by decide, by unfold State.spmSound; decide⟩⟩, ⟨_, rfl, iss, by decide, rfl⟩⟩

theorem witness_LocalStores :
    (∃ f, storeOf (.stb 0 1 2 0 0 0) = some f ∧ (rig [1, 0xFFFF]).posted 0 3 = false ∧
      Issues (rig [1, 0xFFFF]) (.stb 0 1 2 0 0 0) [f.a, f.d] [] [] [] ∧
      InVault (rig [1, 0xFFFF]) (f.ea (rig [1, 0xFFFF])) f.size ∧ Unblocked (rig [1, 0xFFFF]) [f.a, f.d] (f.ea (rig [1, 0xFFFF])) f.size) ∧
    (∃ f b, storeOf (.stx 0 1 0 0 0 0) = some f ∧
      Issues (rigLive [1, 0x10000FF8]) (.stx 0 1 0 0 0 0) [f.a, f.d] [] [] [] ∧
      InSpad (rigLive [1, 0x10000FF8]) (f.ea (rigLive [1, 0x10000FF8])) f.size b ∧
      ∀ w ∈ (rigLive [1, 0x10000FF8]).here.waiters, ∀ off, w.kind = .word off → off + 8 ≤ b ∨ b + f.size ≤ off) ∧
    (∃ f, storeOf (.sth 0 1 0 0 0 0) = some f ∧ Issues (rig [1, 1]) (.sth 0 1 0 0 0 0) [f.a, f.d] [] [] [] ∧
      (f.ea (rig [1, 1])).toNat % f.size ≠ 0) :=
  ⟨⟨_, rfl, by decide, iss, ⟨by decide, by decide, by decide, by unfold Admitted OwnerReadable; decide, by unfold State.sound; decide⟩, by unfold Unblocked; decide⟩,
    ⟨_, 4096 + 0xFF8, rfl, iss, ⟨by decide, by decide, by decide, by decide, by rfl, by decide, by unfold State.spmSound; decide⟩, fun w h => nomatch h⟩,
    ⟨_, rfl, iss, by decide⟩⟩

theorem witness_RemoteAccesses :
    (∃ f, loadOf (.ldx 0 1 0 0 0 0) = some f ∧ Issues (rig [0, 0x100000000]) (.ldx 0 1 0 0 0 0) [f.a] [f.d] [] [] (if f.o = 3 then .waits else .load) ∧
      Global (f.ea (rig [0, 0x100000000])) f.size ∧ (rig [0, 0x100000000]).posted 0 0 = false) ∧
    (∃ f, loadOf (.ldx 0 1 0 0 0 0) = some f ∧ Issues (rig [0, 0x10020000]) (.ldx 0 1 0 0 0 0) [f.a] [f.d] [] [] (if f.o = 3 then .waits else .load) ∧
      OtherSpad (rig [0, 0x10020000]) (f.ea (rig [0, 0x10020000])) f.size) ∧
    (∃ f, storeOf (.stx 0 1 0 0 0 0) = some f ∧ Issues (rig [0, 0xFFFFFFFFFFF8]) (.stx 0 1 0 0 0 0) [f.a, f.d] [] [] [] ∧
      Global (f.ea (rig [0, 0xFFFFFFFFFFF8])) f.size ∧ (rig [0, 0xFFFFFFFFFFF8]).me.board.length < 16) ∧
    (∃ f, storeOf (.stx 0 1 0 0 0 0) = some f ∧ Issues (rig [0, 0x17FFFFF8]) (.stx 0 1 0 0 0 0) [f.a, f.d] [] [] [] ∧
      OtherSpad (rig [0, 0x17FFFFF8]) (f.ea (rig [0, 0x17FFFFF8])) f.size ∧ (rig [0, 0x17FFFFF8]).me.board.length < 16) :=
  ⟨⟨_, rfl, iss, ⟨by decide, by decide⟩, by decide⟩, ⟨_, rfl, iss, by decide, by decide, by decide, by decide, by rfl⟩,
    ⟨_, rfl, iss, ⟨by decide, by decide⟩, by decide⟩, ⟨_, rfl, iss, ⟨by decide, by decide, by decide, by decide, by rfl⟩, by decide⟩⟩

theorem witness_FullEmptyForms :
    (∃ f, fullEmptyOf (.ldFe 0 1 0 0 0 0x100) = some f ∧ Issues (rig [0, 0x1800]) (.ldFe 0 1 0 0 0 0x100) [f.a] [f.d] [] [] ∧
      InVault (rig [0, 0x1800]) (f.ea (rig [0, 0x1800])) 8 ∧ f.may ((rig [0, 0x1800]).isFull (ownVault (rig [0, 0x1800]) (f.ea (rig [0, 0x1800])))) = true ∧
      Unblocked (rig [0, 0x1800]) [f.a, f.d] (f.ea (rig [0, 0x1800])) 8 ∧
      ∀ w ∈ (rig [0, 0x1800]).here.waiters, w.onWord (ownVault (rig [0, 0x1800]) (f.ea (rig [0, 0x1800]))) = false) ∧
    (∃ f, fullEmptyOf (.stEf 0 1 0 0 0 0) = some f ∧ Issues (rigEmpty [0, 0x1000]) (.stEf 0 1 0 0 0 0) [f.a, f.d] [] [] [] ∧
      InVault (rigEmpty [0, 0x1000]) (f.ea (rigEmpty [0, 0x1000])) 8 ∧
      f.may ((rigEmpty [0, 0x1000]).isFull (ownVault (rigEmpty [0, 0x1000]) (f.ea (rigEmpty [0, 0x1000])))) = true) ∧
    (∃ f, fullEmptyOf (.ldF 0 1 0 0 0 0) = some f ∧ Issues (rigEmpty [0, 0x1000]) (.ldF 0 1 0 0 0 0) [f.a] [f.d] [] [] ∧
      InVault (rigEmpty [0, 0x1000]) (f.ea (rigEmpty [0, 0x1000])) 8 ∧
      f.may ((rigEmpty [0, 0x1000]).isFull (ownVault (rigEmpty [0, 0x1000]) (f.ea (rigEmpty [0, 0x1000])))) = false ∧
      MaySuspend (rigEmpty [0, 0x1000]) ∧
      Unblocked (rigEmpty [0, 0x1000]) [f.a, f.d] (f.ea (rigEmpty [0, 0x1000])) 8 ∧
      ∃ y p, ((rigEmpty [0, 0x1000]).acting [f.a, f.d]).suspend 0 0 id (rigEmpty [0, 0x1000]).me.pc 0 0 = (y, .ok p)) :=
  ⟨⟨_, rfl, iss, ⟨by decide, by decide, by decide, by unfold Admitted OwnerReadable; decide, by unfold State.sound; decide⟩, by decide, by unfold Unblocked; decide, fun w h => nomatch h⟩,
    ⟨_, rfl, iss, ⟨by decide, by decide, by decide, by unfold Admitted OwnerReadable; decide, by unfold State.sound; decide⟩, by decide⟩,
    ⟨_, rfl, iss, ⟨by decide, by decide, by decide, by unfold Admitted OwnerReadable; decide, by unfold State.sound; decide⟩, by decide, ⟨by decide, by decide, by decide⟩,
      by unfold Unblocked; decide, gives_ok _ (by rfl)⟩⟩

theorem witness_Atomics :
    (∃ f, atomicOf? (.amoCas 0 1 2 0 0 0) = some f ∧
      Issues (rig [0, 0x1000]) (.amoCas 0 1 2 0 0 0) (if f.fn = 9 then [f.a, f.b, f.d] else [f.a, f.b]) [f.d] [] [] ∧
      InVault (rig [0, 0x1000]) ((rig [0, 0x1000]).src f.a) 8 ∧ (rig [0, 0x1000]).posted 0 0 = false ∧
      Unblocked (rig [0, 0x1000]) (if f.fn = 9 then [f.a, f.b, f.d, f.d] else [f.a, f.b, f.d]) ((rig [0, 0x1000]).src f.a) 8) ∧
    (∃ f, atomicOf? (.amoMin 16 1 2 0 0 0) = some f ∧ Issues (rig [0, 0x100000000]) (.amoMin 16 1 2 0 0 0) [f.a, f.b] [f.d] [] [] ∧
      Global ((rig [0, 0x100000000]).src f.a) 8 ∧ discards f.d = true ∧ (rig [0, 0x100000000]).me.board.length < 16) ∧
    (∃ f, atomicOf? (.amoSwap 0 1 2 0 0 0) = some f ∧ Issues (rig [0, 0x100000000]) (.amoSwap 0 1 2 0 0 0) [f.a, f.b] [f.d] [] [] ∧
      Global ((rig [0, 0x100000000]).src f.a) 8 ∧ discards f.d = false) :=
  ⟨⟨_, rfl, iss, ⟨by decide, by decide, by decide, by unfold Admitted OwnerReadable; decide, by unfold State.sound; decide⟩, by decide, by unfold Unblocked; decide⟩,
    ⟨_, rfl, iss, ⟨by decide, by decide⟩, by decide, by decide⟩, ⟨_, rfl, iss, ⟨by decide, by decide⟩, by decide⟩⟩

theorem witness_MigratingForms :
    (Issues (rig [0, 0x1000]) (.ldxM 0 1 0 0 0) [1] [0] [] [] ∧ Issues (rig [0, 0x1000]) (.stxM 0 1 0 0 0) [1, 0] [] [] [] ∧
      InVault (rig [0, 0x1000]) ((rig [0, 0x1000]).src 1) 8 ∧ (rig [0, 0x1000]).me.handler = false ∧ (rig [0, 0x1000]).posted 0 0 = false ∧
      Unblocked (rig [0, 0x1000]) [1, 0] ((rig [0, 0x1000]).src 1) 8) ∧
    (let s := rigMapped [0, 0x110000000];
      Issues s (.stxM 0 1 0 0 0) [1, 0] [] [] [] ∧ ∃ y z pa p, Global (s.src 1) 8 ∧ (s.acting [1, 0]).ownerCore (s.src 1) .write = (y, .ok (1, pa)) ∧
      1 ≠ y.core ∧ MaySuspend y ∧ y.suspend y.core y.slot id y.me.pc 1 0 = (z, .ok p)) ∧
    (let s := rigMapped [0, 0x10000FFF8];
      Issues s (.ldxM 0 1 0 0 0) [1] [0] [] [] ∧ ∃ y, Global (s.src 1) 8 ∧
      (s.acting [1, 0]).ownerCore (s.src 1) .read = (y, .ok (y.core, some 0xFFF8)) ∧ y.sound 0xFFF8 8 ∧ y.vaultBusy 0xFFF8 8 = false) := by
  refine ⟨⟨iss, iss, ⟨by decide, by decide, by decide, by unfold Admitted OwnerReadable; decide, by unfold State.sound; decide⟩, by decide, by decide, by unfold Unblocked; decide⟩, ⟨iss, ?_⟩, iss, ?_⟩
  · obtain ⟨z, p, h⟩ := gives_ok ((((rigMapped [0, 0x110000000]).acting [1, 0]).ownerCore 0x110000000 .write).1.suspend 0 0 id
      (((rigMapped [0, 0x110000000]).acting [1, 0]).ownerCore 0x110000000 .write).1.me.pc 1 0) (by rfl)
    exact ⟨_, z, some 0x10000000, p, ⟨by decide, by decide⟩, gives_exactly (by decide), by decide, ⟨by decide, by decide, by decide⟩, h⟩
  · exact ⟨_, ⟨by decide, by decide⟩, gives_exactly (by decide), by unfold State.sound; decide, by decide⟩

/-- The rig with a posted store of its core unacknowledged. -/
def rigPosted : State := { rig [] with mesh := [{ (rig []).blank 0 0 with proc := 1, storing := true, cls := .one }] }

theorem witness_FencesAndWaits :
    (Issues (rig []) (.fenceSc 0 0) [] [] [] [] ∧ (rig []).posted 0 3 = false) ∧
    (Issues (rig []) (.wait 1) [] [] [] [] ∧ (rig []).posted 0 1 = false) ∧
    (Issues rigPosted (.fenceAcq 0 1) [] [] [] [] ∧ rigPosted.posted 0 1 = true) :=
  ⟨⟨iss, by decide⟩, ⟨iss, by decide⟩, iss, by decide⟩

theorem witness_WaitOnAddress :
    (Issues (rigLive [0x10000000, 1]) (.waita 0 1 0) [0, 1] [] [] [] ∧ InSpad (rigLive [0x10000000, 1]) 0x10000000 8 4096 ∧
      BitVec.ofNat 64 ((rigLive [0x10000000, 1]).spm.readNat (spmAt 0 4096) 8) ≠ ((rigLive [0x10000000, 1]).src 1).signExtend 64) ∧
    (Issues (rigLive [0x10000000, 0]) (.waita 0 1 0) [0, 1] [] [] [] ∧ (rigLive [0x10000000, 0]).posted 0 0 = false ∧
      BitVec.ofNat 64 ((rigLive [0x10000000, 0]).spm.readNat (spmAt 0 4096) 8) = ((rigLive [0x10000000, 0]).src 1).signExtend 64 ∧
      InSpad (rigLive [0x10000000, 0]) 0x10000000 8 4096 ∧ MaySuspend (rigLive [0x10000000, 0]) ∧
      ∃ y p, Suspends ((rigLive [0x10000000, 0]).acting [0, 1]) id 0 y p) ∧
    (Issues (rig [0xFFFFFF8, 0]) (.waita 0 1 0) [0, 1] [] [] [] ∧ ((rig [0xFFFFFF8, 0]).src 0).toNat % 8 = 0 ∧
      ¬ (2 ^ 28 ≤ ((rig [0xFFFFFF8, 0]).src 0).toNat ∧ ((rig [0xFFFFFF8, 0]).src 0).toNat < 2 ^ 32)) :=
  ⟨⟨iss, ⟨by decide, by decide, by decide, by decide, by rfl, by decide, by unfold State.spmSound; decide⟩, by decide⟩,
    ⟨iss, by decide, by decide, ⟨by decide, by decide, by decide, by decide, by rfl, by decide, by unfold State.spmSound; decide⟩, ⟨by decide, by decide, by decide⟩,
      gives_ok _ (by rfl)⟩, iss, by decide, by decide⟩

/-! ## Hypotheses met: barriers, copies, allocation, launches and groups -/

/-- The address of barrier slot 5 of core 0, and of slot 0 of core 1. -/
def bar5 : Word := 0xF8000050
def barFar : Word := 0xF8020000

theorem witness_BarrierUpdates :
    (let s := rigLive [bar5, 0x4001];
      barrierOf (.cbInit 0 1 0) = some (1, 0, 1, 0) ∧ Issues s (.cbInit 0 1 0) [0, 1] [] [] [] ∧ s.posted 0 0 = false ∧
      NamesBarrier s (s.src 0) false ∧ spmCore (s.src 0).toNat = s.core ∧ (∀ w ∈ s.here.waiters, ∀ ph, w.kind ≠ .barrier (slotNamed (s.src 0)) ph) ∧
      (s.clusterAt (clusterOf s.core)).queue = [] ∧ s.spmSound s.core (0x2FC00 + 16 * slotNamed (s.src 0)) 16) ∧
    (let s := rigLive [barFar];
      barrierOf (.cbArr 0 0) = some (2, 0, 16, 3) ∧ Issues s (.cbArr 0 0) [0] [] [] [] ∧ s.posted 0 3 = false ∧
      NamesBarrier s (s.src 0) false ∧ spmCore (s.src 0).toNat ≠ s.core ∧ s.me.board.length < 16) ∧
    (let s := rigLive [bar5, 0xFFFFFFFFFFFF];
      barrierOf (.cbExp 0 1 0) = some (3, 0, 1, 0) ∧ Issues s (.cbExp 0 1 0) [0, 1] [] [] [] ∧ NamesBarrier s (s.src 0) false) :=
  ⟨⟨rfl, iss, by decide, ⟨by decide, by decide, by decide, by decide⟩, by decide, by decide, rfl, by unfold State.spmSound; decide⟩,
    ⟨rfl, iss, by decide, ⟨by decide, by decide, by decide, by decide⟩, by decide, by decide⟩,
    ⟨rfl, iss, by decide, by decide, by decide, by decide⟩⟩

theorem witness_BarrierWaits :
    (let s := rigLive [bar5];
      s.posted 0 0 = false ∧ s.spmSound s.core (0x2FC00 + 16 * slotNamed (s.src 0)) 16 ∧ Issues s (.cbWait 0 0) [0] [] [] [] ∧ NamesBarrier s (s.src 0) true ∧ spmCore (s.src 0).toNat = s.core ∧
      (s.barRead s.core (slotNamed (s.src 0))).phase = decide ((s.src 0).toNat % 2 = 1)) ∧
    (let s := rigLive [bar5 + 1];
      Issues s (.cbWait 0 0) [0] [] [] [] ∧ NamesBarrier s (s.src 0) true ∧ spmCore (s.src 0).toNat = s.core ∧
      ¬ (s.barRead s.core (slotNamed (s.src 0))).phase = decide ((s.src 0).toNat % 2 = 1) ∧ MaySuspend s ∧
      ∃ y p, (s.acting [0]).suspend s.core s.slot id s.me.pc s.core 0 = (y, .ok p)) ∧
    (let s := rigLive [barFar];
      Issues s (.cbWait 0 0) [0] [] [] [] ∧ NamesBarrier s (s.src 0) true ∧ spmCore (s.src 0).toNat ≠ s.core ∧ MaySuspend s ∧
      ∃ y p, (s.acting [0]).suspend s.core s.slot id s.me.pc s.core 0 = (y, .ok p)) ∧
    (Issues (rigLive [bar5]) (.cbTest 1 0 0) [0] [1] [] [] ∧ NamesBarrier (rigLive [bar5]) bar5 false) ∧
    (Issues (rigLive [barFar]) (.cbTest 1 0 0) [0] [1] [] [] ∧ NamesBarrier (rigLive [barFar]) barFar false ∧ spmCore barFar.toNat ≠ (rigLive []).core) :=
  ⟨⟨by decide, by unfold State.spmSound; decide, iss, ⟨by decide, by decide, by decide, by decide⟩, by decide, by decide⟩,
    ⟨iss, ⟨by decide, by decide, by decide, by decide⟩, by decide, by decide, ⟨by decide, by decide, by decide⟩, gives_ok _ (by rfl)⟩,
    ⟨iss, ⟨by decide, by decide, by decide, by decide⟩, by decide, ⟨by decide, by decide, by decide⟩, gives_ok _ (by rfl)⟩,
    ⟨iss, by decide, by decide, by decide, by decide⟩, iss, ⟨by decide, by decide, by decide, by decide⟩, by decide⟩

/-- The bytes of a copy descriptor: 8 bytes from the own vault to the own vault, with no completion. -/
def copyBytes : List Byte := leBytes 8 0x1000 ++ leBytes 8 0x2000 ++ leBytes 8 8 ++ leBytes 40 0

def copyDesc : CopyDesc := { at_ := 0x40, src := 0x1000, dst := 0x2000, len := 8, cmode := 0, csc := 0, sbf := false, caddr := 0, cval := 0 }

/-- The rig with that descriptor at local address 0x40, or with zeros there. -/
def rigCopy : State := { rig [0x40] with mem := [(0x41, 0x10), (0x49, 0x20), (0x50, 8), (0x0FF50000, 1)] }

theorem witness_CopyCommands :
    (∃ y bs, Issues rigCopy (.cpy 0 0 0 0) [0] [] [] [] ∧ rigCopy.posted 0 0 = false ∧ (rigCopy.src 0).toNat % 64 = 0 ∧
      TableAt (rigCopy.acting [0]) (rigCopy.src 0) 64 y bs ∧ WellDescribed bs ∧ Describes bs copyDesc ∧
      y.completionCheck copyDesc = none ∧ y.here.copies.length < 16 ∧ y.me.board.length < 16) ∧
    (∃ y bs, Issues (rig [0x40]) (.cpy 0 0 0 0) [0] [] [] [] ∧ (rig [0x40]).posted 0 0 = false ∧ ((rig [0x40]).src 0).toNat % 64 = 0 ∧
      TableAt ((rig [0x40]).acting [0]) ((rig [0x40]).src 0) 64 y bs ∧ ¬ WellDescribed bs) ∧
    (let s := rig [0x100000040];
      Issues s (.cpy 0 0 0 0) [0] [] [] [] ∧ (s.src 0).toNat % 64 = 0 ∧ (s.acting [0]).regionCheck s.core s.slot (s.src 0).toNat = (s.acting [0], none) ∧
      isLocal s.core (s.src 0).toNat = false ∧ s.me.fetched = none) ∧
    Issues (rig []) (.cpyQ 0 0 0) [] [0] [] [] :=
  ⟨⟨_, copyBytes, iss, by decide, by decide, ⟨by rfl, by decide, by rw [if_pos (by decide)]; exact ⟨fun _ => by decide, gives_exactly (by decide)⟩⟩,
      by unfold WellDescribed; decide, by unfold Describes; decide,
      by decide, by decide, by decide⟩,
    ⟨_, List.replicate 64 0, iss, by decide, by decide, ⟨by rfl, by decide, by rw [if_pos (by decide)]; exact ⟨fun _ => by decide, gives_exactly (by decide)⟩⟩,
      by unfold WellDescribed; decide⟩, ⟨iss, by decide, by rfl, by decide, rfl⟩, iss⟩

theorem witness_ScratchpadAllocation :
    (let s := rig [0, 131073];
      Issues s (.spal 2 0 0 0 0) [0] [2] [] [] ∧ (s.homeOf s.me.id).getD s.core = s.core ∧ s.src 0 = 0 ∧
      Issues s (.spal 2 1 0 0 0) [1] [2] [] [] ∧ 131072 < (s.src 1).toNat ∧ (s.src 1).toNat < 2 ^ 47) ∧
    (let s := rigLive [256];
      Issues s (.spal 2 0 1 1 0) [0] [2] [] [] ∧ (s.homeOf s.me.id).getD s.core = s.core ∧ 0 < (s.src 0).toNat ∧ (s.src 0).toNat ≤ 131072 ∧
      s.here.freeIdx = some 3 ∧ s.here.freeBase (if (s.src 0).toNat ≤ 256 then 256 else 2 ^ Nat.clog 2 (s.src 0).toNat) = some 0 ∧
      (if (s.src 0).toNat ≤ 256 then 256 else 2 ^ Nat.clog 2 (s.src 0).toNat) ≤ (s.acting [0, 2]).spmFree s.core) ∧
    (let s := rigLive [0x800000000000];
      Issues s (.spal 2 0 0 0 0) [0] [2] [] [] ∧ 2 ^ 47 ≤ (s.src 0).toNat ∧
      (s.unfoldedAt s.me.id).bind (fun u => u.bars[(s.src 0).toNat % 16]?) = some 5) ∧
    (let s := rigLive [0x17FE0000, 0x10000000];
      Issues s (.spfree 0 0 0) [0] [] [] [] ∧ 2 ^ 28 ≤ (s.src 0).toNat ∧ (s.src 0).toNat < 2 ^ 32 ∧ spmCore (s.src 0).toNat ≠ s.core ∧
      Issues s (.spfree 1 1 0) [1] [] [] [] ∧ spmCore (s.src 1).toNat = s.core ∧ Issues s (.spsz 2 1 1 0 0) [1] [2] [] []) :=
  ⟨⟨iss, by decide, by decide, iss, by decide, by decide⟩, ⟨iss, by decide, by decide, by decide, by decide +kernel, by decide +kernel, by decide +kernel⟩,
    ⟨iss, by decide, by decide⟩, iss, by decide, by decide, by decide, iss, by decide, iss⟩

theorem witness_LaunchesAndGroups :
    (∃ y, Issues (rigMapped [0x100003000, 1023]) (.lnch 0 1 0 0 0) [0, 1] [] [] [] ∧ ((rigMapped [0x100003000, 1023]).src 1).toNat ≤ 1023 ∧
      ((rigMapped [0x100003000, 1023]).src 0).toNat % 128 = 0 ∧
      ((rigMapped [0x100003000, 1023]).acting [0, 1]).recordAddress ((rigMapped [0x100003000, 1023]).src 0) = (y, .ok 0x3000) ∧
      y.posted y.core 0 = false ∧ y.storesTo y.me.id 1023 = false ∧ (y.coreAt 1023).killed = false ∧ (y.coreAt 1023).inbox.length < 16) ∧
    (let s := rigLive [0, 1, 300];
      Issues s (.grank 0 1 0 0) [1] [0] [] [] ∧ s.posted 0 0 = false ∧
      (∃ u l e, s.unfoldedAt s.me.id = some u ∧ s.launchAt s.me.id.lid = some l ∧ (s.src 1).toNat ∈ u.groups ∧
        l.groups.find? (·.num == (s.src 1).toNat) = some e ∧ 0 < e.gcnt ∧ s.me.id.sid = e.first + 0 * e.stride) ∧
      Issues s (.grank 0 2 0 0) [2] [0] [] [] ∧ (∃ u, s.unfoldedAt s.me.id = some u ∧ (s.src 2).toNat ∉ u.groups) ∧
      Issues s (.gsize 0 1 0 0) [1] [0] [] [] ∧ Issues s (.gsize 0 2 0 0) [2] [0] [] [] ∧ (∃ l, s.launchAt s.me.id.lid = some l)) ∧
    (let s := rigLive [0, 1];
      Issues s (.task 0 0 0) [0] [] [] [] ∧ (s.src 0).toNat ≤ s.packetLimit ∧ Issues s (.task 1 0 0) [1] [] [] [] ∧
      s.packetLimit < (s.src 1).toNat ∧ Issues s (.inq 0 0 0) [] [0] [] []) :=
  ⟨⟨_, iss, by decide, by decide, gives_exactly (by decide), by decide, by decide, by decide, by decide⟩,
    ⟨iss, by decide, ⟨_, _, _, rfl, rfl, by decide, rfl, by decide, by decide⟩, iss, ⟨_, rfl, by decide⟩, iss, iss, ⟨_, rfl⟩⟩,
    iss, by decide, iss, by decide, iss⟩

/-! ## Hypotheses met: vector instructions -/

/-- The live rig with tiles 0 and 1 bound to the strand under two types. -/
def rigTiles (r : List Word) (ty0 ty1 : BitVec 3) (f : Slot → Slot := id) : State :=
  (rigCore r fun k => { k with
    launches := [rigLaunch], bars := [(5, { lid := 0, sid := 0 })], bound := [({ lid := 0, sid := 0 }, { lo := 0, hi := 1, tyl := ty0, tyh := ty1 })],
    tiles := [(0, { Tile.reset with ty := ty0 }), (1, { Tile.reset with ty := ty1 })] }).onMe f

/-- Rows of that machine. -/
theorem rows {s : State} {b : Binding} {reads writes : List (BitVec 6)} (bound : s.binding = some b := by decide +kernel)
    (plain : ∀ n ∈ reads ++ writes, s.me.stream n = none := by decide +kernel)
    (sound : ∀ n ∈ reads ++ writes, (s.tileAt s.core (b.tile n)).err = false := by decide +kernel)
    (idle : ∀ n ∈ reads ++ writes, s.here.usesTile (b.tile n) = false := by decide +kernel)
    (drift : ∀ n ∈ writes, tyFloat (s.tileAt s.core (b.tile n)).ty.toNat = false ∨ (s.tileAt s.core (b.tile n)).drift ≠ 255 := by decide +kernel) :
    Rows s b reads writes := ⟨⟨bound, plain, sound, idle⟩, drift⟩

/-- The lane moduli loaded: all 3. -/
def moduli (v : Slot) : Slot :=
  { v with mqb := 0x8000000000000000, moduli := List.replicate 16 (3, 1), modLoaded := true }

/-- A value of FMT captured. -/
def fmt (x : BitVec 32) (v : Slot) : Slot := { v with fmt := x }

def bind (ty0 ty1 : BitVec 3) : Binding := { lo := 0, hi := 1, tyl := ty0, tyh := ty1 }

theorem witness_IntegerLanes :
    (∃ f, integerForm (.viadds 31 0 32 0) = some f ∧ Rows (rigTiles [] 4 4) (bind 4 4) f.reads [f.d] ∧
      (∀ n ∈ f.srcs, (bind 4 4).ty n = (bind 4 4).ty f.d) ∧ f.ok ((bind 4 4).ty f.d) = true ∧
      Issues (rigTiles [] 4 4) (.viadds 31 0 32 0) [] [] [] f.reads) ∧
    (∃ f, integerForm (.vand 63 63 32 0) = some f ∧ Rows (rigTiles [] 1 0) (bind 1 0) f.reads [f.d] ∧
      (∀ n ∈ f.srcs, (bind 1 0).ty n = (bind 1 0).ty f.d) ∧ f.ok ((bind 1 0).ty f.d) = true ∧
      Issues (rigTiles [] 1 0) (.vand 63 63 32 0) [] [] [] f.reads) :=
  ⟨⟨_, rfl, rows, by decide, by decide, iss⟩, ⟨_, rfl, rows, by decide, by decide, iss⟩⟩

theorem witness_FloatLanes :
    (∃ f, floatForm (.vfma 0 1 32 0) = some f ∧ Rows (rigTiles [] 0 0) (bind 0 0) f.reads [f.d] ∧
      (∀ n ∈ f.srcs, (bind 0 0).ty n = (bind 0 0).ty f.d) ∧ f.ok ((bind 0 0).ty f.d) = true ∧
      Issues (rigTiles [] 0 0) (.vfma 0 1 32 0) [] [] [] f.reads) ∧
    (∃ f, floatForm (.vlse 63 32 33 0) = some f ∧ Rows (rigTiles [] 0 2) (bind 0 2) f.reads [f.d] ∧
      (∀ n ∈ f.srcs, (bind 0 2).ty n = (bind 0 2).ty f.d) ∧ f.ok ((bind 0 2).ty f.d) = true ∧
      Issues (rigTiles [] 0 2) (.vlse 63 32 33 0) [] [] [] f.reads) :=
  ⟨⟨_, rfl, rows, by decide, by decide, iss⟩, ⟨_, rfl, rows, by decide, by decide, iss⟩⟩

theorem witness_VectorCompares :
    (∃ f, compareOf (.vcmpLt 0 32 0) = some f ∧ Rows (rigTiles [] 0 0) (bind 0 0) [f.a, f.b] [] ∧ (bind 0 0).ty f.b = (bind 0 0).ty f.a ∧
      f.ok ((bind 0 0).ty f.a) = true ∧ Issues (rigTiles [] 0 0) (.vcmpLt 0 32 0) [] [] [] [f.a, f.b]) ∧
    (∃ f, compareOf (.vicmpLtn 63 32 0) = some f ∧ Rows (rigTiles [] 0 3) (bind 0 3) [f.a, f.b] [] ∧ (bind 0 3).ty f.b = (bind 0 3).ty f.a ∧
      f.ok ((bind 0 3).ty f.a) = true ∧ Issues (rigTiles [] 0 3) (.vicmpLtn 63 32 0) [] [] [] [f.a, f.b]) ∧
    (Rows (rigTiles [] 0 5) (bind 0 5) [63] [] ∧ Issues (rigTiles [] 0 5) (.vmsk 63 0) [] [] [] [63]) ∧
    Issues (rigTiles [] 0 5) (.vmskall 0) [] [] [] [] :=
  ⟨⟨_, rfl, rows, by decide, by decide, iss⟩, ⟨_, rfl, rows, by decide, by decide, iss⟩, ⟨rows, iss⟩, iss⟩

theorem witness_LaneMoves :
    (∃ f, moveOf (.vbst 0 1 6 0) = some f ∧ Rows (rigTiles [] 4 4) (bind 4 4) [f.a] [f.d] ∧ (bind 4 4).ty f.a = (bind 4 4).ty f.d ∧
      f.ok (tyLanes ((bind 4 4).ty f.d)) = true ∧ Issues (rigTiles [] 4 4) (.vbst 0 1 6 0) [] [] [] [f.a]) ∧
    (Rows (rigTiles [] 5 5) (bind 5 5) [32, 63] [0] ∧ (bind 5 5).ty 32 = (bind 5 5).ty 0 ∧ tyLanes ((bind 5 5).ty 0) ≤ tyLanes ((bind 5 5).ty 63) ∧
      Issues (rigTiles [] 5 5) (.vshuf 0 32 63 0) [] [] [] [32, 63] ∧ (bind 5 5).ty 63 = (bind 5 5).ty 0 ∧
      Issues (rigTiles [] 5 5) (.vsel 0 32 63 0) [] [] [] [32, 63]) ∧
    (Rows (rigTiles [32] 4 1) (bind 4 1) [] [31] ∧ Issues (rigTiles [32] 4 1) (.vbcast 31 0 0) [0] [] [] [] ∧
      Rows (rigTiles [32] 4 1) (bind 4 1) [32] [31] ∧ Issues (rigTiles [32] 4 1) (.vmov 31 32 0) [] [] [] [32] ∧
      Rows (rigTiles [32] 4 1) (bind 4 1) [32] [] ∧ Issues (rigTiles [32] 4 1) (.vext 0 32 0 0) [0] [0] [] [32] ∧
      tyLanes ((bind 4 1).ty 32) ≤ ((rigTiles [32] 4 1).src 0).toNat) :=
  ⟨⟨_, rfl, rows, by decide, by decide, iss⟩, ⟨rows, by decide, by decide, iss, by decide, iss⟩, rows, iss, rows, iss, rows, iss, by decide⟩

theorem witness_RandomDraws :
    Rows (rigTiles [] 3 0) (bind 3 0) [] [0] ∧ Issues (rigTiles [] 3 0) (.vrand 0 0) [] [] [] [] ∧
      Issues (rigTiles [1, 2] 3 0) (.vseed 0 1 0) [0, 1] [] [] [] := ⟨rows, iss, iss⟩

theorem witness_Reductions :
    (∃ f, reduceOf (.vrsum 0 31 0) = some f ∧ Rows (rigTiles [] 0 0) (bind 0 0) [f.a] [] ∧ Issues (rigTiles [] 0 0) (.vrsum 0 31 0) [] [f.d] [] [f.a] ∧
      levels (combine f.op (modeOf (rigTiles [] 0 0).me.fpc)) 7 ((List.range (tyLanes 0)).map fun j =>
        ((if (rigTiles [] 0 0).me.lanes.getLsbD (tyBytes 0 * j) then lane 0 ((rigTiles [] 0 0).nameRow f.a) j else f.neutral), (0 : Flags))) =
          [(0, 0)]) ∧
    (∃ f v, reduceOf (.vrmax 0 32 0) = some f ∧ Rows (rigTiles [] 0 4) (bind 0 4) [f.a] [] ∧ Issues (rigTiles [] 0 4) (.vrmax 0 32 0) [] [f.d] [] [f.a] ∧
      f.is ((List.range 128).filterMap fun j => if (rigTiles [] 0 4).me.lanes.getLsbD (tyBytes 4 * j) then
        some (sx 8 (lane 4 ((rigTiles [] 0 4).nameRow f.a) j)) else none) v) :=
  ⟨⟨_, rfl, rows, iss, by decide +kernel⟩, ⟨_, 0, rfl, rows, iss, by decide +kernel⟩⟩

theorem witness_Conversions :
    (∃ f, convOf (.vcvtF8 0 32 0) = some f ∧ Rows (rigTiles [] 4 0) (bind 4 0) [f.a] [f.d] ∧ f.ok 0 4 = true ∧ f.a.toNat % (128 / 32) = 0 ∧
      f.d.toNat % (128 / 128) = 0 ∧ Issues (rigTiles [] 4 0) (.vcvtF8 0 32 0) [] [] [] (names f.a (128 / 32))) ∧
    (∃ f, convOf (.vcvtMr 0 32 0) = some f ∧ Rows (rigTiles [] 5 1 moduli) (bind 5 1) [f.a] [f.d] ∧ f.ok 1 5 = true ∧
      (rigTiles [] 5 1 moduli).me.mqValid = true ∧ (rigTiles [] 5 1 moduli).me.modLoaded = true ∧
      Issues (rigTiles [] 5 1 moduli) (.vcvtMr 0 32 0) [] [] [] (names f.a 1)) :=
  ⟨⟨_, rfl, rows, by decide, by decide, by decide, iss⟩, ⟨_, rfl, rows, by decide, by decide, by decide, iss⟩⟩

theorem witness_BlockConversions :
    (rigTiles [] 0 4 (fmt 3)).me.awaits = [] ∧ (Instr.vcvtKb8 0 1 32 7).WellFormed ∧ (Instr.vcvtKb4 0 1 32 7).WellFormed ∧
    ((Instr.vcvtF32 0 63 33 0).WellFormed ∧ (rigTiles [] 0 4 (fmt 3)).me.fmt.toNat % 16 = 3 ∧
      ∀ b, (rigTiles [] 0 4 (fmt 3)).binding = some b → b.ty 63 ≠ 2) ∧
    (let s := rigTiles [] 0 4 (fmt 1);
      s.me.awaits = [] ∧ s.me.fmt.toNat % 16 = 1 ∧ s.me.fmt.toNat < 2 ^ 20 ∧ Rows s (bind 0 4) [63] [28] ∧ (28 : BitVec 6).toNat % (128 / 32) = 0 ∧
      Issues s (.vcvtF32 28 63 0 0) [] [] [] [63]) ∧
    (let s := (rigTiles [] 0 4 (fmt 0x105)).onHere fun k => { k with ltag := 0x1001 };
      s.me.awaits = [] ∧ s.me.fmt.toNat % 16 = 5 ∧ s.me.fmt.toNat < 2 ^ 20 ∧ Rows s (bind 0 4) [63] [8] ∧ (s.here.seen s.now).tagCheck (s.me.fmt.toNat / 256 % 4096) s.me.pid = none ∧
      (8 : BitVec 6).toNat % (256 / 32) = 0 ∧ Issues s (.vcvtF32 8 63 0 0) [] [] [] [63]) :=
  ⟨rfl, by decide, by decide, ⟨by decide, by decide, fun b h => by cases h; decide⟩, ⟨rfl, by decide, by decide, rows, by decide, iss⟩,
    rfl, by decide, by decide, rows, by decide, by decide, iss⟩

theorem witness_ModularForms :
    (∃ f, modOf (.vmmac 0 32 63 0) = some f ∧ ModuliReady (rigTiles [] 5 5 moduli).me ∧
      Rows (rigTiles [] 5 5 moduli) (bind 5 5) (if f.acc then f.d :: f.srcs else f.srcs) [f.d] ∧ (bind 5 5).ty f.d = 5 ∧
      (∀ n ∈ f.srcs, (bind 5 5).ty n = 5) ∧ Issues (rigTiles [] 5 5 moduli) (.vmmac 0 32 63 0) [] [] [] (if f.acc then f.d :: f.srcs else f.srcs)) ∧
    (∃ f, modOf (.bflyGs 0 32 63 0) = some f ∧ f.bfly = true ∧
      Rows (rigTiles [] 5 5 moduli) (bind 5 5) (if f.acc then f.d :: f.srcs else f.srcs) [f.d] ∧
      Issues (rigTiles [] 5 5 moduli) (.bflyGs 0 32 63 0) [] [] [] (if f.acc then f.d :: f.srcs else f.srcs)) :=
  ⟨⟨_, rfl, ⟨by decide, by decide, by decide⟩, rows, by decide, by decide, iss⟩, ⟨_, rfl, by decide, rows, iss⟩⟩

/-- The bytes of a table of sixteen moduli, the first and last ones given. -/
def tableBytes (q : Nat) : List Byte := (List.range 16).flatMap fun _ => leBytes 8 q ++ leBytes 8 0

/-- The rig with such a table at local address 0x100. -/
def rigTable (q : Nat) : State := let s := rig [0x100]; { s with mem := s.mem.write 0x100 (tableBytes q) }

theorem witness_ModulusTable :
    (Issues (rigTable (2 ^ 62 - 1)) (.mqset 0 0) [0] [] [] [] ∧ ((rigTable (2 ^ 62 - 1)).src 0).toNat % 256 = 0 ∧
      ∃ y, TableAt ((rigTable (2 ^ 62 - 1)).acting [0]) 0x100 256 y (tableBytes (2 ^ 62 - 1)) ∧
        ∀ j, j < 16 → fieldAt (tableBytes (2 ^ 62 - 1)) (16 * j) 8 = 2 ^ 62 - 1) ∧
    (Issues (rigTable 2) (.mqset 0 0) [0] [] [] [] ∧
      ∃ y, TableAt ((rigTable 2).acting [0]) 0x100 256 y (tableBytes 2) ∧ fieldAt (tableBytes 2) (16 * 15) 8 % 2 ≠ 1) ∧
    (Issues (rig [0x80]) (.mqset 0 0) [0] [] [] [] ∧ ((rig [0x80]).src 0).toNat % 256 ≠ 0) :=
  ⟨⟨iss, by decide, _, ⟨by decide +kernel, by decide +kernel, by rw [if_pos (by decide +kernel)]; exact ⟨fun _ => by decide +kernel, gives_exactly (by decide +kernel)⟩⟩,
      by decide +kernel⟩,
    ⟨iss, _, ⟨by decide +kernel, by decide +kernel, by rw [if_pos (by decide +kernel)]; exact ⟨fun _ => by decide +kernel, gives_exactly (by decide +kernel)⟩⟩, by decide +kernel⟩, iss, by decide⟩

/-! ## Hypotheses met: streams and vector accesses -/

/-- The bytes of a descriptor of an input pattern of one entry at local address 0x1000, and of an outbound channel toward x + 1. -/
def patternBytes : List Byte := leBytes 8 0x1000 ++ leBytes 4 0 ++ leBytes 4 1 ++ leBytes 4 1 ++ leBytes 4 0 ++ leBytes 4 128 ++ leBytes 4 0
def channelBytes (dir : Nat) : List Byte := leBytes 8 0 ++ leBytes 4 (16 * dir + 12 + 3) ++ leBytes 20 0

def patternStream : Stream :=
  { num := 0, vd := 5, kind := .inPattern, dir := 0, base := 0x1000, cnt := 1, icnt := 1, istr := 128, ostr := 0, ahead := 0, done := 0, fifo := [], tag := none }
def channelStream (dir : Nat) : Stream :=
  { num := 3, vd := 5, kind := .outChannel, dir := dir, base := 0, cnt := 0, icnt := 0, istr := 0, ostr := 0, ahead := 0, done := 0, fifo := [], tag := none }

/-- The rig with bound tiles and a descriptor at local address 0x20. -/
def rigStream (bs : List Byte) (l : List Stream) : State :=
  let s := rigTiles [0x20] 0 0 fun v => { v with streams := l }
  { s with mem := s.mem.write 0x20 bs }

theorem witness_StreamBindings :
    (∃ y, (rigStream patternBytes []).binding.isSome = true ∧ Issues (rigStream patternBytes []) (.strbind 5 0 0) [0] [] [] [] ∧
      ((rigStream patternBytes []).src 0).toNat % 32 = 0 ∧ TableAt ((rigStream patternBytes []).acting [0]) 0x20 32 y patternBytes ∧
      StreamDescribed 5 patternBytes patternStream ∧ y.me.streams = [] ∧ ¬ ChannelTaken y patternStream) ∧
    (∃ y, Issues (rigStream (channelBytes 0) []) (.strbind 5 0 0) [0] [] [] [] ∧
      TableAt ((rigStream (channelBytes 0) []).acting [0]) 0x20 32 y (channelBytes 0) ∧
      StreamDescribed 5 (channelBytes 0) (channelStream 0) ∧ y.me.streams = [] ∧ ChannelTaken y (channelStream 0)) ∧
    (Issues (rigStream [] [patternStream]) (.strend 5 0) [] [] [] [] ∧ (rigStream [] [patternStream]).me.stream 5 = some patternStream ∧
      patternStream.undrained = false ∧ (rigStream [] [patternStream]).me.stream 6 = none ∧
      Issues (rigStream [] [patternStream]) (.strend 6 0) [] [] [] []) ∧
    (∃ x : Stream, (rigStream [] [{ patternStream with kind := .outPattern, fifo := [⟨0, none, 0x1000, []⟩] }]).me.stream 5 = some x ∧ x.undrained = true) := by
  refine ⟨⟨_, by decide, iss, by decide, ⟨by rfl, by decide, by rw [if_pos (by decide +kernel)]; exact ⟨fun _ => by decide +kernel, gives_exactly (by decide +kernel)⟩⟩, ?_, by decide, ?_⟩, ⟨_, iss, ⟨by rfl, by decide, by rw [if_pos (by decide +kernel)]; exact ⟨fun _ => by decide +kernel, gives_exactly (by decide +kernel)⟩⟩, ?_, by decide, ?_⟩,
    ⟨iss, by decide, by decide, by decide, iss⟩, _, rfl, by decide⟩
  · exact ⟨by decide, by decide, by decide, by decide, by decide, by decide⟩
  · rintro ⟨h | h, -⟩ <;> cases h
  · exact ⟨by decide, by decide, by decide, by decide, by decide, by decide⟩
  · exact ⟨.inr rfl, .inl ⟨rfl, by decide⟩⟩

/-- An input pattern of two entries with one entry read ahead. -/
def fedStream (f : Option Cause) (done : Nat) (fifo : Bool) (wait : List (Nat × BitVec 16) := []) : Stream :=
  { patternStream with cnt := 2, ahead := 1, done := done, fifo := if fifo then [⟨7, f, 0x1000, wait⟩] else [] }

theorem witness_StreamOperands :
    (∀ x ∈ [fedStream none 1 true, fedStream none 1 false, fedStream (some .eccue) 1 true, fedStream none 2 false, fedStream none 1 true [(4, 0)]],
      let s := rigStream [] [x]; (∀ y ∈ s.me.streams, y.num = x.num → y = x) ∧ Rows s (bind 0 0) [] [32] ∧
        Issues s (.vmov 32 5 0) [] [] [] [] ∧ s.me.stream 5 = some x ∧ x.kind = .inPattern) ∧
    (∃ e r, (fedStream none 1 true).done < (fedStream none 1 true).cnt ∧ (fedStream none 1 true).fifo = e :: r ∧ e.fault = none ∧ e.wait = []) ∧
    (∃ e r, (fedStream none 1 true [(4, 0)]).fifo = e :: r ∧ e.fault = none ∧ e.wait ≠ []) ∧
    ((fedStream none 1 false).done < (fedStream none 1 false).cnt ∧ (fedStream none 1 false).fifo = []) ∧
    (∃ e r, (fedStream (some .eccue) 1 true).done < (fedStream (some .eccue) 1 true).cnt ∧
      (fedStream (some .eccue) 1 true).fifo = e :: r ∧ e.fault = some .eccue) ∧
    (fedStream none 2 false).cnt ≤ (fedStream none 2 false).done ∧
    (let s := rigStream [] [channelStream 1];
      Rows s (bind 0 0) [63] [] ∧ Issues s (.vmov 5 63 0) [] [] [] [63] ∧ s.me.stream 5 = some (channelStream 1) ∧
        (s.chans.filter fun m => m.core == s.core && m.dir == 1).length < 8) := by
  refine ⟨?_, ⟨_, _, by decide, rfl, by decide, rfl⟩, ⟨_, _, rfl, rfl, by decide⟩, by decide, ⟨_, _, by decide, rfl, by decide⟩, by decide, rows, iss, by decide, by decide⟩
  intro x hx
  simp only [List.mem_cons, List.not_mem_nil, or_false] at hx
  obtain rfl | rfl | rfl | rfl | rfl := hx <;> exact ⟨by decide +kernel, rows, iss, by decide +kernel, by decide +kernel⟩

theorem witness_VectorAccesses :
    (let s := rigTiles [0x0FEFFF80] 4 1;
      Rows s (bind 4 1) [] [31] ∧ Issues s (.vld 31 0 0) [0] [] [] [] ∧ Rows s (bind 4 1) [32] [] ∧ Issues s (.vst 32 0 0) [0] [] [] [32]) ∧
    (let s := rigTiles [0x80] 4 1;
      Rows s (bind 4 1) [] [31] ∧ Issues s (.vld 31 0 0) [0] [] [] [] ∧ Issues s (.vst 32 0 0) [0] [] [] [32] ∧
      InVault s (s.src 0) 128 ∧ Unblocked s [0] (s.src 0) 128) ∧
    (let s := rigTiles [0x40] 4 1;
      Rows s (bind 4 1) [] [31] ∧ Issues s (.vld 31 0 0) [0] [] [] [] ∧ (s.src 0).toNat % 128 ≠ 0) ∧
    (let s := rigTiles [0x100000000] 4 1;
      Rows s (bind 4 1) [32] [31] ∧ Issues s (.vld 31 0 0) [0] [] [] [] ∧ Issues s (.vst 32 0 0) [0] [] [] [32] ∧
      Global (s.src 0) 128 ∧ s.me.board.length < 16) :=
  ⟨⟨rows, iss, rows, iss⟩, ⟨rows, iss, iss, ⟨by decide, by decide, by decide, by unfold Admitted OwnerReadable; decide, by unfold State.sound; decide⟩, by unfold Unblocked; decide⟩,
    ⟨rows, iss, by decide⟩, rows, iss, iss, ⟨by decide, by decide⟩, by decide⟩

/-! ## Hypotheses met: tiles, regions, operand loads, checks -/

/-- A declared region 1 of FP32 type, whose checksums are stale, correct for zeros, or in error. -/
def region (stale err : Bool) : Region :=
  { num := 1, side := List.replicate 64 0, drift := 0, err := err, stale := stale, prov := false, ty := 0, wrote := none }

/-- The live rig with regions declared. -/
def rigRegions (l : List Region) (r : List Word := [0x10000000]) : State :=
  rigCore r fun k => { k with
    launches := [rigLaunch], allocs := [{ idx := 2, base := 4096, size := 4096, pid := 1, lid := 0, holder := 0, charged := 4096 }], regions := l }

/-- A tile that no strand holds and no engine uses. -/
theorem free_tile {s : State} {n : Nat} {exempt : Bool}
    (held : ∀ e ∈ s.here.bound, e.1 ≠ s.me.id → e.2.lo ≠ n ∧ e.2.hi ≠ n := by decide +kernel) (idle : s.here.usesTile n = false := by decide +kernel)
    (sound : exempt = false → (s.tileAt s.core n).writer = s.me.pid → (s.tileAt s.core n).err = false := by decide +kernel) :
    TileFree s n exempt := ⟨held, idle, sound⟩

theorem witness_TileBindings :
    (Issues (rigLive []) (.tbind 7 7 5 5 0) [] [] [] [] ∧ TileFree (rigLive []) 7 false) ∧
    (let s := rigCore [] fun k => { k with bound := [({ lid := 0, sid := 1 }, bind 0 0)] };
      Issues s (.tbind 1 2 0 1 0) [] [] [] [] ∧ ∃ e ∈ s.here.bound, e.1 ≠ s.me.id ∧ (e.2.lo = 1 ∨ e.2.hi = 1)) ∧
    (Issues (rigTiles [] 0 0) (.tfree 0) [] [] [] [] ∧ Issues (rigTiles [] 0 0) (.tzero 0 0) [] [] [] [] ∧ TileFree (rigTiles [] 0 0) 0 true) :=
  ⟨⟨iss, free_tile⟩, ⟨iss, ({ lid := 0, sid := 1 }, bind 0 0), by decide +kernel, by decide +kernel, .inr rfl⟩, iss, iss, free_tile⟩

/-- The allocation of the live rig. -/
def alloc2 : Alloc := { idx := 2, base := 4096, size := 4096, pid := 1, lid := 0, holder := 0, charged := 4096 }

theorem names_region {s : State} {n : Nat}
    (h : 2 ^ 28 ≤ (s.src 0).toNat ∧ (s.src 0).toNat < 2 ^ 32 ∧ spmCore (s.src 0).toNat = s.core ∧ (s.src 0).toNat % 4096 = 0 ∧
      s.allocAt s.me.pid (s.src 0).toNat = some alloc2 ∧ 4096 ≤ alloc2.size ∧
      alloc2.base + spmOff (s.src 0).toNat % alloc2.size = 4096 * n := by decide +kernel) : NamesRegion s (s.src 0) n :=
  ⟨h.1, h.2.1, h.2.2.1, h.2.2.2.1, alloc2, h.2.2.2.2⟩

theorem witness_RegionDeclarations :
    (NamesRegion (rigRegions []) ((rigRegions []).src 0) 1 ∧ Issues (rigRegions []) (.ftile 0 4 0) [0] [] [] [] ∧
      (rigRegions []).regionInUse 0 1 = false ∧ RegionSound (rigRegions []) 1 ∧
      (rigRegions []).here.regions.find? (fun r => r.num == 1) = none) ∧
    (NamesRegion (rigRegions [region true false]) ((rigRegions [region true false]).src 0) 1 ∧
      Issues (rigRegions [region true false]) (.ftile 0 0 0) [0] [] [] [] ∧ (rigRegions [region true false]).regionInUse 0 1 = false ∧
      (rigRegions [region true false]).here.regions.find? (fun r => r.num == 1) = some (region true false) ∧ (region true false).ty.toNat ≠ 5 ∧
      (region true false).err = false ∧ Issues (rigRegions [region true false]) (.ftrel 0 0) [0] [] [] []) :=
  ⟨⟨names_region, iss, by decide +kernel, by unfold RegionSound State.spmSound; decide +kernel, rfl⟩, names_region, iss, by decide +kernel, rfl, by decide, rfl, iss⟩

theorem witness_TileMoves : let s := rigRegions [region true false]
    NamesRegion s (s.src 0) 1 ∧ s.here.regions.find? (fun r => r.num == 1) = some (region true false) ∧ TileFree s 3 true ∧
      s.frozenTile s.core 3 = false ∧ Issues s (.tfill 3 0 0) [0] [] [] [] ∧ RegionSound s 1 ∧ Issues s (.tdrain 3 0 0) [0] [] [] [] ∧
      s.here.waiters = [] ∧ (Statements.Tile.owned (s.tileAt s.core 3) s.me.pid).rows.length = 32 :=
  ⟨names_region, rfl, free_tile, by decide +kernel, iss, by unfold RegionSound State.spmSound; decide +kernel, iss, rfl, by decide +kernel⟩

theorem witness_RowRequests :
    (let s := rigLive [0xFFFF];
      Issues s (.rowact 0 0) [0] [] [] [] ∧ (s.src 0).toNat < 0x0FF00000 ∧
        s.owns s.me.pid (s.core * 2 ^ 28 + (s.src 0).toNat / 65536 * 65536) = true ∧ OwnerReadable s 0 ∧ s.tagFree s.core s.me.place = true) ∧
    (let s := rigCore [0xFFFF] fun k => { k with ctl := List.replicate 8 (.act 0) };
      Issues s (.rowpre 0 0) [0] [] [] [] ∧ s.owns s.me.pid (s.core * 2 ^ 28 + (s.src 0).toNat / 65536 * 65536) = true ∧
        OwnerReadable s 0 ∧ s.tagFree s.core s.me.place = false) ∧
    (Issues (rigLive [0x0FF00000]) (.rowact 0 0) [0] [] [] [] ∧ 0x0FF00000 ≤ ((rigLive [0x0FF00000]).src 0).toNat) ∧
    (let s := rigLive [0x10000];
      Issues s (.rowact 0 0) [0] [] [] [] ∧ s.owns s.me.pid (s.core * 2 ^ 28 + (s.src 0).toNat / 65536 * 65536) = false ∧ OwnerReadable s 65536) :=
  ⟨⟨iss, by decide +kernel, by decide +kernel, by unfold OwnerReadable; decide +kernel, by decide +kernel⟩,
    ⟨iss, by decide +kernel, by unfold OwnerReadable; decide +kernel, by decide +kernel⟩, ⟨iss, by decide +kernel⟩, iss, by decide +kernel,
    by unfold OwnerReadable; decide +kernel⟩

/-- A tile of an exact type two of whose row checksums are wrong fails its check. -/
theorem two_rows_fail {x : Tile} {mq : Moduli} {again : Nat → Nat → Option Nat} (hs : x.stale = false) (hf : tyFloat x.ty.toNat = false)
    (h0 : sideRow x.side 0 % 2 ^ rowBits x.ty.toNat ≠ formRow x.ty.toNat (x.rows.getD 0 0))
    (h1 : sideRow x.side 1 % 2 ^ rowBits x.ty.toNat ≠ formRow x.ty.toNat (x.rows.getD 1 0)) : CheckFails x mq again := by
  have o0 : RowOff x 0 := by simpa [RowOff, hf] using h0
  have o1 : RowOff x 1 := by simpa [RowOff, hf] using h1
  intro y a b c h
  cases h with
  | stale h => simp [hs] at h
  | pass _ h => exact h.1 0 (by decide) o0
  | row i _ _ h _ => exact absurd (((h 0 (by decide)).1 o0).trans ((h 1 (by decide)).1 o1).symm) (by decide)
  | column j _ _ h _ => exact h 0 (by decide) o0
  | element i j v y _ _ _ h _ _ _ _ => exact absurd (((h 0 (by decide)).1 o0).trans ((h 1 (by decide)).1 o1).symm) (by decide)

/-- Region 1 of type S8, two of whose row checksums are wrong. -/
def badRegion : Region := { region false false with ty := 4, side := 1 :: 1 :: List.replicate 62 0 }

/-- Process 1 owns the first page of the live rig's vault. -/
theorem owned_zero {n : Nat} (h : n ≤ 65536) : OwnedPages (rigLive [0, 8192, 0]) 0 n := by
  refine ⟨by omega, fun p _ hp => ?_⟩
  obtain rfl : p = 0 := by omega
  exact ⟨by decide +kernel, by decide +kernel, fun e he => nomatch he⟩

theorem witness_OperandLoads :
    (let s := rigLive [0, 8192, 0];
      Issues s (.tld 1 0 1 2 0) [0, 1, 2] [] [] [] ∧ s.me.run = none ∧ s.me.tldp.getLsbD 31 = false ∧ (s.src 1).toNat = 8192 ∧
      (0 + 8192 + 2047) / 2048 ≤ 0 / 2048 + 4 ∧ OwnedPages s 0 8192 ∧
      (∀ m ∈ s.here.engine.queue, m.fromTile = true ∨ m.abuf ≠ 1) ∧ s.core < 1024 ∧ s.sound 0 8192 ∧ s.here.engine.badA = false ∧
      s.here.engine.abuf0.length = 32 ∧ s.here.engine.abuf1.length = 32 ∧ Unblocked s [0, 1, 2] 0 8192) ∧
    (let s := rigWith [0, 576, 64] fun v => { v with run := some (.tld 8 512 false) };
      Issues s (.tld 0 0 1 2 0) [0, 1, 2] [] [] [] ∧ 64 * 8 < (s.src 1).toNat ∧ (s.src 2).toNat + (s.src 1).toNat ≤ 8192 ∧ s.sound 0 576) ∧
    ((rigLive [32, 64, 0]).src 0).toNat % 64 ≠ 0 ∧ Issues (rigLive [32, 64, 0]) (.tld 0 0 1 2 0) [0, 1, 2] [] [] [] ∧
    (8192 < ((rigLive [0, 8192, 64]).src 2).toNat + ((rigLive [0, 8192, 64]).src 1).toNat ∧
      Issues (rigLive [0, 8192, 64]) (.tld 0 0 1 2 0) [0, 1, 2] [] [] []) ∧
    (let s := (rigLive [0, 64, 7]).onHere fun k => { k with engine := { k.engine with bkey := 7, bk := 64, bfmt := 0 } };
      Issues s (.bld 0 1 2 0) [0, 1, 2] [] [] [] ∧ s.me.fmt.toNat / 16 % 16 = s.here.engine.bfmt.toNat ∧ s.me.fmt.toNat < 2 ^ 20 ∧
      s.here.engine.queue = [] ∧ s.plainTask s.core = false ∧ (s.src 0).toNat < 2 ^ 28 ∧ s.behind s.me.id false (ownVault s (s.src 0)) (32 * strideOf 0 64) = false ∧
      (s.src 2).setWidth 32 = s.here.engine.bkey ∧ (s.src 1).toNat = s.here.engine.bk) ∧
    (let s := rigLive [0, 1, 7];
      Issues s (.bld 0 1 2 0) [0, 1, 2] [] [] [] ∧ s.behind s.me.id false (ownVault s (s.src 0)) (32 * strideOf 0 1) = false ∧
      (∀ k, k < 32 * strideOf 0 1 → Admitted s k) ∧ s.sound 0 (32 * strideOf 0 1) ∧ (s.src 1).toNat ≠ s.here.engine.bk ∧
      s.here.engine.badB = false ∧ s.exactRegion (s.ctx s.core s.slot) (s.src 0) (32 * strideOf 0 1) = none ∧
      ∃ y z bs cols, ((s.acting [0, 1, 2]).dropB s.core).readSpan (s.ctx s.core s.slot) (s.src 0) (32 * strideOf 0 1) = (y, .ok bs) ∧
        y.columnsOf (s.ctx s.core s.slot) 0 1 s.me.scb bs = (z, .ok cols)) ∧
    (let s := rigRegions [region false true] [0x10000000, 64, 7];
      Issues s (.bld 0 1 2 0) [0, 1, 2] [] [] [] ∧ s.plainTask s.core = false ∧ 2 ^ 28 ≤ (s.src 0).toNat ∧ (s.src 0).toNat < 2 ^ 32 ∧
      spmCore (s.src 0).toNat = s.core ∧ s.exactRegion (s.ctx s.core s.slot) (s.src 0) (32 * strideOf 0 64) = some (0, region false true) ∧
      (region false true).err = true ∧ s.here.engine.badB = false) ∧
    (let s := rigRegions [badRegion] [0x10000000, 64, 7];
      Issues s (.bld 0 1 2 0) [0, 1, 2] [] [] [] ∧ s.exactRegion (s.ctx s.core s.slot) (s.src 0) (32 * strideOf 0 64) = some (0, badRegion) ∧
      badRegion.err = false ∧ badRegion.ty.toNat < 5 ∧ badRegion.side.length = 64 ∧ RegionSound s 1 ∧ s.spm.wf = true ∧
      CheckFails (tileOfRegion s badRegion) none fun _ _ => none) := by
  refine ⟨⟨iss, rfl, by decide +kernel, by decide +kernel, by decide, owned_zero (by decide), by decide +kernel, by decide +kernel,
      by unfold State.sound; decide +kernel, rfl, rfl, rfl, by unfold Unblocked; decide +kernel⟩,
    ⟨iss, by decide +kernel, by decide +kernel, by unfold State.sound; decide +kernel⟩, by decide +kernel, iss, ⟨by decide +kernel, iss⟩,
    ⟨iss, by decide +kernel, by decide +kernel, rfl, by decide +kernel, by decide +kernel, by decide +kernel, by decide +kernel, by decide +kernel⟩,
    ⟨iss, by decide +kernel, by unfold Admitted OwnerReadable; decide +kernel, by unfold State.sound; decide +kernel, by decide +kernel, rfl, by decide +kernel, ?_⟩,
    ⟨iss, by decide +kernel, by decide +kernel, by decide +kernel, by decide +kernel, by decide +kernel, rfl, rfl⟩,
    iss, by decide +kernel, rfl, by decide, by decide, by unfold RegionSound State.spmSound; decide +kernel, by decide +kernel,
    two_rows_fail (by decide) (by decide +kernel) (by decide +kernel) (by decide +kernel)⟩
  obtain ⟨y, bs, h⟩ := gives_ok ((((rigLive [0, 1, 7]).acting [0, 1, 2]).dropB 0).readSpan ((rigLive [0, 1, 7]).ctx 0 0) 0 (32 * strideOf 0 1)) (by decide +kernel)
  exact ⟨y, _, bs, _, h, rfl⟩

theorem witness_TileChecks :
    (let s := rigTiles [128] 0 0;
      let x := Statements.Tile.owned (s.tileAt s.core 0) s.me.pid
      Formable x s ∧ Agrees x s.me.mq ∧ TileFree s 0 false ∧ Issues s (.ckVer 0 1 0) [] [1] [] [] ∧ Issues s (.ckSig 0 1 0) [] [1] [] [] ∧
        Issues s (.ckFix 0 0) [] [] [] [] ∧ TileFree s 0 true ∧ Issues s (.ckRd 0 0 1 0) [0] [1] [] []) ∧
    (let s := rigCore [] fun k => { k with tiles := [(7, { Tile.reset with ty := 4, err := true, writer := 1, stale := true })] };
      let x := Statements.Tile.owned (s.tileAt s.core 7) s.me.pid
      Formable x s ∧ x.err = true ∧ s.here.bound = [] ∧ Issues s (.ckVer 7 1 0) [] [1] [] []) :=
  ⟨⟨⟨by decide +kernel, by decide +kernel, by decide +kernel, by decide +kernel⟩, .inr ⟨by decide +kernel, by decide +kernel⟩, free_tile, iss, iss, iss, free_tile, iss⟩,
    ⟨by decide +kernel, by decide +kernel, by decide +kernel, by decide +kernel⟩, by decide +kernel, rfl, iss⟩

theorem witness_CheckOutcomes :
    (let s := rigCore [] fun k => { k with tiles := [(7, { Tile.reset with ty := 4, writer := 1, stale := true })] };
      let x := Statements.Tile.owned (s.tileAt s.core 7) s.me.pid
      Formable x s ∧ TileFree s 7 false ∧ Issues s (.ckVer 7 1 0) [] [1] [] [] ∧
        CheckEnds x s.me.mq (s.recompute s.core 7) (formed x s.me.mq) 0 1 3) ∧
    (let s := rigCore [] fun k => { k with tiles := [(7, { Tile.reset with ty := 4, writer := 1, side := 1 :: 1 :: List.replicate 62 0 })] };
      let x := Statements.Tile.owned (s.tileAt s.core 7) s.me.pid
      Formable x s ∧ TileFree s 7 false ∧ Issues s (.ckVer 7 1 0) [] [1] [] [] ∧ CheckFails x s.me.mq (s.recompute s.core 7)) ∧
    (let s := (rigTiles [] 0 0).onHere fun k => { k with tiles := [(0, { Tile.reset with ty := 0, stale := true, drift := 255 })] };
      let x := s.tileAt s.core 0
      ∃ f, floatForm (.vneg 0 32 0) = some f ∧ Names s (bind 0 0) (f.reads ++ [f.d]) ∧ (∀ n ∈ f.srcs, (bind 0 0).ty n = (bind 0 0).ty f.d) ∧
        f.ok ((bind 0 0).ty f.d) = true ∧ Issues s (.vneg 0 32 0) [] [] [] f.reads ∧ Formable x s ∧ tyFloat x.ty.toNat = true ∧ x.drift = 255 ∧
        CheckEnds x s.me.mq (s.recompute s.core 0) (formed x s.me.mq) 0 1 3) := by
  refine ⟨⟨⟨by decide +kernel, by decide +kernel, by decide +kernel, by decide +kernel⟩, free_tile, iss, .stale (by decide +kernel)⟩, ⟨⟨by decide +kernel, by decide +kernel, by decide +kernel, by decide +kernel⟩, free_tile, iss,
    two_rows_fail (by decide +kernel) (by decide +kernel) (by decide +kernel) (by decide +kernel)⟩, _, rfl,
    ⟨by decide +kernel, by decide +kernel, by decide +kernel, by decide +kernel⟩, by decide, by decide, iss,
    ⟨by decide +kernel, by decide +kernel, by decide +kernel, by decide +kernel⟩, by decide +kernel, by decide +kernel, .stale (by decide +kernel)⟩

theorem witness_RegionChecks :
    (let s := rigRegions [region true false];
      NamesRegion s (s.src 0) 1 ∧ s.here.regions.find? (fun r => r.num == 1) = some (region true false) ∧ s.core < 1024 ∧ s.spm.wf = true ∧ RegionSound s 1 ∧
      Formable (tileOfRegion s (region true false)) s ∧ Agrees (tileOfRegion s (region true false)) s.me.mq ∧ Issues s (.ckVerg 0 1 0) [0] [1] [] [] ∧
      Issues s (.ckSigg 0 1 0) [0] [1] [] [] ∧ Issues s (.ckFixg 0 0) [0] [] [] [] ∧ Issues s (.ckRdg 0 0 1 0) [0, 0] [1] [] []) ∧
    (NamesRegion (rigRegions [region true true]) ((rigRegions [region true true]).src 0) 1 ∧ (region true true).err = true ∧
      Issues (rigRegions [region true true]) (.ckSigg 0 1 0) [0] [1] [] []) :=
  ⟨⟨names_region, rfl, by decide +kernel, by decide +kernel, by unfold RegionSound State.spmSound; decide +kernel,
    ⟨by decide +kernel, by decide +kernel, by decide +kernel, by decide +kernel⟩, .inl rfl, iss, iss, iss, iss⟩, names_region, rfl, iss⟩

/-! ## Hypotheses met: matrix operations, leaves, tasks, agents -/

/-- The live rig with tile 0 of FP32 and tile 1 of BF16, a resident B of 32 BF16 elements, and the strand's leave. -/
def rigMatrix (r : List Word) (l : List Leave) : State :=
  (rigTiles r 0 2).onHere fun k => { k with engine := { k.engine with bk := 32 }, leaves := l }

def leaveOf (e : Nat) : Leave := { owner := { lid := 0, sid := 0 }, energy := e, current := 4 }

theorem legal_matrix {s : State} {f : MatrixForm} {w : Nat}
    (h : s.me.fmt.toNat < 2 ^ 20 ∧ (s.me.fmt.toNat % 16 ≤ 5 ∧ s.me.fmt.toNat / 16 % 16 ≤ 5 ∧ (s.me.fmt.toNat % 16 ≤ 3 ↔ s.me.fmt.toNat / 16 % 16 ≤ 3)) ∧
      (s.here.engine.bk ≠ 0 ∧ s.here.engine.bfmt.toNat = s.me.fmt.toNat / 16 % 16) ∧
      (w % 2048 ≠ 0 ∧ w / 2 ^ 17 % 32 + (w % 2048 + 31) / 32 ≤ (s.here.engine.bk + 31) / 32) ∧
      w % 2048 * formatBits (s.me.fmt.toNat % 16) ≤ (if f.tile then 1024 else 2048) ∧
      (s.tileAt s.core f.d.toNat).ty = (if s.me.fmt.toNat % 16 ≤ 3 then 0 else 1) ∧
      (f.tile = true → w / 2 ^ 28 % 8 ≠ f.d.toNat ∧ (s.tileAt s.core (w / 2 ^ 28 % 8)).ty = if s.me.fmt.toNat % 16 = 0 then 2 else 4) := by
        decide +kernel) : MatrixLegal s f w :=
  ⟨h.1, h.2.1, h.2.2.1, h.2.2.2.1, h.2.2.2.2.1, h.2.2.2.2.2.1, h.2.2.2.2.2.2⟩

theorem witness_MatrixIssue :
    (let s := rigMatrix [0x10000020, 0] [leaveOf 23];
      ∃ f, matrixOf (.mmaM 0 0 1 0) = some f ∧ Issues s (.mmaM 0 0 1 0) f.reads [] [] [] ∧ f.grp = none ∧
        MatrixLegal s f (s.src f.a).toNat ∧ s.src f.bar = 0 ∧ s.me.fmt.toNat % 16 ≠ 5 ∧
        (∀ t ∈ [f.d.toNat, 1], (∀ b ∈ s.here.bound, b.1 ≠ s.me.id → b.2.lo ≠ t ∧ b.2.hi ≠ t) ∧
          ((s.tileAt s.core t).writer = s.me.pid → (s.tileAt s.core t).err = false)) ∧
        s.here.engine.queue.length < 2 ∧ s.me.board.length < 16 ∧ s.me.run = none ∧
        s.here.leaves.find? (fun l => l.owner == s.me.id) = some (leaveOf 23) ∧ matrixCharge s (s.src f.a).toNat ≤ 23 ∧
        (∀ q ∈ s.here.leaves, q.owner = s.me.id → q = leaveOf 23)) ∧
    (let s := rigMatrix [0x20, 1, bar5] [];
      ∃ f, matrixOf (.mmag 0 0 1 2 0) = some f ∧ Issues s (.mmag 0 0 1 2 0) f.reads [] [] [] ∧ f.grp = some 1 ∧
        PartOf s 1 (s.src f.a).toNat 0 0 ∧ MatrixLegal s f (s.src f.a).toNat ∧ (s.src f.bar).toNat % 16 = 0 ∧ NamesBarrier s (s.src f.bar) false ∧
        s.barOwned (spmCore (s.src f.bar).toNat) (slotNamed (s.src f.bar)) s.me.pid = true ∧ ∀ l ∈ s.here.leaves, l.owner ≠ s.me.id) ∧
    (let s := rigMatrix [0, 0] [];
      ∃ f, matrixOf (.mma 0 0 1 0) = some f ∧ Issues s (.mma 0 0 1 0) f.reads [] [] [] ∧ f.grp = none ∧
        ¬ MatrixLegal s f (s.src f.a).toNat) := by
  refine ⟨⟨_, rfl, iss, rfl, legal_matrix, by decide +kernel, by decide +kernel, by decide +kernel, by decide +kernel, by decide +kernel, rfl,
      by decide +kernel, by decide +kernel, by decide +kernel⟩,
    ⟨_, rfl, iss, rfl, ⟨0, 0, 2, by decide +kernel, by decide +kernel, by decide +kernel, by decide, by decide +kernel, by decide, rfl, by decide, rfl, rfl⟩,
      legal_matrix, by decide +kernel, ⟨by decide +kernel, by decide +kernel, by decide +kernel, by decide +kernel⟩, by decide +kernel, by decide +kernel⟩,
    _, rfl, iss, rfl, fun h => h.k.1 (by decide +kernel)⟩

theorem witness_Leaves :
    (let s := rigMatrix [0xFFFFF, 4] [leaveOf 1];
      Issues s (.leave 0 1 0) [0, 1] [] [] [] ∧ s.me.run = none ∧ 1 ≤ (s.src 0).toNat ∧ (s.src 0).toNat < 2 ^ 20 ∧
        (s.clusterAt (clusterOf s.core)).ebud < (s.src 0).toNat) ∧
    (let s := rigMatrix [1, 4] [];
      Issues s (.leave 0 1 0) [0, 1] [] [] [] ∧ s.me.run = none ∧ (s.src 0).toNat ≤ (s.clusterAt (clusterOf s.core)).ebud ∧
        (s.src 1).toNat ≤ (s.clusterAt (clusterOf s.core)).ibud ∧ Issues s (.leaveRel 0) [] [] [] []) ∧
    (let s := (rigMatrix [1, 4] [leaveOf 1]).onMe fun v => { v with run := some .leave };
      Issues s (.leave 0 1 0) [0, 1] [] [] [] ∧ s.me.run = some .leave ∧ (s.clusterAt (clusterOf s.core)).leaves = []) :=
  ⟨⟨iss, rfl, by decide +kernel, by decide +kernel, by decide +kernel⟩, ⟨iss, rfl, by decide +kernel, by decide +kernel, iss⟩, iss, rfl, rfl⟩

/-- A record of a `tzero` of tile 0 for cluster 0. -/
def recordBytes : List Byte := leBytes 8 0xC4400000 ++ leBytes 56 0

/-- The live rig with that record at local address 0x40. -/
def rigRecord (r : List Word) : State := let s := rigLive r; { s with mem := s.mem.write 0x40 recordBytes }

/-- A record of a `tzero` for cluster 1, in the live rig. -/
def farBytes : List Byte := leBytes 8 0x10000C4400000 ++ leBytes 56 0
def farRecord (r : List Word) : State := let s := rigLive r; { s with mem := s.mem.write 0x40 farBytes }

/-- Bytes that the own vault gives at once. -/
theorem table_here {s y : State} {ea : Word} {n : Nat} {bs : List Byte} (h : s.regionCheck s.core s.slot ea.toNat = (s, none)) (hn : bs.length = n)
    (hl : isLocal s.core ea.toNat = true) (hb : s.vaultBusy (ownVault s ea) n = false) (hd : s.dataRead s.core s.slot ea.toNat n = (y, .ok bs)) :
    TableAt s ea n y bs := ⟨h, hn, by rw [if_pos hl]; exact ⟨fun _ => hb, hd⟩⟩

theorem witness_FormatsAndTasks :
    (∃ y bs, Issues (rigLive [0x40, 0xFFF]) (.lutld 0 1 0) [0, 1] [] [] [] ∧ ((rigLive [0x40, 0xFFF]).src 1).toNat % 4096 ≠ 0 ∧
      ((rigLive [0x40, 0xFFF]).src 0).toNat % 16 = 0 ∧ TableAt ((rigLive [0x40, 0xFFF]).acting [0, 1]) 0x40 16 y bs) ∧
    (Issues (rigLive [0x40, 0x1000]) (.lutld 0 1 0) [0, 1] [] [] [] ∧ ((rigLive [0x40, 0x1000]).src 1).toNat % 4096 = 0) ∧
    Issues (rigLive [0xFFFFFFFFFFFF, 1, 2]) (.fmtw 0 1 2 0) [0, 1, 2] [] [] [] ∧
    (∃ y, Issues (rigRecord [0x40]) (.ttEnq 0 1 0) [0] [1] [] [] ∧ ((rigRecord [0x40]).src 0).toNat % 64 = 0 ∧
      TableAt ((rigRecord [0x40]).acting [0, 1]) 0x40 64 y recordBytes ∧ recClu recordBytes = clusterOf (rigRecord [0x40]).core ∧
      y.enqStatus recordBytes y.me.fmt = 0) ∧
    (∃ y, Issues (rigLive [0x40]) (.ttEnq 0 1 0) [0] [1] [] [] ∧
      TableAt ((rigLive [0x40]).acting [0, 1]) 0x40 64 y (List.replicate 64 0) ∧ y.enqStatus (List.replicate 64 0) y.me.fmt = 2) ∧
    (∃ bs y, Issues (farRecord [0x40]) (.ttEnq 0 1 0) [0] [1] [] [] ∧ TableAt ((farRecord [0x40]).acting [0, 1]) 0x40 64 y bs ∧
      recClu bs ≠ clusterOf (farRecord [0x40]).core) :=
  ⟨⟨_, List.replicate 16 0, iss, by decide +kernel, by decide +kernel,
      table_here (by rfl) (by decide) (by decide +kernel) (by decide +kernel) (gives_exactly (by decide +kernel))⟩,
    ⟨iss, by decide +kernel⟩, iss,
    ⟨_, iss, by decide +kernel,
      table_here (by rfl) (by decide) (by decide +kernel) (by decide +kernel) (gives_exactly (by decide +kernel)),
      by decide +kernel, by decide +kernel⟩,
    ⟨_, iss, table_here (by rfl) (by decide) (by decide +kernel) (by decide +kernel) (gives_exactly (by decide +kernel)), by decide +kernel⟩,
    farBytes, _, iss,
      table_here (by rfl) (by decide) (by decide +kernel) (by decide +kernel) (gives_exactly (by decide +kernel)), by decide +kernel⟩

theorem witness_AgentRequests :
    (let s := rigLive [0x40, 0x0FEFFFE0];
      ∃ f, agentOf (.kvGath 0 1 0) = some f ∧ Issues s (.kvGath 0 1 0) f.reads f.c.toList [] [] ∧ (s.src f.a).toNat % 64 = 0 ∧
        (f.opnd s).toNat % f.align = 0 ∧ (f.opnd s).toNat < 0x0FF00000 ∧ (s.src f.a).toNat < 2 ^ 28 ∧
        Admitted s (s.src f.a).toNat ∧ (s.acting (f.reads ++ f.c.toList)).posted s.core 3 = false ∧
        (s.acting (f.reads ++ f.c.toList)).me.board.length < 16) ∧
    (let s := rigMapped [0x100000040];
      ∃ f z, agentOf (.embRed 0 1 0) = some f ∧ Issues s (.embRed 0 1 0) f.reads f.c.toList [] [] ∧ f.align = 0 ∧
        2 ^ 28 ≤ (s.src f.a).toNat ∧ (s.acting (f.reads ++ f.c.toList)).agentAddress (s.src f.a) = (z, .ok 0x40) ∧ z.posted z.core 3 = false) ∧
    (let s := rigLive [0x20, 0];
      ∃ f, agentOf (.kvApp 0 1 2 0) = some f ∧ Issues s (.kvApp 0 1 2 0) f.reads f.c.toList [] [] ∧ (s.src f.a).toNat % 64 ≠ 0) ∧
    (let s := rigLive [0x40, 0x0FF00000];
      ∃ f, agentOf (.kvApp 0 1 2 0) = some f ∧ Issues s (.kvApp 0 1 2 0) f.reads f.c.toList [] [] ∧ 0 < f.align ∧ Admitted s (s.src f.a).toNat ∧
        (f.opnd s).toNat % f.align = 0 ∧ 0x0FF00000 ≤ (f.opnd s).toNat) :=
  ⟨⟨_, rfl, iss, by decide +kernel, by decide +kernel, by decide +kernel, by decide +kernel, by unfold Admitted OwnerReadable; decide +kernel, by decide +kernel, by decide +kernel⟩,
    ⟨_, _, rfl, iss, rfl, by decide +kernel, gives_exactly (by decide +kernel), by decide +kernel⟩, ⟨_, rfl, iss, by decide +kernel⟩,
    _, rfl, iss, by decide, by unfold Admitted OwnerReadable; decide +kernel, by decide +kernel, by decide +kernel⟩

/-! ## Hypotheses met: traps and the system forms -/

/-- The frame of slot 0 can be written. -/
theorem frame_sound {s : State} (h : 0 < 1024 ∧ (s.slotAt 0 0).esb.toNat % 4096 = 0 ∧ 0x0FF52000 ≤ (s.slotAt 0 0).esb.toNat ∧
      (s.slotAt 0 0).esb.toNat < 2 ^ 28 := by decide +kernel)
    (hb : (granules (s.frameAddress 0 0) 4096).all (fun g => s.isLost (g * 32) == false && s.badGran.contains g == false) = true := by decide +kernel)
    (hi : s.injected = [] := by rfl) : FrameSound s 0 0 := by
  refine ⟨h.1, h.2.1, h.2.2.1, h.2.2.2, fun g hg => ?_⟩
  have := List.all_eq_true.mp hb g hg
  simp only [Bool.and_eq_true, beq_iff_eq] at this
  exact ⟨this.1, this.2, by simp [hi]⟩

/-- An unsettled or settled entry: a store whose reply brought REFUSED. -/
def entry (state : BitVec 2) (stop : Bool) : SbEntry :=
  { num := 0, work := .scalar 0x100000000 8 0 7 0, state := state, cause := some .refused, sub := 0, eva := 0x100000000, stop := stop, cls := .one,
    part := false, seq := 0, aux := 0, left := 0 }

/-- The live rig in handler state with ACT. -/
def rigHandler (act : Nat) (l : List SbEntry) : State :=
  (rigLive []).onMe fun v => { v with ecs := BitVec.ofNat 48 (0x400 + act * 2 ^ 26), board := l }

theorem witness_TrapEntry :
    (let s := (rigLive []).onMe fun v => { v with board := List.replicate 15 (entry 0 true), freed := [(0, entry 0 true)] };
      FrameSound s 0 0 ∧ (s.slotAt 0 0).handler = false ∧ (s.slotAt 0 0).board.length + (s.slotAt 0 0).freed.length ≤ 16) ∧
    (let s := (rigLive []).onMe fun v => { v with board := List.replicate 16 (entry 0 true) };
      FrameSound s 0 0 ∧ (s.slotAt 0 0).board.length + (s.slotAt 0 0).freed.length ≤ 16 ∧ ∀ e ∈ (s.slotAt 0 0).freed, e.1 ≠ s.now) :=
  ⟨⟨frame_sound, by decide +kernel, by decide +kernel⟩, frame_sound, by decide +kernel, by decide +kernel⟩

theorem witness_SystemCalls :
    Issues (rigLive []) (.trap 127 0) [] [] [] [] ∧ Issues (rigLive []) (.brk 0 0) [] [] [] [] ∧ (rigHandler 0 [entry 0 true]).me.handler = true ∧
      ∀ e ∈ (rigHandler 0 [entry 0 true]).me.board, e.state ≠ 0 ∨ e.stop = true := ⟨iss, iss, by decide +kernel, by decide +kernel⟩

theorem witness_ControlRegisters :
    (Issues (rigLive []) (.crd 0 0x1B 0) [] [0] [] [] ∧ Issues (rigLive []) (.crd 0 0 0) [] [0] [] []) ∧
    (Issues (rigLive [3]) (.cwr 0 2 0) [0] [] [] [] ∧ (∀ j < 8, ((rigLive [3]).slotAt 0 j).unack = 0 ∧ ((rigLive [3]).slotAt 0 j).board = []) ∧
      (∀ m ∈ (rigLive [3]).mesh, m.storing = true → m.src ≠ (rigLive [3]).core) ∧
      Issues (rigLive [0xFF05]) (.cwr 0 0x1B 0) [0] [] [] []) ∧
    (let s := (rigLive [2]).onMe fun v => { v with board := [entry 0 false] };
      Issues s (.cwr 0 2 0) [0] [] [] [] ∧ (s.src 0).getLsbD 0 ≠ s.here.mode.getLsbD 0 ∧
        ¬ ∀ j < 8, (s.slotAt s.core j).unack = 0 ∧ (s.slotAt s.core j).board = []) :=
  ⟨⟨iss, iss⟩, ⟨iss, by decide +kernel, by decide +kernel, iss⟩, iss, by decide +kernel, by decide +kernel⟩

theorem witness_WindowSelectors :
    (let s := rigDeep [31, 31] (List.replicate 31 (older true));
      Issues s (.xrd 1 0 3 0) [0] [1] [] [] ∧ Issues s (.xrd 1 0 5 0) [0] [1] [] [] ∧ Issues s (.xwr 1 0 4 0) [0, 1] [] [] [] ∧
        Issues s (.xwr 1 0 5 0) [0, 1] [] [] [] ∧ (s.src 1).toNat ≤ s.me.older.length ∧
        (∀ o, (if (s.src 0).toNat = 0 then none else s.me.older[(s.src 0).toNat - 1]?) = some o →
          o.spoilt = false ∧ (o.inFile = true → o.quad.power = .on ∧ o.quad.poisoned 0 = none)) ∧ Unflawed s.me) ∧
    (let s := rigDeep [0, 32] (List.replicate 31 (older true));
      Issues s (.xwr 1 0 5 0) [0, 1] [] [] [] ∧ (s.src 1).toNat = s.me.older.length + 1 ∧ 31 < (s.src 1).toNat) ∧
    (let s := rigMapped [0x110000000];
      Issues s (.xrd 1 0 6 0) [0] [1] [] [] ∧ ∃ y, (s.acting [0, 1]).ownerCore (s.src 0) .route = (y, .ok (1, some 0x10000000))) :=
  ⟨⟨iss, iss, iss, iss, by decide +kernel, fun o h => by
      have e : older true = o := Option.some.inj h
      subst e; exact ⟨rfl, fun _ => ⟨rfl, by decide⟩⟩, by unfold Unflawed; decide +kernel⟩, ⟨iss, by decide +kernel, by decide +kernel⟩, iss, _, gives_exactly (by decide +kernel)⟩

theorem witness_HaltIdleKill :
    Issues (rigLive []) (.halt 0) [] [] [] [] ∧ Issues (rigLive []) (.idle 0) [] [] [] [] ∧ (rigLive []).me.handler = false ∧
    (Issues (rigLive [1023]) (.kill 0 0) [0] [] [] [] ∧ ((rigLive [1023]).src 0).toNat ≠ (rigLive [1023]).core ∧
      ((rigLive [1023]).src 0).toNat ≤ 1023 ∧ ((rigLive [1023]).coreAt ((rigLive [1023]).src 0).toNat).killed = false) ∧
    (Issues (rigLive [0]) (.kill 0 0) [0] [] [] [] ∧ ((rigLive [0]).src 0).toNat = (rigLive [0]).core) ∧
    (Issues (rigLive [1024]) (.kill 0 0) [0] [] [] [] ∧ 1023 < ((rigLive [1024]).src 0).toNat) ∧
    (let s := { rigLive [] with kills := [(1, 3, 0)] };
      s.now < 8 ∧ s.kills = [(1, 3, 0)] ∧ (s.coreAt 1).killed = false) ∧ ({ rigLive [] with kills := [(1, 3, 0), (2, 3, 0)] } : State).now < 8 :=
  ⟨iss, iss, by decide +kernel, ⟨iss, by decide +kernel, by decide +kernel, by decide +kernel⟩, ⟨iss, by decide +kernel⟩, ⟨iss, by decide +kernel⟩,
    ⟨by decide +kernel, rfl, by decide +kernel⟩, by decide +kernel⟩

/-- An operation of the rig's strand in its core's engine queue. -/
def queued : MmaOp :=
  { cmd := 0xCC000000, acct := 1, td := 0, zero := false, fromTile := false, word := 0x20, fmt := 0, sca := 0, scb := 0, fpc := 0, lut := [], pid := 1,
    id := { lid := 0, sid := 0 }, slot := 0, bar := 0, prv := false, scales := [], started := 0, blocks := 0, resumed := false, entry := none, group := none, got := 0, task := none }

theorem witness_FreezeAndThaw :
    (let s := rigLive [0];
      Issues s (.freeze 0 0) [0] [] [] [] ∧ ((s.src 0).toNat ≤ 1023 ∧ clusterOf (s.src 0).toNat = clusterOf s.core) ∧
        (s.coreAt (s.src 0).toNat).engine.frozen = false ∧ (s.coreAt (s.src 0).toNat).engine.queue = [] ∧ Issues s (.thaw 0 0) [0] [] [] []) ∧
    (let s := (rigLive [0]).onHere fun k => { k with engine := { k.engine with frozen := true } };
      Issues s (.freeze 0 0) [0] [] [] [] ∧ (s.coreAt (s.src 0).toNat).engine.frozen = true) ∧
    (let s := (rigLive [0]).onHere fun k => { k with engine := { k.engine with queue := [queued] } };
      Issues s (.freeze 0 0) [0] [] [] [] ∧ (s.coreAt (s.src 0).toNat).engine.frozen = false ∧
        ∃ o, (s.coreAt (s.src 0).toNat).engine.queue.head? = some o ∧ o.task = none ∧
          ¬ ((s.slotAt (s.src 0).toNat o.slot).handler = true ∧ (s.slotAt (s.src 0).toNat o.slot).strand.map (·.id) = some o.id)) ∧
    (let s := rigLive [4];
      Issues s (.freeze 0 0) [0] [] [] [] ∧ ¬ ((s.src 0).toNat ≤ 1023 ∧ clusterOf (s.src 0).toNat = clusterOf s.core)) :=
  ⟨⟨iss, by decide +kernel, by decide +kernel, by decide +kernel, iss⟩, ⟨iss, by decide +kernel⟩, ⟨iss, by decide +kernel, queued, rfl, rfl, by decide +kernel⟩,
    iss, by decide +kernel⟩

theorem witness_Invalidations :
    (let s := rigLive [0xFFFFFFFFFFFF, 0x1FFFF];
      Issues s (.stinv 1 0 0) [0, 1] [] [] [] ∧ s.me.run ≠ some .stinv ∧ s.posted s.core 3 = false) ∧
    (let s := (rigLive [0, 0]).onMe fun v => { v with run := some .stinv };
      Issues s (.stinv 1 0 0) [0, 1] [] [] [] ∧ s.me.run = some .stinv ∧ s.invs = []) ∧
    (let s := rigLive [0x7FFF0001];
      Issues s (.preempt 1 0 0) [0] [1] [] [] ∧ s.me.run = none ∧ (s.src 0).getLsbD 31 = false ∧
        ((s.acting [0, 1]).request ((s.src 0).toNat % 2 ^ 32) s.core).2 ≠ []) ∧
    (let s := rigLive [0];
      Issues s (.preempt 1 0 0) [0] [1] [] [] ∧ ((s.acting [0, 1]).request ((s.src 0).toNat % 2 ^ 32) s.core).2 = []) ∧
    (let s := (rigLive [1]).onMe fun v => { v with run := some (.preempt [1, 2] false) };
      Issues s (.preempt 1 0 0) [0] [1] [] [] ∧ ∀ c ∈ [1, 2], (s.coreAt c).vacating = false) :=
  ⟨⟨iss, by decide +kernel, by decide +kernel⟩, ⟨iss, rfl, rfl⟩, ⟨iss, rfl, by decide +kernel, by decide +kernel⟩, ⟨iss, by decide +kernel⟩, iss, by decide +kernel⟩

theorem witness_ReturnFromTrap :
    (∀ act < 8, (rigHandler act [entry 1 true]).me.handler = true ∧ actOf (rigHandler act [entry 1 true]).me = act ∧
      (rigHandler act [entry 1 true]).me.ecs.getLsbD 9 = false ∧ (rigHandler act [entry 1 true]).posted 0 3 = false ∧
      (rigHandler act [entry 1 true]).me.draining = false ∧ ∀ e ∈ (rigHandler act [entry 1 true]).me.board, e.state ≠ 0) ∧
    Issues (rigHandler 0 [entry 1 true]) (.rte 0) [] [] [] [] ∧ Issues (rigHandler 6 []) (.rte 0) [] [] [] [] ∧
    (let s := rigHandler 1 []; Issues s (.rte 0) [] [] [] [] ∧
      ((s.acting []).suspend s.core s.slot Slot.leaving s.me.epc (s.me.ecs.toNat / 2 ^ 16 % 2 ^ 10) 1).2.isOk = true) ∧
    (let s := rigHandler 5 []; Issues s (.rte 0) [] [] [] [] ∧
      ((s.acting []).suspend s.core s.slot Slot.leaving s.me.epc s.core 0).2.isOk = true) ∧
    Issues (rigHandler 3 []) (.rte 0) [] [] [] [] ∧ Issues (rigHandler 4 []) (.rte 0) [] [] [] [] ∧ Issues (rigLive []) (.rte 0) [] [] [] [] ∧
      (rigLive []).me.handler = false :=
  ⟨by decide +kernel, iss, iss, ⟨iss, by decide +kernel⟩, ⟨iss, by decide +kernel⟩, iss, iss, iss, by decide +kernel⟩

/-- The rig in handler state with one entry and an operand of `settle`. -/
def rigSettle (x : Word) (e : SbEntry) : State := (rigLive [x]).onMe fun v => { v with ecs := 0x400, board := [e] }

theorem witness_Settling :
    (Issues (rigSettle 0x1F (entry 0 true)) (.settle 1 0 0) [0] [1] [] [] ∧ (rigSettle 0x1F (entry 0 true)).me.board[15]? = none) ∧
    (let s := rigSettle 0x10 (entry 0 true);
      Issues s (.settle 1 0 0) [0] [1] [] [] ∧ s.me.board[(s.src 0).toNat % 16]? = some (entry 0 true) ∧ FrameSound s 0 0 ∧
        (s.src 0).toNat / 16 % 4 = 1 ∧ (entry 0 true).stop = true) ∧
    (let s := rigSettle 0x10 (entry 0 false);
      Issues s (.settle 1 0 0) [0] [1] [] [] ∧ s.me.board[(s.src 0).toNat % 16]? = some (entry 0 false) ∧ (s.src 0).toNat / 16 % 4 = 1 ∧
        (entry 0 false).stop = false) ∧
    (∃ y g, (let s := rigSettle 0x30 (entry 2 true);
      Issues s (.settle 1 0 0) [0] [1] [] [] ∧ (s.src 0).toNat / 16 % 4 = 3 ∧ (s.acting [0, 1]).retry (entry 2 true) = some (y, g) ∧
        FrameSound y s.core s.slot)) :=
  ⟨⟨iss, by decide +kernel⟩, ⟨iss, by decide +kernel, frame_sound, by decide +kernel, rfl⟩, ⟨iss, by decide +kernel, by decide +kernel, rfl⟩,
    _, _, iss, by decide +kernel, rfl, frame_sound⟩

/-- The mapped rig whose word after the pc is `vmskall`. -/
def rigFrame : State := let s := rigMapped []; { s with mem := s.mem.write 4 (leBytes 4 (encode (.vmskall 0)).toNat) }

/-- The same with a jump there. -/
def rigNested : State := let s := rigMapped []; { s with mem := s.mem.write 4 (leBytes 4 0x08000000) }

theorem witness_RepeatFrames :
    (∃ y, Issues rigFrame (.rpt 0 63 7 8 0 0) [] [] [] [] ∧ rigFrame.me.frame = none ∧
      State.captureFrom 0 0 7 (-8) 0 1 (rigFrame.me.pc + 4) (rigFrame.acting []) = (y, .ok [encode (.vmskall 0)])) ∧
    (let f : Frame := { addr := 0, words := [1, 2], cnt := 2, sd := 7, sa := -8, sb := 0, pos := 1, rep := 1 };
      f.pos < f.words.length ∧ f.rep < f.cnt) ∧
    (0x28 ≤ bitsAt (encode (.vadd 63 1 2 0)) 26 6 ∧ rolesOfWord (encode (.vadd 63 1 2 0)) = some (.vec, .vec, .vec)) ∧
    (∃ y, rigNested.fetchWord 0 0 0x100000004 = (y, .ok (0x08000000)) ∧
      ¬ (0x06 ≤ bitsAt (0x08000000) 26 6 ∧ bitsAt (0x08000000) 26 6 ≤ 0x13 ∨
        bitsAt (0x08000000) 3 29 = 0x100000 / 8 ∨ 0x28 ≤ bitsAt (0x08000000) 26 6)) ∧
    (∃ y, rigFrame.fetchWord 0 0 0x100000004 = (y, .ok (encode (.vmskall 0))) ∧ y.refuseWord 0 0 (encode (.vmskall 0)) 7 (-8) 0 = none ∧
      ∃ z cause b, State.captureFrom 0 0 7 (-8) 0 1 0x100000008 y = (z, .error (cause, b))) ∧
    (∃ y cause b, Issues rigNested (.rpt 0 63 7 8 0 0) [] [] [] [] ∧ rigNested.me.frame = none ∧
      State.captureFrom 0 0 7 (-8) 0 1 (rigNested.me.pc + 4) (rigNested.acting []) = (y, .error (cause, b))) :=
  ⟨⟨_, iss, rfl, gives_exactly (by decide +kernel)⟩, by decide, by decide +kernel,
    ⟨_, gives_exactly (by decide +kernel), by decide +kernel⟩,
    ⟨_, gives_exactly (by decide +kernel), by decide +kernel, _, .illegal, 0x100000008, gives_error_with (by decide +kernel)⟩,
    _, .illegal, 0x100000004, iss, rfl, gives_error_with (by decide +kernel)⟩

/-! ## Hypotheses met: issue, steps, invariants -/

/-- The rig with its strand unprivileged. -/
def rigUser (r : List Word) : State := { rig r with tvb := 0 }

/-- An awaited load into a0. -/
def awaitLoad : Await :=
  { seqs := [0], act := .load 8 false 0, ea := 0x100000000, plain := true, saved := (rigSlot []).saved, failed := none }

theorem witness_IssueChecks :
    (privForm (.crd 0 8 0) = true ∧ (Instr.crd 0 8 0).WellFormed ∧ (rigUser []).privileged 0 0 = false) ∧
    (unitOf (.vlse 0 1 2 0) = some 1 ∧ (Instr.vlse 0 1 2 0).WellFormed ∧
      (rigCore [] fun k => { k with feat := 5 }).privileged 0 0 = true ∧ (rigCore [] fun k => { k with feat := 5 }).here.feat.getLsbD 1 = false) ∧
    (let s := (rigUser []).onHere fun k => { k with feat := 5 };
      unitOf (.vlse 0 1 2 0) = some 1 ∧ TakesNoPriv (.vlse 0 1 2 0) s ∧ s.privileged 0 0 = false ∧ s.here.feat.getLsbD 1 = false) ∧
    (let s := rigWith [] fun v => { v with ready := [(35, 9)], early := some 3 };
      ∃ f, scalarForm (.sel 0 1 2 3 0 0 0) = some f ∧ (f.srcs.map (·.1)).find? (fun c => !s.me.codeReady s.turn c) = none ∧
        (∃ p ∈ f.preds, s.me.predReady s.turn p = false) ∧ s.me.early = some 3) ∧
    (∃ f, scalarForm (.add 31 0 1 0 0 0) = some f ∧ (Instr.add 31 0 1 0 0 0).WellFormed ∧ ∃ c ∈ f.srcs.map (·.1) ++ [f.d], 24 ≤ c.toNat) ∧
    (let s := rigWith [] fun v => { v with awaits := [awaitLoad] };
      ∃ f, scalarForm (.add 0 0 1 0 0 0) = some f ∧ ∃ c ∈ f.srcs, s.me.busy c.1 = true) ∧
    (let s := rigWith [] fun v => { v with lo := { v.lo with r1 := { v.lo.r1 with bad := true }, poison := true } };
      ∃ f, scalarForm (.add 0 0 1 0 0 0) = some f ∧ s.me.poisonIn (banksOf (f.srcs.map (·.1))) = some 1 ∧ s.me.awaits = []) ∧
    (let s := rigWith [] fun v => { v with lo := { v.lo with r1 := Reg.written 0 none 9 } };
      ∃ f, scalarForm (.add 0 0 1 0 0 0) = some f ∧ (f.srcs.map (·.1)).find? (fun c => !s.me.codeReady s.turn c) = some 1) ∧
    (let s := rigWith [] fun v => { v with hi := { v.hi with power := .retention } };
      ∃ f, scalarForm (.add 0 4 1 0 0 0) = some f ∧ (f.srcs.map (·.1)).find? (fun c => !s.me.codeReady s.turn c) = none ∧ f.preds = [] ∧
        s.me.asleep (f.srcs.map (·.1) ++ [f.d]) = (false, true) ∧ s.me.poisonIn (banksOf (f.srcs.map (·.1))) = none ∧ s.me.awaits = [] ∧ ∀ n, n < 8 → (s.me.reg n).bad = false) ∧
    (let s := { (rigWith [] fun v => { v with lo := { v.lo with r1 := Reg.written 0 (some 0) 0 } }) with now := 2048 };
      ∃ f, scalarForm (.add 0 0 1 0 0 0) = some f ∧ s.me.asleep (f.srcs.map (·.1) ++ [f.d]) = (false, false) ∧ s.me.poisonIn (banksOf (f.srcs.map (·.1))) = none ∧
        (f.srcs.map (·.1)).find? (fun c => decide (c.toNat < 8) && (s.me.reg c.toNat).expired s.now) = some 1) := by
  refine ⟨by decide +kernel, by decide +kernel, ⟨by decide +kernel, fun h => absurd h (by decide +kernel), by decide +kernel, by decide +kernel⟩,
    ⟨_, rfl, by decide +kernel, ⟨3, by decide +kernel, by decide +kernel⟩, rfl⟩, ⟨_, rfl, by decide +kernel, 31, by decide +kernel, by decide⟩,
    ⟨_, rfl, (0, 0), by decide +kernel, by decide +kernel⟩, ⟨_, rfl, by decide +kernel, rfl⟩, ⟨_, rfl, by decide +kernel⟩,
    ⟨_, rfl, by decide +kernel, by decide +kernel, by decide +kernel, by decide +kernel, rfl, by decide +kernel⟩,
    _, rfl, by decide +kernel, by decide +kernel, by decide +kernel⟩

/-- The mapped rig with a word at its pc and the slot's turn next. -/
def rigWord (w : BitVec 32) : State :=
  let s := rigMapped []
  { s with agenda := [.issue 8 0 0], mem := s.mem.write 0 (leBytes 4 w.toNat) }

/-- Whether an outcome is a next state. -/
def isNext : Host.Outcome State Fault Refusal → Bool
  | .next _ => true
  | _ => false

theorem isNext_next {x : Host.Outcome State Fault Refusal} (h : isNext x = true) : ∃ t, x = .next t := by
  cases x with
  | next t => exact ⟨t, rfl⟩
  | fault f => cases h
  | refused r => cases h

/-- That machine as the step finds it before the fetch. -/
def aimed (s : State) : State := ({ s with agenda := [] }).atIssue 8 0 0

theorem witness_StepRunsDecoded :
    ((rigWord 0x00100000).agenda = [.issue 8 0 0] ∧ (aimed (rigWord 0x00100000)).before 0 0 = none ∧
      ∃ y, ((aimed (rigWord 0x00100000)).synced 0 0).nextWord 0 0 = (y, .ok 0x00100000)) ∧
    ((aimed (rigWord 0)).before 0 0 = none ∧ (∃ y, ((aimed (rigWord 0)).synced 0 0).nextWord 0 0 = (y, .ok 0)) ∧ decode 0 = .error .zeroWord) ∧
    (let s := { rigLive [] with agenda := [.issue 8 0 0] };
      (aimed s).before 0 0 = none ∧ ∃ y, ((aimed s).synced 0 0).nextWord 0 0 = (y, .error .xlate)) ∧
    (let s := rigMapped [];
      (s.slotAt 0 0).frame = none ∧ (s.slotAt 0 0).pc.toNat % 4 = 0 ∧ 2 ^ 32 ≤ (s.slotAt 0 0).pc.toNat ∧
        ∃ y, s.translate (s.who 0 0) (if (s.slotAt 0 0).ecs.getLsbD 10 then s.spid else (s.slotAt 0 0).pid) (s.privileged 0 0)
          (s.slotAt 0 0).pc.toNat .fetch = (y, .ok 0) ∧ (y.coreAt 0).killed = false ∧ y.sound 0 4) ∧
    (let s := { rigLive [] with now := 8 };
      s.turns 0 0 = true ∧ (s.slotAt 0 0).run = none ∧ (∀ l, s.launchAt (s.slotAt 0 0).id.lid = some l → l.ending = false) ∧
        (s.slotAt 0 0).needShadow = false ∧ (s.slotAt 0 0).needScb = false ∧ (s.slotAt 0 0).pend = [] ∧ (s.slotAt 0 0).preempt = false ∧
        s.auditCause 0 0 = none ∧ (s.coreAt 0).spoilt = false ∧ (s.slotAt 0 0).first = []) ∧
    isEvent (.takeUp 0 0) = true ∧ (Move.issue 0 1024 0).named = false := by
  refine ⟨⟨rfl, Option.isNone_iff_eq_none.mp (by decide +kernel), _, gives_exactly (by decide +kernel)⟩,
    ⟨Option.isNone_iff_eq_none.mp (by decide +kernel), ⟨_, gives_exactly (by decide +kernel)⟩, by rfl⟩,
    ⟨Option.isNone_iff_eq_none.mp (by decide +kernel), _, rfl⟩,
    ⟨rfl, by decide +kernel, by decide +kernel, _, gives_exactly (by decide +kernel), by decide +kernel, by unfold State.sound; decide +kernel⟩,
    ⟨by decide +kernel, rfl, ?_, rfl, rfl, rfl, rfl, rfl, rfl, rfl⟩, rfl, by decide⟩
  intro l h
  cases h
  rfl

theorem witness_StepAlwaysAnswers : (rigWord 0x00100000).nextMove.1.named = true := by decide +kernel

theorem witness_StepKeepsMemoryForm : (rigWord 0x00100000).MemoryWf ∧ ∃ t, step (rigWord 0x00100000) = .next t := by
  refine ⟨by unfold State.MemoryWf; decide +kernel, ?_⟩
  exact isNext_next (by decide +kernel)

theorem witness_RoundTrip : (Instr.cmpiLt 11 7 0x1FF 1 7).WellFormed ∧ decode 0x3D675FFF = .ok (.cmpiLt 11 7 0x1FF 1 7) := ⟨by decide, by rfl⟩

/-! ## Hypotheses met: events of slots and launches -/

/-- A continuation and a packet of strand 0 of the rig's launch. -/
def contOf (sid : Nat) : Cont :=
  { a := List.replicate 8 0, pc := 0x100000000, fl := 0x200020, preds := 0, handle := 0, hops := 0, id := { lid := 0, sid := sid }, pend := none, fresh := false }
def packetOf (sid dst org : Nat) : Packet :=
  { cont := contOf sid, pid := 1, dst := dst, org := org, bpri := 0, epri := 0, kind := 0, hint := false, hx := 0, hy := 0, rad := 0, lrec := 0, at_ := org,
    slot := none, ahead := false, wrote := 0, park := none }
def entryOf (sid since pos : Nat) : RingEntry := { pkt := packetOf sid 0 0, since := since, w0 := 0, pos := pos }

/-- The live rig with its slot changed, at a cycle. -/
def rigAt (now : Nat) (f : Slot → Slot) : State := { (rigLive []).onMe f with now := now }

theorem at_boundary {v : Slot} (h : v.strand.isSome = true ∧ v.awaits = [] ∧ (v.run = none ∨ v.run = some .leave) ∧ v.frame = none ∧
    v.ecs.getLsbD 10 = false ∧ v.needShadow = false ∧ v.needScb = false := by decide +kernel) : AtBoundary v :=
  ⟨h.1, h.2.1, h.2.2.1, h.2.2.2.1, h.2.2.2.2.1, h.2.2.2.2.2⟩

/-- The rig whose cluster 0 has raised AUDIT at core 0. -/
def rigAudit (f : Slot → Slot) : State :=
  { (rigAt 8 f) with clusters := [(0, { Cluster.reset 0 with raised := some 7 })] }

/-- The rig at the end of a quantum, a strand waiting in the ring. -/
def rigQuantum (f : Slot → Slot) : State := (rigAt (2 ^ 18) f).onHere fun k => { k with ring := [entryOf 1 (2 ^ 18) 0] }

theorem witness_SlotBoundaries :
    (let s := rigAudit id; s.auditCause 0 0 = some (0, 7) ∧ s.turns 0 0 = true ∧ AtBoundary (s.slotAt 0 0) ∧ (s.slotAt 0 0).pend = []) ∧
    (let s := (rigAt 8 fun v => { v with pend := [⟨.refused, 5, 0, some 3⟩, ⟨.prot, 0, 0, some 2⟩] });
      s.turns 0 0 = true ∧ AtBoundary (s.slotAt 0 0) ∧ (s.slotAt 0 0).pend[1]? = some ⟨.prot, 0, 0, some 2⟩ ∧
        ∀ k, k < 2 → ∀ q, (s.slotAt 0 0).pend[k]? = some q → 2 < q.entry.getD 0 ∨ 2 = q.entry.getD 0 ∧ 1 ≤ k) ∧
    (let s := rigAt 8 fun v => { v with preempt := true };
      s.turns 0 0 = true ∧ AtBoundary (s.slotAt 0 0) ∧ (s.slotAt 0 0).pend = [] ∧ s.auditCause 0 0 = none ∧ (s.slotAt 0 0).preempt = true) ∧
    (let s := rigAt 8 fun v => { v with first := [(.illegal, 5)] };
      s.turns 0 0 = true ∧ AtBoundary (s.slotAt 0 0) ∧ (s.slotAt 0 0).pend = [] ∧ s.auditCause 0 0 = none ∧ (s.slotAt 0 0).first = [(.illegal, 5)]) ∧
    (let s := rigAt 8 fun v => { v with preempt := true, awaits := [awaitLoad] };
      AtBoundary { s.slotAt 0 0 with awaits := [] } ∧ (s.slotAt 0 0).awaits ≠ []) :=
  ⟨⟨by decide +kernel, by decide +kernel, at_boundary, by decide +kernel⟩, ⟨by decide +kernel, at_boundary, by decide +kernel, by decide +kernel⟩,
    ⟨by decide +kernel, at_boundary, by decide +kernel, by decide +kernel, by decide +kernel⟩,
    ⟨by decide +kernel, at_boundary, by decide +kernel, by decide +kernel, by decide +kernel⟩, at_boundary, by decide +kernel⟩

/-- The mapped rig whose launch keeps continuations at 4 GiB, its strand being saved. -/
def rigSaving : State :=
  ((rigMapped []).onMe fun v => { v with preempt := true, run := some .saving }).onHere fun k =>
    { k with launches := [{ rigLaunch with cont := 0x100010000 }] }

def rigSaved : State × Except (Cause × Word) Packet := rigSaving.suspend 0 0 (fun w => { w with run := none }) (rigSaving.slotAt 0 0).pc 0 4

theorem witness_SlotBoundaries_leaving :
    ((rigQuantum id).onHere fun k => { k with halted := true }).here.halted = true ∧
    (let s := rigQuantum id;
      (s.coreAt 0).halted = false ∧ AtBoundary (s.slotAt 0 0) ∧ (s.slotAt 0 0).pend = [] ∧ s.auditCause 0 0 = none ∧ (s.slotAt 0 0).reserved = none ∧ s.posted 0 3 = false ∧
        (s.slotAt 0 0).draining = false ∧ (s.slotAt 0 0).takenAt + 2 ^ 18 ≤ s.now ∧ (∃ b, (s.slotAt 0 0).strand = some b) ∧
        (∃ e ∈ (s.coreAt 0).ring, 0 ≤ effective e s.now) ∧ (s.suspend 0 0 id (s.slotAt 0 0).pc 0 0).2.isOk = true) ∧
    (let s := rigQuantum fun v => { v with lo := { v.lo with power := .retention, r0 := { v.lo.r0 with bad := true } } };
      AtBoundary (s.slotAt 0 0) ∧ (s.suspend 0 0 id (s.slotAt 0 0).pc 0 0).2.isOk = false) ∧
    (let s := rigAt 8 fun v => { v with preempt := true, run := some .saving, pend := [⟨.prot, 0, 0, some 2⟩] };
      (s.slotAt 0 0).preempt = true ∧ (s.slotAt 0 0).run = some .saving ∧ (s.slotAt 0 0).pend = [⟨.prot, 0, 0, some 2⟩]) ∧
    (let s := rigSaving;
      (s.slotAt 0 0).pend = [] ∧ (s.slotAt 0 0).unack = 0 ∧ (s.slotAt 0 0).board = [] ∧ s.posted 0 3 = false ∧ (s.slotAt 0 0).draining = false ∧
        (s.coreAt 0).engine.queue = [] ∧ ∃ y z p, s.suspend 0 0 (fun w => { w with run := none }) (s.slotAt 0 0).pc 0 4 = (y, .ok p) ∧
          y.saveSlot 0 p (2 ^ 63) = (z, true)) := by
  refine ⟨rfl, ⟨rfl, at_boundary, by decide +kernel, by decide +kernel, by decide +kernel, by decide +kernel, by decide +kernel, by decide +kernel, ⟨_, rfl⟩,
      by decide +kernel, by decide +kernel⟩, ⟨at_boundary, by decide +kernel⟩, ⟨by decide +kernel, by decide +kernel, by decide +kernel⟩,
    by decide +kernel, by decide +kernel, by decide +kernel, by decide +kernel, by decide +kernel, by decide +kernel, ?_⟩
  obtain ⟨y, p, h⟩ := gives_ok rigSaved (by rfl)
  refine ⟨y, (y.saveSlot 0 p (2 ^ 63)).1, p, h, Prod.ext rfl ?_⟩
  have hy : y = rigSaved.1 := by rw [h]
  have hp : rigSaved.2 = .ok p := by rw [h]
  subst hy
  have : (match rigSaved.2 with | .ok p => (rigSaved.1.saveSlot 0 p (2 ^ 63)).2 | .error _ => true) = true := by decide +kernel
  rwa [hp] at this

/-- The live rig whose slot 1 is idle and whose ring holds two strands. -/
def rigRing (f : RingEntry → RingEntry) : State :=
  { rigLive [] with now := 2 ^ 17 }.onHere fun k => { k with ring := [entryOf 1 (2 ^ 17) 0, f (entryOf 2 0 5)] }

def freshEntry (e : RingEntry) : RingEntry := { e with pkt := { e.pkt with cont := { e.pkt.cont with fresh := true } } }

theorem witness_TakingUp :
    (∀ f ∈ [id, freshEntry], let s := rigRing f; let e := f (entryOf 2 0 5);
      (s.slotAt 0 1).strand = none ∧ (s.slotAt 0 1).inbound = none ∧ (s.coreAt 0).killed = false ∧ (s.coreAt 0).vacating = false ∧
      (s.clusterAt 0).isUp = true ∧ (s.coreAt 0).overflow = [] ∧ (∀ i, i < 8 → (s.slotAt 0 i).reserved = none) ∧
      (s.coreAt 0).ring[1]? = some e ∧ effective (entryOf 1 (2 ^ 17) 0) (2 ^ 17) < effective e (2 ^ 17) ∧
      (∀ g ∈ granules (s.ringAddress 0 e.pos + 16) 64, s.isLost (g * 32) = false ∧ s.badGran.contains g = false ∧ ∀ e ∈ s.injected, e.2.1 ≠ g)) ∧
    (let s := (rigMapped []).onMe fun v => { v with needShadow := true, needScb := true };
      (∃ l, s.launchAt 0 = some l) ∧
        ∃ y, (s.putSlot 0 0 { s.slotAt 0 0 with needShadow := false }).readGlobal (s.who 0 0) 1 true 0x100000000 64 .read = (y, .ok (List.replicate 64 0))) ∧
    (let s := (rigLive []).onMe fun v => { v with needScb := true };
      ∃ y, (s.putSlot 0 0 { s.slotAt 0 0 with needScb := false }).dataRead 0 0 0 64 = (y, .ok (List.replicate 64 0))) ∧
    (let s := (rigTable 3).onMe fun v => { v with mqb := 0x8000000000000100 };
      (s.slotAt 0 0).strand.isSome = true ∧ (s.slotAt 0 0).modLoaded = false ∧ (s.slotAt 0 0).mqb.getLsbD 63 = true ∧
        ∃ y, s.dataRead 0 0 0x100 256 = (y, .ok (tableBytes 3))) :=
  ⟨by decide +kernel,
    ⟨⟨_, rfl⟩, _, gives_exactly (by decide +kernel)⟩, ⟨_, gives_exactly (by decide +kernel)⟩, by decide +kernel, by decide +kernel, by decide +kernel, _,
    gives_exactly (by decide +kernel)⟩

theorem witness_BanksAndMarks :
    (((rigAt 4096 id).slotAt 0 0).lo.power = .on ∧ ((rigAt 4096 id).slotAt 0 0).lo.touched + 4096 ≤ (rigAt 4096 id).now) ∧
    (let v := (rigAt 8 fun v => { v with older := [older true, older false], prefetch := [8] }).slotAt 0 0;
      v.older[0]? = some (older true) ∧ (v.prefetch.filter fun x => x ≤ 8).length = 1 ∧ (v.older.filter fun o => o.inFile).length = 1 ∧
        v.older[1]? = some (older false)) := by decide +kernel

/-- The rig with a launch message in core 0's inbox for a record of one strand at physical address 0x5000, of process 1. -/
def recordOf : List Byte :=
  leBytes 8 0x100000000 ++ leBytes 8 (1 + 2 ^ 32) ++ leBytes 64 0 ++ leBytes 8 0 ++ leBytes 8 0 ++ leBytes 8 0x100008000 ++ leBytes 16 0 ++ leBytes 8 (12 * 2 ^ 26)

def messageOf : BitVec 128 := BitVec.ofNat 128 (2 ^ 112 + 2 ^ 85 + 0x5000)

/-- The mapped rig with messages in core 0's inbox, a message on its way and held messages. -/
def rigInbox (l : List (BitVec 128)) : State :=
  let s := rigMapped []
  { s with mem := s.mem.write 0x5000 recordOf, notes := [(0, messageOf)], medlar := { s.medlar with held := [messageOf] } }.onHere fun k =>
    { k with inbox := l, launches := [] }

theorem witness_LaunchMessages :
    ((rigInbox []).notes[0]? = some (0, messageOf) ∧ ((rigInbox []).coreAt 0).killed = false ∧ ((rigInbox []).coreAt 0).inbox.length < 16 ∧
      (rigInbox []).medlar.up = true ∧ (rigInbox []).medlar.rdy = true ∧ (rigInbox []).medlar.held = [messageOf]) ∧
    (let p : Medlar := { (rigInbox []).medlar with rdy := false }; p.up = true ∧ p.rdy = false) ∧
    16 ≤ ((rigInbox (List.replicate 16 0)).coreAt 0).inbox.length ∧
    (let s := (rigInbox []).onHere fun k => { k with killed := true }; (s.coreAt 0).killed = true ∧ (s.supervisorFor 0).isSome = true) :=
  ⟨by decide +kernel, by decide +kernel, by decide +kernel, by decide +kernel⟩

theorem gives_read {x : State × Nat × List Byte} {n : Nat} {bs : List Byte} (h : x.2 = (n, bs)) : x = (x.1, n, bs) := by
  obtain ⟨a, b⟩ := x
  cases h
  rfl

theorem gives_status {x : State × Nat} {n : Nat} (h : x.2 = n) : x = (x.1, n) := by
  obtain ⟨a, b⟩ := x
  cases h
  rfl

/-- The record of a co-resident launch. -/
def recordCo : List Byte := recordOf.take 120 ++ leBytes 8 (12 * 2 ^ 26 + 2 ^ 25)

theorem witness_LaunchAcceptance_coResident : let s := { rigInbox [messageOf] with mem := (rigInbox []).mem.write 0x5000 recordCo }
    let x := s.onCore 0 fun k => { k with inbox := [] }
    let l := launchOf 0 0x5000 recordCo
    (s.coreAt 0).inbox = [messageOf] ∧ (s.coreAt 0).launches = [] ∧ l.cores = true ∧ l.count = 1 ∧ l.allowed = [0] ∧ recordBad 0x5000 recordCo = false ∧
      ∃ y, x.vaultRead { core := 0, pid := messageOf.extractLsb' 112 16, id := { lid := 0, sid := 0 } } 0x5000 128 = (y, 0, recordCo) ∧
        ∃ z, y.translate { core := 0, pid := 1, id := { lid := 0, sid := 0 } } 1 (1 == s.spid) 0x100008000 .write = (z, .ok 0x8000) ∧ z.sound 0x8000 8 ∧
          ∃ q, z.vaultWrite { core := 0, pid := 1, id := { lid := 0, sid := 0 } } 0x8000 (leBytes 8 0) = (q, 0) ∧
            1 ≤ ({ q with empties := insertNat 0x1000 q.empties } : State).fitCount { l with allowed := [0] } 0 :=
  ⟨rfl, rfl, by decide +kernel, by decide +kernel, by decide +kernel, by decide +kernel, _, gives_read (by decide +kernel), _, gives_exactly (by decide +kernel),
    by unfold State.sound; decide +kernel, _, gives_status (by decide +kernel), by decide +kernel⟩

theorem witness_LaunchAcceptance : let s := rigInbox [messageOf]
    let x := s.onCore 0 fun k => { k with inbox := [] }
    (s.coreAt 0).inbox = [messageOf] ∧ (s.coreAt 0).killed = false ∧ (s.coreAt 0).spoilt = false ∧ (s.coreAt 0).launches = [] ∧ messageOf.toNat % 2 ^ 44 = 0x5000 ∧
      ∃ y, x.vaultRead { core := 0, pid := messageOf.extractLsb' 112 16, id := { lid := 0, sid := 0 } } 0x5000 128 = (y, 0, recordOf) ∧
        recordBad 0x5000 recordOf = false ∧ messageOf.getLsbD 85 = true ∧ leNat ((recordOf.drop 0x50).take 8) = 0 ∧
        (launchOf 0 0x5000 recordOf).done = 0x100008000 ∧ (launchOf 0 0x5000 recordOf).allowed = [0] ∧ (launchOf 0 0x5000 recordOf).cores = false ∧
        ∃ z, y.translate { core := 0, pid := 1, id := { lid := 0, sid := 0 } } 1 (1 == s.spid) 0x100008000 .write = (z, .ok 0x8000) ∧
          (z.coreAt 0).killed = false ∧ z.sound 0x8000 8 :=
  ⟨rfl, by decide +kernel, by decide +kernel, rfl, by decide +kernel, _, gives_read (by decide +kernel), by decide +kernel, by decide +kernel, by decide +kernel, by decide +kernel,
    by decide +kernel, by decide +kernel, _, gives_exactly (by decide +kernel), by decide +kernel, by unfold State.sound; decide +kernel⟩

/-- The launch of the rig without the co-resident form, of three strands, in a placement mode, with queued strands. -/
def launchIn (mode : Nat) (queue : List (Nat × Nat)) (next : Nat) : Launch :=
  { rigLaunch with
    cores := false, count := 3, mode := mode, queue := queue, nextSid := next,
    strands := [{ sid := 0, home := some 0, groups := [1], gfault := none, left := 0, bars := [5], slot := none, done := false },
                { sid := 1, home := none, groups := [1], gfault := none, left := 0, bars := [], slot := none, done := false }] }

/-- The rig with that launch and packets of the mesh. -/
def rigPlace (l : Launch) (p : List Packet) : State :=
  { rigCore [] fun k => { k with launches := [l], bars := [(5, { lid := 0, sid := 0 })] } with packets := p }

theorem fits {s : State} {l : Launch} {c j : Nat}
    (h : c ∈ l.allowed ∧ (s.coreAt c).killed = false ∧ l.barn ≤ (s.coreAt c).freeBars.length ∧ 256 * l.spmn ≤ s.spmFree c ∧ j < 8 ∧
      (s.slotAt c j).idle = true ∧ ∀ i, i < j → (s.slotAt c i).idle = false := by decide +kernel) : FitsAt s l c j := h

theorem fits_nowhere {s : State} {l : Launch} {c : Nat} (h : c ∉ l.allowed := by decide +kernel) : FitsNowhere s l c := fun _ f => h f.1

theorem witness_UnfoldingAndPlacement :
    (let s := rigPlace (launchIn 0 [] 2) [];
      (s.coreAt 0).byPrio.find? (fun l => s.canUnfold l) = some (launchIn 0 [] 2) ∧ (launchIn 0 [] 2).cores = false ∧ (s.coreAt 0).spoilt = false ∧ (launchIn 0 [] 2).mode ≠ 1 ∧
        (s.coreAt 0).launches.Pairwise (fun a b => a.index ≠ b.index)) ∧
    (let s := rigPlace (launchIn 1 [] 1) [];
      (s.coreAt 0).byPrio.find? (fun l => s.canUnfold l) = some (launchIn 1 [] 1) ∧ ((launchIn 1 [] 1).birth 1).lowest = 1 ∧
        (launchIn 1 [] 1).groups.find? (fun g => g.num == 1) = some { num := 1, first := 0, gcnt := 2, stride := 1, hx := 0, hy := 0 } ∧
        (s.coreAt 0).vacated = false ∧ (s.coreAt 0).vacating = false) ∧
    (let l := { launchIn 0 [(1, 1)] 2 with allowed := [0, 1023], last := some 0 };
      let s := (rigPlace l []).onCore 1023 fun k => { k with killed := true };
      (s.coreAt 0).byPrio.find? (fun l => !l.queue.isEmpty && (s.fallbackCore l).isSome) = some l ∧ (s.coreAt 1023).killed = true ∧
        l.allowed.filter (fun x => 0 < x) ++ l.allowed.filter (fun x => x ≤ 0) = [1023] ++ 0 :: [] ∧ FitsAt s l 0 1 ∧
        (l.strands.find? (fun u => u.sid == 1)).isSome = true) ∧
    (let s := rigPlace (launchIn 0 [] 2) [{ packetOf 1 2 0 with slot := some 1 }];
      s.packets[0]? = some { packetOf 1 2 0 with slot := some 1 } ∧ (packetOf 1 2 0).at_ ≠ 2) ∧
    (let s := (rigPlace (launchIn 0 [] 2) [{ packetOf 1 0 0 with slot := some 1 }]).onSlot 0 1 fun v => { v with inbound := some { lid := 0, sid := 1 } };
      s.packets[0]? = some { packetOf 1 0 0 with slot := some 1 } ∧ (packetOf 1 0 0).at_ = 0 ∧ (s.slotAt 0 1).inbound = some { lid := 0, sid := 1 } ∧ (s.coreAt 0).killed = false ∧ (s.coreAt 0).vacating = false ∧ (s.coreAt 0).vacated = false) ∧
    (let p := { packetOf 1 0 0 with hint := true, at_ := 0, rad := 7 };
      let s := rigPlace (launchIn 1 [] 2) [p];
      s.packets[0]? = some p ∧ s.launchAt 0 = some (launchIn 1 [] 2) ∧ FitsAt s (launchIn 1 [] 2) 0 1) ∧
    (let p := { packetOf 1 0 0 with hint := true, at_ := 0, hx := 2, hy := 0, rad := 1 };
      (rigPlace (launchIn 1 [] 2) [p]).packets[0]? = some p ∧ p.rad < gap (p.at_ % 32) 2 + gap (p.at_ / 32) 0 ∧ route p.org 2 = [] ++ p.at_ :: 1 :: [2] ∧
        FitsNowhere (rigPlace (launchIn 1 [] 2) [p]) (launchIn 1 [] 2) 1) := by
  refine ⟨by decide +kernel, by decide +kernel, ⟨by decide +kernel, by decide +kernel, by decide +kernel, fits, by decide +kernel⟩, by decide +kernel, by decide +kernel,
    ⟨by decide +kernel, by decide +kernel, fits⟩, by decide +kernel, by decide +kernel, by decide +kernel, fits_nowhere⟩

/-- A launch whose strands are all done, with its first idle sweep taken or not. -/
def launchDone (swept : Option Nat) : Launch := { launchIn 0 [] 3 with swept := swept }

/-- The mapped machine with that launch and no strand. -/
def rigDone (swept : Option Nat) : State :=
  (rigMapped []).onHere fun k => { k with launches := [launchDone swept], slots := [] }

theorem witness_MigrationAndWaits :
    (let s := rigPlace (launchIn 0 [] 2) [packetOf 1 0 1];
      s.packets[0]? = some (packetOf 1 0 1) ∧ (s.coreAt 0).killed = false ∧ (s.coreAt 0).vacating = false ∧ (s.coreAt 0).vacated = false ∧
        (packetOf 1 0 1).park = none ∧ (s.coreAt 0).ring.length < 4096 ∧ ((s.coreAt 0).waiters.filter fun w => w.list == 64 && !w.inMem).length < 64) ∧
    (let s := (rigPlace (launchIn 0 [] 2) [packetOf 1 0 1]).onHere fun k => { k with killed := true };
      (s.coreAt 0).killed = true ∧ (s.coreAt 1).killed = false ∧ (s.coreAt 1).vacating = false ∧ (s.coreAt 1).vacated = false) ∧
    (let s := (rigPlace (launchIn 0 [] 2) [packetOf 1 0 1]).onHere fun k => { k with vacating := true };
      (s.coreAt 0).vacating = true ∧ s.nearestAvailable 0 = some 1) ∧
    (let s := { rigPlace (launchIn 0 [] 2) [{ packetOf 1 0 1 with park := some (3, 5) }] with now := 4 };
      s.packets[0]? = some { packetOf 1 0 1 with park := some (3, 5) } ∧ (s.coreAt 0).killed = false ∧ (s.coreAt 0).vacating = false ∧
        (s.coreAt 0).vacated = false ∧ ((s.coreAt 0).waiters.filter fun w => w.list == 64 && !w.inMem).length < 64) ∧
    (let s := rigDone none;
      live s = [0] ∧ s.launchAt 0 = some (launchDone none) ∧ (launchDone none).ending = false ∧ (launchDone none).swept ≠ some (s.totals 0).1) ∧
    (let s := rigDone (some 0);
      s.launchAt 0 = some (launchDone (some 0)) ∧ s.idleFor (launchDone (some 0)) 0 = true ∧ (s.totals 0).1 = (s.totals 0).2 ∧
        (s.totals 0).1 = 0 ∧ (s.fillDone 0 1 0x100008000 0 0).2 = true) ∧
    ((rigDone none).idleFor (launchDone none) 0 = true ∧ (rigLive []).idleFor rigLaunch 0 = false) ∧
    (∃ l : List Nat, l.Nodup ∧ (∀ c ∈ l, c < 1024 ∧ (c % 32 ≤ 0 ∧ c / 32 ≤ 0) ∧ ((rigLive []).coreAt c).vacated = false ∧ ((rigLive []).coreAt c).killed = false) ∧
      1 ≤ l.length) ∧
    (∀ l : List Nat, l.Nodup → (∀ c ∈ l, c ≤ 0) → l.length < 2) ∧
    (let w : Waiter := { pkt := packetOf 0 0 0, kind := .word 8, ea := 0x10000008, back := 0, since := 0, limit := 5, acct := 1, inMem := false };
      let s := { (rigLive []).onHere fun k => { k with waiters := [w, { w with kind := .timed, limit := 0 }] } with now := 6 };
      (s.coreAt 0).waiters[0]? = some w ∧ w.kind ≠ .timed ∧ 0 < w.limit ∧ w.since + w.limit < s.now ∧ (∀ x ∈ (s.coreAt 0).waiters, x.inMem = true → x.list ≠ w.list) ∧
        (s.coreAt 0).waiters[1]? = some { w with kind := .timed, limit := 0 }) := by
  refine ⟨by decide +kernel, by decide +kernel, by decide +kernel, by decide +kernel, by decide +kernel, by decide +kernel, by decide +kernel, ⟨[0], by decide +kernel, by decide +kernel, by decide⟩, ?_,
    by decide +kernel⟩
  intro l hn hl
  match l, hn, hl with
  | [], _, _ => decide
  | [_], _, _ => simp
  | a :: b :: r, hn, hl =>
    have ha := hl a (by simp)
    have hb := hl b (by simp)
    simp at hn
    omega

/-! ## Hypotheses met: messages -/

/-- A message that has arrived at core 0 from slot 0 of core 0. -/
def arrived (proc fn : BitVec 4) (pa : Nat) (va : Word) : Msg :=
  { (rig []).blank 0 0 with proc := proc, fn := fn, stage := .toOwner, dst := 0, paddr := pa, va := va, size := 3 }

/-- The live rig with one message in its mesh. -/
def rigMesh (m : Msg) : State := { rigLive [] with mesh := [m] }

theorem at_owner {s : State} {m : Msg} {proc : Nat} (h : s.mesh[0]? = some m ∧ m.stage = .toOwner ∧ m.proc.toNat = proc ∧ m.rec_ = none ∧ m.dst < 1024 ∧
    s.blocked 0 m = false := by decide +kernel) : AtOwner s 0 m proc := ⟨h.1, h.2.1, h.2.2.1, h.2.2.2.1, h.2.2.2.2.1, fun _ => h.2.2.2.2.2⟩

theorem arrives {s : State} {m : Msg} {proc : Nat} (o : AtOwner s 0 m proc := by exact at_owner)
    (h : (s.coreAt m.dst).killed = false ∧ s.tagFree m.dst m.tag = true := by decide +kernel) : Arrived s 0 m proc :=
  { o with alive := h.1, tags := fun _ => h.2 }

theorem at_vault {m : Msg} {n : Nat} (h : m.paddr < 2 ^ 38 ∧ vaultOf m.paddr = m.dst ∧
    ∀ g ∈ granules m.paddr n, (rigMesh m).isLost (g * 32) = false ∧ (rigMesh m).badGran.contains g = false := by decide +kernel) : AtVault (rigMesh m) m n :=
  ⟨h.1, h.2.1, fun g hg => ⟨(h.2.2 g hg).1, (h.2.2 g hg).2, fun _ he => absurd he (List.not_mem_nil)⟩⟩

/-- A parked continuation's waiter on an empty word. -/
def parked (limit : Nat) : Waiter :=
  { pkt := packetOf 0 0 0, kind := .fullEmpty 0x1000 true 0 1 0, ea := 0x1000, back := 0, since := 0, limit := limit, acct := 1, inMem := false }

theorem witness_OwnerAccesses :
    (Arrived (rigMesh (arrived 0 0 0x0FFFFFF8 0)) 0 (arrived 0 0 0x0FFFFFF8 0) 0 ∧ AtVault (rigMesh (arrived 0 0 0x0FFFFFF8 0)) (arrived 0 0 0x0FFFFFF8 0) 8) ∧
    (let m := { arrived 1 0 0x80 0 with data := List.replicate 32 7, mask := 1 }; Arrived (rigMesh m) 0 m 1 ∧ m.data.length = 32 ∧ AtVault (rigMesh m) m 32) ∧
    (Arrived (rigMesh (arrived 1 0 0 0)) 0 (arrived 1 0 0 0) 1 ∧ (arrived 1 0 0 0).data = [] ∧ AtVault (rigMesh (arrived 1 0 0 0)) (arrived 1 0 0 0) 8) ∧
    (Arrived (rigMesh (arrived 2 9 8 0)) 0 (arrived 2 9 8 0) 2 ∧ AtVault (rigMesh (arrived 2 9 8 0)) (arrived 2 9 8 0) 8) ∧
    (Arrived (rigMesh (arrived 3 1 8 0)) 0 (arrived 3 1 8 0) 3 ∧ Arrived (rigMesh (arrived 4 1 8 0)) 0 (arrived 4 1 8 0) 4 ∧
      (rigMesh (arrived 4 1 8 0)).empties.contains 1 = false ∧ ((rigMesh (arrived 3 1 8 0)).coreAt 0).waiters = []) ∧
    (let m := { arrived 10 0 0x1000 0 with cont := some (parked 0) };
      let s := { rigMesh m with empties := [0x200] };
      s.mesh[0]? = some m ∧ m.dst = vaultOf m.paddr ∧ (s.coreAt m.dst).killed = false ∧ (s.coreAt m.dst).waiters = [] ∧ s.empties.contains (m.paddr / 8) = true ∧
        s.isLost m.paddr = false) ∧
    (let s := (rigMesh (arrived 0 0 0 0)).onHere fun k => { k with killed := true };
      AtOwner s 0 (arrived 0 0 0 0) 0 ∧ (s.coreAt 0).killed = true) ∧
    (let m := arrived 0 0 0x80 0; let s : State := { rigMesh m with mesh := [arrived 1 0 0x80 0, m] }; s.mesh[1]? = some m ∧ s.blocked 1 m = true) ∧
    Arrived (rigMesh (arrived 15 0 0 0)) 0 (arrived 15 0 0 0) 15 ∧
    (let s := (rigMesh (arrived 0 0 0 0)).onHere fun k => { k with ctl := List.replicate 8 (.act 0) };
      AtOwner s 0 (arrived 0 0 0 0) 0 ∧ (arrived 0 0 0 0).atVault = true ∧ (s.coreAt 0).killed = false ∧ s.tagFree 0 none = false) :=
  ⟨⟨arrives, at_vault⟩, ⟨arrives, rfl, at_vault⟩, ⟨arrives, rfl, at_vault⟩, ⟨arrives, at_vault⟩, ⟨arrives, arrives, rfl, rfl⟩,
    ⟨rfl, by decide +kernel, by decide +kernel, rfl, by decide +kernel⟩, ⟨at_owner, by decide +kernel⟩,
    ⟨rfl, by decide +kernel⟩, arrives, at_owner, rfl, rfl, by decide +kernel⟩

theorem witness_ScratchpadMessages :
    (Arrived (rigMesh (arrived 8 0 0 0x10000FF8)) 0 (arrived 8 0 0 0x10000FF8) 8 ∧ spmCore (0x10000FF8 : Word).toNat = 0 ∧
      (rigMesh (arrived 8 0 0 0x10000FF8)).spmByte 1 0x10000FF8 = some (4096 + 0xFF8) ∧ (rigMesh (arrived 8 0 0 0x10000FF8)).spmSound 0 (4096 + 0xFF8) 8) ∧
    ((rigMesh (arrived 8 0 0 0x18000000)).spmByte 1 0x18000000 = none ∧ Arrived (rigMesh (arrived 9 0 0 0x18000000)) 0 (arrived 9 0 0 0x18000000) 9) ∧
    (Arrived (rigMesh (arrived 8 5 0 bar5)) 0 (arrived 8 5 0 bar5) 8 ∧ (rigMesh (arrived 8 5 0 bar5)).barOwned 0 (slotNamed bar5) 1 = true ∧
      (rigMesh (arrived 8 4 0 0xF8000060)).barOwned 0 (slotNamed 0xF8000060) 1 = false) ∧
    (Arrived (rigMesh (arrived 9 5 0 0x10000000)) 0 (arrived 9 5 0 0x10000000) 9 ∧ Arrived (rigMesh (arrived 9 3 0 bar5)) 0 (arrived 9 3 0 bar5) 9 ∧
      (arrived 9 3 0 bar5).opa = (0 : Word).signExtend 64) ∧
    (let m := { arrived 9 4 0 bar5 with cont := some (parked 0), opa := 1 };
      Arrived (rigMesh m) 0 m 9 ∧ (rigMesh m).barOwned 0 (slotNamed bar5) 1 = true ∧ bit ((rigMesh m).barRead 0 (slotNamed bar5)).phase ≠ m.opa.toNat ∧
        ((rigMesh m).coreAt 0).waiters.length < 64) ∧
    (let m := { arrived 5 0 0x0FFFFFF8 0 with data := List.replicate 8 1 };
      Arrived (rigMesh m) 0 m 5 ∧ m.toSpad = false ∧ AtVault (rigMesh m) m 8 ∧ 0 < m.data.length ∧ m.paddr % 2 ^ 28 + m.data.length ≤ 2 ^ 28) ∧
    (let m := { arrived 5 0 (4096 + 0xF00) 0x10000F00 with data := List.replicate 256 1 };
      Arrived (rigMesh m) 0 m 5 ∧ m.toSpad = true ∧ spmCore m.va.toNat = m.dst ∧ (rigMesh m).spmByte m.pid m.va.toNat = some (4096 + 0xF00) ∧
        m.data.length ≤ 256 ∧ (rigMesh m).spmSound m.dst (4096 + 0xF00) m.data.length ∧ ((rigMesh m).coreAt m.dst).waiters = []) ∧
    (let m := { arrived 5 1 (4096 + 0xF00) 0x10000F00 with opa := 256 };
      Arrived (rigMesh m) 0 m 5 ∧ m.toSpad = true ∧ m.opa.toNat ≤ 256) :=
  ⟨⟨arrives, by decide, by decide +kernel, by unfold State.spmSound; decide +kernel⟩, ⟨by decide +kernel, arrives⟩, ⟨arrives, by decide +kernel, by decide +kernel⟩,
    ⟨arrives, arrives, by decide⟩, ⟨arrives, by decide +kernel, by decide +kernel, by decide +kernel⟩, ⟨arrives, by decide +kernel, at_vault, by decide +kernel, by decide +kernel⟩,
    ⟨arrives, by decide +kernel, by decide +kernel, by decide +kernel, by decide +kernel, by unfold State.spmSound; decide +kernel, rfl⟩,
    arrives, by decide +kernel, by decide +kernel⟩

/-- A message of the rig on its way to its station, and the mapped rig that holds it with a cached page. -/
def leavingMsg (proc : BitVec 4) (stage : Stage) : Msg := { (rig []).blank 0 0 with proc := proc, va := 0x100000008, size := 3, stage := stage }
def rigCached (m : Msg) (w : Bool) : State :=
  { rigMapped [] with mesh := [m] }.putStation 0
    { (rigMapped []).stationAt 0 with cache := [{ pid := 1, level := 2, vpage := 4, frame := 0, w := w, x := true, bad := false }] }

theorem witness_StationsAndReplies :
    (let s := rigMesh (leavingMsg 0 .toStation); s.mesh[0]? = some (leavingMsg 0 .toStation) ∧ s.stpt.getLsbD 0 = false) ∧
    (let s := rigCached (leavingMsg 1 .toStation) true;
      s.stpt.getLsbD 0 = true ∧ (s.stationAt 0).hit 1 0x100000008 = some { pid := 1, level := 2, vpage := 4, frame := 0, w := true, x := true, bad := false }) ∧
    (let s := rigCached (leavingMsg 1 .toStation) false;
      (s.stationAt 0).hit 1 0x100000008 = some { pid := 1, level := 2, vpage := 4, frame := 0, w := false, x := true, bad := false }) ∧
    (let s := { rigMapped [] with mesh := [leavingMsg 0 .toStation] }; (s.stationAt 0).hit 1 0x100000008 = none ∧ (s.stationAt 0).walks = []) ∧
    (let w : Walk := { pid := 1, va := 0x100000000 };
      let s := { rigMapped [] with mesh := [leavingMsg 0 .walking] }.putStation 0 { (rigMapped []).stationAt 0 with walks := [w] };
      (s.stationAt 0).walks = [w] ∧ s.stpt.getLsbD 0 = true ∧ stationOf 0 = 0 ∧ (0x100000008 : Word).toNat / 2 ^ 16 * 2 ^ 16 = w.va.toNat ∧
        ∃ y, (s.putStation 0 { s.stationAt 0 with walks := [] }).walk { core := stationCore 0, pid := 1, id := { lid := 0, sid := 0 } } 1 0x100000000 =
          (y, .ok { level := 2, frame := 0, w := true, x := true })) ∧
    (let s := { rigCached (leavingMsg 0 .replied) true with invs := [{ station := 0, core := 0, slot := 0, pid := 1, page := 0x10000, allv := false, allp := false }] };
      s.invs.length = 1 ∧ ∀ m ∈ s.mesh, m.stage = .replied) ∧
    (let m := { leavingMsg 1 .replied with storing := true, entry := some 0, cause := some .refused, status := 4 };
      let e := { entry 0 false with cause := none };
      let s := (rigMesh m).onMe fun v => { v with board := [e] };
      s.mesh[0]? = some m ∧ m.client = .slot 0 0 (s.slotAt 0 0).id ∧ (s.slotAt 0 0).strand.isSome = true ∧ m.proc ≠ 7 ∧ (s.slotAt 0 0).handler = false ∧
        (s.slotAt 0 0).trapAt ≠ some s.now ∧ (s.slotAt 0 0).board.find? (fun e => e.num == 0) = some e ∧ e.left ≤ 1 ∧ e.cause = none) := by
  refine ⟨by decide +kernel, by decide +kernel, by decide +kernel, by decide +kernel, ?_, by decide +kernel, by decide +kernel⟩
  exact ⟨by decide +kernel, by decide +kernel, by decide +kernel, by decide +kernel, _, gives_exactly (by decide +kernel)⟩

/-- The rig with awaited accesses and their replies in the mesh. -/
def rigAwaits (m : Msg) (l : List Await) : State := (rigMesh m).onMe fun v => { v with awaits := l }

theorem witness_AwaitedReply :
    let m := leavingMsg 0 .replied
    AwaitedReply (rigAwaits m [awaitLoad]) 0 m 0 0 [] [] awaitLoad ∧ ((rigAwaits m [awaitLoad]).slotAt 0 0).poisonIn (banksOf [0]) = none ∧
      (let n := { m with cause := some .refused, status := 4 }; AwaitedReply (rigAwaits n [awaitLoad]) 0 n 0 0 [] [] awaitLoad) ∧
      (let n := { m with cause := some .refused, status := 4 }; let b := { awaitLoad with seqs := [1] };
        AwaitedReply (rigAwaits n [b, awaitLoad]) 0 n 0 0 [b] [] awaitLoad) := by
  refine ⟨⟨rfl, rfl, rfl, rfl, rfl, rfl, by simp, by decide +kernel, rfl, by decide⟩, by decide +kernel, ⟨rfl, rfl, rfl, rfl, rfl, rfl, by simp, by decide +kernel, rfl, by decide⟩,
    ⟨rfl, rfl, rfl, rfl, rfl, rfl, by decide +kernel, by decide +kernel, rfl, by decide⟩⟩

/-! ## Hypotheses met: copies, gathers, agents, banks, channels -/

/-- A copy command of 72 bytes of the own window, with nothing landed or all of it. -/
def copyOf (d : CopyDesc) (landed : List Nat) : CopyCmd :=
  { num := 0, desc := d, pid := 1, prv := true, acct := 1, id := { lid := 0, sid := 0 }, slot := 0, entry := some 0, landed := landed, sent := [], got := [],
    failed := none, stopped := false, base := 0, tag := none }
def descOf (src dst : Word) (mode : BitVec 2) : CopyDesc :=
  { at_ := 0x40, src := src, dst := dst, len := 72, cmode := mode, csc := 0, sbf := false, caddr := 0x10000FF8, cval := 7 }
def rigCopying (x : CopyCmd) : State := (rigLive []).onHere fun k => { k with copies := [x] }

theorem plain_copy {s : State} {x : CopyCmd} (h : (s.coreAt 0).copies.find? (fun y => y.num == 0) = some x ∧ s.reservedBase 0 = 0x0FF00000 ∧
    (x.desc.len ≠ 4096 ∧ x.desc.sbf = false) ∧ x.desc.src.toNat + x.desc.len ≤ 0x0FF00000 ∧ x.desc.dst.toNat + x.desc.len ≤ 0x0FF00000 ∧
    (x.desc.src.toNat + x.desc.len ≤ x.desc.dst.toNat ∨ x.desc.dst.toNat + x.desc.len ≤ x.desc.src.toNat) ∧
    (∀ i, i < x.desc.len → s.owns x.pid (0 * 2 ^ 28 + x.desc.src.toNat + i) = true ∧ s.owns x.pid (0 * 2 ^ 28 + x.desc.dst.toNat + i) = true) ∧
    x.desc.cmode ≠ 1 := by decide +kernel)
    (m : ∀ i, i < x.desc.len → OwnerReadable s (0 * 2 ^ 28 + x.desc.src.toNat + i) ∧ OwnerReadable s (0 * 2 ^ 28 + x.desc.dst.toNat + i) := by
      unfold OwnerReadable; decide +kernel) : PlainCopy s 0 0 x :=
  ⟨h.1, by decide, h.2.1, h.2.2.1, h.2.2.2.1, h.2.2.2.2.1, h.2.2.2.2.2.1, h.2.2.2.2.2.2.1, m, h.2.2.2.2.2.2.2⟩

/-- A gather of one page's keys at core 0. -/
def gatherCmd : GatherCmd :=
  { num := 0, from_ := 0, slot := 0, id := { lid := 0, sid := 0 }, entry := none, pid := 1, prv := true, acct := 1, head := 0x40, list := 0x200, nl := 1,
    ctl := 1, dst := 0x10000000, cb := 0, landed := [], failed := none, stopped := false }

theorem witness_CopyAndGatherChunks :
    (let x := copyOf (descOf 0 0x48 0) [];
      PlainCopy (rigCopying x) 0 0 x ∧ x.stopped = false ∧ x.failed = none ∧ x.base ≤ 64 ∧ 64 < x.desc.len ∧ 64 ∉ x.landed ∧ x.sent = [] ∧
        ((rigCopying x).coreAt 0).waiters = [] ∧ (rigCopying x).sound 64 8 ∧ (rigCopying x).sound 0x88 8 ∧ x.left ≠ 0 ∧ (rigCopying x).chunkBehind 0 x 64 = false ∧ (rigCopying x).copyEndBehind 0 x = false ∧
        (rigCopying x).tagFree 0 x.tag = true ∧ Unframed (rigCopying x) 0 0) ∧
    (let x := copyOf (descOf 0 0x48 0) [];
      let s := (rigCopying x).onHere fun k => { k with ctl := List.replicate 8 (.act 0) };
      PlainCopy s 0 0 x ∧ s.chunkBehind 0 x 64 = false ∧ s.tagFree 0 x.tag = false ∧ s.tagFree 0 (some 1) = false) ∧
    (let x := copyOf (descOf 0 0x40 0) [];
      ((rigCopying x).coreAt 0).copies.find? (fun y => y.num == 0) = some x ∧ x.desc.cmode ≠ 1 ∧ x.desc.src.toNat < x.desc.dst.toNat + x.desc.len ∧
        x.desc.dst.toNat < x.desc.src.toNat + x.desc.len ∧ (rigCopying x).chunkBehind 0 x 0 = false ∧
        (rigCopying x).tagFree 0 x.tag = true) ∧
    (let x := copyOf (descOf 0 0x48 2) [0, 64];
      x.left = 0 ∧ x.sent = [] ∧ (rigCopying x).copyEndBehind 0 x = false ∧ Unframed (rigCopying x) 0 0 ∧ x.desc.cmode = 2 ∧ 2 ^ 28 ≤ x.desc.caddr.toNat ∧ x.desc.caddr.toNat < 2 ^ 32 ∧ spmCore x.desc.caddr.toNat = 0 ∧
        2 ≤ idxOf x.desc.caddr.toNat ∧ idxOf x.desc.caddr.toNat ≠ 31 ∧ ((rigCopying x).coreAt 0).waiters = [] ∧ (rigCopying x).spmByte x.pid x.desc.caddr.toNat = some (4096 + 0xFF8) ∧ (rigCopying x).spmSound 0 (4096 + 0xFF8) 8) ∧
    (let s := (rigLive []).onHere fun k => { k with gathers := [gatherCmd] };
      (s.coreAt 0).gathers.find? (fun y => y.num == 0) = some gatherCmd ∧ 0 < gatherCmd.total ∧ 0 ∉ gatherCmd.landed ∧ gatherCmd.cb = 0 ∧ s.gatherBehind 0 gatherCmd 0 = false ∧
        ∃ y, runJob (gatherBytes gatherCmd (gatherCmd.agent 0) 0) s = (y, .error 6) ∧ Unframed y 0 0) :=
  ⟨⟨plain_copy, by decide +kernel, rfl, by decide, by decide +kernel, by decide +kernel, rfl, rfl, by unfold State.sound; decide +kernel,
      by unfold State.sound; decide +kernel, by decide +kernel, by decide +kernel, by decide +kernel, by decide +kernel, by unfold Unframed; decide +kernel⟩,
    ⟨plain_copy, by decide +kernel, by decide +kernel, by decide +kernel⟩, by decide +kernel,
    ⟨by decide +kernel, rfl, by decide +kernel, by unfold Unframed; decide +kernel, by decide, by decide +kernel, by decide +kernel, by decide +kernel, by decide +kernel, by decide +kernel, by decide +kernel, by decide +kernel,
      by unfold State.spmSound; decide +kernel⟩, by decide +kernel, by decide +kernel, by decide +kernel, rfl, by decide +kernel, _, gives_error_with (by decide +kernel),
      by unfold Unframed; decide +kernel⟩

/-- A KV table header of one block and one sequence at local address 0x40, a gather descriptor at 0x100, and bag descriptors at 0x400 and 0x440, the
second with an index out of range under the trap policy. -/
def tableHeader : List Byte :=
  leBytes 8 0x1000 ++ leBytes 8 0x2000 ++ leBytes 8 0x4000 ++ leBytes 8 0xC000 ++ leBytes 8 1 ++ leBytes 8 0xFFFFFF ++ leBytes 8 0x800 ++ leBytes 8 1
def gatherDesc : List Byte := leBytes 8 0x200 ++ leBytes 8 (1 + 2 ^ 32) ++ leBytes 8 0x10000000 ++ leBytes 8 0
def bagDesc (n : Nat) : List Byte :=
  leBytes 8 0 ++ leBytes 8 (1 + 2 ^ 32) ++ leBytes 8 0x900 ++ leBytes 8 n ++ leBytes 8 0 ++ leBytes 8 0x3000 ++ leBytes 16 0x28
def rigTableOf (m : Msg) : State :=
  let s := rigMesh m
  { s with mem := ((((s.mem.write 0x40 tableHeader).write 0x100 gatherDesc).write 0x400 (bagDesc 0)).write 0x440 (bagDesc 1)).write 0x900 [1] }

theorem witness_AgentWork :
    (let m := arrived 7 1 0x40 0;
      Arrived (rigTableOf m) 0 m 7 ∧ ∃ z, runJob (agentJob m) (counted (rigTableOf m) m) = (z, .ok (2 ^ 48 - 1))) ∧
    (let m := arrived 7 2 0x40 0;
      Arrived (rigTableOf m) 0 m 7 ∧ (∃ y tb, runJob (header { vault := m.dst, who := m.who, acct := m.acct } (m.paddr % 2 ^ 28)) (counted (rigTableOf m) m) =
        (y, .ok tb)) ∧ ∃ z, runJob (agentJob m) (counted (rigTableOf m) m) = (z, .ok 0)) ∧
    (let m := { arrived 7 3 0x40 0 with opa := 0x100 };
      Arrived (rigTableOf m) 0 m 7 ∧ m.client = .slot 0 0 (rigTableOf m).me.id ∧ m.data = [] ∧
        let a : Agent := { vault := m.dst, who := m.who, acct := m.acct };
        let r := runJob (rd a m.opa.toNat 32) (counted (rigTableOf m) m);
        r.2.toOption = some gatherDesc ∧ ∃ y g, runJob (gatherOf a (m.paddr % 2 ^ 28) gatherDesc) (r.1.noteWork 0 0 (rigTableOf m).me.id m.entry fun e =>
          match e.work with | .gather g => { e with work := .gather { g with bytes := gatherDesc } } | _ => e) = (y, .ok g)) ∧
    (let m := arrived 6 0 0x400 0;
      Arrived (rigTableOf m) 0 m 6 ∧ ∃ z, runJob (embReduce { vault := m.dst, who := m.who, acct := m.acct } (m.paddr % 2 ^ 28) 0) (counted (rigTableOf m) m) =
        (z, .ok (.inl 0))) ∧
    (let m := arrived 6 0 0x440 0;
      ∃ z, runJob (embReduce { vault := m.dst, who := m.who, acct := m.acct } (m.paddr % 2 ^ 28) 0) (counted (rigTableOf m) m) = (z, .ok (.inr 0x900))) ∧
    (let m := arrived 6 0 0 0; Arrived (rigTableOf m) 0 m 6 ∧
      ∃ z, runJob (embReduce { vault := m.dst, who := m.who, acct := m.acct } (m.paddr % 2 ^ 28) 0) (counted (rigTableOf m) m) = (z, .error 6)) :=
  ⟨⟨arrives, _, gives_exactly (by decide +kernel)⟩, ⟨arrives, gives_ok _ (by decide +kernel), _, gives_exactly (by decide +kernel)⟩,
    ⟨arrives, by decide +kernel, rfl, by decide +kernel, gives_ok _ (by decide +kernel)⟩, ⟨arrives, _, gives_exactly (by decide +kernel)⟩, ⟨_, gives_exactly (by decide +kernel)⟩,
    arrives, _, gives_error_with (by decide +kernel)⟩


/-! `kv.app` on a table of one block: the sequence's length, the block's entry, and the id that the batch names. -/

def kvTab : KvTable := { at_ := 0x40, tbase := 0x1000, kbase := 0x2000, vbase := 0x4000, rbase := 0xC000, nblk := 1, sqbase := 0x800, nseq := 1, win := 0 }
def kvBatch : Batch := { soff := 0x600, ksrc := 0x6000, vsrc := 0x6100, first := 0, n := 1 }
def kvAgent : Agent := { vault := 0, who := (arrived 7 0 0x40 0).who, acct := (arrived 7 0 0x40 0).acct }
def kvMsg : Msg := { arrived 7 0 0x40 0 with opa := 0x500 }
def kvState (len entry id : Nat) : State :=
  let s := rigMesh kvMsg
  { s with mem := ((((s.mem.write 0x40 tableHeader).write 0x500 (leBytes 8 0x600 ++ leBytes 8 0x6000 ++ leBytes 8 0x6100 ++ leBytes 8 (2 ^ 32))).write 0x600
      (leBytes 4 id)).write 0x800 (leBytes 8 len)).write 0x1000 (leBytes 16 entry) }
/-- The state after the header and the descriptor are read. -/
def kvRead (s : State) : State := (runJob (do let h ← header kvAgent 0x40; let d ← batchOf kvAgent 0x500; return (h, d)) (counted s kvMsg)).1
/-- A valid block of sequence 0, logical block 0, with one token. -/
def kvEntry : Nat := 2 ^ 63 + 2 ^ 53

theorem kv_read {len entry id : Nat} (h : (runJob (do let h ← header kvAgent 0x40; let d ← batchOf kvAgent 0x500; return (h, d))
    (counted (kvState len entry id) kvMsg)).2.toOption = some (kvTab, kvBatch) := by decide +kernel) :
    runJob (do let h ← header kvAgent 0x40; let d ← batchOf kvAgent 0x500; return (h, d)) (counted (kvState len entry id) kvMsg) =
      (kvRead (kvState len entry id), .ok (kvTab, kvBatch)) := gives_exactly h

theorem witness_AgentWork_append :
    (Arrived (kvState 1 kvEntry 0) 0 kvMsg 7 ∧ runJob (do let h ← header kvAgent 0x40; let d ← batchOf kvAgent 0x500; return (h, d))
      (counted (kvState 1 kvEntry 0) kvMsg) = (kvRead (kvState 1 kvEntry 0), .ok (kvTab, kvBatch)) ∧
      ∃ z, appendsFrom kvAgent kvTab kvBatch 0 1 (kvRead (kvState 1 kvEntry 0)) z) ∧
    (Arrived (kvState 1 kvEntry 1) 0 kvMsg 7 ∧ ∃ w, runJob (appendOne kvAgent kvTab kvBatch 0) (kvRead (kvState 1 kvEntry 1)) = (w, .ok (some .bad))) ∧
    (∃ w, runJob (appendOne kvAgent kvTab kvBatch 0) (kvRead (kvState 0 0 0)) = (w, .ok (some .dry))) ∧
    (Arrived (kvState (2 ^ 29 + 1) 0 0) 0 kvMsg 7 ∧ ∃ w, runJob (appendOne kvAgent kvTab kvBatch 0) (kvRead (kvState (2 ^ 29 + 1) 0 0)) = (w, .error 6)) ∧
    (let m := arrived 7 0 0 0; Arrived (rigTableOf m) 0 m 7 ∧
      ∃ y, runJob (do let h ← header kvAgent 0; let d ← batchOf kvAgent 0; return (h, d)) (counted (rigTableOf m) m) = (y, .error 6)) := 
  ⟨⟨arrives, kv_read, _, _, gives_exactly (by decide +kernel), rfl⟩, ⟨arrives, _, gives_exactly (by decide +kernel)⟩, ⟨_, gives_exactly (by decide +kernel)⟩,
    ⟨arrives, _, gives_error_with (by decide +kernel)⟩, arrives, _, gives_error_with (by decide +kernel)⟩

/-- The id and the length that an append reads, and the block it finds. -/
theorem witness_AgentWork_sequence :
    (∃ y, runJob (seqId kvAgent 0x600 0) (kvState 1 0 5) = (y, .ok 5)) ∧
    (∃ y1, runJob (seqId kvAgent 0x600 0) (kvState (2 ^ 29) 0 0) = (y1, .ok 0) ∧ ∃ y2, runJob (seqLen kvAgent kvTab 0) y1 = (y2, .ok (2 ^ 29))) ∧
    (∃ y1, runJob (seqId kvAgent 0x600 0) (kvState 1 0 0) = (y1, .ok 0) ∧ ∃ y2, runJob (seqLen kvAgent kvTab 0) y1 = (y2, .ok 1) ∧
      ∃ y3, runJob (lookup kvAgent kvTab 0 0) y2 = (y3, .ok none)) ∧
    (∃ y1, runJob (seqId kvAgent 0x600 0) (kvState 0 0 0) = (y1, .ok 0) ∧ ∃ y2, runJob (seqLen kvAgent kvTab 0) y1 = (y2, .ok 0) ∧
      ∃ y3, runJob (freeCount kvAgent kvTab) y2 = (y3, .ok 0)) ∧
    (∃ y1, runJob (seqId kvAgent 0x600 0) (kvState 1 kvEntry 0) = (y1, .ok 0) ∧ ∃ y2, runJob (seqLen kvAgent kvTab 0) y1 = (y2, .ok 1) ∧
      (∃ z, runJob (appendOne kvAgent kvTab kvBatch 0) (kvState 1 kvEntry 0) = (z, .ok none)) ∧
      ∃ y3, runJob (lookup kvAgent kvTab 0 0) y2 = (y3, .ok (some 0))) ∧
    [(0x2000 + 256, 256), (0x4000 + 256, 256), (0xC000, 512), (0x1000, 16), (0x800, 8)].Pairwise Apart :=
  ⟨⟨_, gives_exactly (by decide +kernel)⟩, ⟨_, gives_exactly (by decide +kernel), _, gives_exactly (by decide +kernel)⟩,
    ⟨_, gives_exactly (by decide +kernel), _, gives_exactly (by decide +kernel), _, gives_exactly (by decide +kernel)⟩,
    ⟨_, gives_exactly (by decide +kernel), _, gives_exactly (by decide +kernel), _, gives_exactly (by decide +kernel)⟩,
    ⟨_, gives_exactly (by decide +kernel), _, gives_exactly (by decide +kernel), ⟨_, gives_exactly (by decide +kernel)⟩, _, gives_exactly (by decide +kernel)⟩,
    by unfold Apart; decide⟩

/-- Posted stores of the rig's strand on their way: to local address 0, and to its scratchpad allocation. -/
theorem witness_CopyAndGatherChunks_behind :
    (let x := copyOf (descOf 0 0x48 0) [];
      (({ rigCopying x with mesh := [{ arrived 1 0 0 0 with storing := true }] } : State).coreAt 0).copies.find? (fun y => y.num == 0) = some x ∧
        ({ rigCopying x with mesh := [{ arrived 1 0 0 0 with storing := true }] } : State).chunkBehind 0 x 0 = true) ∧
    (let x := copyOf (descOf 0 0x48 2) [0, 64];
      ({ rigCopying x with mesh := [{ arrived 9 0 0 0x10000FF8 with storing := true }] } : State).copyEndBehind 0 x = true) ∧
    (({ rigLive [] with mesh := [{ arrived 9 0 0 0x10000000 with storing := true }] } : State).gatherBehind 0 gatherCmd 0 = true) := by decide +kernel

/-- A channel entry on its way from core 0 toward x + 1. -/
def chanMsg : ChanMsg := { core := 0, dir := 1, entry := { row := 7, pid := 1 } }

theorem witness_BanksAndThrottle :
    ((rigLive []).now < ((rigLive []).bankAt 0 31).due ∧ ((rigLive []).bankAt 0 31).waiting = false) ∧
    (let s := { rigAt 0 (fun v => { v with run := some (.tld 8 512 false) }) with now := 2 ^ 14 };
      (s.bankAt 0 0).due ≤ s.now ∧ ∃ e ∈ (s.coreAt 0).slots, ∃ beats next stopped, e.2.run = some (.tld beats next stopped) ∧ next / 2 ^ 23 % 32 = 0) ∧
    (((rigLive []).clusterAt 63).now.getLsbD 1 = false) ∧
    (let s := (rigLive []).onHere fun k => { k with ctl := [.act 0x0FF40000, .pre 0] };
      (s.coreAt 0).ctl[0]? = some (.act 0x0FF40000) ∧ s.isLost 0x0FF40000 = false ∧ (s.coreAt 0).ctl[1]? = some (.pre 0) ∧ (((s.coreAt 0).ctl.take 1).any fun q => q.addr / 2 ^ 23 % 32 == 0) = false) ∧
    (let s := (rigLive []).onHere fun k => { k with ctl := [.act 0x1000, .pre 0] }; (((s.coreAt 0).ctl.take 1).any fun q => q.addr / 2 ^ 23 % 32 == 0) = true) ∧
    ((1023, 30) ∉ (rigLive []).quince.lost ∧ (1023, 31) ∉ (rigLive []).quince.lost ∧ ((rigLive []).coreAt 1023).killed = false) :=
  ⟨by decide +kernel, ⟨by decide +kernel, _, .head _, 8, 512, false, by decide +kernel, by decide⟩, by decide +kernel, by decide +kernel, by decide +kernel, by decide +kernel⟩

theorem witness_StreamEvents :
    (let s := rigStream [] [{ patternStream with kind := .inPattern }];
      HasStream (s.slotAt 0 0) 0 .inPattern patternStream ∧ patternStream.icnt ≠ 0 ∧ patternStream.fifo.length < 4 ∧ patternStream.ahead < patternStream.cnt ∧
        ∃ y, s.dataRead 0 0 (entryAddress patternStream 0).toNat 128 = (y, .ok (List.replicate 128 0)) ∧ (y.slotAt 0 0).streams = (s.slotAt 0 0).streams ∧ s.regionCheck 0 0 (entryAddress patternStream 0).toNat = (s, none) ∧ s.tagFree 0 patternStream.tag = true ∧
          ((s.wherePut (s.ctx 0 0) (entryAddress patternStream 0).toNat .read).any fun pa => s.behind (s.slotAt 0 0).id true pa 128) = false) ∧
    (let s := (rigStream [] [{ patternStream with kind := .inPattern }]).onHere fun k => { k with ctl := List.replicate 8 (.act 0) };
      s.tagFree 0 none = false ∧ s.tagFree 0 (some 1) = false) ∧
    (let x := { patternStream with kind := .outPattern, fifo := [⟨7, none, 0xFF80, []⟩] };
      let s := rigStream [] [x];
      HasStream (s.slotAt 0 0) 0 .outPattern x ∧ (0xFF80 : Word).toNat + 128 ≤ 0x0FF00000 ∧ s.reservedBase 0 = 0x0FF00000 ∧
        s.owns (s.slotAt 0 0).pid (0 * 2 ^ 28 + (0xFF80 : Word).toNat) = true ∧ OwnerReadable s (0 * 2 ^ 28 + (0xFF80 : Word).toNat) ∧ s.tagFree 0 x.tag = true ∧ s.behind (s.slotAt 0 0).id false 0xFF80 128 = false ∧ s.sound (0 * 2 ^ 28 + (0xFF80 : Word).toNat) 128) ∧
    (let x := { patternStream with kind := .outPattern, fifo := [⟨7, none, 0x100000000, []⟩] };
      let s := rigStream [] [x]; HasStream (s.slotAt 0 0) 0 .outPattern x ∧ (s.slotAt 0 0).board.length < 16) ∧
    (let s := { rigLive [] with chans := [chanMsg, chanMsg] };
      s.chans[0]? = some chanMsg ∧ chanMsg.dir = 1 ∧ chanMsg.core % 32 ≠ 31 ∧ (s.coreAt 1).killed = false ∧
        ((look 0 (s.coreAt 1).inChan).getD []).length < 8) :=
  ⟨⟨⟨by decide +kernel, by decide +kernel⟩, by decide, by decide, by decide, _, gives_exactly (by decide +kernel), by decide +kernel, rfl, by decide +kernel, by decide +kernel⟩,
    by decide +kernel,
    ⟨⟨by decide +kernel, by decide +kernel⟩, by decide, by decide +kernel, by decide +kernel, by unfold OwnerReadable; decide +kernel, by decide +kernel, by decide +kernel, by unfold State.sound; decide +kernel⟩,
    ⟨⟨by decide +kernel, by decide +kernel⟩, by decide +kernel⟩, by decide +kernel⟩

/-! ## Hypotheses met: tasks, power, management -/

/-- A task of a record, ready at cycle 0. -/
def taskOf (bs : List Byte) (audit : Option Nat) : Task :=
  { num := 0, rec_ := bs, pid := 1, prv := true, id := { lid := 0, sid := 0 }, acct := 1, fpc := 0, fmt := 0, sca := 0, scb := 0, got0 := true, got1 := true, bad := none, readyAt := some 0,
    resume := 0, home := none, audit := audit, c0 := [], scales := [] }

/-- That task in execution on core 0, its events begun or not. -/
def runningOf (t : Task) (begun : Bool) : Running := { task := t, core := 0, ipk := 0, begun := begun, lut := [], tld := none, tag := none }

/-- The live rig with cluster 0 changed. -/
def rigCluster (f : Cluster → Cluster) : State := (rigLive []).onCluster 0 f

/-- An integer-class operation of the rig's strand, with one K-block. -/
def intOp : MmaOp := { queued with word := 0x20, fmt := 0x44, slot := 0 }
def rigQueue (l : List MmaOp) (now : Nat) : State :=
  { (rigTiles [] 1 1) with now := now }.onHere fun k => { k with engine := { k.engine with bk := 32, bfmt := 4, queue := l } }

def partialOf (held : Bool) (owner : Nat) : Partial :=
  { owner := owner, sender := 1, lid := 0, group := 1, tile := 0, op := { intOp with group := some (1, 0, 1) }, rows := List.replicate 32 0, preds := [],
    held := held }

theorem witness_MatrixProducts :
    ((intOp.afmt = 4 ∨ intOp.afmt = 5) ∧ ((rigQueue [intOp] 0).tileAt 0 intOp.td).ty = 1 ∧ ((rigQueue [intOp] 0).tileAt 0 intOp.td).rows.length = 32) ∧
    ((rigQueue [intOp] 0).here.engine.queue = [intOp] ∧ (rigQueue [intOp] 0).here.engine.frozen = false ∧ (rigQueue [intOp] 0).plainTask 0 = false ∧
      (rigQueue [intOp] 0).now < intOp.started + intOp.cycles ∧ intOp.started + intOp.cycles ≤ (rigQueue [intOp] 10000).now ∧
      ((rigQueue [intOp] 10000).product 0 intOp true).2.2 = none ∧ Unframed ((rigQueue [intOp] 10000).product 0 intOp true).1 0 0 ∧
      (rigQueue [intOp] 10000).opBehind 0 intOp = false ∧ intOp.task = none ∧ intOp.group = none ∧ (rigQueue [intOp] 0).here.engine.badA = false ∧ (rigQueue [intOp] 0).here.engine.badB = false) ∧
    (let s := (rigQueue [intOp] 0).onHere fun k => { k with engine := { k.engine with badB := true } }; s.here.engine.badB = true) ∧
    (let o := { intOp with bar := bar5 };
      let s := { rigQueue [o] 10000 with mesh := [{ arrived 9 4 0 bar5 with storing := true }] };
      s.here.engine.queue = [o] ∧ o.task = none ∧ o.group = none ∧ s.plainTask 0 = false ∧ s.opBehind 0 o = true) ∧
    (let s := { rigQueue [] 0 with partials := [partialOf false 2] }; s.partials[0]? = some (partialOf false 2) ∧ (s.coreAt 2).killed = false ∧
      (s.onCore 2 fun k => { k with killed := true }).partials[0]? = some (partialOf false 2)) ∧
    (let o := { intOp with group := some (1, 0, 0), blocks := 1, word := 0x400020 };
      let m := { partialOf true 0 with op := { o with group := some (1, 0, 1) } };
      let s := { rigQueue [o] 0 with partials := [m] };
      s.partials[0]? = some m ∧ m.held = true ∧ (s.coreAt m.owner).killed = false ∧ s.ownerOp m = some o ∧ o.b ≤ o.blocks ∧ o.word = m.op.word ∧
        o.got + 2 ≤ o.parts) := by
  refine ⟨by decide +kernel, by unfold Unframed; decide +kernel, by decide +kernel, by decide +kernel, by decide +kernel, by decide +kernel⟩

theorem witness_ClusterTasks :
    (let t := taskOf recordBytes none;
      let s := rigCluster fun k => { k with queue := [t] };
      s.chosen 0 = some (.task t) ∧ (∀ x ∈ (s.clusterAt 0).queue, s.doomedTask 0 x = false) ∧ (s.engineFor 0 t).isSome = true ∧
        (∀ j ∈ s.items 0, j.prio ≤ 31 ∧ j.order < 2 ^ 64) ∧ t.bad = none ∧ t.audit = none ∧ s.taskBehind 0 t = false ∧ ∃ f, (recCmd t.rec_).form = some f ∧ f.isMma = false) ∧
    (let r : LeaveReq := { core := 0, slot := 0, owner := { lid := 0, sid := 0 }, energy := 1, current := 1, prio := 0, order := 0 };
      let s := (rigCluster fun k => { k with leaves := [r] }).onMe fun v => { v with run := some .leave };
      s.chosen 0 = some (.leave r)) ∧
    ((rigLive []).chosen 0 = none ∧ ∀ x ∈ ((rigLive []).clusterAt 0).queue, (rigLive []).doomedTask 0 x = false) ∧
    (let t := taskOf recordBytes none;
      let s := rigCluster fun k => { k with running := [runningOf t true] };
      RunsTask s 0 (runningOf t true) ∧ t.bad = none ∧ (s.coreAt 0).killed = false ∧ (∃ f, (recCmd t.rec_).form = some f ∧ f.isMma = false) ∧
        (recWord t.rec_ 0x30).testBit 31 = false) ∧
    (let t := taskOf recordBytes (some 1);
      let s := (rigCluster fun k => { k with running := [runningOf t true] }).onCluster 1 fun k => { k with audit := some (0, 0) };
      (s.clusterAt 1).audit = some (0, 0) ∧ (s.clusterAt 0).running.find? (fun r => r.task.audit == some 1) = some (runningOf t true) ∧
        s.audc.getLsbD 6 = false) := by
  refine ⟨⟨by decide +kernel, by decide +kernel, by decide +kernel, by decide +kernel, rfl, rfl, by decide +kernel, .tzero, by decide +kernel, rfl⟩, by decide +kernel, by decide +kernel,
    ⟨by unfold RunsTask; decide +kernel, rfl, by decide +kernel, ⟨.tzero, by decide +kernel, rfl⟩, by decide +kernel⟩, by decide +kernel⟩

/-- A failing granule fails the whole read. -/
theorem fails_kept (f : State → Nat → State × Nat) (l : List Nat) (acc : State × Nat) (h : acc.2 ≠ 0) :
    (l.foldl (fun (acc : State × Nat) g => ((f acc.1 g).1, if acc.2 = 0 then (f acc.1 g).2 else acc.2)) acc).2 = acc.2 := by
  induction l generalizing acc with
  | nil => rfl
  | cons g l ih => rw [List.foldl_cons, ih _ (by simp [h])]; simp [h]

theorem lost_read {s : State} {w : Who} {a n : Nat} (h : s.isLost (a / 32 * 32) = true) (hn : 0 < n) : (s.vaultRead w a n).2.1 = 3 := by
  have first : ∃ l, granules a n = a / 32 :: l := by
    obtain ⟨k, hk⟩ : ∃ k, (a + n + 31) / 32 - a / 32 = k + 1 := ⟨(a + n + 31) / 32 - a / 32 - 1, by omega⟩
    exact ⟨_, by rw [granules, hk, List.range_succ_eq_map]; rfl⟩
  obtain ⟨l, hl⟩ := first
  simp only [State.vaultRead, hl, List.foldl_cons]
  rw [fails_kept (fun s g => s.readGranule w g)]
  · simp [State.readGranule, h]
  · simp [State.readGranule, h]

/-- A record of an `mma` of tile 0 for cluster 0. -/
def productBytes : List Byte := leBytes 8 0xCC000000 ++ leBytes 56 0

theorem witness_ClusterTasks_more :
    (let t := taskOf recordBytes none;
      let s := (rigCluster fun k => { k with queue := [t] }).onCore (recCore recordBytes) fun k => { k with killed := true };
      (∀ m ∈ s.mesh, m.rec_ = none) ∧ (s.clusterAt 0).queue = [t] ∧ s.doomedTask 0 t = true ∧ t.audit = none ∧ t.bad = none ∧ recWord t.rec_ 0x30 < 2 ^ 31) ∧
    (let m := { arrived 9 0 0 0 with rec_ := some (taskOf recordBytes none) };
      (rigMesh m).mesh[0]? = some m ∧ m.stage = .toOwner ∧ recClu recordBytes = 0) ∧
    (let t := taskOf productBytes none;
      let s := (rigQueue [intOp] 10000).onCluster 0 fun k => { k with running := [runningOf t true] };
      RunsTask s 0 (runningOf t true) ∧ t.bad = none ∧ (s.coreAt 0).killed = false ∧ (∃ z m, (recCmd t.rec_).form = some (.mma z m)) ∧ (s.coreAt 0).engine.queue = [intOp] ∧
        (s.coreAt 0).engine.frozen = false ∧ intOp.started + intOp.cycles ≤ s.now ∧ s.auditDue 0 = false ∧ (s.product 0 intOp true).2.2 = none ∧
        recOpd t.rec_ 2 % 2 ^ 48 = 0) ∧
    (let t := taskOf recordBytes (some 1);
      let s := (rigCluster fun k => { k with running := [runningOf t true] }).onCluster 1 fun k => { k with audit := some (0, 0) };
      ({ s with quince := { s.quince with lost := [(0, 0)] } }.vaultRead (t.ctx 0).who (s.auditSlot 1) 0x20000).2.1 = 3) := by
  refine ⟨by decide +kernel, by decide +kernel, ⟨by unfold RunsTask; decide +kernel, rfl, by decide +kernel, ⟨false, false, by decide +kernel⟩, by decide +kernel⟩,
    lost_read (by decide +kernel) (by decide)⟩

/-- Records of a `tld` of 64 bytes at 0x1000 and of a `bld` of K = 32 there. -/
def tldBytes : List Byte := leBytes 8 0xC8400110 ++ leBytes 8 0x1000 ++ leBytes 8 64 ++ leBytes 40 0
def bldBytes : List Byte := leBytes 8 0xC8600110 ++ leBytes 8 0x1000 ++ leBytes 8 32 ++ leBytes 40 0
def rigRuns (r : Running) (ctl : List CtlPacket) (now : Nat) : State :=
  { ((rigTiles [] 0 0).onCluster 0 fun k => { k with running := [r] }).onHere fun k => { k with ctl := ctl } with now := now }
/-- A posted store of the rig's strand at local address 0x1000, on its way. -/
def postedStore : Msg := { arrived 1 0 0x1000 0 with storing := true }

theorem witness_ClusterTasks_begin :
    (let r := runningOf (taskOf tldBytes none) false;
      RunsTask (rigRuns r [] 0) 0 r ∧ r.begun = false ∧ ((rigRuns r [] 0).coreAt 0).killed = false ∧ (rigRuns r [] 0).taskBehind 0 r.task = false ∧
        ({ rigRuns r [] 0 with mesh := [postedStore] } : State).taskBehind 0 r.task = true) ∧
    (let t := { taskOf bldBytes none with fmt := 0x44 }; let y := rigRuns (runningOf t true) [] 0;
      (recCmd t.rec_).form = some .bld ∧ (y.issueBld 0 t (recCmd t.rec_)).isOk = true) ∧
    (let t := { taskOf bldBytes none with fmt := 0x64 }; let y := rigRuns (runningOf t true) [] 0; (y.issueBld 0 t (recCmd t.rec_)).isOk = false) ∧
    (let t := taskOf productBytes none; let y := rigRuns (runningOf t true) [] 0;
      (recCmd t.rec_).form = some (.mma false false) ∧ (y.startMma 0 t false false).2.isSome = true) := by
  refine ⟨⟨by unfold RunsTask; decide +kernel, rfl, by decide +kernel, by decide +kernel, by decide +kernel⟩, by decide +kernel, by decide +kernel,
    by decide +kernel⟩

theorem witness_ClusterTasks_tld :
    (let q : TldRun := { beats := 8, next := 0x1000, from_ := 9, stopped := true };
      let r := { runningOf (taskOf tldBytes none) true with tld := some q }; RunsTask (rigRuns r [] 0) 0 r ∧ (recCmd r.task.rec_).form = some .tld) ∧
    (let q : TldRun := { beats := 8, next := 0x1000, from_ := 9, stopped := false };
      let r := { runningOf (taskOf tldBytes none) true with tld := some q }; RunsTask (rigRuns r [] 0) 0 r ∧ (rigRuns r [] 0).now < q.from_) ∧
    (let r := runningOf (taskOf (leBytes 8 0xC8400110 ++ leBytes 56 1) none) true;
      RunsTask (rigRuns r [] 0) 0 r ∧ (recCmd r.task.rec_).form = some .tld ∧ ((rigRuns r [] 0).tldRefused 0 r.task (recCmd r.task.rec_)).2 = some (.align, 1)) ∧
    (let r := runningOf (taskOf tldBytes none) true;
      RunsTask (rigRuns r [] 0) 0 r ∧ ((rigRuns r [] 0).stepTld r (recCmd r.task.rec_)).2 = some none ∧
        ((rigRuns r (List.replicate 8 (.act 0)) 0).stepTld r (recCmd r.task.rec_)).2 = none) := by
  refine ⟨⟨by unfold RunsTask; decide +kernel, by decide +kernel⟩, ⟨by unfold RunsTask; decide +kernel, by decide⟩,
    ⟨by unfold RunsTask; decide +kernel, by decide +kernel, by decide +kernel⟩, by unfold RunsTask; decide +kernel, by decide +kernel, by decide +kernel⟩

theorem witness_IntervalBoundaries :
    (∀ g, g < 64 → ((rigLive []).clusterAt g).queue = []) ∧
    (let k := { Cluster.reset 0 with issued := [(1, 2), (0, 1)], dues := [(1, 1)] }; (k.issued.map (·.1)).Nodup ∧ (k.dues.map (·.1)).Nodup) ∧
    (∀ g, g < 64 → ((rigLive []).clusterAt g).claimPrio ≤ 31) ∧
    (let s := rigCluster fun k => { k with cpwr := 4, permits := 1 }; (s.clusterAt 0).cpwr.getLsbD 2 = true ∧ (s.clusterAt 0).power = .up ∧
      charged (s.clusterAt 0) = 1) ∧
    (let k := { Cluster.reset 0 with cpwr := 2 }; Eco k ∧ k.switching = false ∧ k.step ≠ .economy) ∧
    (let k := { Cluster.reset 0 with step := .economy, low := true }; ¬ Eco k ∧ k.switching = false ∧ k.step = .economy) ∧
    (IdleCluster { rigLive [] with cores := [] } 0) := by
  refine ⟨by decide +kernel, by decide +kernel, by decide +kernel, by decide +kernel,
    by unfold Eco; decide +kernel, by unfold Eco; decide +kernel, by unfold IdleCluster; decide +kernel⟩

theorem witness_WakeAndThrottles :
    ((rigCluster fun k => { k with power := .held 5 true }).clusterAt 0).power = .held 5 true ∧
    ((rigCluster fun k => { k with power := .gated }).clusterAt 0).power = .gated ∧ ((rigLive []).clusterAt 0).power = .up ∧
    (let s := rigCluster fun k => { k with power := .queued }; ({ s with quince := { s.quince with inrush := [0, 1] } }).quince.inrush = 0 :: [1]) ∧
    ((rigCluster fun k => { k with now := 1, coreSince := 0 }).clusterAt 0).now.getLsbD 0 = true ∧ ((rigLive []).clusterAt 0).now.getLsbD 0 = false ∧
    (rigLive []).quince.pcap < 1501 ∧ (rigCluster fun k => { k with switching := true }).clusterAt 0 = { (rigLive []).clusterAt 0 with switching := true } ∧
    ((rigLive []).clusterAt 0).now.getLsbD 2 = false := by decide +kernel

theorem witness_RegisterWrites : (0x8000000000000014 : BitVec 64).toNat % 32 ≤ 20 ∧ 20 < (0x15 : BitVec 64).toNat % 32 ∧ (rigLive []).quince.busy = false ∧
    ¬ Writable 0x4010 ∧ (0x4010 : Nat) % 8 = 0 := by
  refine ⟨by decide, by decide, by decide +kernel, ?_, by decide⟩
  rintro (h | h | h | h)
  · revert h; decide
  all_goals omega

/-- The live rig with a mailbox command running. -/
def rigCommand (cmd arg len : XWord) : State :=
  let s := rigLive []
  { s with quince := { s.quince with cmd := cmd, arg := arg, len := len, busy := true } }

/-- A range of a live vault without an error. -/
theorem live_vault {s : State} {a n : Nat} (h : a + n ≤ 2 ^ 38 ∧ a < 2 ^ 38 ∧ (s.coreAt (a / 2 ^ 28)).killed = false ∧
    ∀ g ∈ granules a n, s.isLost (g * 32) = false ∧ s.badGran.contains g = false := by decide +kernel) (hi : s.injected = [] := by rfl) : InLiveVault s a n :=
  ⟨h.1, h.2.1, h.2.2.1, fun g hg => ⟨(h.2.2.2 g hg).1, (h.2.2.2 g hg).2, by simp [hi]⟩⟩

/-- The bytes of words, each written as `n` of them. -/
theorem flat_length {α : Type} (f : α → List Byte) (n : Nat) (h : ∀ a, (f a).length = n) (l : List α) : (l.flatMap f).length = n * l.length := by
  induction l with
  | nil => rfl
  | cons a l ih => rw [List.flatMap_cons, List.length_append, h, ih, List.length_cons]; ring

/-- A digest has at most 48 bytes, and a report at most 348. -/
theorem sha_length (l : List Byte) : (sha384 l).length ≤ 48 := by
  rw [sha384, flat_length _ 8 (by simp [bigBytes]), List.length_take]
  omega

theorem report_length {s : State} {nonce : List Byte} (h : nonce.length = 48) : (s.report nonce).length ≤ 348 := by
  have a := sha_length s.quince.active
  have b := sha_length Config.columnRemap
  have c := sha_length ((List.range 1024).flatMap fun c => leBytes 4 (s.coreAt c).feat.toNat)
  simp only [State.report, List.length_append, leBytes_length, h]
  omega

/-- A range of a live vault in a machine with no error in its memory. -/
theorem flawless {s : State} {a n : Nat} (hn : a + n ≤ 2 ^ 38) (h : s.quince.lost = [] ∧ s.badGran = [] ∧ s.injected = [] ∧ a < 2 ^ 38 ∧
    (s.coreAt (a / 2 ^ 28)).killed = false := by decide +kernel) : InLiveVault s a n :=
  ⟨hn, h.2.2.2.1, h.2.2.2.2, fun g _ => by simp [State.isLost, h.1, h.2.1, h.2.2.1]⟩

theorem witness_MailboxAndReset :
    (Commanded (rigCommand 1 0x1000 5) 1 ∧ InLiveVault (rigCommand 1 0x1000 5) (bufferOf (rigCommand 1 0x1000 5)) (32 * 0)) ∧
    (Commanded (rigCommand 2 0x1000 0) 2 ∧ InLiveVault (rigCommand 2 0x1000 0) (bufferOf (rigCommand 2 0x1000 0)) 48 ∧
      ∀ nonce, nonce.length = 48 → InLiveVault (rigCommand 2 0x1000 0) (bufferOf (rigCommand 2 0x1000 0) + 48) ((rigCommand 2 0x1000 0).report nonce).length) ∧
    (Commanded (rigCommand 3 0x1000 4) 3 ∧ ((rigCommand 3 0x1000 4).quinceRead 0x1000 4).2.isSome = true) ∧
    (Commanded (rigCommand 4 1500 0) 4 ∧ (rigCommand 4 1500 0).quince.arg.toNat ≤ 1500 ∧ (rigCommand 4 1501 0).quince.arg.toNat = 1501) ∧
    (let s := (rigCommand 5 1 0).onCore 1 fun k => { k with halted := true }; Commanded s 5 ∧ (s.coreAt 1).halted = true ∧ (s.coreAt 1).killed = false) ∧
    (Commanded (rigCommand 6 0x5253 0) 6 ∧ (rigCommand 6 0x5253 0).quince.arg = 0x5253) ∧
    ((rigCommand 7 0 0).quince.busy = true ∧ 6 < (rigCommand 7 0 0).quince.cmd.toNat) ∧
    (let s := { rigLive [] with medlar := { (rigLive []).medlar with rdy := false } }; s.medlar.rdy = false ∧ s.quince.stuck = false) :=
  ⟨⟨⟨rfl, rfl⟩, live_vault⟩,
    ⟨⟨rfl, rfl⟩, live_vault, fun _ h => flawless (by
      have := report_length (s := rigCommand 2 0x1000 0) h
      have : bufferOf (rigCommand 2 0x1000 0) = 0x1000 := by decide +kernel
      omega)⟩, ⟨⟨rfl, rfl⟩, by decide +kernel⟩, ⟨⟨rfl, rfl⟩, by decide +kernel, by decide +kernel⟩,
    ⟨⟨rfl, rfl⟩, by decide +kernel, by decide +kernel⟩, ⟨⟨rfl, rfl⟩, rfl⟩, by decide +kernel, by decide +kernel⟩

theorem witness_PortsAndLinks :
    ((rigLive []).medlar.up = true ∧ InLiveVault (rigLive []) 0x3FFFFFFFFF 1 ∧ ((rigLive []).linkAt 15).up = true ∧ (rigLive []).medlar.rdy = true ∧
      (rigLive []).tagFree 1023 none = true) ∧
    ((rigCore [] fun k => { k with ctl := List.replicate 8 (.act 0) }).tagFree 0 none = false ∧ (rigCore [] fun k => { k with killed := true }).medlar.up = true) ∧
    (OwnerReadable (rigLive []) 0 ∧ OwnerReadable (rigLive []) 0x10000) ∧
    ((rigLive []).owns 1 0 = true ∧ (rigLive []).owns 1 0x10000 = false) ∧ (2 ^ 42 + 0x8010 : Nat) < 2 ^ 44 ∧ (rigLive []).medlar.held.length < 16 :=
  ⟨⟨by decide +kernel, live_vault, by decide +kernel, by decide +kernel, by decide +kernel⟩, by decide +kernel, by unfold OwnerReadable; decide +kernel,
    by decide +kernel, by decide, by decide +kernel⟩

/-! ## The assembled kernel: the nine words the encoding chapter gives for its example -/

theorem test_assembled_kernel :
    [0x18288000#32, 0x30400000, 0x30600040, 0x68810000, 0x18422008, 0x1C210080, 0x1460FFD0, 0x7849A000, 0x100001C0].map decode =
      [.ok (.add 1 8 16 0 0 0), .ok (.li 2 0 0), .ok (.li 3 8 0), .ok (.ldx 4 1 0 0 0 0), .ok (.add 2 2 4 0 1 0), .ok (.addi 1 1 8 0 0),
        .ok (.loop 3 0xFFD 0), .ok (.stx 2 9 2 2 0 0), .ok (.exit 0)] := by rfl

/-! ## Words that R227 makes ILLEGAL, each refused by name -/

theorem test_refuses_zero : decode 0 = .error .zeroWord := by rfl
theorem test_refuses_majors : [0x3D, 0x3E, 0x3F].map (fun m : Nat => decode (BitVec.ofNat 32 (m * 2 ^ 26))) = List.replicate 3 (.error .major) := by rfl

/-- An unallocated minor of each layout: SYS 0x11, CTL 8, ALU 23, CMP 8, CMPI 6, AMO 10, LNCH 5, VSFU 9, TILE 5, EMB 1. -/
theorem test_refuses_minors :
    [0b000000_010001_00000_00000_0000000_000#32, 0b000100_00000_00000_00000_01000_0_00_000, 0b000110_00001_00010_00011_10111_0_00_000,
      0b001110_00001_00010_00011_01000_0_00_000, 0b001111_00001_00010_110000000000_0_000, 0b100001_00001_00010_00011_1010_00_00_00_0,
      0b100110_00000_00000_00000_0101_00_00_00_0, 0b101100_000001_000010_000011_01001_000, 0b110001_00101_000_00000_00000_00000_000,
      0b111010_00001_000_00001_00010_00011_000].map decode = List.replicate 10 (.error .minor) := by rfl

/-- SYS fn 0 with another field set, and kind 3 of SHI. -/
theorem test_refuses_more_minors :
    [0b000000_000000_00001_00000_0000000_000#32, 0b001011_00011_00100_110000000001_0_000].map decode = List.replicate 2 (.error .minor) := by rfl

/-- A nonzero reserved field: `ret` naming a register, `loop` with ra, `clz` with rb, `cmp` with sl, A bit 0, `nop` with imm7, `mqset` with bit 5 of
va set, `tzero` naming ra, `tbind` imm10 bit 0, `rpt` bit 25. -/
theorem test_refuses_reserved :
    [0b000100_00000_00001_00000_00000_0_00_000#32, 0b000101_00111_00001_101010111100_0_000, 0b000110_00001_00010_00011_10100_0_00_000,
      0b001110_00001_00010_00011_00000_1_00_000, 0b100001_00001_00010_00011_0000_00_00_00_1, 0b000000_000001_00000_00000_0000001_000,
      0b101101_000000_100001_000000_00101_000, 0b110001_00010_000_00001_00000_00000_000, 0b110001_00000_010_1111010111_00000_000,
      0b111100_1_0000_000000_0000_0000_0000_000].map decode = List.replicate 10 (.error .reserved) := by rfl

/-- Excluded values: predicate 12, scalar code 22, a mark on g0, a shift of 48, `vbst` stage 7, `ftile` type 6, `tld` buffer 2. -/
theorem test_refuses_excluded :
    [0b000001_1100_0_000000000000000000000#32, 0b000110_00001_10110_00011_00000_0_00_000, 0b000110_00001_01000_00011_00000_0_10_000,
      0b001011_00011_00100_000000110000_0_000, 0b101110_001111_010000_000111_00010_000, 0b110000_000000_000100_000110_00111_000,
      0b110010_00010_010_00011_00100_00101_000].map decode = List.replicate 7 (.error .excluded) := by rfl

/-- More of them: ord 2 on a load, ord 1 on a store, ord 3 on `lnch`, control register 0x0A, `xrd` selector 7,
`xwr` selector 6, `lui` to g0, `amo.cas` with rd = z. -/
theorem test_refuses_more_excluded :
    [0b011010_00001_00010_10_00_00_0000000000#32, 0b011110_00001_00010_01_00_00_0000000000, 0b100110_00000_00001_00010_0000_11_00_00_0,
      0b000000_000110_00001_00000_0001010_000, 0b000000_001000_00001_00010_0000111_000, 0b000000_001001_00001_00010_0000110_000,
      0b001101_01000_000000000000000001_000, 0b100001_10000_00001_00010_1001_00_00_00_0].map decode = List.replicate 8 (.error .excluded) := by rfl

/-- Fewer than four bytes hold no word. -/
theorem test_refuses_short : decodeBytes [0x40, 0x01, 0x00] = .error .short := by rfl

/-! ## One ill-formed term for each check of `Machine.legal` -/

theorem test_ill_formed_code : ¬ (Instr.add 1 22 2 0 0 0).WellFormed := by decide
theorem test_ill_formed_predicate : ¬ (Instr.pset 12 0).WellFormed := by decide
theorem test_ill_formed_mark : ¬ (Instr.add 1 8 2 0 2 0).WellFormed := by decide
theorem test_ill_formed_loop : ¬ (Instr.loop 8 0 0).WellFormed := by decide
theorem test_ill_formed_lui : ¬ (Instr.lui 16 0 0).WellFormed := by decide
theorem test_ill_formed_shift : ¬ (Instr.sari 1 2 48 0 0).WellFormed := by decide
theorem test_ill_formed_bfi : ¬ (Instr.bfi 8 1 2 0 0 0).WellFormed := by decide
theorem test_ill_formed_cas : ¬ (Instr.amoCas 24 1 2 0 0 0).WellFormed := by decide
theorem test_ill_formed_load : ¬ (Instr.ldx 1 2 2 0 0 0).WellFormed := by decide
theorem test_ill_formed_store : ¬ (Instr.stxM 1 2 1 0 0).WellFormed := by decide
theorem test_ill_formed_launch : ¬ (Instr.lnch 1 2 1 0 0).WellFormed := by decide
theorem test_ill_formed_stage : ¬ (Instr.vbst 1 2 7 0).WellFormed := by decide
theorem test_ill_formed_type : ¬ (Instr.ftile 1 6 0).WellFormed := by decide
theorem test_ill_formed_tiles : ¬ (Instr.tbind 3 3 1 2 0).WellFormed := by decide
theorem test_ill_formed_buffer : ¬ (Instr.tld 2 1 2 3 0).WellFormed := by decide
theorem test_ill_formed_register : ¬ (Instr.crd 1 0x16 0).WellFormed := by decide
theorem test_ill_formed_selector : ¬ (Instr.xwr 1 2 6 0).WellFormed := by decide
theorem test_ill_formed_event (i : Instr) (h : formOf i = ⟨[], [], [], false, none, false⟩) : ¬ i.WellFormed := by
  simp [Instr.WellFormed, legal, h]

/-! ## The words that the chapters' own encoding tables print -/

theorem test_words_scalar :
    [0x18888000#32, 0x0C000003, 0x78890000, 0x3C204020, 0x04400006, 0x1C80FFF0, 0x0FFFFFFD, 0x100000C0, 0x18002241, 0x10000000, 0x30000008].map decode =
      [.ok (.add 4 8 16 0 0 0), .ok (.call 3), .ok (.stx 4 9 0 0 0 0), .ok (.cmpiLt 1 0 2 0 0), .ok (.b 1 6), .ok (.addi 4 0 0xFFF 0 0),
        .ok (.call 0x3FFFFFD), .ok (.wpf 0), .ok (.mul 0 0 4 0 0 1), .ok (.ret 0), .ok (.li 0 1 0)] := by rfl

theorem test_words_sync :
    [0x584103FD#32, 0x7C615202, 0x84411850, 0x84812CE8, 0x88000190, 0x8C060180, 0x90020006, 0x94810030, 0x98011050, 0x9C610000].map decode =
      [.ok (.ldS16 2 1 0 0 0 0x3FD), .ok (.ldFe 3 1 1 1 0 2), .ok (.amoAdd 2 1 3 2 2 0), .ok (.amoCas 4 1 5 3 1 0), .ok (.fenceSc 2 0),
        .ok (.cbWait 6 0), .ok (.cpy 2 0 0 3), .ok (.ldxM 4 1 1 2 0), .ok (.lnch 1 2 2 2 0), .ok (.spal 3 1 0 0 0)] := by rfl

theorem test_words_lock :
    [0x28000010#32, 0x84290870, 0x1C48FFF0, 0x38211000, 0x04600004, 0x7A090000, 0x682A6000, 0x38410040, 0x049FFFFE].map decode =
      [.ok (.xori 0 0 1 0 0), .ok (.amoAdd 1 9 1 3 2 0), .ok (.addi 2 8 0xFFF 0 0), .ok (.cmpEq 1 1 2 0 0), .ok (.bn 1 4), .ok (.stx 16 9 0 0 0 0),
        .ok (.ldx 1 10 1 2 0 0), .ok (.cmpNe 2 1 0 0 0), .ok (.b 2 0x1FFFFE)] := by rfl

theorem test_words_vector :
    [0xAC420000#32, 0xB4004028, 0xB8200100, 0xB8308110, 0xBE80C010, 0xC0214000, 0xD8002200, 0xB4020028, 0xC4005A00, 0xF0C0A200, 0xB8105403, 0xB800170B,
      0xB0104003, 0xC0100448, 0xA208A418, 0xBC004008].map decode =
      [.ok (.vcvtBf 4 8 0), .ok (.mqset 1 0), .ok (.bflyCt 2 0 1 0), .ok (.vbst 3 2 1 0), .ok (.strbind 40 3 0), .ok (.vrsum 2 5 0), .ok (.lutld 1 2 0),
        .ok (.mqset 8 0), .ok (.tbind 0 0 5 5 0), .ok (.rpt 6 1 4 4 0 0), .ok (.bflyCt 1 1 20 3), .ok (.bflyGs 0 0 23 3), .ok (.vexp2 1 1 3),
        .ok (.vext 1 0 4 0), .ok (.vfma 32 34 36 0), .ok (.vst 0 1 0)] := by rfl

theorem test_words_matrix :
    [0xC8002000#32, 0xC8442280, 0xC8602218, 0xCC008600, 0xD00C0010, 0xD4002010, 0xD8202218, 0xDC082218, 0xD420E100, 0xCC209000, 0xC4010400].map decode =
      [.ok (.rowact 1 0), .ok (.tld 1 1 2 16 0), .ok (.bld 1 2 3 0), .ok (.mma 0 4 6 0), .ok (.ckVer 3 2 0), .ok (.ttEnq 1 2 0), .ok (.fmtw 1 2 3 0),
        .ok (.mmag 2 1 2 3 0), .ok (.leave 7 1 0), .ok (.mmaZ 0 4 16 0), .ok (.tbind 0 2 0 2 0)] := by rfl

theorem test_words_attention :
    [0xE0002218#32, 0xE0202218, 0xE0402218, 0xE0602200, 0xE4202220, 0xE8002028, 0xEC002218, 0xE4010C28].map decode =
      [.ok (.kvApp 1 2 3 0), .ok (.kvFind 1 2 3 0), .ok (.kvFree 1 2 3 0), .ok (.kvGath 1 2 0), .ok (.rbSeln 1 2 4 0), .ok (.embRed 1 5 0),
        .ok (.dpPlan 1 2 3 0), .ok (.rbSel 8 12 5 0)] := by rfl

theorem test_words_system :
    [0x00100000#32, 0x00200028, 0x00300000, 0x00400000, 0x00508800, 0x00618080, 0x00700408, 0x00810420, 0x00910400, 0x00A10400, 0x00B00400, 0x00C00400,
      0x00D10400, 0x00E00000, 0x00F00000, 0x01000400].map decode =
      [.ok (.nop 0), .ok (.trap 5 0), .ok (.brk 0 0), .ok (.rte 0), .ok (.settle 1 2 0), .ok (.crd 3 0x10 0), .ok (.cwr 1 1 0), .ok (.xrd 2 1 4 0),
        .ok (.xwr 2 1 0 0), .ok (.preempt 2 1 0), .ok (.freeze 1 0), .ok (.thaw 1 0), .ok (.stinv 2 1 0), .ok (.halt 0), .ok (.idle 0), .ok (.kill 1 0)] := by rfl

theorem test_words_moldable : [0x7CC50200#32, 0x44862040, 0x18843400, 0x80C50208, 0x007004D0].map decode =
    [.ok (.ldFe 6 5 0 0 0 0), .ok (.sel 4 6 4 1 0 0 0), .ok (.min 4 4 6 0 0 0), .ok (.stEf 6 5 0 0 0 8), .ok (.cwr 1 0x1A 0)] := by rfl

/-! ## Small steps, with results worked out by hand from the rules or taken from the notes chapters -/

/-- The state after one instruction of the rig, where it is a next state. -/
noncomputable def after (i : Instr) (s : State) : Option State :=
  match exec i s with
  | .next t => some t
  | _ => none

/-- A register of the issuing slot after an instruction. -/
noncomputable def regAfter (n : Nat) (i : Instr) (s : State) : Option Word := (after i s).map fun t => (t.slotAt 0 0).reg n |>.val

/-- Registers after several instructions, each on the same state. -/
noncomputable def regsAfter (n : Nat) (l : List Instr) (s : State) : List (Option Word) := l.map fun i => regAfter n i s

/-- Wraps and borrows (R258). -/
theorem test_add_sub : regsAfter 1 [.add 1 2 3 0 0 0, .sub 1 3 2 0 0 0, .sub 1 16 3 0 0 0] (rig [0, 0, 0xFFFFFFFFFFFF, 1]) =
    [some 0, some 2, some 0xFFFFFFFFFFFF] := by decide +kernel

theorem test_logic : regsAfter 1 [.and 1 2 3 0 0 0, .or 1 2 3 0 0 0, .xor 1 2 3 0 0 0, .andn 1 2 3 0 0 0] (rig [0, 0, 0xF0F0, 0xFF00]) =
    [some 0xF000, some 0xFFF0, some 0x0FF0, some 0x00F0] := by decide +kernel

/-- Bits 47:6 of the amount are ignored, and 48 shifts everything out (R258). -/
theorem test_shifts : regsAfter 1 [.shl 1 2 3 0 0 0, .shr 1 2 3 0 0 0, .sar 1 2 3 0 0 0, .sar 1 2 4 0 0 0, .shl 1 2 4 0 0 0]
    (rig [0, 0, 0x800000000001, 0x44, 48]) =
    [some 0x10, some 0x080000000000, some 0xF80000000000, some 0xFFFFFFFFFFFF, some 0] := by decide +kernel

/-- 2^47 as a signed and as an unsigned number, times 2. -/
theorem test_products : regsAfter 1 [.mul 1 2 3 0 0 0, .mulh 1 2 3 0 0 0, .mulhn 1 2 3 0 0 0] (rig [0, 0, 0x800000000000, 2]) =
    [some 0, some 0xFFFFFFFFFFFF, some 1] := by decide +kernel

/-- −7 by 2 truncates towards zero; by zero, and −2^47 by −1, give what R96 says. -/
theorem test_quotients : regsAfter 1 [.div 1 2 3 0 0 0, .rem 1 2 3 0 0 0, .divn 1 4 3 0 0 0, .remn 1 2 3 0 0 0, .div 1 2 16 0 0 0, .rem 1 2 16 0 0 0,
      .div 1 5 6 0 0 0, .rem 1 5 6 0 0 0] (rig [0, 0, 0xFFFFFFFFFFF9, 2, 9, 0x800000000000, 0xFFFFFFFFFFFF]) =
    [some 0xFFFFFFFFFFFD, some 0xFFFFFFFFFFFF, some 4, some 1, some 0, some 0xFFFFFFFFFFF9, some 0x800000000000, some 0] := by decide +kernel

theorem test_extremes : regsAfter 1 [.min 1 2 3 0 0 0, .max 1 2 3 0 0 0, .minn 1 2 3 0 0 0, .maxn 1 2 3 0 0 0] (rig [0, 0, 0xFFFFFFFFFFFF, 5]) =
    [some 0xFFFFFFFFFFFF, some 5, some 5, some 0xFFFFFFFFFFFF] := by decide +kernel

theorem test_counts : regsAfter 1 [.clz 1 2 0 0 0, .ctz 1 2 0 0 0, .popc 1 2 0 0 0, .clz 1 3 0 0 0, .ctz 1 3 0 0 0] (rig [0, 0, 0x0000000000F0, 0]) =
    [some 40, some 4, some 4, some 48, some 48] := by decide +kernel

/-- `andi` extends its sign, `ori` and `xori` do not; `lui` shifts its own register by 18 (R259). -/
theorem test_immediates : regsAfter 1 [.addi 1 2 0xFFF 0 0, .andi 1 2 0xFF0 0 0, .ori 1 2 0xF00 0 0, .xori 1 2 0xFFF 0 0, .li 1 0x20000 0, .lui 1 1 0]
    (rig [0, 3, 0x1000000000FF]) =
    [some 0x1000000000FE, some 0x1000000000F0, some 0x100000000FFF, some 0x100000000F00, some 0xFFFFFFFE0000, some 0xC0001] := by decide +kernel

theorem test_short_shifts : regsAfter 1 [.shli 1 2 47 0 0, .shri 1 2 47 0 0, .sari 1 2 47 0 0] (rig [0, 0, 0x800000000001]) =
    [some 0x800000000000, some 1, some 0xFFFFFFFFFFFF] := by decide +kernel

theorem test_scaled_addresses : regsAfter 1 [.lea1 1 2 3 0 0 0, .lea2 1 2 3 0 0 0, .lea4 1 2 3 0 0 0, .lea8 1 2 3 0 0 0] (rig [0, 0, 0x100, 0x11]) =
    [some 0x111, some 0x122, some 0x144, some 0x188] := by decide +kernel

/-- Position 44, width 8: the field is cut at bit 47 (R261). -/
theorem test_fields : regsAfter 1 [.bfx 1 2 3 0 0 0, .bfxs 1 2 3 0 0 0, .bfi 1 4 3 0 0 0] (rig [0, 0x123456789ABC, 0xA00000000000, 0x22C, 0xF5]) =
    [some 0xA, some 0xFFFFFFFFFFFA, some 0x523456789ABC] := by decide +kernel

/-- A predicate after an instruction. -/
noncomputable def predAfter (n : Nat) (i : Instr) (s : State) : Option Bool := (after i s).map fun t => (t.slotAt 0 0).pred n

/-- −1 against 1, signed and unsigned, and the chapter's own `cmpi.ltn p2, a1, -1`. -/
theorem test_compares : [Instr.cmpEq 2 1 3 0 0, .cmpNe 2 1 3 0 0, .cmpLt 2 1 3 0 0, .cmpGe 2 1 3 0 0, .cmpLtn 2 1 3 0 0, .cmpGen 2 1 3 0 0, .cmpTst 2 1 3 0 0,
      .cmpTstz 2 1 3 0 0].map (fun i => predAfter 2 i (rig [0, 0xFFFFFFFFFFFF, 0, 1])) =
    [some false, some true, some true, some false, some false, some true, some true, some false] := by decide +kernel

theorem test_compares_with_immediates : [Instr.cmpiEq 2 1 0x1FF 0 0, .cmpiNe 2 1 0x1FF 0 0, .cmpiLt 2 1 0 0 0, .cmpiGe 2 1 0 0 0, .cmpiLtn 2 1 0x1FF 0 0,
      .cmpiGen 2 1 0x1FF 0 0].map (fun i => predAfter 2 i (rig [0, 0xFFFFFFFFFFFF])) =
    [some true, some false, some true, some false, some false, some true] := by decide +kernel

/-- p1 set and p2 clear. -/
theorem test_predicates : [Instr.pand 3 1 2 0, .por 3 1 2 0, .pxor 3 1 1 0, .pandn 3 1 2 0, .pnot 3 2 0, .pset 3 0, .pclr 1 0, .pandn 3 0 1 0].map
      (fun i => predAfter 3 i (rigWith [] fun v => { v with preds := 1 })) =
    [some false, some true, some false, some true, some true, some true, some false, some false] := by decide +kernel

theorem test_selects : regsAfter 1 [.sel 1 2 3 1 0 0 0, .seln 1 2 3 1 0 0 0, .sel 1 2 3 0 0 0 0] (rigWith [0, 0, 7, 8] fun v => { v with preds := 0 }) =
    [some 8, some 7, some 7] := by decide +kernel

/-- The pc after an instruction at 0x100000000. -/
noncomputable def pcAfter (i : Instr) (s : State) : Option Word := (after i s).map fun t => (t.slotAt 0 0).pc

theorem test_branches : [Instr.b 1 3, .b 0 0x1FFFFF, .bn 1 3, .bn 0 3, .j 0x3FFFFFE, .loop 1 0xFFD 0, .loop 2 0xFFD 0, .jr 3 0 0].map
      (fun i => pcAfter i (rigWith [0, 2, 1, 0x40] fun v => { v with preds := 0 })) =
    [some 0x100000004, some 0xFFFFFFFC, some 0x10000000C, some 0x100000004, some 0xFFFFFFF8, some 0xFFFFFFF4, some 0x100000004, some 0x40] := by decide +kernel

/-- A counted loop entered with 0 wraps and branches (R266). -/
theorem test_loop_wraps : regAfter 1 (.loop 1 1 0) (rig []) = some 0xFFFFFFFFFFFF := by decide +kernel

/-- The callee finds the link in a3 and the caller's a4 in a0 (R268). -/
theorem test_call : (regAfter 3 (.call 4) (rig [0, 0, 0, 0, 9]), regAfter 0 (.call 4) (rig [0, 0, 0, 0, 9]), pcAfter (.call 4) (rig [])) =
    (some 0x100000004, some 9, some 0x100000010) := by decide +kernel

/-! ### Loads, stores and the owner's operations -/

/-- The rig with bytes 0xF1 0xF2 … at vault address 0x40. -/
def rigBytes : State := let s := rig [0x40, 0x1122334455]; { s with mem := s.mem.write 0x40 [0xF1, 0xF2, 0xF3, 0xF4, 0xF5, 0xF6, 0xF7, 0xF8] }

/-- Sizes, extensions and byte order of the loads (R276). -/
theorem test_loads : regsAfter 1 [.ldS8 1 0 0 0 0 0, .ldN8 1 0 0 0 0 1, .ldS16 1 0 0 0 0 0, .ldN16 1 0 0 0 0 1, .ldS32 1 0 0 0 0 0, .ldN32 1 0 0 0 0 1,
      .ldx 1 0 0 0 0 0] rigBytes =
    [some 0xFFFFFFFFFFF1, some 0xF2, some 0xFFFFFFFFF2F1, some 0xF4F3, some 0xFFFFF4F3F2F1, some 0xF8F7F6F5, some 0xF6F5F4F3F2F1] := by decide +kernel

/-- `n` bytes of vault memory after an instruction. -/
noncomputable def bytesAfter (a n : Nat) (i : Instr) (s : State) : Option (List Byte) := (after i s).map fun t => t.mem.readBytes a n

/-- A store writes its low bytes and no others, and `stx` extends the sign to 64 bits (R277). -/
theorem test_stores : ([.stb 1 0 0 0 0 1, .sth 1 0 0 0 0 1, .stw 1 0 0 0 0 0, .stx 2 0 0 0 0 0] : List Instr).map
      (fun i => bytesAfter 0x40 8 i { rigBytes with cores := (rigWith [0x40, 0x1122334455, 0x800000000000] id).cores }) =
    [some [0xF1, 0x55, 0xF3, 0xF4, 0xF5, 0xF6, 0xF7, 0xF8], some [0xF1, 0xF2, 0x55, 0x44, 0xF5, 0xF6, 0xF7, 0xF8],
      some [0x55, 0x44, 0x33, 0x22, 0xF5, 0xF6, 0xF7, 0xF8], some [0, 0, 0, 0, 0, 0x80, 0xFF, 0xFF]] := by decide +kernel

/-- Atomics on the 64-bit word −2 with operand 3 (R281): what is stored, and the old value returned. -/
def rigAtomic : State := let s := rig [0x40, 0, 0, 3, 0xFFFFFFFFFFFE]; { s with mem := s.mem.write 0x40 (leBytes 8 0xFFFFFFFFFFFFFFFE) }

theorem test_atomics_store : ([.amoAdd 1 0 3 0 0 0, .amoAnd 1 0 3 0 0 0, .amoOr 1 0 3 0 0 0, .amoXor 1 0 3 0 0 0, .amoMin 1 0 3 0 0 0, .amoMax 1 0 3 0 0 0,
      .amoMinn 1 0 3 0 0 0, .amoMaxn 1 0 3 0 0 0, .amoSwap 1 0 3 0 0 0, .amoCas 4 0 3 0 0 0, .amoCas 2 0 3 0 0 0] : List Instr).map
      (fun i => (bytesAfter 0x40 8 i rigAtomic).map leNat) =
    [some 1, some 2, some 0xFFFFFFFFFFFFFFFF, some 0xFFFFFFFFFFFFFFFD, some 0xFFFFFFFFFFFFFFFE, some 3, some 3, some 0xFFFFFFFFFFFFFFFE, some 3, some 3,
      some 0xFFFFFFFFFFFFFFFE] := by decide +kernel

theorem test_atomics_return : regAfter 1 (.amoAdd 1 0 3 0 0 0) rigAtomic = some 0xFFFFFFFFFFFE ∧ regAfter 2 (.amoCas 2 0 3 0 0 0) rigAtomic = some 0xFFFFFFFFFFFE := by
  decide +kernel

/-- `st.ef` on a full word waits; `ld.fe` takes a full word and leaves it empty (R146, R147). -/
theorem test_full_empty : ((after (.ldFe 1 0 0 0 0 0) rigBytes).map fun t => (((t.slotAt 0 0).reg 1).val, t.empties)) = some (0xF6F5F4F3F2F1, [8]) ∧
    pcAfter (.stEf 1 0 0 0 0 0) rigBytes = some 0x100000000 := by decide +kernel

/-! ### Vector lanes -/

/-- A tile of a type with two rows given as lanes, the others zero. -/
def tileOf (ty : BitVec 3) (x y : List Nat) : Tile :=
  { Tile.reset with ty := ty, rows := ofLanes ty.toNat x :: ofLanes ty.toNat y :: List.replicate 30 0 }

/-- The rig bound to tiles of two types, with rows 0 and 1 of the low one given as lanes. -/
def rigLanes (ty0 ty1 : BitVec 3) (x y : List Nat) : State :=
  (rigTiles [3] ty0 ty1).onHere fun k => { k with tiles := [(0, tileOf ty0 x y), (1, tileOf ty1 [] [])] }

/-- The first lanes of a row of a tile after an instruction. -/
noncomputable def lanesAfter (tile n count : Nat) (s : State) (i : Instr) : Option (List Nat) :=
  (after i s).map fun t => let k := t.tileAt 0 tile; (lanesOf k.ty.toNat (k.rows.getD n 0)).take count

/-- S8 lanes 127, −128, 5 with 1, −1, −2 (R302). -/
theorem test_integer_lanes :
    ([.viadd 2 0 1 0, .visub 2 0 1 0, .viadds 2 0 1 0, .visubs 2 0 1 0, .viaddn 2 0 1 0, .visubn 2 0 1 0, .vimul 2 0 1 0, .vimulh 2 0 1 0, .vimac 2 0 1 0,
      .vimin 2 0 1 0, .vimax 2 0 1 0, .viminn 2 0 1 0, .vimaxn 2 0 1 0] : List Instr).map
      (lanesAfter 0 2 3 (rigLanes 4 4 [0x7F, 0x80, 5] [1, 0xFF, 0xFE])) =
    [some [0x80, 0x7F, 3], some [0x7E, 0x81, 7], some [0x7F, 0x80, 3], some [0x7E, 0x81, 7], some [0x80, 0xFF, 0xFF], some [0x7E, 0, 0],
      some [0x7F, 0x80, 0xF6], some [0, 0, 0xFF], some [0x7F, 0x80, 0xF6], some [1, 0x80, 0xFE], some [0x7F, 0xFF, 5], some [1, 0x80, 5],
      some [0x7F, 0xFF, 0xFE]] := by decide +kernel

theorem test_bitwise_lanes :
    ([.vand 2 0 1 0, .vor 2 0 1 0, .vxor 2 0 1 0, .vshl 2 0 1 0, .vshr 2 0 1 0, .vsar 2 0 1 0, .vsel 2 0 1 0, .vmov 2 0 0, .vbcast 2 0 0] : List Instr).map
      (lanesAfter 0 2 3 (rigLanes 4 4 [0x7F, 0x80, 5] [1, 0xFF, 0xFE])) =
    [some [1, 0x80, 4], some [0x7F, 0xFF, 0xFF], some [0x7E, 0x7F, 0xFB], some [0xFE, 0, 0], some [0x3F, 0, 0], some [0x3F, 0xFF, 0], some [0x7F, 0x80, 5],
      some [0x7F, 0x80, 5], some [3, 3, 3]] := by decide +kernel

/-- FP32 lanes 1.5, 2 with 0.5, −1 (R301). -/
theorem test_float_lanes :
    ([.vadd 2 0 1 0, .vsub 2 0 1 0, .vmul 2 0 1 0, .vfma 2 0 1 0, .vfms 2 0 1 0, .vmin 2 0 1 0, .vmax 2 0 1 0, .vabs 2 1 0, .vneg 2 0 0, .vdiv 2 0 1 0,
      .vsqrt 2 0 0] : List Instr).map (lanesAfter 0 2 2 (rigLanes 0 0 [0x3FC00000, 0x40000000] [0x3F000000, 0xBF800000])) =
    [some [0x40000000, 0x3F800000], some [0x3F800000, 0x40400000], some [0x3F400000, 0xC0000000], some [0x3F400000, 0xC0000000],
      some [0xBF400000, 0x40000000], some [0x3F000000, 0xBF800000], some [0x3FC00000, 0x40000000], some [0x3F000000, 0x3F800000],
      some [0xBFC00000, 0xC0000000], some [0x40400000, 0xC0000000], some [0x3F9CC471, 0x3FB504F3]] := by decide +kernel

/-- A lane of 1.0 with all other lanes 0 (R314): 2, 0, 1, 1 in that lane of the exact functions, and sin 0, cos 0, tanh 0, e^0 in the next. -/
theorem test_special_functions :
    ([.vexp2 2 0 0, .vlog2 2 0 0, .vrcp 2 0 0, .vrsqrt 2 0 0] : List Instr).map (lanesAfter 0 2 1 (rigLanes 0 0 [0x3F800000] [])) =
      [some [0x40000000], some [0], some [0x3F800000], some [0x3F800000]] ∧
    ([.vsin 2 0 0, .vcos 2 0 0, .vtanh 2 0 0, .vexp 2 0 0] : List Instr).map (lanesAfter 0 2 1 (rigLanes 0 0 [] [])) =
      [some [0], some [0x3F800000], some [0], some [0x3F800000]] := by decide +kernel

/-- Ties go to even in BF16, 2.5 and −1.5 round to 2 and −2, and 300 wraps or saturates in S8 (R306). -/
theorem test_conversions :
    lanesAfter 1 0 2 (rigLanes 0 2 [0x3F808000, 0x3F818000] []) (.vcvtBf 32 0 0) = some [0x3F80, 0x3F82] ∧
    lanesAfter 1 0 2 (rigLanes 0 1 [0x40200000, 0xBFC00000] []) (.vcvtInt 32 0 0) = some [2, 0xFFFFFFFE] ∧
    lanesAfter 1 0 2 (rigLanes 1 0 [3, 0xFFFFFFFF] []) (.vcvtFlt 32 0 0) = some [0x40400000, 0xBF800000] ∧
    lanesAfter 1 0 2 (rigLanes 1 4 [300, 0xFFFFFFFF] []) (.vnarrow 32 0 0) = some [44, 0xFF] ∧
    lanesAfter 1 0 2 (rigLanes 1 4 [300, 0xFFFFFED4] []) (.vnarrows 32 0 0) = some [127, 0x80] ∧
    lanesAfter 1 0 2 (rigLanes 0 4 [0x3F800000, 0xC0000000] []) (.vcvtF8 32 0 0) = some [0x38, 0xC0] := by decide +kernel

/-- Sums, extremes and products of 5 and −7 among zeros, and one lane (R319, R320). -/
theorem test_reductions :
    regsAfter 1 [.vrsum 1 0 0, .vrmax 1 0 0, .vrmin 1 0 0, .vrprod 1 0 0, .vext 1 0 16 0] (rigLanes 1 1 [5, 0xFFFFFFF9] []) =
    [some 0xFFFFFFFFFFFE, some 5, some 0xFFFFFFFFFFF9, some 0, some 5] := by decide +kernel

/-- The lane predicate after an instruction: bytes 0 to 3 of lanes 0 to 2. -/
noncomputable def predicateAfter (s : State) (i : Instr) : Option (List Bool) :=
  (after i s).map fun t => [0, 3, 4, 7, 8].map fun j => (t.slotAt 0 0).lanes.getLsbD j

/-- FP32 lanes 1, −0, NaN with 2, +0, 1 (R303, R304). -/
theorem test_lane_predicates :
    ([.vcmpEq 0 1 0, .vcmpNe 0 1 0, .vcmpLt 0 1 0, .vcmpLe 0 1 0, .vcmpUn 0 1 0, .vmsk 0 0, .vmskall 0] : List Instr).map
      (predicateAfter (rigLanes 0 0 [0x3F800000, 0x80000000, 0x7FC00000] [0x40000000, 0, 0x3F800000])) =
    [some [false, false, true, true, false], some [true, true, false, false, true], some [true, true, false, false, false],
      some [true, true, true, true, false], some [false, false, false, false, true], some [true, true, true, true, true],
      some [true, true, true, true, true]] ∧
    ([.vicmpEq 0 1 0, .vicmpLt 0 1 0, .vicmpLtn 0 1 0] : List Instr).map (predicateAfter (rigLanes 1 1 [0xFFFFFFFF, 3, 0] [0, 3, 1])) =
    [some [false, false, true, true, false], some [true, true, false, false, true], some [false, false, false, false, true]] := by decide +kernel

/-! ### The vector chapter's butterfly: 17 in lanes 0 to 7 and 97 in lanes 8 to 15 -/

def limbs (v : Slot) : Slot :=
  { v with
    mqb := 0x8000000000000000, modLoaded := true,
    moduli := List.replicate 8 (17, BitVec.ofNat 64 (2 ^ 10 / 17)) ++ List.replicate 8 (97, BitVec.ofNat 64 (2 ^ 14 / 97)) }

def rigLimbs (v0 v1 : List Nat) : State :=
  (rigTiles [] 5 5 limbs).onHere fun k => { k with tiles := [(0, tileOf 5 v0 v1), (1, tileOf 5 [] [])] }

theorem test_butterfly_example :
    lanesAfter 0 2 16 (rigLimbs [1, 2, 3, 4, 5, 6, 7, 8, 1, 2, 3, 4, 5, 6, 7, 8] [0, 3, 0, 3, 0, 3, 0, 3, 0, 8, 0, 8, 0, 8, 0, 8]) (.bflyCt 2 0 1 0) =
      some [7, 12, 15, 8, 6, 4, 14, 0, 17, 82, 35, 68, 53, 54, 71, 40] ∧
    lanesAfter 0 3 16 (rigLimbs [7, 12, 15, 8, 6, 4, 14, 0, 17, 82, 35, 68, 53, 54, 71, 40] []) (.vbst 3 0 1 0) =
      some [7, 15, 12, 8, 6, 14, 4, 0, 17, 35, 82, 68, 53, 71, 54, 40] := by decide +kernel

/-- Rows of the notes chapter's run: the lane products of the two transforms. -/
theorem test_transform_products :
    lanesAfter 0 2 16 (rigLimbs [9, 9, 15, 15, 0, 0, 7, 7, 27, 27, 94, 94, 70, 70, 51, 51] [0, 1, 7, 11, 10, 8, 13, 5, 15, 3, 71, 44, 18, 0, 5, 13])
      (.vmmul 2 0 1 0) = some [0, 9, 3, 12, 0, 0, 6, 1, 17, 81, 78, 62, 96, 0, 61, 81] := by decide +kernel

theorem test_modular_lanes :
    ([.vmadd 2 0 1 0, .vmsub 2 0 1 0, .vmmac 2 0 1 0, .vmneg 2 1 0] : List Instr).map (lanesAfter 0 2 2 (rigLimbs [16, 20] [5, 0])) =
      [some [4, 3], some [11, 3], some [12, 0], some [12, 0]] := by decide +kernel

/-! ### Block formats and block sums, from the notes on formats -/

/-- The KB8 block with two exponents. -/
theorem test_kb8_block :
    (let r := toBlock true .rne ([0x40A80000, 0x3FC00000, 0, 0, 0x3F400000, 0x3F000000, 0, 0, 0xBD400000, 0x3C400000] ++ List.replicate 22 0)
     (r.1, r.2.map (·.1) |>.take 10, r.2.all (·.2 == 0))) =
    (0x000C7A81, [0x2A, 0x0C, 0, 0, 0x30, 0x20, 0, 0, 0xF0, 0x8C], true) := by decide +kernel

/-- The KB4 group that loses an element: its nibbles, its scale word, and NX from element 2 alone. -/
theorem test_kb4_block :
    (let r := toBlock false .rne ([0x40400000, 0x3F800000, 0x3EC00000, 0xBE000000] ++ List.replicate 28 0)
     (r.1, r.2.map (·.1) |>.take 4, r.2.map (·.2 == 0) |>.take 4)) =
    (0x00007C80, [3, 1, 0, 0xE], [true, true, false, true]) := by decide +kernel

/-- One BF16 block sum, under RNE and RUP. -/
theorem test_block_sum :
    (let a := alignBlock 16 ([0x3FC00000, 0x40400000, 0x38C00000].map decode32 ++ List.replicate 29 (decode32 0))
     let b := alignBlock 20 ([0x3F800000, 0x3F000000, 0x40400000].map decode32 ++ List.replicate 29 (decode32 0))
     (dotBlock a b, addBlock true .rne 16 0x49800000 (a, b), addBlock true .rup 16 0x49800000 (a, b))) =
    (3221618688, 0x49800018, 0x49800019) := by decide +kernel

/-! ### Dovetail checksums, from their notes -/

/-- The S32 tile of the single upset: row 2 and lane 5 sum to 1,000 and 300 in the sideband, and the element where they cross reads 56 for 40. -/
def rigUpset : State :=
  let rows (e : Nat) : List Row := 0 :: 0 :: ofLanes 1 [960, 0, 0, 0, 0, e] :: ofLanes 1 [0, 0, 0, 0, 0, 260] :: List.replicate 28 0
  (rigTiles [] 1 1).onHere fun k => { k with
    tiles := [(3, { Tile.reset with ty := 1, writer := 1, rows := rows 56, side := formSide 1 (rigTiles [] 1 1).me.mq (rows 40) })] }

theorem test_single_upset : ((after (.ckVer 3 2 0) rigUpset).map fun t =>
      let k := t.tileAt 0 3; ((lanesOf 1 (k.rows.getD 2 0)).getD 5 0, k.err, sideRow k.side 2, sideCol 1 k.side 5, (t.coreAt 0).ckev.toNat / 2 ^ 16)) =
    some (40, false, 1000, 300, 1) := by decide +kernel

/-- The partial-row write in an S8 tile: 10 + 117 and −3 − 125 in lanes 0 and 1 of row 4, with row 4 at 500 and the lanes at 16 and −16. -/
def rigDelta : State :=
  let rows : List Row := [ofLanes 4 [0x91, 0x70], 0, 0, 0, ofLanes 4 (10 :: 0xFD :: 118 :: List.replicate 125 3), ofLanes 4 [117, 0x83]] ++ List.replicate 26 0
  (rigTiles [] 4 4 fun v => { v with lanes := 3 }).onHere fun k => { k with
    tiles := [(0, { Tile.reset with ty := 4, rows := rows, side := formSide 4 (rigTiles [] 4 4).me.mq rows, prov := true })] }

theorem test_partial_row_before :
    (let k := rigDelta.tileAt 0 0; (sideRow k.side 4, sideCol 4 k.side 0, sideCol 4 k.side 1)) = (500, 16, 0xFFF0) := by decide +kernel

theorem test_partial_row_write : ((after (.viadd 4 4 5 0) rigDelta).map fun t =>
      let k := t.tileAt 0 0; (sideRow k.side 4, sideCol 4 k.side 0, sideCol 4 k.side 1, k.prov, (lanesOf 4 (k.rows.getD 4 0)).take 3)) =
    some (492, 133, 0xFF73, false, [127, 0x80, 118]) := by decide +kernel

/-! ### Traps and control registers -/

/-- `trap 5` at 0x100000000 with TVB.BASE 0: EPC, EVA, handler state with cause SYSCALL, and the vector (R379, R380). -/
theorem test_system_call : ((after (.trap 5 0) (rigLive [])).map fun t =>
      let v := t.slotAt 0 0; (v.epc, v.eva, v.ecs.getLsbD 10, v.pc == BitVec.ofNat 48 (64 * (v.ecs.toNat % 64)))) =
    some (0x100000004, 5, true, true) := by decide +kernel

/-- `brk 5` returns to itself (R380). -/
theorem test_breakpoint : ((after (.brk 5 0) (rigLive [])).map fun t => ((t.slotAt 0 0).epc, (t.slotAt 0 0).eva)) = some (0x100000000, 5) := by decide +kernel

/-- A P form of the program takes PRIV with the instruction word in EVA (R246). -/
theorem test_privilege : ((after (.halt 0) { rigLive [] with tvb := 0 }).map fun t => (t.slotAt 0 0).eva) = some 0x00E00000 := by decide +kernel

end Sys2Proof.Tests
end

section
/-! # Writes of system space (O58)

How `State.sysPut` acts on each register, and that a write of up to eight bytes of one xword is one `sysPut` (R12, R127, R418). -/

namespace Sys2Proof.Machine
open Sys2Proof.Statements

/-! ## Bit fields of a merged xword -/

/-- The bits from `lo` to `hi` of an xword. -/
def fieldMask (hi lo : Nat) : BitVec 64 := BitVec.ofNat 64 ((2 ^ (hi + 1 - lo) - 1) * 2 ^ lo)

theorem ofNat_bitsOf (v : BitVec 64) (hi lo : Nat) :
    BitVec.ofNat 64 (bitsOf v.toNat hi lo * 2 ^ lo) = v &&& fieldMask hi lo := by
  refine BitVec.eq_of_getLsbD_eq fun i hi' => ?_
  simp only [fieldMask, bitsOf, BitVec.getLsbD_and, BitVec.getLsbD_ofNat, Nat.testBit_mul_two_pow, Nat.testBit_mod_two_pow,
    Nat.testBit_div_two_pow, Nat.testBit_two_pow_sub_one, BitVec.testBit_toNat]
  by_cases h : lo ≤ i
  · simp [h, hi', Nat.sub_add_cancel h, Bool.and_comm]
  · simp [h]

theorem ofNat_bitsOf_zero (v : BitVec 64) (hi : Nat) : BitVec.ofNat 64 (bitsOf v.toNat hi 0) = v &&& fieldMask hi 0 := by
  simpa using ofNat_bitsOf v hi 0

/-- Fields of disjoint places add up without a carry. -/
theorem and_add_and (v w m n : BitVec 64) (h : m &&& n = 0) : (v &&& m) + (w &&& n) = (v &&& m) ||| (w &&& n) := by
  refine BitVec.add_eq_or_of_and_eq_zero _ _ ?_
  calc (v &&& m) &&& (w &&& n) = (v &&& w) &&& (m &&& n) := by ac_rfl
    _ = 0 := by simp [h]

/-- Replacing the low `k` bits. -/
theorem mergeBits_low (old k v : Nat) : mergeBits old (2 ^ k - 1) v = old / 2 ^ k * 2 ^ k + v % 2 ^ k := by
  have h := Nat.div_add_mod' old (2 ^ k)
  simp only [mergeBits, Nat.and_two_pow_sub_one_eq_mod]
  omega

theorem mergeBits_mod (old : Nat) (v : BitVec 64) : mergeBits old (2 ^ 64 - 1) v.toNat % 2 ^ 64 = v.toNat := by
  rw [mergeBits_low]
  omega

@[simp] theorem ofNat_mergeBits (old : Nat) (v : BitVec 64) : BitVec.ofNat 64 (mergeBits old (2 ^ 64 - 1) v.toNat) = v :=
  BitVec.eq_of_toNat_eq (by rw [BitVec.toNat_ofNat, mergeBits_mod])

@[simp] theorem bitsOf_mergeBits (old hi lo : Nat) (v : BitVec 64) (h : hi < 64) (hl : lo ≤ hi) :
    bitsOf (mergeBits old (2 ^ 64 - 1) v.toNat) hi lo = bitsOf v.toNat hi lo := by
  have low (x : Nat) : bitsOf (x % 2 ^ 64) hi lo = bitsOf x hi lo := by
    refine Nat.eq_of_testBit_eq fun i => ?_
    simp only [bitsOf, Nat.testBit_mod_two_pow, Nat.testBit_div_two_pow]
    by_cases hi' : i < hi + 1 - lo
    · simp [hi', show i + lo < 64 by omega]
    · simp [hi']
  rw [← low, mergeBits_mod]

/-! ## Fields that ones clear -/

theorem cleared_half (old ones : Nat) : cleared old ones / 2 = cleared (old / 2) (ones / 2) := by
  have hd : (old &&& ones) / 2 = old / 2 &&& ones / 2 := Nat.and_div_two
  have hm := Nat.and_mod_two_eq_one (a := old) (b := ones)
  simp only [cleared]
  omega

theorem cleared_odd (old ones : Nat) : cleared old ones % 2 = 1 ↔ old % 2 = 1 ∧ ¬ ones % 2 = 1 := by
  have hl : old &&& ones ≤ old := Nat.and_le_left
  have hm := Nat.and_mod_two_eq_one (a := old) (b := ones)
  simp only [cleared]
  omega

theorem testBit_cleared (old ones i : Nat) : (cleared old ones).testBit i = (old.testBit i && !ones.testBit i) := by
  induction i generalizing old ones with
  | zero => simp only [Nat.testBit_zero, cleared_odd, Bool.decide_and, decide_not]
  | succ i ih => simp only [Nat.testBit_succ, cleared_half, ih]

theorem ofNat_cleared (a : BitVec 5) (v : BitVec 64) :
    BitVec.ofNat 5 (cleared a.toNat (v.toNat % 32)) = a &&& ~~~ v.setWidth 5 := by
  refine BitVec.eq_of_getLsbD_eq fun i hi => ?_
  simp only [BitVec.getLsbD_ofNat, testBit_cleared, BitVec.testBit_toNat, show 32 = 2 ^ 5 from rfl, Nat.testBit_mod_two_pow,
    BitVec.getLsbD_and, BitVec.getLsbD_not, BitVec.getLsbD_setWidth, hi]
  simp

/-- A write-one-to-clear field of `n` bits at `lo` of a register. -/
theorem testBit_cleared_field (old n lo i : Nat) (v : BitVec 64) (h : old < 2 ^ n) (hn : 0 < n) :
    (cleared old (bitsOf v.toNat (lo + n - 1) lo)).testBit i = (old.testBit i && !v.getLsbD (lo + i)) := by
  have hw : lo + n - 1 + 1 - lo = n := by omega
  rw [testBit_cleared]
  by_cases hi : i < n
  · simp [bitsOf, hw, Nat.testBit_mod_two_pow, Nat.testBit_div_two_pow, hi, Nat.add_comm i, BitVec.testBit_toNat]
  · have : old.testBit i = false := Nat.testBit_lt_two_pow (h.trans_le (Nat.pow_le_pow_right (by omega) (by omega)))
    simp [this]

/-! ## Where a register write goes -/

theorem toNat_sysAt {o : Nat} (h : o < 2 ^ 42) : (sysAt o).toNat = 2 ^ 42 + o := by
  rw [sysAt, BitVec.toNat_ofNat]
  omega

theorem spaceOf_eq_system (a : Nat) : spaceOf a = .system ↔ 2 ^ 42 ≤ a ∧ a < 2 ^ 43 := by
  simp only [spaceOf]
  split_ifs <;> simp <;> omega

theorem execRegisterWrite_outside {a : BitVec 44} (h : a.toNat < 2 ^ 42 ∨ 2 ^ 43 ≤ a.toNat) (n : Nat) (v : BitVec 64) (s : State) :
    execRegisterWrite a n v s = .next s := by
  have : ¬ spaceOf a.toNat = .system := by rw [spaceOf_eq_system]; omega
  simp [execRegisterWrite, this]

theorem State.sysStore_nil {a : Nat} (ha : a % 8 = 0) (s : State) : (s.sysStore a []).1 = s := by
  have hcount : (a + 7) / 8 - a / 8 = 0 := by omega
  by_cases hq : quinceOwn a <;> simp [State.sysStore, hq, hcount]

/-- The xwords that no write changes: read-only registers and unassigned offsets. -/
theorem State.sysPut_of_not_writable {o : Nat} (h : ¬ Writable o) (ho : o % 8 = 0) (m v : Nat) (s : State) :
    (s.sysPut o m v).1 = s := by
  simp only [Writable, List.mem_cons, List.not_mem_nil, or_false, not_or] at h
  obtain ⟨⟨stpt, tvb, audc, audb, status, post, postHigh, cmd, arg, len⟩, hclusters, hsup, hlinks⟩ := h
  by_cases hc : 0x4000 ≤ o ∧ o < 0x4800
  · have h0 : ¬ o % 32 = 0 := by omega
    have h8 : ¬ o % 32 = 8 := by omega
    simp only [State.sysPut, stpt, tvb, hc, h0, h8, and_self, if_true, if_false]
  · simp only [State.sysPut, stpt, tvb, hc, audc, audb, hsup, status, post, postHigh, hlinks, cmd, arg, len, or_false, if_false]

/-- Up to eight bytes from an aligned offset, outside Quince's range, are one write of the low bits of its xword. -/
theorem State.sysStore_low {o n : Nat} (ho : o % 8 = 0) (hlt : o < 2 ^ 42) (hq : quinceOwn o = false) (h0 : 0 < n) (hn : n ≤ 8)
    (v : Nat) (s : State) :
    (s.sysStore (2 ^ 42 + o) (leBytes n v)).1 = (s.sysPut o (2 ^ (8 * n) - 1) (v % 2 ^ (8 * n))).1 := by
  have hq' : quinceOwn (2 ^ 42 + o) = false := by simpa [quinceOwn] using hq
  have hmod : (2 ^ 42 + o) % 2 ^ 42 = o := by omega
  have hcount : (2 ^ 42 + o + n + 7) / 8 - (2 ^ 42 + o) / 8 = 1 := by omega
  have hbase : (2 ^ 42 + o) / 8 * 8 = 2 ^ 42 + o := by omega
  have hend : min (2 ^ 42 + o + n) (2 ^ 42 + o + 8) = 2 ^ 42 + o + n := by omega
  have htake : leNat ((leBytes n v).take n) = v % 2 ^ (8 * n) := by
    rw [List.take_of_length_le (by simp), leNat_leBytes, pow_mul]; rfl
  simp only [State.sysStore, hq', leBytes_length, hmod, hcount, show ¬ n = 16 by omega, and_false, if_false, Bool.false_eq_true,
    List.range_one, List.foldl_cons, List.foldl_nil, Nat.add_zero, hbase, max_self, hend, Nat.sub_self, List.drop_zero,
    Nat.add_sub_cancel_left, htake, Nat.mul_zero, pow_zero, Nat.mul_one]

/-- Quince's own range holds no register that a write changes (R418). -/
theorem not_writable_of_quinceOwn {o : Nat} (hlt : o < 2 ^ 42) (h : quinceOwn o = true) : ¬ Writable o := by
  simp only [quinceOwn, Bool.and_eq_true, decide_eq_true_eq, Nat.mod_eq_of_lt hlt] at h
  simp only [Writable, List.mem_cons, List.not_mem_nil, or_false]
  omega

/-- A register write of one to eight bytes from an aligned offset is one write of the low bits of its xword. -/
theorem execRegisterWrite_low {o n : Nat} (ho : o % 8 = 0) (hlt : o < 2 ^ 42) (h0 : 0 < n) (hn : n ≤ 8) (v : BitVec 64) (s : State) :
    execRegisterWrite (sysAt o) n v s = .next (s.sysPut o (2 ^ (8 * n) - 1) (v.toNat % 2 ^ (8 * n))).1 := by
  have hs : spaceOf (2 ^ 42 + o) = .system := (spaceOf_eq_system _).2 (by omega)
  rw [execRegisterWrite, toNat_sysAt hlt, Nat.min_eq_right hn, hs, if_pos (by rfl)]
  cases hq : quinceOwn o with
  | false => rw [State.sysStore_low ho hlt hq h0 hn]
  | true =>
    have hq' : quinceOwn (2 ^ 42 + o) = true := by simpa [quinceOwn] using hq
    rw [State.sysPut_of_not_writable (not_writable_of_quinceOwn hlt hq) ho, State.sysStore, if_pos hq']

theorem execRegisterWrite_xword {o : Nat} (ho : o % 8 = 0) (hlt : o < 2 ^ 42) (v : BitVec 64) (s : State) :
    execRegisterWrite (sysAt o) 8 v s = .next (s.sysPut o (2 ^ 64 - 1) v.toNat).1 := by
  rw [execRegisterWrite_low ho hlt (by omega) (by omega), Nat.mod_eq_of_lt v.isLt]

/-! ## What a register write leaves alone -/

/-- `s` with the registers of `t` that a register write reaches. -/
def State.withRegistersOf (s t : State) : State :=
  { s with
    stpt := t.stpt, tvb := t.tvb, clusters := t.clusters, audc := t.audc, audb := t.audb, medlar := t.medlar, links := t.links,
    quince := t.quince }

/-- `t` differs from `s` in registers of system space only. -/
def RegistersOnly (s t : State) : Prop := t = s.withRegistersOf t

theorem RegistersOnly.refl (s : State) : RegistersOnly s s := rfl

theorem RegistersOnly.trans {s t u : State} (hst : RegistersOnly s t) (htu : RegistersOnly t u) : RegistersOnly s u :=
  calc u = t.withRegistersOf u := htu
    _ = (s.withRegistersOf t).withRegistersOf u := congrArg (fun r => r.withRegistersOf u) hst
    _ = s.withRegistersOf u := rfl

theorem RegistersOnly.ite {s : State} {p : Prop} [Decidable p] {x y : State × Nat} (hx : RegistersOnly s x.1) (hy : RegistersOnly s y.1) :
    RegistersOnly s (if p then x else y).1 := by
  split
  · exact hx
  · exact hy

theorem RegistersOnly.stpt (s : State) (x : BitVec 64) : RegistersOnly s { s with stpt := x } := rfl

theorem RegistersOnly.tvb (s : State) (x : BitVec 64) : RegistersOnly s { s with tvb := x } := rfl

theorem RegistersOnly.audc (s : State) (x : BitVec 64) : RegistersOnly s { s with audc := x } := rfl

theorem RegistersOnly.audb (s : State) (x : BitVec 64) : RegistersOnly s { s with audb := x } := rfl

theorem RegistersOnly.putCluster (s : State) (g : Nat) (k : Cluster) : RegistersOnly s (s.putCluster g k) := rfl

theorem RegistersOnly.putLink (s : State) (n : Nat) (l : Link) : RegistersOnly s (s.putLink n l) := rfl

theorem RegistersOnly.medlar (s : State) (m : Medlar) : RegistersOnly s { s with medlar := m } := rfl

theorem RegistersOnly.quince (s : State) (q : Quince) : RegistersOnly s { s with quince := q } := rfl

theorem State.wakeRequest_registersOnly (s : State) (g : Nat) : RegistersOnly s (s.wakeRequest g) := by
  unfold State.wakeRequest
  split
  · exact .putCluster s g _
  · exact .trans (.putCluster s g _) (.quince _ _)
  · exact .refl s

theorem State.putCpwr_registersOnly (s : State) (g x : Nat) (wake : Bool) : RegistersOnly s (s.putCpwr g x wake) := by
  cases wake with
  | false => exact .putCluster s g _
  | true => exact .trans (.putCluster s g _) (State.wakeRequest_registersOnly _ g)

/-- The parts follow the registers in the order of `State.sysPut`. -/
theorem State.sysPut_registersOnly (s : State) (o m v : Nat) : RegistersOnly s (s.sysPut o m v).1 := by
  unfold State.sysPut
  dsimp only
  refine .ite (.stpt s _) (.ite (.tvb s _) (.ite ?cluster (.ite (.audc s _) (.ite (.audb s _) (.ite (.putCluster s _ _)
    (.ite (.medlar s _) (.ite (.medlar s _) (.ite (.putLink s _ _) (.ite (.quince s _) (.ite (.quince s _) (.ite (.quince s _)
    (.refl s))))))))))))
  case cluster => exact .ite (s.putCpwr_registersOnly _ _ _) (.ite (.putCluster s _ _) (.refl s))

theorem State.sysStore_registersOnly (s : State) (a : Nat) (bs : List Byte) : RegistersOnly s (s.sysStore a bs).1 := by
  refine .ite rfl (.ite ?post ?xwords)
  case post =>
    unfold State.post
    split_ifs <;> exact rfl
  case xwords =>
    exact List.foldlRecOn (motive := fun r : State × Nat => RegistersOnly s r.1) _ _ (.refl s)
      fun r hr _ _ => hr.trans (r.1.sysPut_registersOnly _ _ _)

theorem execRegisterWrite_registersOnly (a : BitVec 44) (n : Nat) (v : BitVec 64) (s : State) :
    ∃ t, execRegisterWrite a n v s = .next t ∧ RegistersOnly s t := by
  refine ⟨_, rfl, ?_⟩
  split
  · exact s.sysStore_registersOnly _ _
  · exact .refl s

/-! ## Each register

The lemmas about merged xwords speak of the mask `2 ^ 64 - 1`, which `simp` must therefore not evaluate. -/

theorem mod_two_pow_eq_bitsOf (x n : Nat) : x % 2 ^ (n + 1) = bitsOf x n 0 := by simp [bitsOf]

theorem bitAt_toNat (v : BitVec 64) (i : Nat) : bitAt v.toNat i = v.getLsbD i := by
  rw [← BitVec.testBit_toNat, Nat.testBit_eq_decide_div_mod_eq]
  rfl

theorem toNat_and_full (v : BitVec 64) : v.toNat &&& (2 ^ 64 - 1) = v.toNat := by
  rw [Nat.and_two_pow_sub_one_eq_mod, Nat.mod_eq_of_lt v.isLt]

section
variable (v : BitVec 64) (s : State)

theorem write_stpt : execRegisterWrite (sysAt 0x2000) 8 v s = .next { s with stpt := v &&& 0x00000FFFFFFFF001 } := by
  have hlow (old : Nat) : mergeBits old (2 ^ 64 - 1) v.toNat % 2 = bitsOf v.toNat 0 0 :=
    (mod_two_pow_eq_bitsOf _ 0).trans (bitsOf_mergeBits old 0 0 v (by decide) (by decide))
  have hval : BitVec.ofNat 64 (bitsOf v.toNat 43 12 * 2 ^ 12 + bitsOf v.toNat 0 0) = v &&& 0x00000FFFFFFFF001 := by
    rw [BitVec.ofNat_add, ofNat_bitsOf, ofNat_bitsOf_zero, and_add_and _ _ _ _ (by decide), ← BitVec.and_or_distrib_left]
    rfl
  rw [execRegisterWrite_xword (by decide) (by decide)]
  simp [State.sysPut, hlow, hval, -Nat.reducePow, -Nat.reduceSub]

theorem write_tvb : execRegisterWrite (sysAt 0x3000) 8 v s = .next { s with tvb := v &&& 0xFFFFFFFFFFFFF000 } := by
  have hval : BitVec.ofNat 64 (bitsOf v.toNat 63 12 * 2 ^ 12) = v &&& 0xFFFFFFFFFFFFF000 := ofNat_bitsOf v 63 12
  rw [execRegisterWrite_xword (by decide) (by decide)]
  simp [State.sysPut, hval, -Nat.reducePow, -Nat.reduceSub]

theorem write_audb : execRegisterWrite (sysAt 0x6008) 8 v s = .next { s with audb := v &&& 0x00000FFFFF800000 } := by
  have hval : BitVec.ofNat 64 (bitsOf v.toNat 43 23 * 2 ^ 23) = v &&& 0x00000FFFFF800000 := ofNat_bitsOf v 43 23
  rw [execRegisterWrite_xword (by decide) (by decide)]
  simp [State.sysPut, hval, -Nat.reducePow, -Nat.reduceSub]

/-- AUDC.K keeps its value when the write names 21 to 31 (R412). -/
theorem write_audc : execRegisterWrite (sysAt 0x6000) 8 v s = .next { s with
    audc := (v &&& 0xFFFFFFFF00000060) ||| ((if v.toNat % 32 ≤ 20 then v else s.audc) &&& 0x1F) } := by
  have hval (k : BitVec 64) : BitVec.ofNat 64 (bitsOf v.toNat 63 32 * 2 ^ 32 + bitsOf v.toNat 6 5 * 2 ^ 5 + k.toNat % 32) =
      (v &&& 0xFFFFFFFF00000060) ||| (k &&& 0x1F) := by
    rw [show k.toNat % 32 = bitsOf k.toNat 4 0 from mod_two_pow_eq_bitsOf _ 4, BitVec.ofNat_add, BitVec.ofNat_add, ofNat_bitsOf,
      ofNat_bitsOf, ofNat_bitsOf_zero, and_add_and _ _ _ _ (by decide), ← BitVec.and_or_distrib_left, and_add_and _ _ _ _ (by decide)]
    rfl
  have hk (old : Nat) : mergeBits old (2 ^ 64 - 1) v.toNat % 32 = v.toNat % 32 := by
    have := mergeBits_mod old v
    omega
  rw [execRegisterWrite_xword (by decide) (by decide)]
  by_cases h20 : v.toNat % 32 ≤ 20 <;>
    simp [State.sysPut, State.putAudc, hk, h20, hval, -Nat.reducePow, -Nat.reduceSub]

/-- CPWR.WAKE raises a wake request once the other fields are written (R204). -/
theorem write_cpwr {g : Nat} (hg : g < 64) : execRegisterWrite (sysAt (0x4000 + 32 * g)) 8 v s =
    let y := s.putCluster g { s.clusterAt g with cpwr := v &&& 0x0000FFFFFFFFF00E }
    .next (if v.getLsbD 0 then y.wakeRequest g else y) := by
  have hval : BitVec.ofNat 64 (bitsOf v.toNat 47 12 * 2 ^ 12 + bitsOf v.toNat 3 1 * 2) = v &&& 0x0000FFFFFFFFF00E := by
    have heco : BitVec.ofNat 64 (bitsOf v.toNat 3 1 * 2) = v &&& fieldMask 3 1 := ofNat_bitsOf v 3 1
    rw [BitVec.ofNat_add, ofNat_bitsOf, heco, and_add_and _ _ _ _ (by decide), ← BitVec.and_or_distrib_left]
    rfl
  rw [execRegisterWrite_xword (by omega) (by omega), State.sysPut, if_neg (by omega), if_neg (by omega), if_pos (by omega),
    if_pos (by omega)]
  simp [State.putCpwr, State.onCluster, bitAt_toNat, hval, -Nat.reducePow, -Nat.reduceSub]

theorem write_seen {g : Nat} (hg : g < 64) : execRegisterWrite (sysAt (0x4008 + 32 * g)) 8 v s =
    .next (s.putCluster g { s.clusterAt g with seen := (s.clusterAt g).seen &&& ~~~ v.setWidth 5 }) := by
  have hindex : (0x4008 + 32 * g - 0x4000) / 32 = g := by omega
  rw [execRegisterWrite_xword (by omega) (by omega), State.sysPut, if_neg (by omega), if_neg (by omega), if_pos (by omega),
    if_neg (by omega), if_pos (by omega)]
  simp only [hindex, State.onCluster, toNat_and_full, ofNat_cleared]

/-- SCORE keeps its value when the write names a core of another cluster (notes/assumptions/94.md). -/
theorem write_supervisor {g : Nat} (hg : g < 64) : execRegisterWrite (sysAt (0x7000 + 8 * g)) 8 v s =
    .next (s.putCluster g { s.clusterAt g with
      srec := v.extractLsb' 16 44,
      score := if clusterOf (v.toNat % 2 ^ 10) = g then v.toNat % 2 ^ 10 else (s.clusterAt g).score }) := by
  have hindex : (0x7000 + 8 * g - 0x7000) / 8 = g := by omega
  have hsrec : BitVec.ofNat 44 (bitsOf v.toNat 59 16) = v.extractLsb' 16 44 :=
    BitVec.eq_of_toNat_eq (by simp [bitsOf, Nat.shiftRight_eq_div_pow])
  rw [execRegisterWrite_xword (by omega) (by omega), State.sysPut, if_neg (by omega), if_neg (by omega), if_neg (by omega),
    if_neg (by omega), if_neg (by omega), if_pos (by omega)]
  simp only [hindex, State.putSupervisor, State.onCluster, bitsOf_mergeBits _ 59 16 v (by decide) (by decide),
    bitsOf_mergeBits _ 9 0 v (by decide) (by decide), hsrec, ← mod_two_pow_eq_bitsOf]

theorem write_medlarStatus : execRegisterWrite (sysAt 0x8000) 8 v s = .next { s with medlar := { s.medlar with
    replay := if v.toNat / 2 ^ 8 % 2 ^ 8 = 0 then s.medlar.replay else 0, drop := s.medlar.drop && !v.getLsbD 2 } } := by
  rw [execRegisterWrite_xword (by decide) (by decide), ← bitAt_toNat]
  simp [State.sysPut, Medlar.clear, bitsOf, -Nat.reducePow, -Nat.reduceSub]

/-- Eight bytes at MLPOST are refused (R421). -/
theorem write_mlpost {o : Nat} (ho : o = 0x8010 ∨ o = 0x8018) : execRegisterWrite (sysAt o) 8 v s = .next (PostRefused s) := by
  rw [execRegisterWrite_xword (by omega) (by omega)]
  rcases ho with rfl | rfl <;> simp [State.sysPut, State.postRefused, PostRefused]

theorem write_linkStatus {n : Nat} (hn : n < 16) : ∃ l, execRegisterWrite (sysAt (0x9000 + 8 * n)) 8 v s = .next (s.putLink n l) ∧
    l.up = (s.linkAt n).up ∧
    (∀ i, l.downs.testBit i = ((min 0xFFFF (s.linkAt n).downs).testBit i && !v.getLsbD (16 + i))) ∧
    ∀ i, l.replay.testBit i = ((min 0xFFFFFFFF (s.linkAt n).replay).testBit i && !v.getLsbD (32 + i)) := by
  have hindex : (0x9000 + 8 * n - 0x9000) / 8 = n := by omega
  refine ⟨(s.linkAt n).clear v.toNat, ?_, rfl, fun i => ?_, fun i => ?_⟩
  · rw [execRegisterWrite_xword (by omega) (by omega), State.sysPut]
    simp only [hindex, toNat_and_full]
    iterate 8 rw [if_neg (by omega)]
    rw [if_pos (by omega)]
  · exact testBit_cleared_field _ 16 16 i v (by omega) (by decide)
  · exact testBit_cleared_field _ 32 32 i v (by omega) (by decide)

theorem write_cmd : execRegisterWrite (sysAt 0xA000) 8 v s =
    .next (if s.quince.busy then s else { s with quince := { s.quince with cmd := v, busy := true, sts := 0 } }) := by
  rw [execRegisterWrite_xword (by decide) (by decide)]
  cases h : s.quince.busy <;> simp [State.sysPut, Quince.start, h, -Nat.reducePow, -Nat.reduceSub]

theorem write_arg : execRegisterWrite (sysAt 0xA008) 8 v s = .next { s with quince := { s.quince with arg := v } } := by
  rw [execRegisterWrite_xword (by decide) (by decide)]
  simp [State.sysPut, -Nat.reducePow, -Nat.reduceSub]

/-- Fewer bytes than eight change their own alone (notes/assumptions/93.md). -/
theorem write_len_low {n : Nat} (hn : n ≤ 8) : execRegisterWrite (sysAt 0xA010) n v s = .next { s with quince := { s.quince with
    len := BitVec.ofNat 64 (s.quince.len.toNat / 2 ^ (8 * n) * 2 ^ (8 * n) + v.toNat % 2 ^ (8 * n)) } } := by
  rcases Nat.eq_zero_or_pos n with rfl | h0
  · simp [execRegisterWrite, leBytes, State.sysStore_nil (by decide : (sysAt 0xA010).toNat % 8 = 0), Nat.mod_one]
  · have hold : s.sysXword 0xA010 = s.quince.len.toNat := by simp [State.sysXword]
    rw [execRegisterWrite_low (by decide) (by decide) h0 hn, ← hold]
    simp [State.sysPut, mergeBits_low]

theorem write_len : execRegisterWrite (sysAt 0xA010) 8 v s = .next { s with quince := { s.quince with len := v } } := by
  rw [execRegisterWrite_xword (by decide) (by decide)]
  simp [State.sysPut, -Nat.reducePow, -Nat.reduceSub]

theorem write_not_writable {o : Nat} (ho : o % 8 = 0) (hlt : o < 2 ^ 42) (h : ¬ Writable o) :
    execRegisterWrite (sysAt o) 8 v s = .next s := by
  rw [execRegisterWrite_xword ho hlt, State.sysPut_of_not_writable h ho]

end

/-! ## Reads -/

theorem leBytes_eq_map (n x : Nat) : leBytes n x = (List.range n).map fun i => BitVec.ofNat 8 (x / 2 ^ (8 * i)) := by
  induction n generalizing x with
  | zero => rfl
  | succ n ih =>
    rw [leBytes, ih, List.range_succ_eq_map, List.map_cons, List.map_map]
    simp [Function.comp_def, Nat.div_div_eq_div_mul, Nat.mul_add, pow_add, Nat.mul_comm 256]

/-- An aligned read of eight bytes gives the xword. -/
theorem State.leNat_sysRead {o : Nat} (ho : o % 8 = 0) (hlt : o < 2 ^ 42) (s : State) :
    leNat (s.sysRead (2 ^ 42 + o) 8) = s.sysXword o % 2 ^ 64 := by
  have hbytes : s.sysRead (2 ^ 42 + o) 8 = leBytes 8 (s.sysXword o) := by
    rw [leBytes_eq_map, State.sysRead]
    refine List.map_congr_left fun i hi => ?_
    have hi : i < 8 := List.mem_range.1 hi
    have ha : (2 ^ 42 + o + i) % 2 ^ 42 = o + i := by omega
    have hx : (o + i) / 8 * 8 = o := by omega
    have hb : (o + i) % 8 = i := by omega
    simp only [ha, hx, hb]
  rw [hbytes, leNat_leBytes]; rfl

theorem State.sysXword_medlarStatus (s : State) : s.sysXword 0x8000 = min 255 s.medlar.replay * 2 ^ 8 + s.medlar.held.length % 32 * 2 ^ 3 +
    ((if s.medlar.drop then 4 else 0) + (if s.medlar.rdy then 2 else 0) + if s.medlar.up then 1 else 0) := by
  simp [State.sysXword, Medlar.status, bit, Nat.add_assoc]

/-! ## The obligation -/

/-- Settles O58: a whole write of an xword is one `State.sysPut`, whose effect is stated register by register; the frame is
`RegistersOnly`, which `State.sysPut` and so every write keeps. -/
theorem registerWrites : Obligations.RegisterWrites := by
  unfold Obligations.RegisterWrites
  intro v s
  dsimp only
  simp only [exec_registerWrite]
  refine ⟨write_stpt v s, write_tvb v s, fun g hg => ⟨fun hw => ?_, fun hw => ?_, write_seen v s hg, write_supervisor v s hg⟩,
    fun hk => ?_, fun hk => ?_, write_audb v s, write_medlarStatus v s, fun n hn => write_linkStatus v s hn, fun hb => ?_, fun hb => ?_,
    write_arg v s, write_len v s, write_mlpost v s (.inl rfl), write_mlpost v s (.inr rfl), fun n hn => write_len_low v s hn,
    fun a n => execRegisterWrite_registersOnly a n v s, fun o ho hlt h => write_not_writable v s ho hlt h,
    fun a n h => execRegisterWrite_outside h n v s, fun o ho hlt => s.leNat_sysRead ho hlt, ?_, ?_, ?_, s.sysXword_medlarStatus⟩
  · simp only [write_cpwr v s hg, hw, Bool.false_eq_true, if_false]
  · simp only [write_cpwr v s hg, hw, if_true]
  · rw [write_audc, if_pos hk, ← BitVec.and_or_distrib_left]
    rfl
  · rw [write_audc, if_neg (by omega)]
  · rw [write_cmd, if_pos hb]
  · rw [write_cmd, if_neg (by simp [hb])]
  all_goals simp [State.sysXword]

end Sys2Proof.Machine
end

section
/-! # Every step keeps the canonical form of memory (O39)

Both memories change by `Memory.write`, which keeps the form, and by dropping listed bytes. So the proof is one rule per operation
of the model, in the order of the model's files: where the form holds before the operation, it holds after. A rule follows the
branches of its operation and names the rules of the operations it calls: `h.f.g` for `g` after `f`, `ite` for a condition,
`hr.of_eq heq` for the state that a result is split into. `State.MemoryWf.exec` puts them together, one line per form. -/

namespace Sys2Proof.Machine

/-- The state of an outcome that has one is in canonical form. -/
def Out.MemoryWf : Out → Prop
  | .next t => t.MemoryWf
  | .fault _ | .refused _ => True

/-- The state that an act leaves is in canonical form. -/
def Act.MemoryWf : Act → Prop
  | .retire t _ | .stall t | .trap t _ _ | .settled t => t.MemoryWf

/-- The state after rows were popped or pushed is in canonical form. -/
def Flow.MemoryWf {α : Type} : Flow α → Prop
  | .done t _ => t.MemoryWf
  | .wait | .fault _ _ => True

/-- A job of an agent keeps the canonical form, whether it ends or fails. -/
def Job.MemoryWf {α : Type} (j : Job α) : Prop := ∀ s : State, s.MemoryWf → (runJob j s).1.MemoryWf

theorem Memory.filter_wf {m : Memory} (h : m.wf = true) (p : Host.Cell → Bool) : Memory.wf (m.filter p) = true := by
  obtain ⟨hp, hn⟩ := (Memory.wf_iff m).1 h
  exact (Memory.wf_iff _).2 ⟨hp.filter p, fun e he => hn e (List.mem_filter.1 he).1⟩

theorem Out.MemoryWf.ite {c : Prop} [Decidable c] {x y : Out} (hx : x.MemoryWf) (hy : y.MemoryWf) :
    Out.MemoryWf (if c then x else y) := by
  split
  · exact hx
  · exact hy

theorem Act.MemoryWf.ite {c : Prop} [Decidable c] {x y : Act} (hx : x.MemoryWf) (hy : y.MemoryWf) :
    Act.MemoryWf (if c then x else y) := by
  split
  · exact hx
  · exact hy

theorem State.MemoryWf.ite {c : Prop} [Decidable c] {x y : State} (hx : x.MemoryWf) (hy : y.MemoryWf) :
    State.MemoryWf (if c then x else y) := by
  split
  · exact hx
  · exact hy

/-- The state that a result is split into. -/
theorem State.MemoryWf.of_eq {α : Type} {r : State × α} (hr : r.1.MemoryWf) {t : State} {x : α} (heq : r = (t, x)) : t.MemoryWf := by
  rw [heq] at hr
  exact hr

/-- A condition between results: `ite` for the state of the one that is chosen. -/
theorem State.MemoryWf.fstIte {α : Type} {c : Prop} [Decidable c] {x y : State × α} (hx : x.1.MemoryWf) (hy : y.1.MemoryWf) :
    (if c then x else y).1.MemoryWf := by
  split
  · exact hx
  · exact hy

namespace State.MemoryWf
variable {s : State} (h : s.MemoryWf)
include h

theorem out : Out.MemoryWf (.next s) := h

theorem write {a bs} : { s with mem := s.mem.write a bs }.MemoryWf := ⟨Memory.write_wf h.1 a bs, h.2⟩

/-- A fold over operations that keep the form. -/
theorem foldl {α : Type} {f : State → α → State} (hf : ∀ {t}, t.MemoryWf → ∀ a, (f t a).MemoryWf) (l : List α) :
    (l.foldl f s).MemoryWf :=
  List.foldlRecOn l f h fun _ ht a _ => hf ht a

theorem foldlPair {α β : Type} {f : State × β → α → State × β} (hf : ∀ {t}, t.MemoryWf → ∀ b a, (f (t, b) a).1.MemoryWf) (l : List α)
    (b : β) : (l.foldl f (s, b)).1.MemoryWf :=
  List.foldlRecOn (motive := fun r : State × β => r.1.MemoryWf) l f h fun r hr a _ => hf hr r.2 a

theorem upTo {f : State → Nat → State} (hf : ∀ {t}, t.MemoryWf → ∀ i, (f t i).MemoryWf) (n : Nat) : (Machine.upTo n f s).MemoryWf :=
  h.foldl hf (List.range n)

theorem withNotes {n} : { s with notes := n }.MemoryWf := h

theorem withMedlar {m} : { s with medlar := m }.MemoryWf := h

theorem withFree {n} : { s with free := n }.MemoryWf := ⟨h.1, h.2⟩

/-! ## Places of the device -/

theorem putCore {c k} : (s.putCore c k).MemoryWf := h

theorem onCore {c f} : (s.onCore c f).MemoryWf := h

theorem putSlot {c j v} : (s.putSlot c j v).MemoryWf := h

theorem onSlot {c j f} : (s.onSlot c j f).MemoryWf := h

theorem onMe {f} : (s.onMe f).MemoryWf := h

theorem onHere {f} : (s.onHere f).MemoryWf := h

theorem putTile {c t v} : (s.putTile c t v).MemoryWf := h

theorem putCluster {g v} : (s.putCluster g v).MemoryWf := h

theorem onCluster {g f} : (s.onCluster g f).MemoryWf := h

theorem putStation {n v} : (s.putStation n v).MemoryWf := h

theorem putLink {n v} : (s.putLink n v).MemoryWf := h

theorem putBank {c b v} : (s.putBank c b v).MemoryWf := h

theorem onLaunch {lid f} : (s.onLaunch lid f).MemoryWf := h

theorem onUnfolded {id f} : (s.onUnfolded id f).MemoryWf := h

theorem countSent {c lid} : (s.countSent c lid).MemoryWf := h

theorem countRecv {c lid} : (s.countRecv c lid).MemoryWf := h

theorem chargeGranules {c tag bytes} : (s.chargeGranules c tag bytes).MemoryWf := h

theorem wakeRequest {g} : (s.wakeRequest g).MemoryWf := by
  unfold State.wakeRequest
  split
  · exact h.onCluster
  · dsimp only
    exact ⟨h.1, h.2⟩
  · exact h

theorem quinceLog {kind unit detail} : (s.quinceLog kind unit detail).MemoryWf := h

theorem logError {c array sev cause addr syn w inj} : (s.logError c array sev cause addr syn w inj).MemoryWf := ite h h

/-! ## Scalar operands -/

theorem dst {code x short lat} : (s.dst code x short lat).MemoryWf := h

/-! ## The banks of a vault -/

theorem openRow {a} : (s.openRow a).MemoryWf := h

theorem failBank {c b} : (s.failBank c b).MemoryWf := ite h h

theorem repairRow {a w} : (s.repairRow a w).MemoryWf := ite h.failBank h.putBank.onCore.logError

theorem noteFix {a w} : (s.noteFix a w).MemoryWf := ite h.repairRow h

theorem noteBad {a} : (s.noteBad a).MemoryWf := ite h.putBank.failBank h

theorem fire {key} : (s.fire key).MemoryWf := by
  refine foldl ?_ (fun ht _ => ht.onCore) _
  exact h

theorem checkGranule {w g} : (s.checkGranule w g).1.MemoryWf :=
  fstIte (ite h h.fire).logError.noteBad (fstIte (ite h h.fire).logError.noteFix (ite h h.fire))

theorem readGranule {w g} : (s.readGranule w g).1.MemoryWf := fstIte h h.openRow.checkGranule

theorem countLost {a status} : (s.countLost a status).MemoryWf := ite h h

theorem vaultRead {w a n} : (s.vaultRead w a n).1.MemoryWf :=
  (h.foldlPair (fun ht _ _ => ht.readGranule) _ _).countLost

theorem writeGranule {w a bs} : (s.writeGranule w a bs).1.MemoryWf :=
  fstIte h (fstIte h.openRow.write (fstIte h.readGranule.write h.readGranule))

theorem vaultWrite {w a bs} : (s.vaultWrite w a bs).1.MemoryWf :=
  (h.foldlPair (fun ht _ _ => ht.writeGranule) _ _).countLost

theorem ownerCheck {w pid a} : (s.ownerCheck w pid a).1.MemoryWf := by
  unfold State.ownerCheck
  split
  next heq => exact h.checkGranule.of_eq heq
  next heq => exact h.checkGranule.of_eq heq

theorem ownerChecks {w pid l} : (State.ownerChecks w pid l s).1.MemoryWf := by
  induction l generalizing s with
  | nil => exact h
  | cons a l ih => grind [State.ownerChecks, !ownerCheck]

/-! ## Writes of system space -/

theorem of_registersOnly {t : State} (ht : RegistersOnly s t) : t.MemoryWf := by
  rw [ht]
  exact h

theorem sysStore {a bs} : (s.sysStore a bs).1.MemoryWf := h.of_registersOnly (s.sysStore_registersOnly a bs)

/-! ## Translation -/

theorem tableEntry {w a} : (s.tableEntry w a).1.MemoryWf := by
  refine fstIte h (fstIte h ?_)
  dsimp only
  exact h.vaultRead

theorem walkFrom {w va n table} : (State.walkFrom w va n s table).1.MemoryWf := by
  induction n generalizing s table with
  | zero => exact h
  | succ n ih => grind [State.walkFrom, !tableEntry]

theorem walk {w pid va} : (s.walk w pid va).1.MemoryWf := by
  unfold State.walk
  split
  next heq => exact h.tableEntry.of_eq heq
  next heq =>
    have ht := h.tableEntry.of_eq heq
    exact fstIte ht ht.walkFrom

theorem probe {n pid va} : (s.probe n pid va).1.MemoryWf := by
  unfold State.probe
  split
  · exact h
  · refine fstIte ?_ h
    dsimp only
    exact h.putStation.logError

theorem translate {w pid prv va acc} : (s.translate w pid prv va acc).1.MemoryWf := by
  refine fstIte h ?_
  dsimp only
  split
  next heq => exact h.probe.of_eq heq
  next heq =>
    have ht := h.probe.of_eq heq
    split
    next heq => exact ht.walk.of_eq heq
    next heq => exact (ht.walk.of_eq heq).putStation

theorem readPhys {w pa n} : (s.readPhys w pa n).1.MemoryWf := by
  unfold State.readPhys
  split
  · refine fstIte h ?_
    dsimp only
    split
    · exact h.vaultRead
    · exact h.vaultRead
  · exact fstIte h h
  · exact fstIte h h
  · exact fstIte h h
  · exact h

theorem countPairs {w owner va n} : (s.countPairs w owner va n).MemoryWf :=
  h.foldl (fun ht _ => ht.countSent.countRecv) _

theorem readGlobal {w pid prv va n acc} : (s.readGlobal w pid prv va n acc).1.MemoryWf := by
  unfold State.readGlobal
  split
  next heq => exact (h.translate.of_eq heq).countPairs
  next heq => exact (h.translate.of_eq heq).countPairs.readPhys

theorem writePhys {w pa bs} : (s.writePhys w pa bs).1.MemoryWf := by
  unfold State.writePhys
  split
  · refine fstIte h ?_
    dsimp only
    exact h.vaultWrite
  · exact fstIte h.write h
  · exact fstIte h.write h
  · dsimp only
    exact h.sysStore
  · exact h

theorem writeGlobal {w pid prv va bs} : (s.writeGlobal w pid prv va bs).1.MemoryWf := by
  unfold State.writeGlobal
  split
  next heq => exact (h.translate.of_eq heq).countPairs
  next heq => exact (h.translate.of_eq heq).countPairs.writePhys

/-! ## Continuations on their way -/

theorem unbindAll {id} : (s.unbindAll id).MemoryWf := h

theorem freeReserved {c id} : (s.freeReserved c id).MemoryWf := by
  refine h.upTo (fun ht _ => ?_) _
  dsimp only
  exact ite ht.putSlot ht

theorem strandDone {id exited} : (s.strandDone id exited).MemoryWf :=
  (h.foldl (fun ht _ => ht.onCore.freeReserved) _).onUnfolded.onLaunch

theorem loseSlot {c p cause} : (s.loseSlot c p cause).MemoryWf := h.strandDone.logError

theorem saveSlot {c p link} : (s.saveSlot c p link).1.MemoryWf := by
  unfold State.saveSlot
  split
  next heq => exact h.writeGlobal.of_eq heq
  next heq => exact (h.writeGlobal.of_eq heq).loseSlot

theorem linkSlot {c p next} : (s.linkSlot c p next).1.MemoryWf := by
  unfold State.linkSlot
  split
  next heq => exact h.writeGlobal.of_eq heq
  next heq => exact (h.writeGlobal.of_eq heq).loseSlot

theorem readSlot {c p} : (s.readSlot c p).1.MemoryWf := by
  unfold State.readSlot
  split
  next heq => exact h.readGlobal.of_eq heq
  next heq => exact (h.readGlobal.of_eq heq).loseSlot

theorem restartCont {c id handle} : (s.restartCont c id handle).1.MemoryWf := by
  unfold State.restartCont
  split
  · exact h
  · dsimp only
    split
    next heq => exact h.readGlobal.of_eq heq
    next heq =>
      have ht := h.readGlobal.of_eq heq
      exact fstIte ht ht

theorem noRestart {c id pid f} : (s.noRestart c id pid f).MemoryWf := h.strandDone.logError

theorem restartPacket {c p} : (s.restartPacket c p).1.MemoryWf := by
  unfold State.restartPacket
  split
  next heq => exact (h.restartCont.of_eq heq).noRestart
  next heq => exact h.restartCont.of_eq heq

theorem stir {c} : (s.stir c).MemoryWf := by
  refine h.upTo (fun ht _ => ?_) _
  dsimp only
  split
  · exact ht.putSlot
  · exact ht

theorem intoRing {c p} : (s.intoRing c p).MemoryWf := by
  unfold State.intoRing
  dsimp only
  exact h.stir.vaultWrite.onCore

theorem readRing {c e} : (s.readRing c e).1.MemoryWf := by
  unfold State.readRing
  split
  next heq => exact h.vaultRead.of_eq heq
  next heq => exact (h.vaultRead.of_eq heq).restartPacket

theorem refillRing {c n} : (State.refillRing c n s).MemoryWf := by
  induction n generalizing s with
  | zero => exact h
  | succ n ih => grind [State.refillRing, !putCore, !readSlot, intoRing]

theorem relink {c l} : (State.relink c l s).MemoryWf := by
  induction l generalizing s with
  | nil => exact h
  | cons e l ih => exact ih h.linkSlot

theorem refill {c} : (s.refill c).MemoryWf := h.refillRing

theorem intoOverflow {c p} : (s.intoOverflow c p).MemoryWf := by
  unfold State.intoOverflow
  split
  next heq => exact h.saveSlot.of_eq heq
  next heq =>
    have ht := h.saveSlot.of_eq heq
    dsimp only
    split
    · exact ht.onCore
    · split
      next heq => exact (ht.linkSlot.of_eq heq).onCore
      next heq => exact (ht.linkSlot.of_eq heq).onCore

theorem enterRing {c p} : (s.enterRing c p).MemoryWf := ite h.wakeRequest.intoRing h.wakeRequest.intoOverflow

/-- The definition is unfolded as a function, before its arguments are in place: the kernel, asked whether the call and its body
agree, would otherwise evaluate the read of the ring. -/
theorem leaveRing {c e} : (s.leaveRing c e).1.MemoryWf := by
  generalize hr : s.leaveRing c e = r
  generalize hf : @State.leaveRing = f at hr
  delta State.leaveRing at hf
  subst hf
  beta_reduce at hr
  generalize hq : State.readRing _ c e = q at hr
  obtain ⟨t, p⟩ := q
  subst hr
  exact (h.onCore.readRing.of_eq hq).refill

theorem sendPacket {p} : (s.sendPacket p).MemoryWf := h

theorem moveAway {c p} : (s.moveAway c p).MemoryWf := by
  unfold State.moveAway
  split
  · exact h.sendPacket
  · split
    next heq => exact h.saveSlot.of_eq heq
    next heq => exact (h.saveSlot.of_eq heq).onCore

theorem makeReady {c p} : (s.makeReady c p).MemoryWf := ite h.moveAway h.enterRing

theorem releaseWaiter {at_ w pend} : (s.releaseWaiter at_ w pend).MemoryWf := by
  refine ite h.stir.onCore.moveAway (ite h.stir.makeReady (ite h.stir.makeReady ?_))
  split
  · exact h.stir.makeReady
  · exact h.stir.strandDone

theorem promote {c list} : (s.promote c list).MemoryWf := by
  unfold State.promote
  split
  · exact h
  · split
    next heq => exact (h.readSlot.of_eq heq).onCore
    next heq => exact (h.readSlot.of_eq heq).onCore

theorem unlink {c w} : (s.unlink c w).MemoryWf := by
  unfold State.unlink
  dsimp only
  split
  · exact h
  · split
    next heq => exact h.linkSlot.of_eq heq
    next heq => exact (h.linkSlot.of_eq heq).onCore

theorem takeWaiter {c w} : (s.takeWaiter c w).1.MemoryWf := by
  refine fstIte ?_ (ite h.unlink h).onCore.promote
  split
  next heq => exact (ite h.unlink h).onCore.readSlot.of_eq heq
  next heq => exact (ite h.unlink h).onCore.readSlot.of_eq heq

theorem releaseWhere {c p f} : (s.releaseWhere c p f).MemoryWf := by
  refine h.foldl (fun ht _ => ?_) _
  split
  · exact ht
  · split
    next heq => exact (ht.takeWaiter.of_eq heq).releaseWaiter
    next heq => exact ht.takeWaiter.of_eq heq

theorem enlist {c w} : (s.enlist c w).MemoryWf := by
  unfold State.enlist
  dsimp only
  refine ite h.onCore ?_
  split
  next heq => exact h.saveSlot.of_eq heq
  next heq =>
    have ht := h.saveSlot.of_eq heq
    split
    · exact ht.onCore
    · split
      next heq => exact (ht.linkSlot.of_eq heq).onCore
      next heq => exact (ht.linkSlot.of_eq heq).onCore

theorem arrive {c p} : (s.arrive c p).MemoryWf := by
  unfold State.arrive
  split
  · exact h.enterRing
  · exact h.enlist

/-! ## Scratchpads and completion barriers -/

theorem readSpmWord {w c word} : (s.readSpmWord w c word).1.MemoryWf :=
  fstIte (ite h h.fire).logError (fstIte (ite h h.fire).logError (ite h h.fire))

theorem spmRead {w c b n} : (s.spmRead w c b n).1.MemoryWf :=
  h.foldlPair (fun ht _ _ => ht.readSpmWord) _ _

theorem wakeWords {c b n} : (s.wakeWords c b n).MemoryWf := h.releaseWhere

theorem spmPut {c b bs} : (s.spmPut c b bs).MemoryWf := by
  refine wakeWords ?_
  exact ⟨h.1, Memory.write_wf h.2 _ _⟩

theorem spmEdges {w c b n} : (s.spmEdges w c b n).1.MemoryWf :=
  h.foldlPair (fun ht _ _ => ht.readSpmWord) _ _

theorem spmMiss {c} : (s.spmMiss c).MemoryWf := h

theorem windowRead {w pid va n} : (s.windowRead w pid va n).1.MemoryWf := by
  unfold State.windowRead
  split
  · exact h.spmMiss
  · exact h.foldlPair (fun ht _ _ => ht.spmRead) _ _

theorem writeSpans {c l bs} : (State.writeSpans c l bs s).MemoryWf := by
  induction l generalizing s bs with
  | nil => exact h
  | cons p l ih => exact ih h.spmPut

theorem windowWrite {w pid va bs} : (s.windowWrite w pid va bs).1.MemoryWf := by
  unfold State.windowWrite
  split
  · exact h.spmMiss
  · dsimp only
    split
    · exact (h.foldlPair (fun ht _ _ => ht.spmEdges) _ _).writeSpans
    · exact h.foldlPair (fun ht _ _ => ht.spmEdges) _ _

theorem freeAlloc {c a} : (s.freeAlloc c a).MemoryWf := h

theorem orderTasks {g} : (s.orderTasks g).MemoryWf := by
  refine h.foldl (fun ht _ => ite ?_ ht) _
  dsimp only
  exact ⟨ht.onCluster.wakeRequest.1, ht.onCluster.wakeRequest.2⟩

theorem barSound {w c b} : (s.barSound w c b).1.MemoryWf := h.spmRead

theorem barLook {w c b} : (s.barLook w c b).1.MemoryWf := h.barSound

theorem barPut {c b bar} : (s.barPut c b bar).MemoryWf := by
  refine orderTasks (onCluster (releaseWhere ?_))
  exact ⟨h.1, Memory.write_wf h.2 _ _⟩

theorem barTry {w c b op} : (s.barTry w c b op).1.MemoryWf := by
  unfold State.barTry
  split
  · exact h.barPut
  · split
    next heq => exact h.barLook.of_eq heq
    next heq => exact (h.barLook.of_eq heq).barPut

theorem barUpdate {c b op} : (s.barUpdate c b op).MemoryWf := h.barTry

theorem barSend {from_ lid c b op} : (s.barSend from_ lid c b op).MemoryWf :=
  ite h.barUpdate (ite h.countSent.countRecv h.countSent.countRecv.barUpdate)

/-! ## Data accesses of a slot -/

theorem regionFor {x va} : (s.regionFor x va).1.MemoryWf := by
  unfold State.regionFor
  split
  · dsimp only
    exact fstIte h h.ownerCheck
  · exact h
  · exact h

theorem ctxRead {x va n} : (s.ctxRead x va n).1.MemoryWf := by grind [State.ctxRead, !regionFor, !vaultRead, !countPairs, !windowRead,
  !readGlobal]

theorem ctxWrite {x va bs} : (s.ctxWrite x va bs).1.MemoryWf := by
  unfold State.ctxWrite
  split
  next heq => exact h.regionFor.of_eq heq
  next heq =>
    have ht := h.regionFor.of_eq heq
    split
    · dsimp only
      exact ht.vaultWrite
    · dsimp only
      exact fstIte (ite ht ht.countPairs) (ite ht ht.countPairs).windowWrite
    · exact ht.writeGlobal

theorem regionCheck {c j va} : (s.regionCheck c j va).1.MemoryWf := h.regionFor

theorem dataRead {c j va n} : (s.dataRead c j va n).1.MemoryWf := (ite h.chargeGranules h).ctxRead

theorem dataWrite {c j va bs} : (s.dataWrite c j va bs).1.MemoryWf := (ite h.chargeGranules h).ctxWrite

theorem readStored {c j n} : (s.readStored c j n).MemoryWf := by
  unfold State.readStored
  split
  · exact ite h h.logError.onSlot
  · exact h

theorem flushWindows {c j l} : (State.flushWindows c j l s).1.MemoryWf := by
  induction l generalizing s with
  | nil => exact h
  | cons o l ih => grind [State.flushWindows, logError, readStored, !dataWrite]

/-! ## The scoreboard -/

theorem frameEntry {c j n} : (s.frameEntry c j n).MemoryWf := by
  unfold State.frameEntry
  split
  · exact h
  · exact h.vaultWrite

theorem putEntry {c j n v} : (s.putEntry c j n v).MemoryWf := ite h.putSlot.frameEntry h.putSlot

theorem endWork {c j id entry fail told array aux part} : (s.endWork c j id entry fail told array aux part).MemoryWf := by
  unfold State.endWork
  dsimp only
  split
  · exact h.putEntry
  · exact h
  · exact h.putEntry
  · split
    · exact h
    · exact h.logError

theorem noteWork {c j id entry f} : (s.noteWork c j id entry f).MemoryWf := by
  cases entry with
  | none => exact h
  | some n => exact h.onSlot

theorem markStopped {c j entry aux part} : (s.markStopped c j entry aux part).MemoryWf := by
  cases entry with
  | none => exact h
  | some n => exact h.onSlot

theorem gatherBar {c g op} : (s.gatherBar c g op).MemoryWf := ite h h.barSend

theorem dropGather {c n} : (s.dropGather c n).MemoryWf := h

theorem endGather {c g fail} : (s.endGather c g fail).MemoryWf := by
  refine endWork (dropGather ?_)
  cases fail with
  | none => exact h
  | some f => exact ite h.logError h.gatherBar

/-! ## Shared operations -/

theorem rouse {c j} : (s.rouse c j).1.MemoryWf := by grind [State.rouse, !putSlot, !logError, State.MemoryWf]

theorem writeBack {c j} : (s.writeBack c j).1.MemoryWf := by
  unfold State.writeBack
  dsimp only
  split
  next heq => exact h.flushWindows.of_eq heq
  next heq =>
    have ht := h.flushWindows.of_eq heq
    split
    next heq => exact ht.dataWrite.of_eq heq
    next heq => exact ht.dataWrite.of_eq heq

theorem leaveSlot {c j leaves} : (s.leaveSlot c j leaves).MemoryWf := ite h h

theorem endStrand {c j exited} : (s.endStrand c j exited).MemoryWf := h.leaveSlot.strandDone

theorem killStrand {c sup ovf e} : (s.killStrand c sup ovf e).MemoryWf := by
  unfold State.killStrand
  split
  · exact h
  · refine ite h.onLaunch.onUnfolded ?_
    split
    next heq => exact (h.restartCont.of_eq heq).noRestart
    next heq =>
      have ht := h.restartCont.of_eq heq
      split
      · exact ht.noRestart
      · exact ht.unbindAll.sendPacket

theorem cutOff {c lid bar addr n} : (s.cutOff c lid bar addr n).MemoryWf := h.barSend

theorem abandon {c} : (s.abandon c).MemoryWf :=
  onCore (foldl (foldl (h.foldl (fun ht _ => ite ht.cutOff ht) _) (fun ht _ => ite ht ht.cutOff) _) (fun ht _ => ite ht.gatherBar
    ht.endGather) _)

theorem writeKillList {bs l} : (State.writeKillList bs l s).1.MemoryWf := by
  induction l generalizing s with
  | nil => exact h
  | cons p l ih => grind [State.writeKillList, !vaultWrite]

theorem killCore {c array cause} : (s.killCore c array cause).MemoryWf := by
  refine ite h (quinceLog ?_)
  split
  case' h_2 => refine withNotes (onCore ?_)
  all_goals
    refine onCore (upTo (foldl (onCore (abandon (writeKillList (logError ?_)))) (fun ht _ => ht.killStrand) _) (fun ht _ => ht.onSlot) 8)
    exact h

theorem callKill {c array cause} : (s.callKill c array cause).MemoryWf := ite h h

theorem killAll : s.killAll.MemoryWf := foldl (s := { s with kills := [] }) h (fun ht _ => ht.killCore) _

theorem endCycle {t} : (s.endCycle t).MemoryWf := ite h.killAll h

theorem failCore {c} : (s.failCore c).MemoryWf := h.logError.callKill

theorem endSettled {c j} : (s.endSettled c j).MemoryWf := ite h h.endStrand

theorem endTwice {c j cause earlier} : (s.endTwice c j cause earlier).MemoryWf := h.logError.endSettled

theorem doubleTrap {c j cause} : (s.doubleTrap c j cause).MemoryWf := h.endTwice

theorem enterTrap {c j cause eva async sub} : (s.enterTrap c j cause eva async sub).MemoryWf :=
  ite h.doubleTrap (ite (ite h.vaultWrite.putSlot.onCore h.vaultWrite.putSlot) (ite h.vaultWrite.putSlot.onCore
    h.vaultWrite.putSlot).callKill)

theorem trap {cause eva} : (s.trap cause eva).MemoryWf := h.enterTrap

theorem countIssue {c tag} : (s.countIssue c tag).MemoryWf := h

theorem retire {u next} : (s.retire u next).MemoryWf := h

theorem issued {u} : (s.issued u).MemoryWf := h

theorem wakeBanks {a reads} : (s.wakeBanks a reads).MemoryWf := h

theorem raise {t : State} (ht : t.MemoryWf) {cause eva} : (s.raise t cause eva).MemoryWf := by
  unfold State.raise
  exact out (by split; exacts [ht.trap, h])

omit h in
theorem also {f : State → State} (hf : ∀ {t : State}, t.MemoryWf → (f t).MemoryWf) {a : Act} (ha : a.MemoryWf) : (a.also f).MemoryWf := by
  cases a with
  | retire t n => exact hf ha
  | stall | trap | settled => exact ha

theorem actOut {a : Act} (ha : a.MemoryWf) {u} : (a.out u s).MemoryWf := by
  cases a with
  | retire t n => exact out (retire ha)
  | stall t | settled t => exact out ha
  | trap t cause eva => exact h.raise ha

theorem understall {eva} : (s.understall eva).MemoryWf := .ite h (.ite h.trap h.onMe)

/-- What an issued instruction does beyond its own effect keeps the form; the effect is given the state as issue left it. -/
theorem issue {u body} (hb : ∀ {t : State}, t.MemoryWf → (body t).MemoryWf) : (Machine.issue u s body).MemoryWf := by
  refine .ite h (.ite (h.raise h) (.ite (h.raise h) (.ite (h.raise h) ?_)))
  split
  · exact h.raise h
  · exact h.understall
  · refine .ite h ?_
    dsimp only
    split
    · exact h.raise h.wakeBanks.logError
    · refine .ite h.wakeBanks ?_
      split
      · exact h.raise h
      · exact h.actOut (hb h.onMe)

/-! ## Waiting and leaving -/

theorem suspend {c j f pc dst kind} : (s.suspend c j f pc dst kind).1.MemoryWf := by
  unfold State.suspend
  split
  next heq => exact h.rouse.of_eq heq
  next heq =>
    have ht := h.rouse.of_eq heq
    dsimp only
    split
    next heq => exact (ht.putSlot.writeBack.of_eq heq).putSlot
    next heq => exact (ht.putSlot.writeBack.of_eq heq).leaveSlot

theorem suspendMe {u dst kind place} (hp : ∀ {t : State}, t.MemoryWf → ∀ p, (place t p).MemoryWf) :
    (s.suspendMe u dst kind place).MemoryWf := by
  unfold State.suspendMe
  dsimp only
  split
  next heq => exact h.suspend.of_eq heq
  next heq => exact hp (h.suspend.of_eq heq).issued _

theorem awaitTag : s.awaitTag.MemoryWf := ite h h

theorem ownerCore {a acc} : (s.ownerCore a acc).1.MemoryWf := by
  refine fstIte h ?_
  split
  next heq => exact h.translate.of_eq heq
  next heq =>
    have ht := h.translate.of_eq heq
    exact fstIte ht ht

/-! ## Sending messages -/

theorem send {m} : (s.send m).1.MemoryWf := h

theorem takeSeq {c} : (s.takeSeq c).1.MemoryWf := h

theorem sendAll {l} : (s.sendAll l).1.MemoryWf := by
  induction l generalizing s with
  | nil => exact h
  | cons m l ih => exact ih h.send

theorem sendAwaited {ms ea act plain} : (s.sendAwaited ms ea act plain).MemoryWf := h.sendAll.onMe

theorem sendAwait {m act} : (s.sendAwait m act).MemoryWf := h

theorem addEntry {w cls seq left} : (s.addEntry w cls seq left).1.MemoryWf := by
  refine fstIte h ?_
  dsimp only
  exact h.onMe

theorem postAll {ms cls w} : (s.postAll ms cls w).MemoryWf := (ite h.addEntry.onMe h.addEntry).sendAll

theorem sendPosted {m w} : (s.sendPosted m w).MemoryWf := h.postAll

theorem rouseBank {c j code} : (s.rouseBank c j code).MemoryWf := h

theorem settleAwaits {c j} : (s.settleAwaits c j).MemoryWf := by
  unfold State.settleAwaits
  split
  · exact h
  · split
    · exact h
    · dsimp only
      exact (ite h.onSlot.rouseBank h.onSlot).enterTrap

theorem failAwait {c j i cause eva} : (s.failAwait c j i cause eva).MemoryWf := h.onSlot.settleAwaits

theorem finishAwait {c j i r} : (s.finishAwait c j i r).MemoryWf := by
  unfold State.finishAwait
  split
  · exact h.logError.failAwait
  · exact h.onSlot.settleAwaits

theorem putMsg {k m} : (s.putMsg k m).MemoryWf := h

theorem dropMsg {k} : (s.dropMsg k).MemoryWf := h

/-! ## Full/empty words -/

theorem feBit {isLoad fn a} : (s.feBit isLoad fn a).MemoryWf := by
  unfold State.feBit
  split
  · exact ite h (⟨h.1, h.2⟩)
  · exact ⟨h.1, h.2⟩

theorem feAccess {w a isLoad fn x} : (s.feAccess w a isLoad fn x).1.MemoryWf := by
  unfold State.feAccess
  split
  · dsimp only
    exact fstIte h.vaultRead.feBit h.vaultRead
  · dsimp only
    exact fstIte h.vaultWrite.feBit h.vaultWrite

theorem serveWaiter {c a w} : (s.serveWaiter c a w).MemoryWf := by
  unfold State.serveWaiter
  split
  · dsimp only
    split
    next heq => exact h.chargeGranules.feAccess.takeWaiter.of_eq heq
    next heq =>
      have ht := h.chargeGranules.feAccess.takeWaiter.of_eq heq
      exact ite ht.releaseWaiter ht.releaseWaiter
  · exact h

theorem visitOnce {c a} : (s.visitOnce c a).MemoryWf := by
  refine h.foldl (fun ht _ => ?_) _
  split
  · exact ht
  · split
    · exact ite ht.serveWaiter ht
    · exact ht

theorem visit {c a n} : (State.visit c a n s).MemoryWf := by
  induction n generalizing s with
  | zero => exact h
  | succ n ih => grind [State.visit, visitOnce]

theorem feWake {a} : (s.feWake a).MemoryWf := ite h.visit h

theorem fePerform {w a isLoad fn x} : (s.fePerform w a isLoad fn x).1.MemoryWf := h.feAccess.feWake

theorem setFull {a n} : (s.setFull a n).MemoryWf := by
  refine foldl ?_ (fun ht _ => ht.feWake) _
  exact h

theorem engineWrite {w a bs} : (s.engineWrite w a bs).1.MemoryWf := fstIte h.vaultWrite.setFull h.vaultWrite

theorem parkAt {w a} : (s.parkAt w a).MemoryWf := h.enlist.feWake

/-! ## Loads and stores -/

theorem vaultWait {pa n} : (s.vaultWait pa n).MemoryWf := ite h h.awaitTag

theorem loadAt {size signed d o sc ea} : (Machine.loadAt size signed d o sc ea s).MemoryWf := by
  unfold Machine.loadAt
  dsimp only
  refine .ite h ?_
  split
  next heq => exact h.regionCheck.of_eq heq
  next heq =>
    have ht := h.regionCheck.of_eq heq
    split
    · refine .ite ht.vaultWait ?_
      split
      · exact ht.chargeGranules.vaultRead
      · exact ht.chargeGranules.vaultRead.dst
    · refine .ite ?_ ht.sendAwaited
      split
      next heq => exact ht.windowRead.of_eq heq
      next heq => exact (ht.windowRead.of_eq heq).dst
    · exact ht.sendAwaited

theorem loadForm {i size signed d a o sc w f} : (Machine.loadForm i size signed d a o sc w f s).MemoryWf :=
  h.issue fun ht => .ite ht ht.loadAt

theorem tableRead {ea n k} (hk : ∀ {t : State}, t.MemoryWf → ∀ bs, (k t bs).MemoryWf) : (Machine.tableRead s ea n k).MemoryWf := by
  unfold Machine.tableRead
  split
  next heq => exact h.regionCheck.of_eq heq
  next heq =>
    have ht := h.regionCheck.of_eq heq
    refine .ite (.ite ht.vaultWait ?_) ?_
    · split
      next heq => exact ht.dataRead.of_eq heq
      next heq => exact hk (ht.dataRead.of_eq heq) _
    · dsimp only
      split
      · exact ht.sendAwaited
      · exact .ite (hk ht.onMe _) ht.sendAwaited

theorem sendStore {m w} : (s.sendStore m w).MemoryWf := ite h.sendPosted h.sendPosted

theorem storeAt {size o sc ea x} : (Machine.storeAt size o sc ea x s).MemoryWf := by
  unfold Machine.storeAt
  dsimp only
  refine .ite h ?_
  split
  next heq => exact h.regionCheck.of_eq heq
  next heq =>
    have ht := h.regionCheck.of_eq heq
    split
    · refine .ite ht.vaultWait ?_
      split
      · exact ht.chargeGranules.vaultWrite
      · exact ht.chargeGranules.vaultWrite
    · refine .ite ?_ (.ite ht ht.sendStore)
      split
      next heq => exact ht.windowWrite.of_eq heq
      next heq => exact ht.windowWrite.of_eq heq
    · exact .ite ht ht.sendStore

theorem storeForm {i size d a o sc w f} : (Machine.storeForm i size d a o sc w f s).MemoryWf :=
  h.issue fun ht => .ite ht (also (fun hu => hu.onMe) ht.storeAt)

theorem parkFullEmpty {pa isLoad fn rd x ea} : (Machine.parkFullEmpty s pa isLoad fn rd x ea).MemoryWf := by
  refine .ite h ?_
  split
  next heq => exact h.suspend.of_eq heq
  next heq =>
    have ht := h.suspend.of_eq heq
    dsimp only
    exact .ite ht.countIssue.parkAt ht.countIssue.send

theorem fullEmptyForm {i isLoad fn d a o sc w f} : (Machine.fullEmptyForm i isLoad fn d a o sc w f s).MemoryWf := by
  unfold Machine.fullEmptyForm
  dsimp only
  refine h.issue fun ht => .ite ht (.ite ht ?_)
  split
  next heq => exact ht.regionCheck.of_eq heq
  next heq =>
    have hu := ht.regionCheck.of_eq heq
    split
    · exact hu
    · refine .ite hu.vaultWait (.ite hu.parkFullEmpty ?_)
      split
      · exact hu.chargeGranules.fePerform
      · exact ite hu.chargeGranules.fePerform.dst hu.chargeGranules.fePerform.onMe
    · exact ite hu.sendAwait hu.sendAwait.onMe

theorem atomicAccess {w a fn b c} : (s.atomicAccess w a fn b c).1.MemoryWf := fstIte h.vaultRead h.vaultRead.vaultWrite

theorem atomicForm {i fn d a b o sc w} : (Machine.atomicForm i fn d a b o sc w s).MemoryWf := by
  unfold Machine.atomicForm
  dsimp only
  refine h.issue fun ht => .ite ht (.ite ht ?_)
  split
  next heq => exact ht.regionCheck.of_eq heq
  next heq =>
    have hu := ht.regionCheck.of_eq heq
    split
    · exact hu
    · refine .ite hu.vaultWait ?_
      split
      · exact hu.chargeGranules.atomicAccess
      · exact hu.chargeGranules.atomicAccess.dst
    · exact .ite (.ite hu hu.sendStore) hu.sendAwait

theorem migratingForm {i store d a o sc w} : (Machine.migratingForm i store d a o sc w s).MemoryWf := by
  unfold Machine.migratingForm
  dsimp only
  refine h.issue fun ht => .ite ht (.ite ht (.ite (.ite (also (fun hu => hu.onMe) ht.storeAt) ht.loadAt) ?_))
  split
  next heq => exact ht.ownerCore.of_eq heq
  next heq =>
    have hu := ht.ownerCore.of_eq heq
    refine .ite (.ite hu.vaultWait (.ite ?_ ?_)) (.ite hu ?_)
    · split
      · exact hu.chargeGranules.vaultWrite
      · exact hu.chargeGranules.vaultWrite.onMe
    · split
      · exact hu.chargeGranules.vaultRead
      · exact hu.chargeGranules.vaultRead.dst
    · split
      next heq => exact hu.suspend.of_eq heq
      next heq => exact (hu.suspend.of_eq heq).countIssue.sendPacket

theorem fenceForm {releases w} : (Machine.fenceForm releases w s).MemoryWf := h.issue fun ht => .ite ht ht

theorem execWaita {a b w} : (Machine.execWaita a b w s).MemoryWf := by
  unfold Machine.execWaita
  dsimp only
  refine h.issue fun ht => .ite ht (.ite ht (.ite ht ?_))
  split
  next heq => exact ht.windowRead.of_eq heq
  next heq =>
    have hu := ht.windowRead.of_eq heq
    exact .ite hu (.ite hu (hu.suspendMe (fun hv _ => hv.enlist)))

/-! ## Attention forms at the issuing strand -/

theorem agentAddress {a} : (s.agentAddress a).1.MemoryWf := by
  unfold State.agentAddress
  split
  next heq => exact h.regionCheck.of_eq heq
  next heq =>
    have ht := h.regionCheck.of_eq heq
    split
    · exact ht
    · exact ht
    · split
      next heq => exact ht.translate.of_eq heq
      next heq => exact ht.translate.of_eq heq

theorem agentForm {u proc fn align a b send} (hs : ∀ {t : State}, t.MemoryWf → ∀ m, (send t m).MemoryWf) :
    (Machine.agentForm u proc fn align a b send s).MemoryWf := by
  refine h.issue fun ht => .ite ht ?_
  split
  · exact ht
  · split
    next heq => exact ht.agentAddress.of_eq heq
    next heq =>
      have hu := ht.agentAddress.of_eq heq
      split
      · exact hu
      · exact .ite hu (hs hu _)

theorem execKvGath {a b t} : (Machine.execKvGath a b t s).MemoryWf := h.agentForm fun ht _ => .ite ht ht.sendPosted

/-! ## Fetching -/

theorem fetchWord {c j pc} : (s.fetchWord c j pc).1.MemoryWf := by
  refine fstIte h (fstIte h ?_)
  dsimp only
  split
  next heq => exact h.translate.of_eq heq
  next heq =>
    have ht := h.translate.of_eq heq
    split
    next heq => exact ht.readPhys.of_eq heq
    next heq => exact ht.readPhys.of_eq heq

/-! ## Branches, calls and leaving a slot -/

theorem callTo {target free} : (Machine.callTo target free s).MemoryWf := .ite h (.ite h (.ite h h.onMe))

theorem execCall {o} : (Machine.execCall o s).MemoryWf := h.issue fun ht => ht.callTo

theorem execCallr {a m t} : (Machine.execCallr a m t s).MemoryWf := h.issue fun ht => ht.callTo

theorem bringIn {c j} : (s.bringIn c j).MemoryWf := h.readStored

theorem finishPrefetch {c j} : (s.finishPrefetch c j).MemoryWf := h.onSlot.foldl (fun ht _ => ite ht ht.bringIn) _

theorem execRet {t} : (Machine.execRet t s).MemoryWf := by
  refine h.issue fun ht => ?_
  dsimp only
  split
  · exact ht.finishPrefetch
  · refine .ite ht.finishPrefetch (.ite ht.finishPrefetch.logError (.ite ht.finishPrefetch.onMe ?_))
    split
    · exact ht.finishPrefetch.onMe
    · exact ht.finishPrefetch.bringIn.onMe

theorem execWpf {t} : (Machine.execWpf t s).MemoryWf := by
  refine h.issue fun ht => ?_
  dsimp only
  exact .ite ht.finishPrefetch (.ite ht.finishPrefetch ht.finishPrefetch.onMe)

theorem execYield {t} : (Machine.execYield t s).MemoryWf := by
  unfold Machine.execYield
  dsimp only
  exact h.issue fun ht => .ite ht (ht.suspendMe (fun hu _ => hu.makeReady))

theorem execPark {t} : (Machine.execPark t s).MemoryWf := by
  unfold Machine.execPark
  dsimp only
  exact h.issue fun ht => .ite ht (ht.suspendMe (fun hu _ => ite hu.makeReady hu.enlist))

theorem execGo {a m t} : (Machine.execGo a m t s).MemoryWf := by
  unfold Machine.execGo
  dsimp only
  refine h.issue fun ht => ?_
  split
  next heq => exact ht.ownerCore.of_eq heq
  next heq =>
    have hu := ht.ownerCore.of_eq heq
    exact .ite hu (.ite hu (hu.suspendMe (fun hv _ => hv.sendPacket)))

theorem execExit {t} : (Machine.execExit t s).MemoryWf := by
  unfold Machine.execExit
  dsimp only
  exact h.issue fun ht => .ite ht ht.issued.endStrand

/-! ## Checksums -/

theorem noteCheck {c r region num w} : (s.noteCheck c r region num w).MemoryWf :=
  ite (ite h.onCore h.onCore.logError) (ite h.onCore h.onCore.logError).logError

/-! ## The matrix engine -/

theorem scaleRow {x sc i blocks} : (s.scaleRow x sc i blocks).1.MemoryWf := by
  refine h.foldlPair (fun ht _ _ => ?_) _ _
  split
  next heq => exact ht.of_eq heq
  next heq =>
    have hu := ht.of_eq heq
    refine fstIte hu ?_
    split
    next heq => exact hu.chargeGranules.ctxRead.of_eq heq
    next heq => exact hu.chargeGranules.ctxRead.of_eq heq

theorem scaleBlock {c o kb} : (s.scaleBlock c o kb).1.MemoryWf := by
  refine h.foldlPair (fun ht _ _ => ?_) _ _
  split
  next heq => exact ht.of_eq heq
  next heq =>
    have hu := ht.of_eq heq
    dsimp only
    refine fstIte hu ?_
    split
    next heq => exact hu.chargeGranules.ctxRead.of_eq heq
    next heq => exact hu.chargeGranules.ctxRead.of_eq heq

theorem scaleBlocks {c o n kb} : (State.scaleBlocks c o n kb s).1.MemoryWf := by
  induction n generalizing s kb with
  | zero => exact h
  | succ n ih => grind [State.scaleBlocks, !scaleBlock]

theorem withScales {c o upto} : (s.withScales c o upto).1.MemoryWf := by
  refine fstIte h ?_
  dsimp only
  exact h.scaleBlocks

/-! ## Vector operands -/

theorem popStream {t} : (s.popStream t).MemoryWf := by grind [State.popStream, !onMe, !onHere, Flow.MemoryWf]

theorem pushStream {t row} : (s.pushStream t row).MemoryWf := by grind [State.pushStream, !onMe, State.MemoryWf, Flow.MemoryWf]

theorem takeRows {n m k} : (State.takeRows n m k s).MemoryWf := by
  induction m generalizing s k with
  | zero => exact h
  | succ m ih => grind [State.takeRows, !popStream, Flow.MemoryWf]

theorem takeAll {l} : (State.takeAll l s).MemoryWf := by
  induction l generalizing s with
  | nil => exact h
  | cons p l ih => grind [State.takeAll, !takeRows, Flow.MemoryWf]

theorem reloadModuli {c j} : (s.reloadModuli c j).1.MemoryWf := by
  unfold State.reloadModuli
  dsimp only
  split
  next heq => exact h.dataRead.of_eq heq
  next heq =>
    have ht := h.dataRead.of_eq heq
    exact fstIte ht.onSlot ht.onSlot

theorem pushRows {t l} : (State.pushRows t l s).MemoryWf := by
  induction l generalizing s with
  | nil => exact h
  | cons p l ih => grind [State.pushRows, !pushStream, Flow.MemoryWf, State.MemoryWf]

theorem drainDrift {t} : (s.drainDrift t).MemoryWf := ite h.noteCheck h

theorem storeRows {n rows} : (s.storeRows n rows).MemoryWf := by
  unfold State.storeRows
  split
  · exact h
  · dsimp only
    exact h.putTile

theorem rowsReady {n masks turn} : (s.rowsReady n masks turn).MemoryWf := h

theorem writeName {n rows lat} : (s.writeName n rows lat).MemoryWf := by
  unfold State.writeName
  split
  · exact h.pushRows
  · exact h.storeRows.rowsReady

theorem finish {u : VUse} {s0 : State} (h0 : s0.MemoryWf) {o lat} : (u.finish s0 s o lat).MemoryWf := by
  grind [VUse.finish, onMe, !writeName, Act.MemoryWf, Flow.MemoryWf]

theorem rewind : s.rewind.MemoryWf := h

theorem vuseBefore {u : VUse} {a} (ha : u.before s = some a) : a.MemoryWf := by
  grind [VUse.before, !reloadModuli, Act.MemoryWf]

/-- As `issue`, for a vector form: its effect is given the state before and after its stream entries were taken. -/
theorem vissue {u ok update body} (hb : ∀ {t0 t : State}, t0.MemoryWf → t.MemoryWf → ∀ rows, (body t0 t rows).MemoryWf) :
    (Machine.vissue u ok update s body).MemoryWf := by
  refine h.issue fun {t} ht => ?_
  cases hu : u.before t with
  | some a => exact ht.vuseBefore hu
  | none =>
    have hdrained := ht.foldl (f := State.drainDrift) (fun ht _ => ht.drainDrift) (u.written t)
    have htaken := hdrained.takeAll (l := u.reads)
    simp only [Option.getD_none]
    split
    · exact ht
    · refine Act.MemoryWf.ite ht ?_
      split
      · exact hdrained
      · split
        · exact hdrained
        · exact hdrained.rewind
        next heq => rw [heq] at htaken; exact hb hdrained htaken _

/-! ## Vector arithmetic -/

theorem lanewise {i ok update lat d srcs t f} : (Machine.lanewise i ok update lat d srcs t f s).MemoryWf := by
  unfold Machine.lanewise
  dsimp only
  exact h.vissue fun h0 ht _ => finish ht h0

theorem floatBin {i lat f d a b t} : (Machine.floatBin i lat f d a b t s).MemoryWf := h.lanewise

theorem floatUn {i lat f d a t} : (Machine.floatUn i lat f d a t s).MemoryWf := h.lanewise

theorem floatAcc {i minus d a b t} : (Machine.floatAcc i minus d a b t s).MemoryWf := h.lanewise

theorem intBin {i lat f d a b t} : (Machine.intBin i lat f d a b t s).MemoryWf := h.lanewise

theorem compareForm {i ok a b t f} : (Machine.compareForm i ok a b t f s).MemoryWf := by
  unfold Machine.compareForm
  dsimp only
  exact h.vissue fun h0 ht _ => finish ht.onMe h0

theorem floatCmp {i quiet f a b t} : (Machine.floatCmp i quiet f a b t s).MemoryWf := h.compareForm

theorem intCmp {i f a b t} : (Machine.intCmp i f a b t s).MemoryWf := h.compareForm

theorem permute {i ok d a t f} : (Machine.permute i ok d a t f s).MemoryWf := by
  unfold Machine.permute
  dsimp only
  exact h.vissue fun h0 ht _ => finish ht h0

theorem reduceForm {i neutral f zero g d a t} : (Machine.reduceForm i neutral f zero g d a t s).MemoryWf := by
  unfold Machine.reduceForm
  dsimp only
  exact h.vissue fun h0 ht _ => .ite (finish ht.dst h0) (finish ht.dst h0)

/-! ## Conversions -/

theorem convertForm {i ok p d a more also t lat draws f modular coded} :
    (Machine.convertForm i ok p d a more also t lat draws f s modular coded).MemoryWf := by
  unfold Machine.convertForm
  dsimp only
  exact h.vissue fun h0 ht _ => finish ht h0

theorem narrowForm {i f d a t} : (Machine.narrowForm i f d a t s).MemoryWf := h.convertForm

theorem blockForm {i eight d a b t} : (Machine.blockForm i eight d a b t s).MemoryWf := h.convertForm

/-! ## Barriers, copies and launches at the issuing strand -/

theorem barrierForm {u fn a x wc} : (Machine.barrierForm u fn a x wc s).MemoryWf := by
  refine h.issue fun ht => ?_
  dsimp only
  refine .ite ht ?_
  split
  · exact ht
  · refine .ite ?_ (.ite ht ht.sendPosted)
    split
    next heq => exact ht.barTry.of_eq heq
    next heq => exact ht.barTry.of_eq heq

theorem waitBarrier {ea} : (Machine.waitBarrier ea s).MemoryWf := by
  refine .ite (.ite h h.sendAwait) (.ite h ?_)
  split
  next heq => exact h.suspend.of_eq heq
  next heq =>
    have ht := h.suspend.of_eq heq
    exact .ite ht.countIssue.enlist ht.countIssue.send

theorem execCbWait {a w} : (Machine.execCbWait a w s).MemoryWf := by
  refine h.issue fun ht => ?_
  dsimp only
  refine .ite ht ?_
  split
  · exact ht
  · refine .ite ?_ ht.waitBarrier
    split
    next heq => exact ht.barLook.of_eq heq
    next heq =>
      have hu := ht.barLook.of_eq heq
      exact .ite hu hu.waitBarrier

theorem execCbTest {d a w} : (Machine.execCbTest d a w s).MemoryWf := by
  refine h.issue fun ht => ?_
  dsimp only
  refine .ite ht ?_
  split
  · exact ht
  · refine .ite ?_ ht.sendAwait
    split
    next heq => exact ht.barLook.of_eq heq
    next heq => exact (ht.barLook.of_eq heq).dst

theorem startCopy {c j d base entry} : (s.startCopy c j d base entry).MemoryWf := h

theorem execCpy {a o sc w} : (Machine.execCpy a o sc w s).MemoryWf := by
  unfold Machine.execCpy
  dsimp only
  refine h.issue fun ht => .ite ht (.ite ht (ht.tableRead fun hu _ => ?_))
  split
  · exact hu
  · split
    · exact hu
    · exact .ite hu hu.takeSeq.addEntry.startCopy

theorem allocate {c id pid x} : (s.allocate c id pid x).1.MemoryWf := by
  unfold State.allocate
  dsimp only
  split
  · split
    · exact h
    · split
      · exact h
      · exact h
  · refine fstIte h ?_
    split
    · exact fstIte h h.putCore.onUnfolded
    · exact h

theorem release {c lid pid x} : (s.release c lid pid x).MemoryWf := by
  unfold State.release
  split
  · exact ite h.freeAlloc h
  · exact h

theorem spmOp {c fn id pid x} : (s.spmOp c fn id pid x).1.MemoryWf := fstIte h.allocate (fstIte h.release h)

theorem execSpal {d a o m t} : (Machine.execSpal d a o m t s).MemoryWf := by
  refine h.issue fun ht => ?_
  dsimp only
  exact .ite ht.allocate.dst ht.sendAwait

theorem execSpfree {a m t} : (Machine.execSpfree a m t s).MemoryWf := by
  refine h.issue fun ht => ?_
  dsimp only
  exact .ite ht.release ht.sendAwait

theorem recordAddress {a} : (s.recordAddress a).1.MemoryWf := by
  unfold State.recordAddress
  split
  · split
    next heq => exact h.regionCheck.of_eq heq
    next heq => exact h.regionCheck.of_eq heq
  · exact h
  · exact h.translate

theorem deliver {c m} : (s.deliver c m).MemoryWf := h.onCore.stir

theorem execLnch {a b o sc w} : (Machine.execLnch a b o sc w s).MemoryWf := by
  refine h.issue fun ht => ?_
  dsimp only
  refine .ite ht (.ite ht ?_)
  split
  next heq => exact ht.recordAddress.of_eq heq
  next heq =>
    have hu := ht.recordAddress.of_eq heq
    refine .ite hu (.ite hu.onMe (.ite (.ite hu.onMe ?_) hu.deliver.countSent.countRecv.onMe))
    split
    next heq => exact hu.suspend.of_eq heq
    next heq => exact (hu.suspend.of_eq heq).countIssue.makeReady

theorem execTask {a sc w} : (Machine.execTask a sc w s).MemoryWf := by
  refine h.issue fun ht => ?_
  dsimp only
  exact .ite ht (.ite ht ht.onMe)

/-! ## Energy and leaves -/

theorem askLeave {energy current} : (s.askLeave energy current).MemoryWf := h

theorem due {g tag halves} : (s.due g tag halves).MemoryWf := h

theorem grantLeave {g r} : (s.grantLeave g r).MemoryWf := h

theorem execLeave {a b t} : (Machine.execLeave a b t s).MemoryWf := by
  refine h.issue fun ht => ?_
  dsimp only
  exact .ite (.ite ht ht) (.ite ht ht.onHere.askLeave)

/-! ## Vector loads, streams and regions -/

theorem runsWrite {x va l} : (State.runsWrite x va l s).1.MemoryWf := by
  induction l generalizing s with
  | nil => exact h
  | cons p l ih => grind [State.runsWrite, !ctxWrite]

theorem rowWrite {c j va mask bs} : (s.rowWrite c j va mask bs).1.MemoryWf :=
  fstIte (fstIte h.spmMiss h.runsWrite) h.chargeGranules.runsWrite

theorem postRow {ea mask bs} : (s.postRow ea mask bs).MemoryWf := ite h h.postAll

theorem execVld {d a t} : (Machine.execVld d a t s).MemoryWf := by
  unfold Machine.execVld
  dsimp only
  refine h.vissue fun h0 ht _ => .ite ht (.ite (ht.tableRead fun hu _ => finish hu h0) ?_)
  split
  next heq => exact ht.regionCheck.of_eq heq
  next heq => exact (ht.regionCheck.of_eq heq).sendAwaited

theorem landRow {c j d mask bs} : (s.landRow c j d mask bs).MemoryWf := by
  unfold State.landRow
  extract_lets t
  have ht : t.MemoryWf := by
    refine rowsReady (storeRows ?_)
    exact h
  exact ⟨ht.1, ht.2⟩

theorem execVst {d a t} : (Machine.execVst d a t s).MemoryWf := by
  unfold Machine.execVst
  dsimp only
  refine h.vissue fun ht hu _ => .ite ht ?_
  split
  · exact ht.regionCheck
  next heq =>
    have hv := hu.regionCheck.of_eq heq
    refine .ite (.ite ht.vaultWait ?_) (.ite ht hv.postRow)
    split
    · exact ht
    next heq => exact hv.rowWrite.of_eq heq

theorem bindStream {t} : (s.bindStream t).MemoryWf := ite h h

theorem execStrbind {d a t} : (Machine.execStrbind d a t s).MemoryWf := by
  unfold Machine.execStrbind
  dsimp only
  refine h.issue fun ht => .ite ht (ht.tableRead fun hu _ => ?_)
  split
  · exact hu
  · exact .ite hu (.ite hu (.ite hu hu.bindStream))

theorem execStrend {d t} : (Machine.execStrend d t s).MemoryWf := by
  refine h.issue fun ht => ?_
  split
  · exact ht
  · exact .ite ht ht.onMe

theorem putRegionTile {c n t} : (s.putRegionTile c n t).MemoryWf := by
  unfold State.putRegionTile
  dsimp only
  refine onCore ?_
  exact ⟨h.1, List.foldlRecOn (motive := fun m : Memory => m.wf = true) _ _ h.2 fun _ hm _ _ => Memory.write_wf hm _ _⟩

theorem loadRegion {c r w} : (s.loadRegion c r w).1.MemoryWf := by
  unfold State.loadRegion
  split
  next heq => exact h.spmRead.of_eq heq
  next heq => exact h.spmRead.of_eq heq

theorem execFtile {a y t} : (Machine.execFtile a y t s).MemoryWf := by
  refine h.issue fun ht => ?_
  dsimp only
  split
  · exact ht
  · refine .ite ht ?_
    split
    · refine .ite ?_ (.ite ht ht.onHere)
      split
      next heq => exact ht.loadRegion.of_eq heq
      next heq => exact (ht.loadRegion.of_eq heq).onHere
    · split
      next heq => exact ht.loadRegion.of_eq heq
      next heq => exact (ht.loadRegion.of_eq heq).onHere

theorem execFtrel {a t} : (Machine.execFtrel a t s).MemoryWf := by
  refine h.issue fun ht => ?_
  dsimp only
  split
  · exact ht
  · exact ht.onHere

theorem execLutld {a b t} : (Machine.execLutld a b t s).MemoryWf := by
  unfold Machine.execLutld
  dsimp only
  exact h.issue fun ht => .ite ht (.ite ht (ht.tableRead (fun hu _ => hu.onHere)))

/-! ## Tiles and operand loads -/

theorem loseProv {c} : (s.loseProv c).MemoryWf := by
  unfold State.loseProv
  split
  · exact h
  · dsimp only
    exact h.onCore.putTile

theorem onTile {u t exempt f} (hf : ∀ {t : State}, t.MemoryWf → (f t).MemoryWf) : (Machine.onTile u t exempt s f).MemoryWf := by
  refine h.issue fun ht => ?_
  split
  · exact ht
  · exact .ite ht (hf ht.putTile)

theorem execTbind {d o l y t} : (Machine.execTbind d o l y t s).MemoryWf := by
  unfold Machine.execTbind
  dsimp only
  refine h.issue fun ht => ?_
  split
  · exact ht
  · exact ht
  · exact .ite ht ht.putTile.putTile.onHere.onMe

theorem drainTile {c n t} : (s.drainTile c n t).MemoryWf := h.spmPut

theorem busyFor {cycles} : (s.busyFor cycles).MemoryWf := h

theorem moveForm {u t a f} (hf : ∀ {t : State}, t.MemoryWf → ∀ r, (f t r).MemoryWf) : (Machine.moveForm u t a s f).MemoryWf := by
  refine h.issue fun ht => ?_
  dsimp only
  split
  · exact ht
  · refine .ite ht ?_
    split
    · exact ht
    · exact .ite ht (hf ht _)

theorem execTfill {d a t} : (Machine.execTfill d a t s).MemoryWf := by
  refine h.moveForm fun ht _ => ?_
  split
  next heq => exact ht.loadRegion.of_eq heq
  next heq => exact (ht.loadRegion.of_eq heq).putTile.busyFor

theorem execTdrain {d a t} : (Machine.execTdrain d a t s).MemoryWf := by
  refine h.moveForm fun ht _ => ?_
  dsimp only
  exact .ite ht.drainTile.busyFor ht.putTile.drainTile.busyFor

theorem rangeCheck {w c a n} : (s.rangeCheck w c a n).1.MemoryWf := fstIte h.ownerChecks h

theorem rowForm {u a p} : (Machine.rowForm u a p s).MemoryWf := by
  refine h.issue fun ht => ?_
  dsimp only
  split
  next heq => exact ht.rangeCheck.of_eq heq
  next heq =>
    have hu := ht.rangeCheck.of_eq heq
    exact .ite hu.awaitTag hu.onHere

theorem refreshBank {c b} : (s.refreshBank c b).MemoryWf := h

theorem endSegment {c a later} : (s.endSegment c a later).MemoryWf := by
  refine ite ?_ h
  dsimp only
  exact ite h.refreshBank.onCore h.refreshBank

theorem dropB {c} : (s.dropB c).MemoryWf := h.loseProv

theorem parityError {c array w} : (s.parityError c array w).MemoryWf := h.logError.dropB.onCore

theorem beats {w c buf a o n f j} : (State.beats w c buf a o n f s j).1.MemoryWf := by
  induction f generalizing s j with
  | zero => exact h
  | succ f ih => grind [State.beats, !vaultRead, onCore, endSegment]

theorem execTld {d a b c t} : (Machine.execTld d a b c t s).MemoryWf := by
  unfold Machine.execTld
  refine h.issue fun {s} ht => ?_
  extract_lets ea n o rows begun
  have hrange : (if begun then (s, none) else s.rangeCheck (s.who s.core s.slot) s.core ea.toNat n).1.MemoryWf := by
    split
    · exact ht
    · exact ht.rangeCheck
  refine .ite ht (.ite ht (.ite ht ?_))
  split
  next heq => exact hrange.of_eq heq
  next heq =>
    have hu := hrange.of_eq heq
    refine .ite hu (.ite hu.vaultWait (.ite hu.parityError (.ite hu.onMe ?_)))
    extract_lets
    split
    next heq => exact (hu.loseProv.beats.of_eq heq).onMe
    next heq => exact .ite (hu.loseProv.beats.of_eq heq).chargeGranules.onMe (hu.loseProv.beats.of_eq heq).chargeGranules.onMe

theorem readCut {x f a n} : (State.readCut x f a n s).1.MemoryWf := by
  induction f generalizing s a n with
  | zero => exact h
  | succ f ih => grind [State.readCut, !ctxRead]

theorem readSpan {x a n} : (s.readSpan x a n).1.MemoryWf := h.readCut

theorem engineStore {x va bs} : (s.engineStore x va bs).1.MemoryWf := by
  unfold State.engineStore
  split
  next heq => exact h.ctxWrite.of_eq heq
  next heq =>
    have ht := h.ctxWrite.of_eq heq
    split
    · exact ht.setFull
    · exact ht

theorem writeCut {x f a bs} : (State.writeCut x f a bs s).1.MemoryWf := by
  induction f generalizing s a bs with
  | zero => exact h
  | succ f ih => grind [State.writeCut, !engineStore]

theorem writeSpan {x a bs} : (s.writeSpan x a bs).1.MemoryWf := h.writeCut

theorem scalesOf {x fmt sc i blocks} : (s.scalesOf x fmt sc i blocks).1.MemoryWf := fstIte h.scaleRow h

theorem columnsOf {x fmt k scb bs} : (s.columnsOf x fmt k scb bs).1.MemoryWf := by
  refine h.foldlPair (fun ht _ _ => ?_) _ _
  split
  next heq => exact ht.of_eq heq
  next heq =>
    have hu := ht.of_eq heq
    split
    next heq => exact hu.scalesOf.of_eq heq
    next heq => exact hu.scalesOf.of_eq heq

theorem loadB {x fmt k key lut scb a} : (s.loadB x fmt k key lut scb a).1.MemoryWf := by
  unfold State.loadB
  dsimp only
  split
  · exact h
  · split
    next heq => exact h.readSpan.of_eq heq
    next heq =>
      have ht := h.readSpan.of_eq heq
      split
      next heq => exact ht.columnsOf.of_eq heq
      next heq => exact (ht.columnsOf.of_eq heq).chargeGranules.onCore

theorem checkRegion {x c r ea mq} : (s.checkRegion x c r ea mq).1.MemoryWf := by
  unfold State.checkRegion
  split
  next heq => exact h.loadRegion.of_eq heq
  next heq =>
    have ht := h.loadRegion.of_eq heq
    dsimp only
    exact ht.putRegionTile.noteCheck

theorem bring {x fmt k key lut scb a mq} : (s.bring x fmt k key lut scb a mq).1.MemoryWf := by
  unfold State.bring
  extract_lets region t r
  clear_value region
  have hchecked : r.1.MemoryWf := by
    unfold r
    split
    · exact h.dropB.checkRegion
    · exact h.dropB
  clear_value r
  refine fstIte h (fstIte h.parityError ?_)
  split
  · exact hchecked
  · exact hchecked.loadB

theorem execBld {a b c t} : (Machine.execBld a b c t s).MemoryWf := by
  unfold Machine.execBld
  dsimp only
  refine h.issue fun ht => ?_
  split
  · exact ht
  · split
    · exact ht
    · refine .ite ht (.ite ht ?_)
      split
      next heq => exact ht.bring.of_eq heq
      next heq => exact (ht.bring.of_eq heq).busyFor

theorem ckTile {u d exempt f} (hf : ∀ {t : State}, t.MemoryWf → ∀ x, (f t x).MemoryWf) : (Machine.ckTile u d exempt s f).MemoryWf := by
  unfold Machine.ckTile
  dsimp only
  refine h.onTile fun ht => ?_
  refine .ite ?_ (hf ht _)
  split
  next heq => exact ht.reloadModuli.of_eq heq
  next heq => exact ht.reloadModuli.of_eq heq

theorem execCkVer {d c t} : (Machine.execCkVer d c t s).MemoryWf := by
  refine h.ckTile fun ht _ => ?_
  dsimp only
  exact .ite ht.putTile.noteCheck.dst ht.putTile.noteCheck

theorem execCkSig {d c t} : (Machine.execCkSig d c t s).MemoryWf := by
  refine h.ckTile fun ht _ => ?_
  dsimp only
  exact ht.putTile.noteCheck.dst

theorem ckRegion {u a exempt mr f} (hf : ∀ {t : State}, t.MemoryWf → ∀ r x, (f t r x).MemoryWf) :
    (Machine.ckRegion u a exempt mr s f).MemoryWf := by
  refine h.issue fun ht => ?_
  dsimp only
  split
  · exact ht
  · refine .ite ht (.ite ?_ (.ite ht (.ite (hf ht _ _) ?_)))
    · split
      next heq => exact ht.reloadModuli.of_eq heq
      next heq => exact ht.reloadModuli.of_eq heq
    · split
      next heq => exact ht.loadRegion.of_eq heq
      next heq => exact hf (ht.loadRegion.of_eq heq) _ _

theorem execCkVerg {a c t} : (Machine.execCkVerg a c t s).MemoryWf := by
  refine h.ckRegion fun ht _ _ => ?_
  dsimp only
  exact .ite ht.putRegionTile.noteCheck.dst ht.putRegionTile.noteCheck

theorem execCkSigg {a c t} : (Machine.execCkSigg a c t s).MemoryWf := by
  refine h.ckRegion fun ht _ _ => ?_
  dsimp only
  exact ht.putRegionTile.noteCheck.dst

/-! ## Matrix multiply -/

theorem mmaIssue {u o} : (Machine.mmaIssue u o s).MemoryWf := by
  refine .ite h ?_
  split
  · exact h
  · split
    · exact h
    · split
      · exact h
      · exact .ite h (.ite h.onHere.takeSeq.addEntry.onHere h.askLeave)

theorem mmaForm {i zero fromTile d a b t} : (Machine.mmaForm i zero fromTile d a b t s).MemoryWf := by
  unfold Machine.mmaForm
  exact h.issue fun ht => ht.mmaIssue

theorem mmagForm {i zero d a b c t} : (Machine.mmagForm i zero d a b c t s).MemoryWf := by
  unfold Machine.mmagForm
  dsimp only
  refine h.issue fun ht => ?_
  split
  · exact ht
  · exact ht.mmaIssue

theorem beginOp {c o} : (s.beginOp c o).1.MemoryWf := by
  refine fstIte h ?_
  dsimp only
  exact fstIte (putTile (h.foldl (fun ht _ => ht.putTile) _)) (fstIte (h.foldl (fun ht _ => ht.putTile) _) (noteCheck (putTile (h.foldl
    (fun ht _ => ht.putTile) _))))

theorem runOp {c o upto} : (s.runOp c o upto).1.MemoryWf := by
  unfold State.runOp
  split
  · exact h.withFree.parityError
  · exact h.withScales

theorem checkOp {c o t blocks prov} : (s.checkOp c o t blocks prov).1.MemoryWf :=
  fstIte h.loseProv.onCore.putTile.noteCheck h.loseProv.onCore.putTile.noteCheck.onCore

theorem product {c o last} : (s.product c o last).1.MemoryWf := by
  unfold State.product
  split
  next heq => exact h.beginOp.of_eq heq
  next heq =>
    have ht := h.beginOp.of_eq heq
    dsimp only
    split
    next heq => exact (ht.runOp.of_eq heq).loseProv.putTile
    next heq =>
      have hu := ht.runOp.of_eq heq
      exact fstIte hu.checkOp hu.loseProv.putTile

theorem signalOp {c o fail} : (s.signalOp c o fail).MemoryWf := endWork (ite h h.barSend)

theorem popOp {c} : (s.popOp c).MemoryWf := h

theorem closeOp {c o fail} : (s.closeOp c o fail).MemoryWf := h.signalOp

theorem completeMma {c} : (s.completeMma c).MemoryWf := by
  unfold State.completeMma
  split
  · exact h
  · split
    · exact h.product.closeOp
    · refine ite h.product.closeOp ?_
      split
      next heq => exact (h.product.of_eq heq).closeOp
      next heq =>
        have ht := h.product.of_eq heq
        split
        · exact ht.onCore
        split
        · exact ht.closeOp
        · refine onCore ?_
          exact ht

theorem partSent {m fail} : (s.partSent m fail).MemoryWf := by
  unfold State.partSent
  split
  · refine ite ?_ h
    dsimp only
    exact h.checkOp.closeOp
  · exact h

theorem acceptPartial {k} : (s.acceptPartial k).MemoryWf := by
  unfold State.acceptPartial
  split
  · exact h
  · dsimp only
    split
    · refine partSent ?_
      exact ⟨h.1, h.2⟩
    · split
      · refine ite h ?_
        refine partSent ?_
        exact ⟨h.1, h.2⟩
      · split
        · exact h
        · refine ite h ?_
          split
          · refine closeOp ?_
            exact ⟨h.1, h.2⟩
          · split
            · refine onCore ?_
              refine putTile ?_
              exact ⟨h.1, h.2⟩
            · refine closeOp ?_
              refine checkOp ?_
              exact ⟨h.1, h.2⟩

/-! ## Agents of a vault -/

theorem agentCheck {a o n} : (s.agentCheck a o n).1.MemoryWf := by
  refine fstIte h ?_
  split
  next heq => exact h.ownerChecks.of_eq heq
  next heq => exact h.ownerChecks.of_eq heq

theorem undo {t : State} (ht : t.MemoryWf) : (t.undo s).MemoryWf := ⟨h.1, ht.2⟩

theorem agentPart {a va bs} : (s.agentPart a va bs).1.MemoryWf := fstIte (ite h h.countPairs) (ite h h.countPairs).windowWrite

theorem agentWrite {a va bs} : (s.agentWrite a va bs).1.MemoryWf := by
  unfold State.agentWrite
  dsimp only
  split
  · exact h
  · exact h.foldlPair (fun ht _ _ => by grind [!agentPart]) _ _

end State.MemoryWf

/-! ## Jobs of an agent -/

namespace Job.MemoryWf
variable {α β : Type}

theorem pure (a : α) : Job.MemoryWf (Pure.pure a) := fun _ h => h

theorem throw (e : Nat) : Job.MemoryWf (MonadExcept.throw e : Job α) := fun _ h => h

theorem bind {j : Job α} {f : α → Job β} (hj : j.MemoryWf) (hf : ∀ a, (f a).MemoryWf) : Job.MemoryWf (j >>= f) := by
  intro s h
  have hr := hj s h
  show State.MemoryWf (ExceptT.bindCont f (j.run s).1 (j.run s).2).2
  change State.MemoryWf (j.run s).2 at hr
  match hx : j.run s, hr with
  | (.ok a, t), hr => exact hf a t hr
  | (.error e, t), hr => exact hr

theorem get {f : State → Job α} (hf : ∀ s : State, s.MemoryWf → (f s).MemoryWf) : Job.MemoryWf (MonadState.get >>= f) :=
  fun s h => hf s h s h

theorem set {t : State} (ht : t.MemoryWf) : Job.MemoryWf (MonadStateOf.set t : Job Unit) := fun _ _ => ht

theorem ite {c : Prop} [Decidable c] {x y : Job α} (hx : x.MemoryWf) (hy : y.MemoryWf) : Job.MemoryWf (if c then x else y) := by
  split
  · exact hx
  · exact hy

theorem bad : (Machine.bad : Job α).MemoryWf := throw 6

theorem rd {a o n} : (Machine.rd a o n).MemoryWf := by
  grind [Machine.rd, bind, pure, throw, get, set, !State.MemoryWf.agentCheck, !State.MemoryWf.vaultRead, !State.MemoryWf.chargeGranules]

theorem rdNat {a o n} : (Machine.rdNat a o n).MemoryWf := bind rd fun _ => pure _

theorem wr {a o bs} : (Machine.wr a o bs).MemoryWf := by
  grind [Machine.wr, bind, pure, throw, get, set, !State.MemoryWf.agentCheck, !State.MemoryWf.vaultWrite, !State.MemoryWf.chargeGranules]

theorem require {b} : (Machine.require b).MemoryWf := ite (pure ()) (throw 6)

theorem header {a o} : (Machine.header a o).MemoryWf :=
  bind rd fun _ => bind require fun _ => bind require fun _ => bind require fun _ => bind require fun _ => pure _

theorem entryOf {a t b} : (Machine.entryOf a t b).MemoryWf :=
  bind rdNat fun _ => bind require fun _ => pure _

theorem putEntry {a t b e} : (Machine.putEntry a t b e).MemoryWf := wr

theorem freeHead {a t} : (Machine.freeHead a t).MemoryWf := rdNat

theorem ovfHead {a t} : (Machine.ovfHead a t).MemoryWf := rdNat

theorem freeCount {a t} : (Machine.freeCount a t).MemoryWf := rdNat

theorem seqLen {a t id} : (Machine.seqLen a t id).MemoryWf := bind rdNat fun _ => bind require fun _ => pure _

theorem probe {a t id lb n i} : (Machine.probe a t id lb n i).MemoryWf := by
  induction n generalizing i with
  | zero => exact pure none
  | succ n ih => grind [Machine.probe, bind, pure, entryOf]

theorem walkList {a t id lb n b} : (Machine.walkList a t id lb n b).MemoryWf := by
  induction n generalizing b with
  | zero => grind [Machine.walkList, pure, bad]
  | succ n ih => grind [Machine.walkList, bind, pure, require, entryOf]

theorem lookup {a t id lb} : (Machine.lookup a t id lb).MemoryWf := by
  grind [Machine.lookup, bind, pure, throw, probe, ovfHead, walkList]

theorem install {a t id lb} : (Machine.install a t id lb).MemoryWf :=
  bind freeHead fun _ => bind require fun _ => bind entryOf fun _ => bind require fun _ => bind freeCount fun _ =>
    bind require fun _ => bind wr fun _ => bind wr fun _ => bind ovfHead fun _ => bind putEntry fun _ =>
      ite (bind wr fun _ => pure _) (pure _)

theorem unlink {a t b next n p} : (Machine.unlink a t b next n p).MemoryWf := by
  induction n generalizing p with
  | zero => exact bad
  | succ n ih => grind [Machine.unlink, bind, require, entryOf, putEntry]

theorem freeBlock {a t b} : (Machine.freeBlock a t b).MemoryWf := by
  refine bind entryOf fun e => ?_
  extract_lets free
  have hfree (x) : (free x).MemoryWf := bind freeHead fun _ => bind freeCount fun _ => bind putEntry fun _ => bind wr fun _ => wr
  exact ite (bind ovfHead fun _ => ite (bind wr hfree) (bind unlink hfree)) (hfree ())

theorem freePair {a t id lb} : (Machine.freePair a t id lb).MemoryWf := by
  grind [Machine.freePair, bind, pure, throw, lookup, freeBlock]

theorem batchOf {a o} : (Machine.batchOf a o).MemoryWf :=
  bind rd fun _ => bind require fun _ => bind require fun _ => pure _

theorem seqId {a soff i} : (Machine.seqId a soff i).MemoryWf := bind rdNat fun _ => bind require fun _ => pure _

theorem updateRind {a t b first k} : (Machine.updateRind a t b first k).MemoryWf := ite wr (bind rd fun _ => wr)

theorem appendOne {a t d i} : (Machine.appendOne a t d i).MemoryWf := by
  refine bind seqId fun id => ite (pure _) (bind seqLen fun l => ite (pure _) ?_)
  extract_lets lb o e out finish write look
  have hfinish (x) : (finish x).MemoryWf := bind wr fun _ => pure _
  have hwrite (b) : (write b).MemoryWf := by
    refine bind rd fun _ => bind rd fun _ => bind wr fun _ => bind wr fun _ => bind updateRind fun _ => bind entryOf fun _ =>
      bind putEntry fun _ => ite (bind lookup fun c => ?_) (hfinish ())
    cases c with
    | none => exact hfinish ()
    | some c => exact bind entryOf fun _ => bind putEntry hfinish
  have hlook (here) : (look here).MemoryWf := by
    refine ite (pure _) ?_
    extract_lets place drop
    have hplace (x) : (place x).MemoryWf := by
      cases here with
      | none => exact bind install hwrite
      | some b => exact bind (pure b) hwrite
    have hdrop (gone) : (drop gone).MemoryWf := by
      refine bind freeCount fun _ => ite (pure _) ?_
      cases gone with
      | none => exact hplace ()
      | some b => exact bind freeBlock hplace
    exact ite (bind lookup hdrop) (bind (pure _) hdrop)
  exact ite (bind (pure _) hlook) (bind lookup hlook)

theorem kvFind {a o x} : (Machine.kvFind a o x).MemoryWf := by
  grind [Machine.kvFind, bind, pure, throw, header, require, lookup, entryOf]

theorem freeFrom {a t id f lb n} : (Machine.freeFrom a t id f lb n).MemoryWf := by
  induction f generalizing lb n with
  | zero => exact pure n
  | succ f ih => exact bind freePair fun _ => ih

theorem kvFree {a h x} : (Machine.kvFree a h x).MemoryWf :=
  bind header fun _ => bind require fun _ => bind seqLen fun _ => bind freeFrom fun _ => bind wr fun _ => pure _

theorem boundsFrom {a t id q f lb} : (Machine.boundsFrom a t id q f lb).MemoryWf := by
  induction f generalizing lb with
  | zero => exact pure []
  | succ f ih => grind [Machine.boundsFrom, bind, pure, lookup, rd]

theorem writeList {a t o l} : (Machine.writeList a t o l).MemoryWf := by
  induction l generalizing o with
  | nil => exact pure ()
  | cons p l ih => exact bind entryOf fun _ => bind wr fun _ => ih

theorem rbSelect {greatest a h o} : (Machine.rbSelect greatest a h o).MemoryWf := by
  refine bind header fun _ => bind rd fun _ => bind require fun _ => bind require fun _ => bind require fun _ => bind rd fun _ =>
    bind seqLen fun _ => bind boundsFrom fun _ => ?_
  split
  · exact bind writeList fun _ => pure _
  · exact bind writeList fun _ => pure _

theorem planList {a t soff f i} : (Machine.planList a t soff f i).MemoryWf := by
  induction f generalizing i with
  | zero => exact pure []
  | succ f ih => exact bind seqId fun _ => bind require fun _ => bind seqLen fun _ => bind ih fun _ => pure _

theorem writePlan {a poff ns p total l f r} : (Machine.writePlan a poff ns p total l f r).MemoryWf := by
  induction f generalizing r with
  | zero => exact pure ()
  | succ f ih => exact bind wr fun _ => ih

theorem dpPlan {a h o} : (Machine.dpPlan a h o).MemoryWf :=
  bind header fun _ => bind rd fun _ => bind require fun _ => bind planList fun _ => bind writePlan fun _ => pure _

theorem bagOf {a o} : (Machine.bagOf a o).MemoryWf :=
  bind rd fun _ => bind require fun _ => bind require fun _ => bind require fun _ => bind require fun _ => bind require fun _ => pure _

theorem bagStep {a b mode lut r p} : (Machine.bagStep a b mode lut r p).MemoryWf := by
  grind [Machine.bagStep, bind, pure, throw, rdNat, rd]

theorem bagAll {a b mode lut f p r} : (Machine.bagAll a b mode lut f p r).MemoryWf := by
  induction f generalizing p r with
  | zero => exact pure r
  | succ f ih => exact bind bagStep fun _ => ih

theorem bagWrite {a b bs} : (Machine.bagWrite a b bs).MemoryWf := by
  grind [Machine.bagWrite, bind, pure, throw, get, set, wr, !State.MemoryWf.agentWrite]

theorem embReduce {a o fpc} : (Machine.embReduce a o fpc).MemoryWf := by
  grind [Machine.embReduce, bind, get, pure, throw, bagOf, bagAll, bagWrite]

theorem pagePart {a base lo hi o} : (Machine.pagePart a base lo hi o).MemoryWf := ite rd (pure _)

theorem gatherBytes {g a off} : (Machine.gatherBytes g a off).MemoryWf :=
  bind header fun _ => bind rdNat fun _ => bind require fun _ => ite pagePart (ite pagePart (pure _))

theorem gatherOf {a head d} : (Machine.gatherOf a head d).MemoryWf :=
  bind header fun _ => bind require fun _ => bind require fun _ => bind require fun _ => pure _

end Job.MemoryWf

namespace State.MemoryWf
variable {s : State} (h : s.MemoryWf)
include h

/-- A job of an agent that keeps the canonical form, run where it holds. -/
theorem runJob {α : Type} {j : Job α} (hj : j.MemoryWf) : (Machine.runJob j s).1.MemoryWf := hj s h

theorem appendFrom {a t d f i} : (Machine.appendFrom a t d f i s).1.MemoryWf := by
  induction f generalizing s i with
  | zero => exact h
  | succ f ih =>
    have happend := h.runJob (Job.MemoryWf.appendOne (a := a) (t := t) (d := d) (i := i))
    unfold Machine.appendFrom
    split
    next heq => exact ih (happend.of_eq heq)
    next heq => exact h.undo (happend.of_eq heq)
    next heq => exact h.undo (happend.of_eq heq)

theorem whole {α : Type} {r : State → State × Except Nat α} (hr : (r s).1.MemoryWf) : (Machine.whole r s).1.MemoryWf := by
  unfold Machine.whole
  split
  next heq => exact h.undo (hr.of_eq heq)
  · exact hr

theorem kvApp {a o n} : (Machine.kvApp a o n s).1.MemoryWf := by
  unfold Machine.kvApp
  have hread := h.runJob (Job.MemoryWf.bind (Job.MemoryWf.header (a := a) (o := o)) fun t =>
    Job.MemoryWf.bind (Job.MemoryWf.batchOf (a := a) (o := n)) fun d => Job.MemoryWf.pure (t, d))
  split
  next heq => exact hread.of_eq heq
  next heq =>
    have ht := hread.of_eq heq
    split
    next heq => exact ht.appendFrom.of_eq heq
    next heq => exact ht.undo (ht.appendFrom.of_eq heq)
    · exact ht.appendFrom

/-! ## Copies and gathers -/

theorem inVault {x va acc} : (s.inVault x va acc).1.MemoryWf := by
  unfold State.inVault
  split
  · exact h
  · exact h
  · split
    next heq => exact h.translate.of_eq heq
    next heq => exact h.translate.of_eq heq

theorem copyShape {c x} : (s.copyShape c x).1.MemoryWf := by
  refine fstIte h ?_
  split
  · refine fstIte h ?_
    split
    · split
      next heq => exact h.inVault.of_eq heq
      next heq => exact h.inVault.of_eq heq
    · split
      next heq => exact h.inVault.of_eq heq
      next heq => exact h.inVault.of_eq heq
    · exact h
  · refine fstIte h ?_
    split
    · exact h
    · exact h

theorem copyBar {c x op} : (s.copyBar c x op).MemoryWf := ite h.barSend h

theorem chunkLanded {c x off} : (s.chunkLanded c x off).MemoryWf := h.onCore.noteWork.copyBar.chargeGranules

theorem chunkFailed {c x off cause addr} : (s.chunkFailed c x off cause addr).MemoryWf := h.onCore.copyBar

theorem reach {c x va acc} : (s.reach c x va acc).1.MemoryWf := by
  unfold State.reach
  dsimp only
  split
  · exact h
  · refine fstIte h ?_
    split
    next heq => exact h.regionFor.of_eq heq
    next heq => exact h.regionFor.of_eq heq
  · split
    next heq => exact h.translate.of_eq heq
    next heq =>
      have ht := h.translate.of_eq heq
      exact fstIte ht (fstIte ht (fstIte ht ht.countSent.countRecv))

theorem pieceWrite {c x off va bs} : (s.pieceWrite c x off va bs).1.MemoryWf := by
  unfold State.pieceWrite
  split
  next heq => exact h.reach.of_eq heq
  next heq => exact (h.reach.of_eq heq).send
  next heq =>
    have ht := h.reach.of_eq heq
    split
    next heq => exact ht.engineStore.of_eq heq
    next heq => exact ht.engineStore.of_eq heq

theorem pieceRead {c x off va n} : (s.pieceRead c x off va n).1.MemoryWf := by
  unfold State.pieceRead
  split
  next heq => exact h.reach.of_eq heq
  next heq => exact (h.reach.of_eq heq).send
  next heq =>
    have ht := h.reach.of_eq heq
    split
    next heq => exact ht.ctxRead.of_eq heq
    next heq => exact ht.ctxRead.of_eq heq

theorem piecesWrite {c x off l bs n} : (State.piecesWrite c x off l bs n s).1.MemoryWf := by
  induction l generalizing s bs n with
  | nil => exact h
  | cons p l ih => grind [State.piecesWrite, !pieceWrite]

theorem piecesRead {c x off l n} : (State.piecesRead c x off l n s).1.MemoryWf := by
  induction l generalizing s n with
  | nil => exact h
  | cons p l ih =>
    unfold State.piecesRead
    split
    next heq => exact h.pieceRead.of_eq heq
    next here heq =>
      have hrest := ih (h.pieceRead.of_eq heq) (n := n + bit here.isNone)
      split
      next heq => exact hrest.of_eq heq
      · exact hrest

theorem writeChunk {c x shape off bs} : (s.writeChunk c x shape off bs).MemoryWf := by
  unfold State.writeChunk
  dsimp only
  split
  · exact h.onCore.chunkLanded
  · split
    next heq => exact (h.piecesWrite.of_eq heq).chunkFailed
    next heq => exact (h.piecesWrite.of_eq heq).chunkLanded
    next heq => exact (h.piecesWrite.of_eq heq).onCore

theorem moveChunk {c x shape off} : (s.moveChunk c x shape off).MemoryWf := by
  unfold State.moveChunk
  dsimp only
  split
  · exact h.writeChunk
  · split
    next heq => exact (h.piecesRead.of_eq heq).chunkFailed
    next heq => exact (h.piecesRead.of_eq heq).writeChunk
    next heq => exact (h.piecesRead.of_eq heq).onCore

theorem copyChunk {c n off} : (s.copyChunk c n off).MemoryWf := by
  unfold State.copyChunk
  split
  · exact h
  · refine ite h ?_
    split
    · refine ite h ?_
      dsimp only
      exact ⟨h.1, h.2⟩
    · dsimp only
      split
      next heq => exact (h.copyShape.of_eq heq).chunkFailed
      next heq => exact (h.copyShape.of_eq heq).moveChunk

theorem segmentReply {c n off m} : (s.segmentReply c n off m).MemoryWf := by
  unfold State.segmentReply
  split
  · exact h
  · split
    · exact ite h.chunkFailed h
    · dsimp only
      refine ite (ite h (ite h.onCore ?_)) (ite h.onCore (ite h.chunkLanded h))
      split
      · exact h.chunkFailed
      · exact ite h.onCore h.copyShape.onCore.writeChunk

theorem carryRegion {shape} : (s.carryRegion shape).MemoryWf := by
  unfold State.carryRegion
  split
  · exact h.onCore
  · split
    · exact h
    · exact h.onCore
  · exact h

theorem copyComplete {c n} : (s.copyComplete c n).MemoryWf := by grind [State.copyComplete, !copyShape, !carryRegion, !copyBar,
  !engineStore, !logError, !onCore, !markStopped, !endWork]

theorem gatherWrite {c g off bs} : (s.gatherWrite c g off bs).1.MemoryWf := by
  refine fstIte ?_ h.agentWrite
  split
  next heq => exact (h.agentCheck.of_eq heq).engineWrite
  next heq => exact h.agentCheck.of_eq heq

theorem gatherChunk {c n off} : (s.gatherChunk c n off).MemoryWf := by
  unfold State.gatherChunk
  split
  · exact h
  next g _ =>
    have hread := h.runJob (Job.MemoryWf.gatherBytes (g := g) (a := g.agent c) (off := off))
    refine ite h ?_
    split
    next heq => exact (hread.of_eq heq).endGather
    next heq =>
      have ht := hread.of_eq heq
      split
      next heq => exact (ht.gatherWrite.of_eq heq).endGather
      next heq =>
        have hu := (ht.gatherWrite.of_eq heq)
        exact ite hu.onCore.noteWork.gatherBar.chargeGranules.endGather hu.onCore.noteWork.gatherBar.chargeGranules

theorem stopGather {c g} : (s.stopGather c g).MemoryWf := (ite h.logError h.gatherBar).dropGather.markStopped

/-! ## Remote procedures -/

theorem classify {m cls} : (s.classify m cls).MemoryWf := by
  unfold State.classify
  split
  · exact h.onSlot
  · exact h

theorem putAway {k m} : (s.putAway k m).MemoryWf := ite h h

theorem systemServe {m pa} : (s.systemServe m pa).1.MemoryWf := by
  unfold State.systemServe
  split
  · exact h
  · split
    · exact h.foldlPair (fun ht _ _ => ht.sysStore) _ _
    · exact h

theorem forward {k m r} : (s.forward k m r).MemoryWf := by
  unfold State.forward
  split
  · exact h.putMsg
  · split
    · dsimp only
      exact h.classify.putMsg
    · refine ite h.putMsg ?_
      dsimp only
      exact h.systemServe.putAway
    · exact h.putMsg
    · dsimp only
      exact ite h.classify.putMsg (ite h.classify.putMsg h.classify.putMsg)

theorem stationRequest {k} : (s.stationRequest k).MemoryWf := by
  unfold State.stationRequest
  split
  · exact h
  · refine ite h (ite h.putMsg ?_)
    dsimp only
    split
    next heq => exact (h.probe.of_eq heq).forward
    next heq =>
      have ht := h.probe.of_eq heq
      exact ite ht.putMsg (ite ht ht.putStation.putMsg)

theorem tableWalk {n i} : (s.tableWalk n i).MemoryWf := by
  unfold State.tableWalk
  split
  · exact h
  · dsimp only
    split
    next heq =>
      have ht := (fstIte h.putStation.walk h.putStation).of_eq heq
      refine ht.putStation.upTo (fun hu _ => ?_) _
      split
      · exact hu
      · refine ite ?_ hu
        split
        · exact hu.forward
        · exact hu.putMsg
    next heq =>
      have ht := (fstIte h.putStation.walk h.putStation).of_eq heq
      refine ht.upTo (fun hu _ => ?_) _
      split
      · exact hu
      · refine ite ?_ hu
        split
        · exact hu.forward
        · exact hu.putMsg

theorem agentTurn {c} : (s.agentTurn c).MemoryWf := ite h h

theorem serve {k p f} (hf : ∀ {t : State}, t.MemoryWf → ∀ m, (f t m).MemoryWf) : (s.serve k p f).MemoryWf := by
  unfold State.serve
  split
  · exact h
  · refine ite h (ite (hf h _) (ite h.putMsg (ite (ite h ⟨h.1, h.2⟩) (hf (ite ?_ ?_) _))))
    · exact ite h.agentTurn h
    · exact (ite h.agentTurn h).countRecv

theorem answer {k m x} : (State.answer k m (s, x)).MemoryWf := ite h.chargeGranules.putAway h.chargeGranules.putMsg

theorem doLoad {k} : (s.doLoad k).MemoryWf := by
  refine h.serve fun ht _ => answer (fstIte (fstIte ht ht) ?_)
  dsimp only
  exact ht.vaultRead

theorem storeRuns {w a l} : (State.storeRuns w a l s).1.MemoryWf := by
  induction l generalizing s with
  | nil => exact h
  | cons p l ih => grind [State.storeRuns, write, !vaultWrite]

theorem doStore {k} : (s.doStore k).MemoryWf := by
  refine h.serve fun ht _ => answer (fstIte ht ?_)
  dsimp only
  exact ht.storeRuns

theorem doAtomic {k} : (s.doAtomic k).MemoryWf := by
  refine h.serve fun ht m => ?_
  dsimp only
  split
  · split
    · exact ht.answer
    · exact ht.write.answer
  · exact ht.atomicAccess.answer

theorem doFullEmpty {isLoad k} : (s.doFullEmpty isLoad k).MemoryWf := by
  refine h.serve fun ht _ => answer (fstIte ?_ ht)
  dsimp only
  exact ht.fePerform

theorem doParked {k} : (s.doParked k).MemoryWf := by
  unfold State.doParked
  split
  · exact h
  · split
    · exact h
    · refine ite h ?_
      dsimp only
      exact ite h.dropMsg.countRecv.releaseWaiter h.dropMsg.agentTurn.countRecv.parkAt

theorem spadSegment {m n} : (s.spadSegment m n).1.MemoryWf := by
  unfold State.spadSegment
  split
  · split
    next heq => exact h.windowRead.of_eq heq
    next heq => exact h.windowRead.of_eq heq
  · split
    next heq => exact h.windowWrite.of_eq heq
    next heq => exact h.windowWrite.of_eq heq

theorem doSegment {k} : (s.doSegment k).MemoryWf := by
  refine h.serve fun ht m => ?_
  refine ite (spadSegment ?_).putMsg (ite (ite (putAway ?_) (ite (putAway ?_) (putAway (write ?_)))) (ite (vaultRead ?_).putMsg
    (engineWrite ?_).putMsg))
  all_goals exact ite ht.chargeGranules ht

theorem doReduce {k} : (s.doReduce k).MemoryWf := by
  refine h.serve fun ht m => ?_
  have hsum := ht.whole (r := Machine.runJob (Machine.embReduce m.agent (m.paddr % 2 ^ 28) (m.opb.setWidth 32))) (ht.runJob
    Job.MemoryWf.embReduce)
  split
  next heq => exact (hsum.of_eq heq).putMsg
  next heq => exact (hsum.of_eq heq).putMsg
  next heq => exact (hsum.of_eq heq).putMsg

theorem failGather {m c j id e bar} : (s.failGather m c j id e bar).MemoryWf := by
  cases bar with
  | none => exact h.logError.endWork
  | some b => exact h.barSend.endWork

theorem startGather {m} : (s.startGather m).MemoryWf := by
  unfold State.startGather
  split
  next c j id _ =>
    extract_lets q
    have hq : q.1.MemoryWf := by
      unfold q
      split
      · exact h.runJob Job.MemoryWf.rd
      · exact h
    clear_value q
    split
    · exact hq.failGather
    next t d =>
      extract_lets u
      have hu : u.MemoryWf := hq.noteWork
      clear_value u
      have hgather := hu.runJob (Job.MemoryWf.gatherOf (a := m.agent) (head := m.paddr % 2 ^ 28) (d := d))
      split
      next heq => exact (hgather.of_eq heq).failGather
      next heq => exact (hgather.of_eq heq).onCore
  · exact h

theorem doKv {k} : (s.doKv k).MemoryWf := by
  refine h.serve fun {t} ht m => ?_
  extract_lets a o x r
  have hr : r.1.MemoryWf := by
    unfold r
    split
    · exact ht.kvApp
    · exact ht.whole (ht.runJob Job.MemoryWf.kvFind)
    · exact ht.whole (ht.runJob Job.MemoryWf.kvFree)
    · exact ht.startGather
    · exact ht.whole (ht.runJob Job.MemoryWf.rbSelect)
    · exact ht.whole (ht.runJob Job.MemoryWf.rbSelect)
    · exact ht.whole (ht.runJob Job.MemoryWf.dpPlan)
    · exact ht
  clear_value r
  split
  · exact hr.putMsg
  · exact hr.putMsg

theorem doSpadLoad {k} : (s.doSpadLoad k).MemoryWf := by
  refine h.serve fun ht _ => ?_
  split
  · refine answer (fstIte ht ?_)
    split
    next heq => exact ht.windowRead.of_eq heq
    next heq => exact ht.windowRead.of_eq heq
  · dsimp only
    refine ite ht.putMsg ?_
    split
    next heq => exact (ht.barLook.of_eq heq).putMsg
    next heq =>
      have hu := ht.barLook.of_eq heq
      exact ite hu.putMsg hu.putMsg

theorem windowRuns {w pid va l} : (State.windowRuns w pid va l s).1.MemoryWf := by
  induction l generalizing s with
  | nil => exact h
  | cons p l ih => grind [State.windowRuns, !windowWrite]

theorem windowStore {m} : (s.windowStore m).1.MemoryWf := fstIte h.windowRuns (ite h.spmMiss h)

theorem doSpadStore {k} : (s.doSpadStore k).MemoryWf := by
  refine h.serve fun ht _ => ?_
  split
  · refine answer ?_
    split
    next heq => exact ht.windowStore.of_eq heq
    next heq => exact ht.windowStore.of_eq heq
  · dsimp only
    exact ht.spmOp.putMsg

theorem doBarrier {k} : (s.doBarrier k).MemoryWf := by
  refine h.serve fun ht _ => ?_
  dsimp only
  refine ite ht.putMsg ?_
  split
  next heq => exact (ht.barTry.of_eq heq).putMsg
  next heq => exact (ht.barTry.of_eq heq).putMsg

theorem doWait {k} : (s.doWait k).MemoryWf := by
  unfold State.doWait
  split
  · exact h
  · split
    · exact h
    · refine ite h ?_
      dsimp only
      refine ite h.dropMsg.countRecv.releaseWaiter (ite h.dropMsg.countRecv.releaseWaiter ?_)
      split
      next heq => exact (h.dropMsg.countRecv.barLook.of_eq heq).releaseWaiter
      next heq =>
        have ht := h.dropMsg.countRecv.barLook.of_eq heq
        exact ite ht.releaseWaiter ht.enlist

theorem doUnknown {k} : (s.doUnknown k).MemoryWf := h.serve fun ht _ => ht.putMsg

theorem parkRemote {c j m isLoad rd} : (s.parkRemote c j m isLoad rd).MemoryWf := by
  refine ite h.onSlot ?_
  split
  next heq => exact (h.onSlot.suspend.of_eq heq).enterTrap
  next heq => exact (h.onSlot.suspend.of_eq heq).send

theorem awaitDone {c j i a x} : (s.awaitDone c j i a x).MemoryWf := by
  unfold State.awaitDone
  split
  · exact h.landRow.finishAwait
  · exact h.onSlot.finishAwait
  · exact h.finishAwait

theorem awaitReply {c j i a m} : (s.awaitReply c j i a m).MemoryWf := by
  unfold State.awaitReply
  split
  · split
    · exact h.parkRemote
    · exact h.onSlot
  · split
    · exact h.failAwait
    · dsimp only
      exact ite h.onSlot.awaitDone h.onSlot

theorem postedReply {c j id m} : (s.postedReply c j id m).MemoryWf := by
  unfold State.postedReply
  dsimp only
  split
  · split
    · exact ite h.onSlot h
    · exact (ite h.onSlot h).endWork
  · refine ite h.putEntry ?_
    split
    · exact ite h.onSlot h
    · exact (ite h.onSlot h).logError

theorem doReply {k} : (s.doReply k).MemoryWf := by
  unfold State.doReply
  split
  · exact h
  · refine ite h ?_
    dsimp only
    split
    · refine ite (ite h.dropMsg.countRecv h.dropMsg).postedReply (ite (ite h.dropMsg.countRecv h.dropMsg) ?_)
      split
      · exact ite h.dropMsg.countRecv h.dropMsg
      · exact (ite h.dropMsg.countRecv h.dropMsg).awaitReply
    · exact (ite h.dropMsg.countRecv h.dropMsg).onSlot
    · exact (ite h.dropMsg.countRecv h.dropMsg).segmentReply
    · exact ite h.dropMsg.countRecv h.dropMsg

theorem doPacket {c n} : (s.doPacket c n).MemoryWf := by
  unfold State.doPacket
  split
  · exact h
  · refine ite h ?_
    dsimp only
    split
    · exact ite h.onCore h.onCore.openRow
    · exact h.onCore.putBank

/-! ## Repeat frames -/

theorem captureFrom {c j sd sa sb n a} : (State.captureFrom c j sd sa sb n a s).1.MemoryWf := by
  induction n generalizing s a with
  | zero => exact h
  | succ n ih => grind [State.captureFrom, !fetchWord]

theorem execRpt {len cnt sd sa sb t} : (Machine.execRpt len cnt sd sa sb t s).MemoryWf := by
  refine h.issue fun ht => ?_
  dsimp only
  split
  next heq => exact ht.captureFrom.of_eq heq
  next heq => exact (ht.captureFrom.of_eq heq).onMe

theorem resumeFrame {c j p rpts} : (s.resumeFrame c j p rpts).1.MemoryWf := by
  unfold State.resumeFrame
  dsimp only
  split
  next heq => exact h.captureFrom.of_eq heq
  next heq => exact h.captureFrom.of_eq heq

/-! ## Enqueueing tile tasks -/

theorem noteNow {t w} : (s.noteNow t w).1.MemoryWf := by
  refine fstIte h ?_
  dsimp only
  split
  next heq => exact h.barLook.of_eq heq
  next heq => exact h.barLook.of_eq heq

theorem enqueue {t} : (s.enqueue t).1.MemoryWf := by
  unfold State.enqueue
  dsimp only
  refine fstIte h (orderTasks ?_)
  exact ⟨h.noteNow.noteNow.1, h.noteNow.noteNow.2⟩

theorem takeRecord {g} : (s.takeRecord g).MemoryWf := by
  unfold State.takeRecord
  split
  · exact h
  · dsimp only
    exact h.countRecv.enqueue.putMsg

theorem execTtEnq {a c t} : (Machine.execTtEnq a c t s).MemoryWf := by
  refine h.issue fun ht => ?_
  dsimp only
  exact .ite ht (ht.tableRead (fun hu _ => .ite hu.enqueue.dst hu.sendAwait))

/-! ## The cluster scheduler -/

theorem loadA {c x a buf m} : (s.loadA c x a buf m).1.MemoryWf := by
  unfold State.loadA
  split
  next heq => exact h.readSpan.of_eq heq
  next heq =>
    have ht := h.readSpan.of_eq heq
    dsimp only
    exact ht.loseProv.chargeGranules.onCore

theorem andThen {x : Option (Cause × Word)} {f} (hf : ∀ {t : State}, t.MemoryWf → (f t).1.MemoryWf) : (Machine.andThen (s,
  x) f).1.MemoryWf := by
  cases x with
  | none => exact hf h
  | some e => exact h

theorem taskB {c t o} : (s.taskB c t o).1.MemoryWf := by
  refine fstIte h ?_
  refine fstIte h ?_
  refine fstIte h ?_
  refine bring ?_
  exact ⟨h.1, h.2⟩

theorem startMma {c t zero fromTile} : (s.startMma c t zero fromTile).1.MemoryWf := by grind [State.startMma, !taskB, !andThen, !loadA,
  !putTile, !readSpan, !chargeGranules, !beginOp, !onCluster, !onCore]

theorem storeResult {x a v} : (s.storeResult x a v).1.MemoryWf := fstIte h (fstIte h h.chargeGranules.writeSpan)

theorem verified {x r before dst eva} : (s.verified x r before dst eva).1.MemoryWf := fstIte h.storeResult h

theorem onRunning {g num f} : (s.onRunning g num f).MemoryWf := h

theorem tldRefused {c t m} : (s.tldRefused c t m).1.MemoryWf := by
  refine fstIte h (fstIte h ?_)
  split
  next heq => exact h.rangeCheck.of_eq heq
  next heq => exact h.rangeCheck.of_eq heq

theorem taskBeats {c t m j} : (s.taskBeats c t m j).1.MemoryWf := by
  refine fstIte h.parityError ?_
  split
  next heq => exact (h.loseProv.beats.of_eq heq).chargeGranules
  next heq =>
    have ht := h.loseProv.beats.of_eq heq
    exact fstIte ht.chargeGranules ht.chargeGranules.onRunning

theorem stepTld {r m} : (s.stepTld r m).1.MemoryWf := by grind [State.stepTld, !onCore, !taskBeats, !tldRefused, !onRunning,
  State.MemoryWf]

theorem taskBld {c t m lut} : (s.taskBld c t m lut).1.MemoryWf := by
  refine fstIte h ?_
  refine bring ?_
  exact ⟨h.1, h.2⟩

theorem taskForm {c t m f lut} : (s.taskForm c t m f lut).1.MemoryWf := by
  unfold State.taskForm
  grind [putTile, !loadRegion, drainTile, taskBld, noteCheck, verified, putRegionTile, onCore]

theorem signalTask {c t fail} : (s.signalTask c t fail).MemoryWf := by
  unfold State.signalTask
  extract_lets sg send
  have hsend {u : State} (hu : u.MemoryWf) (op) : (send u op).MemoryWf := hu.barSend
  split
  · exact ite (hsend h _) h
  · exact ite (hsend (hsend h _) _) h.logError
  · exact ite (hsend (hsend h _) _) h.logError

theorem dropTask {g c t} : (s.dropTask g c t).MemoryWf := h

theorem endTask {g c t fail} : (s.endTask g c t fail).MemoryWf := h.dropTask.signalTask

theorem auditWrite {g c o bs} : (s.auditWrite g c o bs).MemoryWf := h.vaultWrite

theorem auditBefore {g c t o} : (s.auditBefore g c t o).MemoryWf := h.auditWrite.auditWrite.auditWrite.auditWrite.auditWrite

theorem auditAfter {g c t} : (s.auditAfter g c t).MemoryWf := h.auditWrite

theorem queueReplay {g c t} : (s.queueReplay g c t).MemoryWf := by
  unfold State.queueReplay
  split
  · exact h
  · dsimp only
    refine wakeRequest ?_
    exact ⟨h.1, h.2⟩

theorem auditMismatch {g c} : (s.auditMismatch g c).MemoryWf := by
  unfold State.auditMismatch
  extract_lets counted logged raised
  have hcounted : counted.MemoryWf := ⟨h.1, h.2⟩
  exact ite hcounted.logError.onCluster.callKill hcounted.logError.onCluster

theorem finishReplay {g} : (s.finishReplay g).MemoryWf := by
  unfold State.finishReplay
  split
  · exact h
  · split
    · exact h
    · exact ite h.vaultRead.auditWrite.dropTask.onCluster h.vaultRead.auditWrite.dropTask.auditMismatch

theorem finishMma {g c t o} : (s.finishMma g c t o).MemoryWf := by
  unfold State.finishMma
  dsimp only
  split
  next heq => exact ((h.product.andThen (fun ht => fstIte ht ht.chargeGranules.writeSpan)).of_eq heq).endTask
  next heq =>
    have ht := (h.product.andThen (fun ht => fstIte ht ht.chargeGranules.writeSpan)).of_eq heq
    refine endTask ?_
    refine ite ht.onCluster ?_
    refine ite ht.onCluster.auditBefore.auditAfter.queueReplay ?_
    exact ⟨ht.1, ht.2⟩

theorem issueTask {g c t} : (s.issueTask g c t).MemoryWf := by
  refine ite h.endTask ?_
  split
  · split
    next heq => exact (h.startMma.of_eq heq).endTask
    next heq => exact h.startMma.of_eq heq
  · split
    · exact h.endTask
    · exact h.onRunning
  · exact h

theorem beginTask {g c t} : (s.beginTask g c t).MemoryWf := ite h h.onRunning.issueTask

theorem completeTask {c} : (s.completeTask c).MemoryWf := by
  unfold State.completeTask
  dsimp only
  split
  · exact h
  · refine ite h.endTask (ite h.beginTask ?_)
    split
    · exact h.endTask
    · split
      · exact h
      · exact ite h h.finishMma
    · split
      next heq => exact h.stepTld.of_eq heq
      next heq => exact (h.stepTld.of_eq heq).endTask
    · exact h.taskForm.endTask

theorem startTask {g t} : (s.startTask g t).MemoryWf := by
  unfold State.startTask
  split
  · exact h
  · dsimp only
    exact ite h.onCluster.due h.onCluster.due.beginTask

theorem failDoomed {g} : (s.failDoomed g).MemoryWf := by
  unfold State.failDoomed
  split
  · exact h
  · dsimp only
    split
    · exact h.onCluster.onCluster.queueReplay
    · exact h.onCluster.signalTask

theorem admitNext {g} : (s.admitNext g).MemoryWf := by
  unfold State.admitNext
  dsimp only
  refine ite h.takeRecord.failDoomed ?_
  split
  · exact h.takeRecord.onCluster
  · split
    · exact h.takeRecord.onCluster.startTask
    · exact h.takeRecord.onCluster.grantLeave

theorem failOp {c o f} : (s.failOp c o f).MemoryWf := by
  unfold State.failOp
  dsimp only
  split
  · exact h.endTask
  · exact h.closeOp

theorem stopOp {c} : (s.stopOp c).MemoryWf := by
  unfold State.stopOp
  split
  · exact h
  · refine ite h ?_
    split
    next heq => exact (h.beginOp.of_eq heq).failOp
    next heq =>
      have ht := h.beginOp.of_eq heq
      split
      next heq => exact (ht.runOp.of_eq heq).loseProv.putTile.failOp
      next heq =>
        have hu := ht.runOp.of_eq heq
        dsimp only
        refine popOp ?_
        split
        · exact hu.loseProv.putTile.onCluster
        · exact hu.loseProv.putTile.onSlot
        · exact hu.loseProv.putTile

theorem stopTask {c} : (s.stopTask c).MemoryWf := ite h h

theorem freezeEngine {c} : (s.freezeEngine c).MemoryWf := h.stopTask.stopOp.dropB.onCore

/-! ## System instructions -/

theorem execTrap {i t} : (Machine.execTrap i t s).MemoryWf := by
  unfold Machine.execTrap
  dsimp only
  exact h.issue fun ht => ht.retire.trap

theorem arm {c} : (s.arm c).MemoryWf := by
  unfold State.arm
  dsimp only
  split
  · refine putCore ?_
    exact ⟨h.1, h.2⟩
  · exact ⟨h.1, h.2⟩

theorem writeEic {c x} : (s.writeEic c x).MemoryWf := ite h.putCore.arm (⟨h.1, h.2⟩)

theorem cregPut {c j n w} : (s.cregPut c j n w).MemoryWf := by
  unfold State.cregPut
  extract_lets x v k
  split
  case h_3 | h_11 | h_12 | h_13 => exact h.putCore
  case h_14 => exact h.writeEic
  case h_15 => exact h
  all_goals exact h.putSlot

theorem execCwr {a i t} : (Machine.execCwr a i t s).MemoryWf := by
  unfold Machine.execCwr
  dsimp only
  exact h.issue fun ht => .ite ht ht.retire.cregPut

theorem olderAccess {w reads go} (hg : go.MemoryWf) : (s.olderAccess w reads go).MemoryWf := by
  have hread := also (f := fun t : State => t.readStored s.core s.slot (w - 1)) (fun ht => ht.readStored) hg
  grind [State.olderAccess, logError, onMe, State.MemoryWf, Act.MemoryWf]

theorem execXrd {d a i t} : (Machine.execXrd d a i t s).MemoryWf := by
  refine h.issue fun ht => ?_
  dsimp only
  refine .ite (ht.olderAccess ht.onMe.dst) (.ite ht.dst (.ite ht.dst ?_))
  split
  next heq => exact (ht.ownerCore.of_eq heq).dst
  next heq => exact (ht.ownerCore.of_eq heq).dst

theorem execXwr {d a i t} : (Machine.execXwr d a i t s).MemoryWf := by
  refine h.issue fun ht => ?_
  dsimp only
  exact .ite (ht.olderAccess ht.onMe) ht.onMe

theorem execKill {a t} : (Machine.execKill a t s).MemoryWf := by
  refine h.issue fun ht => ?_
  dsimp only
  exact .ite ht ht.callKill

theorem execFreeze {a t} : (Machine.execFreeze a t s).MemoryWf := by
  refine h.issue fun ht => ?_
  dsimp only
  exact .ite ht (.ite ht (.ite ht ht.freezeEngine))

theorem execStinv {d a t} : (Machine.execStinv d a t s).MemoryWf := by
  refine h.issue fun ht => .ite (.ite ht ht) (.ite ht ?_)
  dsimp only
  exact ⟨ht.1, ht.2⟩

theorem execStationInvalidation {k} : (Machine.execStationInvalidation k s).MemoryWf := by
  unfold Machine.execStationInvalidation
  split
  · exact h
  · dsimp only
    exact .ite h.putStation (⟨h.1, h.2⟩)

/-! ## Settling and `rte` -/

theorem unqueue {c j n} : (s.unqueue c j n).MemoryWf := h

theorem stopWork {c j e} : (s.stopWork c j e).MemoryWf := by
  unfold State.stopWork
  split
  · exact h.onCore
  · split
    · exact h
    · exact h.stopGather
  · refine ite h ?_
    split
    · exact ite h.stopOp h.unqueue
    · exact h.unqueue
  · exact h

theorem repost {ms e} : (s.repost ms e).1.MemoryWf := h.sendAll

theorem retry {e r} (hr : s.retry e = some r) : r.1.MemoryWf := by
  grind [State.retry, !repost, !takeSeq, startCopy, onHere, !agentAddress]

theorem settled {j e d} : (s.settled j e d).MemoryWf := by
  unfold State.settled
  extract_lets t r
  have hr : r.1.MemoryWf := h.onMe.vaultWrite
  split
  · exact hr.dst
  · exact hr.callKill

theorem execSettle {d a t} : (Machine.execSettle d a t s).MemoryWf := by
  refine h.issue fun {s} ht => ?_
  dsimp only
  split
  · exact ht.dst
  next e _ =>
    refine .ite ht.settled (.ite (.ite ht.settled ?_) ?_)
    · cases hr : s.retry e with
      | none => exact ht
      | some r => exact (ht.retry hr).settled
    · have hstopped := ite (c := (bitsOf (s.src a).toNat 5 4 = 2 && !e.stop) = true) (ht.stopWork (c := s.core) (j := s.slot) (e := e)) ht
      exact .ite hstopped.settled hstopped

theorem freshBlock {c j} : (s.freshBlock c j).MemoryWf := by
  unfold State.freshBlock
  dsimp only
  split
  next heq => exact h.putSlot.dataWrite.of_eq heq
  next heq => exact (h.putSlot.dataWrite.of_eq heq).onSlot

theorem frameRecord {c j} : (s.frameRecord c j).1.MemoryWf := by
  unfold State.frameRecord
  dsimp only
  split
  · exact h
  · split
    next heq => exact h.vaultRead.of_eq heq
    next heq => exact h.vaultRead.of_eq heq

theorem restartHere {c j} : (s.restartHere c j).MemoryWf := by
  unfold State.restartHere
  split
  · exact h
  · split
    next heq => exact (h.restartCont.of_eq heq).leaveSlot.noRestart
    next heq =>
      have ht := h.restartCont.of_eq heq
      dsimp only
      exact ht.onSlot.freshBlock

theorem rteMove {u act} : (s.rteMove u act).MemoryWf := by
  refine .ite h ?_
  split
  next heq => exact h.suspend.of_eq heq
  next heq =>
    have ht := h.suspend.of_eq heq
    exact ite ht.issued.makeReady ht.issued.sendPacket

theorem rteEnd {u act failed} : (s.rteEnd u act failed).MemoryWf := by
  refine .ite h.issued.restartHere (.ite h.issued.endStrand (.ite h.rteMove ?_))
  split
  next heq => exact h.frameRecord.of_eq heq
  next heq =>
    have ht := h.frameRecord.of_eq heq
    dsimp only
    split
    · exact ht.onMe.issued.enterTrap
    · exact ht.onMe
    · split
      next heq => exact (ht.onMe.resumeFrame.of_eq heq).onMe
      next heq => exact (ht.onMe.resumeFrame.of_eq heq).issued.enterTrap

theorem decideAll : s.decideAll.1.MemoryWf :=
  h.onMe.foldlPair (fun ht _ _ => ht.vaultWrite) _ _

theorem execRte {t} : (Machine.execRte t s).MemoryWf := by
  unfold Machine.execRte
  dsimp only
  refine h.issue fun ht => .ite ht (.ite ht ?_)
  split
  next heq => exact (ht.decideAll.of_eq heq).rteEnd
  next heq => exact (ht.decideAll.of_eq heq).callKill

/-! ## Launches at their root -/

theorem inboxAccept {k} : (s.inboxAccept k).MemoryWf := by
  unfold State.inboxAccept
  split
  · exact h
  · split
    · split
      · exact ⟨h.1, h.2⟩
      · exact ⟨h.1, h.2⟩
    · refine ite h ?_
      refine deliver ?_
      exact ⟨h.1, h.2⟩

theorem forwardLaunch : s.forwardLaunch.MemoryWf := by
  unfold State.forwardLaunch
  split
  · exact h
  · refine ite h ?_
    refine deliver ?_
    exact ⟨h.1, h.2⟩

theorem doneWord {c pid a} : (s.doneWord c pid a).1.MemoryWf := by
  refine fstIte h ?_
  split
  next heq =>
    have ht := h.translate.of_eq heq
    exact fstIte ht ht
  next heq => exact h.translate.of_eq heq

theorem fillDone {c pid a status ndone} : (s.fillDone c pid a status ndone).1.MemoryWf := by
  unfold State.fillDone
  split
  next heq => exact h.doneWord.of_eq heq
  next heq =>
    have ht := h.doneWord.of_eq heq
    dsimp only
    exact fstIte ht.vaultWrite.setFull ht.vaultWrite

theorem logLaunch {c pid lid rec_} : (s.logLaunch c pid lid rec_).MemoryWf := h

theorem refuseLaunch {c l status} : (s.refuseLaunch c l status).MemoryWf := by
  unfold State.refuseLaunch
  split
  next heq => exact h.fillDone.of_eq heq
  next heq => exact (h.fillDone.of_eq heq).logLaunch

theorem readGroups {c pid table count l} : (State.readGroups c pid table count l s).1.MemoryWf := by
  induction l generalizing s with
  | nil => exact h
  | cons g l ih => grind [State.readGroups, !readGlobal]

theorem reserve {l id c j} : (s.reserve l id c j).MemoryWf := h

theorem reserveAll {l lid cores} : (s.reserveAll l lid cores).MemoryWf := by
  refine h.foldl (fun ht _ => ?_) _
  dsimp only
  split
  · exact ht
  · exact ht.onSlot.onCluster.onLaunch.reserve

theorem admitLaunch {c l} : (s.admitLaunch c l).MemoryWf := ite h.refuseLaunch (ite (ite h.refuseLaunch h.onCore.reserveAll) h.onCore)

theorem openDone {c l} : (s.openDone c l).1.MemoryWf := by
  unfold State.openDone
  split
  next heq => exact h.doneWord.of_eq heq
  next heq =>
    extract_lets r
    have hr : r.1.MemoryWf := (h.doneWord.of_eq heq).vaultWrite
    exact fstIte ⟨hr.1, hr.2⟩ hr

theorem acceptMessage {c m index} : (s.acceptMessage c m index).MemoryWf := by
  unfold State.acceptMessage
  dsimp only
  split
  next heq => exact (h.readPhys.of_eq heq).logLaunch
  next heq =>
    have ht := h.readPhys.of_eq heq
    split
    next heq => exact ((fstIte ht ht.readGroups).of_eq heq).refuseLaunch
    next heq =>
      have hu := (fstIte ht ht.readGroups).of_eq heq
      refine ite hu.refuseLaunch ?_
      split
      next heq => exact (hu.openDone.of_eq heq).logLaunch
      next heq => exact (hu.openDone.of_eq heq).admitLaunch

theorem acceptLaunch {c} : (s.acceptLaunch c).MemoryWf := by
  unfold State.acceptLaunch
  dsimp only
  split
  · exact ite h (ite h.failCore h.putCore.acceptMessage)
  · exact h

theorem emit {root p} : (s.emit root p).MemoryWf := h

theorem unfold {c} : (s.unfold c).MemoryWf := by
  refine ite h.failCore ?_
  split
  · exact h
  · dsimp only
    split
    · split
      · exact h.onLaunch.emit
      · exact h.onLaunch
    · split
      · exact h.onLaunch.onLaunch.emit
      · exact h.onLaunch.onLaunch.onLaunch

theorem dispatch {c} : (s.dispatch c).MemoryWf := by
  unfold State.dispatch
  split
  · exact h
  · split
    · dsimp only
      split
      · exact h.onLaunch.reserve.onSlot
      · exact h.onLaunch.reserve.onSlot.emit
    · exact h

theorem bringConsts {c lid} : (s.bringConsts c lid).MemoryWf := by
  unfold State.bringConsts
  split
  · exact h
  · exact h.onCore

theorem startStrand {c j p eff} : (s.startStrand c j p eff).MemoryWf := h.onSlot.onCluster.bringConsts

theorem place {c j p} : (s.place c j p).MemoryWf := h.countRecv.startStrand.freshBlock

theorem settlePacket {k c j p} : (s.settlePacket k c j p).MemoryWf := by
  unfold State.settlePacket
  dsimp only
  split
  · refine place ?_
    exact ⟨h.wakeRequest.1, h.wakeRequest.2⟩
  · exact ⟨h.wakeRequest.1, h.wakeRequest.2⟩

theorem passThrough {a b lid} : (s.passThrough a b lid).MemoryWf := h.foldl (fun ht _ => ite ht ht.countRecv.countSent) _

theorem backToRoot {p} : (s.backToRoot p).MemoryWf := by
  refine onLaunch (countRecv (onUnfolded ?_))
  split
  · exact h.passThrough
  · exact h.passThrough.onCore.freeReserved

theorem walkStep {k p} : (s.walkStep k p).MemoryWf := by
  unfold State.walkStep
  split
  · exact ⟨h.1, h.2⟩
  · dsimp only
    split
    · exact h.reserve.onSlot.settlePacket
    · split
      · exact ⟨(ite h h.countRecv.countSent).1, (ite h h.countRecv.countSent).2⟩
      · refine backToRoot ?_
        exact ⟨(ite h h.countRecv.countSent).1, (ite h h.countRecv.countSent).2⟩

theorem settleAt {k p j} : (s.settleAt k p j).MemoryWf := by grind [State.settleAt, !backToRoot, !freeReserved, !settlePacket,
  State.MemoryWf]

theorem landPacket {k p j} : (s.landPacket k p j).MemoryWf := by
  refine ite h.settleAt ?_
  dsimp only
  refine settleAt ?_
  exact ⟨h.passThrough.1, h.passThrough.2⟩

theorem placementPacket {k} : (s.placementPacket k).MemoryWf := by
  unfold State.placementPacket
  split
  · exact h
  · refine ite h.walkStep ?_
    split
    · exact h.landPacket
    · exact h

theorem migrationArrival {k} : (s.migrationArrival k).MemoryWf := by grind [State.migrationArrival, !strandDone, !makeReady, !countRecv,
  !countSent, !saveSlot, !onCore, !arrive, State.MemoryWf]

/-! ## Slots and strands over time -/

theorem regain {c j p} : (s.regain c j p).MemoryWf := by
  unfold State.regain
  dsimp only
  split
  · exact h
  · exact ite h.onSlot h

/-- The read of the ring is abstracted first: else the kernel evaluates it (see `leaveRing`). -/
theorem takeUp {c j} : (s.takeUp c j).MemoryWf := by
  have hleft (e) : (s.leaveRing c e).1.MemoryWf := h.leaveRing
  obtain ⟨f, hf⟩ : ∃ f, s.leaveRing c = f := ⟨_, rfl⟩
  unfold State.takeUp
  extract_lets v k
  rw [hf] at hleft ⊢
  refine ite h ?_
  split
  · exact h
  · split
    next heq => exact (hleft _).of_eq heq
    next heq => exact (ite ((hleft _).of_eq heq).startStrand.freshBlock ((hleft _).of_eq heq).startStrand.onSlot).regain

theorem loadShadow {c j} : (s.loadShadow c j).MemoryWf := by
  unfold State.loadShadow
  dsimp only
  refine ite h.putSlot ?_
  split
  · exact h.putSlot
  · split
    next heq => exact (h.putSlot.readGlobal.of_eq heq).onSlot
    next heq =>
      have ht := h.putSlot.readGlobal.of_eq heq
      exact ite ht.onSlot ht.onSlot

theorem loadBlock {c j} : (s.loadBlock c j).MemoryWf := by
  refine ite h.putSlot ?_
  split
  next heq => exact (h.putSlot.dataRead.of_eq heq).onSlot
  next heq => exact (h.putSlot.dataRead.of_eq heq).onSlot

theorem reloadAhead {c j} : (s.reloadAhead c j).MemoryWf := by
  refine ite h ?_
  split
  next heq => exact h.reloadModuli.of_eq heq
  · exact h

theorem expireQuantum {c j} : (s.expireQuantum c j).MemoryWf := by
  refine ite h (ite ?_ h)
  split
  next heq => exact (h.suspend.of_eq heq).onSlot
  next heq => exact (h.suspend.of_eq heq).makeReady

theorem dropWaiter {c w pend} : (s.dropWaiter c w pend).MemoryWf := by
  unfold State.dropWaiter
  split
  next heq => exact (h.takeWaiter.of_eq heq).releaseWaiter
  next heq => exact h.takeWaiter.of_eq heq

theorem expireWait {c n} : (s.expireWait c n).MemoryWf := by
  unfold State.expireWait
  split
  · exact h
  · exact ite h h.dropWaiter

theorem wakePark {c n} : (s.wakePark c n).MemoryWf := by
  unfold State.wakePark
  split
  · exact h
  · exact ite h h.dropWaiter

theorem purgeCore {c lid} : (s.purgeCore c lid).MemoryWf := by
  have hkept := (h.foldl (f := fun s w => (s.takeWaiter c w).1) (fun ht _ => ht.takeWaiter)
    ((s.coreAt c).waiters.filter fun x => x.pkt.cont.id.lid == lid))
  exact refill (ite hkept.putCore hkept.putCore.relink)

theorem purge {lid} : (s.purge lid).MemoryWf :=
  ((h.foldl (fun ht _ => ht.strandDone) _).foldl (fun ht _ => ht.purgeCore) _).onLaunch

theorem freeLaunch {lid} : (s.freeLaunch lid).MemoryWf :=
  onCore (h.foldl (fun ht _ => onCore (upTo (ht.foldl (fun hu _ => hu.freeAlloc) _) (fun hu _ => ite hu.putSlot hu) _)) _)

theorem endLaunch {l lid} : (s.endLaunch l lid).MemoryWf := by
  unfold State.endLaunch
  dsimp only
  split
  next heq => exact (h.fillDone.of_eq heq).freeLaunch
  next heq => exact (h.fillDone.of_eq heq).logLaunch.freeLaunch

theorem sweepOne {lid} : (s.sweepOne lid).MemoryWf := by
  unfold State.sweepOne
  dsimp only
  split
  · split
    · exact ite h.purge h
    · exact h
  · split
    · exact ite (ite h.purge h).onLaunch (ite (ite h.purge h).endLaunch (ite h.purge h).onLaunch)
    · exact ite h.onLaunch (ite h.endLaunch h.onLaunch)

theorem sweep : s.sweep.MemoryWf := h.foldl (fun ht _ => ht.sweepOne) _

/-- Unfolded as a function, as in `leaveRing`. -/
theorem moveReady {c e} : (s.moveReady c e).MemoryWf := by
  generalize hf : @State.moveReady = f
  delta State.moveReady at hf
  subst hf
  beta_reduce
  split
  next heq => exact h.readRing.of_eq heq
  next heq => exact (h.readRing.of_eq heq).moveAway

theorem moveSaved {c e} : (s.moveSaved c e).MemoryWf := by
  unfold State.moveSaved
  split
  next heq => exact h.readSlot.of_eq heq
  next heq => exact (h.readSlot.of_eq heq).moveAway

theorem moveParked {c w} : (s.moveParked c w).MemoryWf := by
  unfold State.moveParked
  split
  next heq => exact h.takeWaiter.of_eq heq
  next heq => exact (h.takeWaiter.of_eq heq).moveAway

theorem finishVacate {c} : (s.finishVacate c).MemoryWf := by
  unfold State.finishVacate
  dsimp only
  split
  · exact h
  · exact (((h.putCore.foldl (fun ht _ => ht.moveSaved) _).foldl (fun ht _ => ht.moveReady) _).foldl (fun ht _ => ht.moveSaved) _).foldl
      (fun ht _ => ht.moveParked) _

theorem beginVacate {c} : (s.beginVacate c).MemoryWf := by
  refine finishVacate (onCore (upTo ?_ (fun ht _ => ht.onSlot) 8))
  exact h

theorem sendHeld {c e} : (s.sendHeld c e).MemoryWf := by
  unfold State.sendHeld
  dsimp only
  refine ite ?_ h.moveSaved
  split
  next heq => exact h.readSlot.of_eq heq
  next heq => exact (h.readSlot.of_eq heq).arrive

theorem releaseCores {l} : (s.releaseCores l).MemoryWf :=
  (h.foldl (fun ht _ => ht.onCore) l).foldl (fun ht _ => ht.onCore.foldl (fun hu _ => hu.sendHeld) _) _

theorem request {w issuer} : (s.request w issuer).1.MemoryWf := by
  unfold State.request
  split
  · exact h
  · exact ite h.releaseCores (h.foldl (fun ht _ => ht.beginVacate) _)

theorem execPreempt {d a t} : (Machine.execPreempt d a t s).MemoryWf := by
  refine h.issue fun ht => ?_
  split
  · exact .ite ht ht.dst
  · dsimp only
    exact .ite ht.request.dst ht.request.onMe

theorem failSave {c j cause} : (s.failSave c j cause).MemoryWf := h.endTwice.finishVacate

theorem saveStrand {c j} : (s.saveStrand c j).MemoryWf := by
  refine ite h.finishVacate (ite ?_ (ite h.onSlot h))
  split
  · exact h.failSave
  · refine ite h ?_
    split
    next heq => exact (h.suspend.of_eq heq).failSave
    next heq =>
      have ht := h.suspend.of_eq heq
      split
      next heq => exact (ht.saveSlot.of_eq heq).finishVacate
      next heq => exact (ht.saveSlot.of_eq heq).onCore.finishVacate

/-! ## Happenings of arrays, streams and engines -/

theorem refresh {c b} : (s.refresh c b).MemoryWf := ite h (ite h h)

theorem hotMode {layer hot} : (s.hotMode layer hot).MemoryWf := ite h h

theorem onset {g reason} : (s.onset g reason).MemoryWf := ite h h

theorem dramThrottle {g} : (s.dramThrottle g).MemoryWf := by
  refine ite h ?_
  dsimp only
  refine h.onset.onCluster.foldl (fun ht _ => ht.upTo (fun hu _ => ?_) _) _
  split
  · exact hu.onSlot
  · exact hu

theorem restartEntry {c e} : (s.restartEntry c e).MemoryWf := by
  unfold State.restartEntry
  split
  next heq => exact (h.restartPacket.of_eq heq).makeReady
  next heq => exact h.restartPacket.of_eq heq

theorem rebuild {c old} : (s.rebuild c old).MemoryWf :=
  refill (foldl (onCore (s := { s with mem := _, badGran := _ }) ⟨Memory.write_wf (Memory.filter_wf h.1 _) _ _, h.2⟩)
    (fun ht _ => ht.restartEntry) _)

theorem lose {kind core part} : (s.lose kind core part).MemoryWf := by
  refine foldl (ite ?_ (quinceLog ?_)) (fun ht p => ite ht.callKill (ite ht ht.rebuild)) _
  · exact h
  · exact h

theorem patternWait {c j t} : (s.patternWait c j t).MemoryWf := ite h h

theorem patternRead {c j n} : (s.patternRead c j n).MemoryWf := by
  unfold State.patternRead
  split
  · exact h
  · refine ite h ?_
    dsimp only
    split
    next heq => exact (h.regionCheck.of_eq heq).onSlot
    next heq =>
      have ht := h.regionCheck.of_eq heq
      refine ite ht (ite (ite ht.patternWait ?_) ht.sendAll.onSlot)
      split
      next heq => exact (ht.dataRead.of_eq heq).onSlot
      next heq => exact (ht.dataRead.of_eq heq).onSlot

theorem patternFault {c j cause va bs} : (s.patternFault c j cause va bs).MemoryWf := by
  unfold State.patternFault
  dsimp only
  split
  next heq => exact (h.takeSeq.addEntry.of_eq heq).onSlot
  next heq => exact (h.takeSeq.addEntry.of_eq heq).onSlot

theorem patternWrite {c j n} : (s.patternWrite c j n).MemoryWf := by
  unfold State.patternWrite
  split
  · exact h
  · split
    · exact h
    · extract_lets bs all str t back pop
      have ht : t.MemoryWf := h
      have hback {u : State} (hu : u.MemoryWf) : (back u).MemoryWf := hu
      have hpop {u : State} (hu : u.MemoryWf) : (pop u).MemoryWf := hback hu.onSlot
      refine ite h ?_
      split
      next heq => exact hpop (ht.regionCheck.of_eq heq).patternFault
      next heq =>
        have hu := ht.regionCheck.of_eq heq
        refine ite (hpop hu.postRow) (ite h (ite (hback hu.patternWait) ?_))
        split
        next heq => exact hpop (hu.rowWrite.of_eq heq)
        next heq => exact hpop (hu.rowWrite.of_eq heq).patternFault

theorem channelArrival {k} : (s.channelArrival k).MemoryWf := by
  unfold State.channelArrival
  split
  · exact h
  · dsimp only
    refine ite h ?_
    split
    · exact ⟨h.1, h.2⟩
    · split
      · exact ⟨h.1, h.2⟩
      · refine ite h ?_
        refine onCore ?_
        exact ⟨h.1, h.2⟩

/-! ## The power of clusters over time -/

theorem gateCluster {g} : (s.gateCluster g).MemoryWf := (h.foldl (fun ht _ => ht.onCore) _).onCluster

theorem chargeTags {g measured} : (s.chargeTags g measured).MemoryWf := h

theorem dropOver {g} : (s.dropOver g).MemoryWf := by
  refine h.putCluster.foldl (fun ht _ => ?_) _
  split
  · exact ht.onCluster
  · exact ht.signalTask

theorem interval {g measured} : (s.interval g measured).MemoryWf :=
  ite h.chargeTags.putCluster.dropOver.gateCluster h.chargeTags.putCluster.dropOver

theorem controlInterval {measured} : (s.controlInterval measured).MemoryWf := by
  refine upTo ?_ (fun ht _ => ht.interval) 64
  exact h

theorem spend {g} : (s.spend g).MemoryWf := ite h.putCluster (ite h (ite h.putCluster.onset h.putCluster))

theorem hold {g} : (s.hold g).MemoryWf := ite h h

theorem award {n l} : (s.award n l).MemoryWf := by
  induction n generalizing s l with
  | zero => exact h
  | succ n ih => grind [State.award, onCluster, State.MemoryWf]

theorem boostInterval : s.boostInterval.MemoryWf :=
  ((h.upTo (fun ht _ => ht.spend) 64).upTo (fun ht _ => ht.hold) 64).award.upTo (fun ht _ => ht.onCluster) 64

theorem refillPermits : s.refillPermits.MemoryWf := h.upTo (fun ht _ => ht.onCluster) 64

theorem endHold {g} : (s.endHold g).MemoryWf := by
  unfold State.endHold
  split
  · refine ite h (ite ?_ h.onCluster)
    dsimp only
    exact ⟨h.1, h.2⟩
  · exact h

theorem inRush : s.inRush.MemoryWf := by
  unfold State.inRush
  split
  · exact h
  · dsimp only
    exact ⟨h.1, h.2⟩

theorem coreThrottle {g} : (s.coreThrottle g).MemoryWf := ite h h.onset.onCluster

theorem coreEconomy {g} : (s.coreEconomy g).MemoryWf := h

theorem currThrottle {g} : (s.currThrottle g).MemoryWf := h.onset

theorem pcapThrottle {watts} : (s.pcapThrottle watts).MemoryWf := by
  unfold State.pcapThrottle
  split
  · exact h
  · exact h.upTo (fun ht _ => ht.onset.onCluster) 64

theorem throttleClear {g reason} : (s.throttleClear g reason).MemoryWf := h

/-! ## The outside world -/

theorem quinceRead {a n} : (s.quinceRead a n).1.MemoryWf := by
  unfold State.quinceRead
  split
  · refine fstIte h ?_
    dsimp only
    exact h.vaultRead
  · exact h
  · exact h
  · exact h

theorem quinceWrite {a bs} : (s.quinceWrite a bs).1.MemoryWf := by
  unfold State.quinceWrite
  split
  · refine fstIte h ?_
    dsimp only
    exact h.vaultWrite
  · exact fstIte h.write h
  · exact fstIte h.write h
  · exact h

theorem commandDone {refused} : (s.commandDone refused).MemoryWf := h

theorem commandRefused : s.commandRefused.MemoryWf := h

theorem readEventLog : s.readEventLog.MemoryWf := by
  refine ite h ?_
  split
  next heq => exact (h.quinceWrite.of_eq heq).commandDone
  next heq => exact (h.quinceWrite.of_eq heq).commandRefused

theorem attest : s.attest.MemoryWf := by
  refine ite h ?_
  split
  next heq => exact (h.quinceRead.of_eq heq).commandRefused
  next heq =>
    have ht := h.quinceRead.of_eq heq
    split
    next heq => exact (ht.quinceWrite.of_eq heq).commandDone
    next heq => exact (ht.quinceWrite.of_eq heq).commandRefused

theorem stageFirmware : s.stageFirmware.MemoryWf := by
  refine ite h ?_
  split
  next heq => exact (h.quinceRead.of_eq heq).commandRefused.quinceLog
  next heq =>
    have ht := h.quinceRead.of_eq heq
    split
    · exact ht.commandDone.quinceLog
    · refine quinceLog ?_
      refine commandDone ?_
      exact ⟨ht.1, ht.2⟩

theorem setPowerCap : s.setPowerCap.MemoryWf := by
  refine ite h ?_
  refine ite h.commandRefused ?_
  refine commandDone ?_
  exact ⟨h.1, h.2⟩

theorem restartCore : s.restartCore.MemoryWf := ite h (ite h.commandRefused h.onCore.commandDone)

theorem mailboxRefusal : s.mailboxRefusal.MemoryWf := ite h h

theorem deviceReset : s.deviceReset.MemoryWf := ⟨Memory.filter_wf h.1 _, rfl⟩

theorem resetDevice : s.resetDevice.MemoryWf := ite h (ite h h.deviceReset)

theorem holdRstn {ns} : (s.holdRstn ns).MemoryWf := ite h h.deviceReset

theorem bringUp {failed badStores} : (s.bringUp failed badStores).MemoryWf := by
  refine ite h (ite (quinceLog ?_) (withMedlar (foldl ?_ (fun ht _ => ht.killCore) _)))
  · exact h
  · exact h.deviceReset

theorem hostError : s.hostError.MemoryWf := h

theorem hostStore {a bs} : (s.hostStore a bs).MemoryWf := by
  refine ite h ?_
  split
  next heq => exact h.sysStore.of_eq heq
  next heq => exact (h.sysStore.of_eq heq).hostError

theorem hostWrite {a bs} : (s.hostWrite a bs).MemoryWf := by
  refine ite h ?_
  split
  · refine ite h.hostError (ite h ?_)
    split
    next heq => exact h.agentTurn.chargeGranules.vaultWrite.of_eq heq
    next heq => exact (h.agentTurn.chargeGranules.vaultWrite.of_eq heq).hostError
  · exact h.hostStore
  · exact h.hostError

theorem hostRead {a n} : (s.hostRead a n).MemoryWf := by
  refine ite h ?_
  split
  · refine ite h.hostError (ite h ?_)
    split
    next heq =>
      have ht := h.agentTurn.chargeGranules.vaultRead.of_eq heq
      exact ⟨ht.1, ht.2⟩
    next heq => exact (h.agentTurn.chargeGranules.vaultRead.of_eq heq).hostError
  · split
    · exact ⟨h.1, h.2⟩
    · exact h.hostError
  · exact h.hostError

theorem medlarLoss : s.medlarLoss.MemoryWf := ite h h

theorem sloeLoss {n} : (s.sloeLoss n).MemoryWf := ite h h

theorem flitReplay {n} : (s.flitReplay n).MemoryWf := ite h h

theorem sloeRequest {link h0 h1 h2 h3 payload} : (s.sloeRequest link h0 h1 h2 h3 payload).MemoryWf := by
  refine ite h ?_
  split
  · exact ⟨h.1, h.2⟩
  · split
    next heq =>
      have ht := h.ownerChecks.of_eq heq
      exact ⟨ht.1, ht.2⟩
    next heq =>
      have ht := h.ownerChecks.of_eq heq
      exact ⟨ht.1, ht.2⟩

theorem execRegisterWrite {addr size value} : (Machine.execRegisterWrite addr size value s).MemoryWf := ite h.sysStore h

theorem execMedlarRetrain : (Machine.execMedlarRetrain s).MemoryWf := by
  refine State.MemoryWf.ite (c := s.medlar.rdy = true) ?_ h
  exact h

theorem execSloeRetrain {link} : (Machine.execSloeRetrain link s).MemoryWf := ite h.putLink h

/-! ## An instruction boundary -/

theorem synced {c j} : (s.synced c j).MemoryWf := ite h h

theorem takePending {c j t} (ht : s.takePending c j = some t) : t.MemoryWf := by
  grind [State.takePending, onSlot, onCluster, enterTrap, saveStrand]

theorem before {c j t} (ht : s.before c j = some t) : t.MemoryWf := by
  grind [State.before, failCore, endSettled, loadShadow, loadBlock, saveStrand, onSlot, takePending]

theorem nextWord {c j} : (s.nextWord c j).1.MemoryWf := by
  unfold State.nextWord
  split
  · exact h
  · exact h.fetchWord

theorem wordTrap {c j cause eva} : (s.wordTrap c j cause eva).MemoryWf := ite h.enterTrap h

theorem prepare : s.prepare.1.MemoryWf := by
  unfold State.prepare
  dsimp only
  split
  next heq => exact h.before heq
  · split
    next heq => exact (h.synced.nextWord.of_eq heq).wordTrap
    next heq =>
      have ht := h.synced.nextWord.of_eq heq
      split
      · exact ht
      · exact ht.wordTrap

theorem execTrapEntry {core slot} : (Machine.execTrapEntry core slot s).MemoryWf := by
  refine State.MemoryWf.ite (c := s.turns core slot = true) ?_ h
  cases ht : s.takePending core slot with
  | none => exact h
  | some t => exact h.takePending ht

/-! ## Modular arithmetic -/

theorem modularForm {i update lat d srcs t f} : (Machine.modularForm i update lat d srcs t f s).MemoryWf := by
  unfold Machine.modularForm
  dsimp only
  exact h.vissue fun h0 ht _ => finish ht h0

theorem execMqset {a t} : (Machine.execMqset a t s).MemoryWf := by
  unfold Machine.execMqset
  dsimp only
  exact h.issue fun ht => .ite ht (ht.tableRead (fun hu _ => .ite hu.onMe hu))

theorem butterfly {i ct d a b t} : (Machine.butterfly i ct d a b t s).MemoryWf := by
  unfold Machine.butterfly
  dsimp only
  exact h.vissue fun h0 ht _ => finish ht h0

/-! ## Scalar instructions -/

theorem scalarRR {i f lat d a b o m t} : (Machine.scalarRR i f lat d a b o m t s).MemoryWf := h.issue fun ht => ht

theorem scalarR {i f d a o m t} : (Machine.scalarR i f d a o m t s).MemoryWf := h.issue fun ht => ht

theorem scalarRI {i f d a m t} : (Machine.scalarRI i f d a m t s).MemoryWf := h.issue fun ht => ht

theorem scalarCmp {i f p a b m t} : (Machine.scalarCmp i f p a b m t s).MemoryWf := h.issue fun ht => ht

theorem scalarCmpi {i f p a k m t} : (Machine.scalarCmpi i f p a k m t s).MemoryWf := h.issue fun ht => ht

theorem scalarPred {reads f d a b t} : (Machine.scalarPred reads f d a b t s).MemoryWf := h.issue fun ht => ht

theorem scalarSel {i want d a b p o m t} : (Machine.scalarSel i want d a b p o m t s).MemoryWf := h.issue fun ht => ht

/-! ## The order of the moves -/

theorem atEvent {n e} : (s.atEvent n e).MemoryWf := h.endCycle

theorem atIssue {n c j} : (s.atIssue n c j).MemoryWf := h.endCycle

theorem nextMove : s.nextMove.2.MemoryWf := by
  unfold State.nextMove
  split
  · exact ⟨h.1, h.2⟩
  · split
    · exact ⟨h.1, h.2⟩
    · exact h

/-! ## Every instruction and every event -/

theorem exec {i} : Out.MemoryWf (Machine.exec i s) := by
  cases i
  all_goals dsimp only [Machine.exec, Machine.execVsel, Machine.execVmsk, Machine.execVcvtF8, Machine.execVcvtF32, Machine.execVcvtInt,
    Machine.execVcvtFlt, Machine.execVcvtMr, Machine.execVshuf, Machine.execVbcast, Machine.execVrand, Machine.execVext,
    Machine.execVmov, Machine.execIdle]
  case jr | cpyQ | grank | gsize | inq | spsz | thaw => exact h.issue fun ht => .ite ht ht
  case callr => exact h.execCallr
  case yield => exact h.execYield
  case go => exact h.execGo
  case park => exact h.execPark
  case exit => exact h.execExit
  case loop | li | lui | bfi | vmskall | vseed | tfree | leaveRel | fmtw | brk | crd | halt | idle | b | bn | j | nop =>
    exact h.issue fun ht => ht
  case add | sub | and | or | xor | andn | shl | shr | sar | mul | mulh | mulhn | div | divn | rem | remn | min | max | minn | maxn | lea1
    | lea2 | lea4 | lea8 | bfx | bfxs => exact h.scalarRR
  case clz | ctz | popc => exact h.scalarR
  case addi | andi | ori | xori | shli | shri | sari => exact h.scalarRI
  case cmpEq | cmpNe | cmpLt | cmpGe | cmpLtn | cmpGen | cmpTst | cmpTstz => exact h.scalarCmp
  case cmpiEq | cmpiNe | cmpiLt | cmpiGe | cmpiLtn | cmpiGen => exact h.scalarCmpi
  case sel | seln => exact h.scalarSel
  case ldS8 | ldN8 | ldS16 | ldN16 | ldS32 | ldN32 | ldx => exact h.loadForm
  case stb | sth | stw | stx => exact h.storeForm
  case ldF | ldFe | stF | stEf => exact h.fullEmptyForm
  case amoAdd | amoAnd | amoOr | amoXor | amoMin | amoMax | amoMinn | amoMaxn | amoSwap | amoCas => exact h.atomicForm
  case waita => exact h.execWaita
  case cbInit | cbArr | cbExp => exact h.barrierForm
  case cbWait => exact h.execCbWait
  case cbTest => exact h.execCbTest
  case cpy => exact h.execCpy
  case ldxM | stxM => exact h.migratingForm
  case lnch => exact h.execLnch
  case task => exact h.execTask
  case spal => exact h.execSpal
  case spfree => exact h.execSpfree
  case vadd | vsub | vmul | vmin | vmax | vdiv | vlse => exact h.floatBin
  case vfma | vfms => exact h.floatAcc
  case vabs | vneg | vsqrt | vexp2 | vlog2 | vrcp | vrsqrt | vsin | vcos | vtanh | vexp => exact h.floatUn
  case viadd | visub | viadds | visubs | viaddn | visubn | vimul | vimulh | vimin | vimax | viminn | vimaxn | vshl | vshr | vsar =>
    exact h.intBin
  case vimac | vand | vor | vxor => exact h.lanewise
  case vsel | vshuf | vbcast | vrand | vmov => exact h.vissue fun h0 ht _ => finish ht h0
  case vcmpEq | vcmpNe | vcmpLt | vcmpLe | vcmpUn => exact h.floatCmp
  case vicmpEq | vicmpLt | vicmpLtn => exact h.intCmp
  case vmsk => exact h.vissue fun h0 ht _ => finish ht.onMe h0
  case vcvtBf | vcvtF8 | vcvtInt | vcvtFlt | vcvtMr => exact h.convertForm
  case vcvtKb8 | vcvtKb4 => exact h.blockForm
  case vcvtF32 => exact .ite h.convertForm h.convertForm
  case vnarrow | vnarrows => exact h.narrowForm
  case vmadd | vmsub | vmmul | vmmac | vmneg => exact h.modularForm
  case mqset => exact h.execMqset
  case bflyCt | bflyGs => exact h.butterfly
  case vbst | vrev => exact h.permute
  case vld => exact h.execVld
  case vst => exact h.execVst
  case strbind => exact h.execStrbind
  case strend => exact h.execStrend
  case vrsum | vrprod => exact h.reduceForm
  case vrmax | vrmin => exact h.withFree.reduceForm
  case ftile => exact h.execFtile
  case ftrel => exact h.execFtrel
  case vext => exact h.vissue fun h0 ht _ => finish ht.dst h0
  case tbind => exact h.execTbind
  case tzero | ckRd => exact h.onTile fun ht => ht
  case tfill => exact h.execTfill
  case tdrain => exact h.execTdrain
  case rowact | rowpre => exact h.rowForm
  case tld => exact h.execTld
  case bld => exact h.execBld
  case mma | mmaZ | mmaM => exact h.mmaForm
  case ckVer => exact h.execCkVer
  case ckFix => exact h.ckTile fun ht _ => ht
  case ckSig => exact h.execCkSig
  case ckVerg => exact h.execCkVerg
  case ckFixg | ckRdg => exact h.ckRegion fun ht _ _ => ht
  case ckSigg => exact h.execCkSigg
  case ttEnq => exact h.execTtEnq
  case leave => exact h.execLeave
  case lutld => exact h.execLutld
  case mmag | mmagZ => exact h.mmagForm
  case kvApp | kvFind | kvFree | rbSel | rbSeln | embRed | dpPlan => exact h.agentForm fun ht _ => ht
  case kvGath => exact h.execKvGath
  case rpt => exact h.execRpt
  case trap => exact h.execTrap
  case rte => exact h.execRte
  case settle => exact h.execSettle
  case cwr => exact h.execCwr
  case xrd => exact h.execXrd
  case xwr => exact h.execXwr
  case preempt => exact h.execPreempt
  case freeze => exact h.execFreeze
  case stinv => exact h.execStinv
  case kill => exact h.execKill
  case call => exact h.execCall
  case ret => exact h.execRet
  case wpf => exact h.execWpf
  case pand | por | pxor | pandn | pnot | pset | pclr => exact h.scalarPred
  case fenceAcq | fenceRel | fenceAr | fenceSc | wait => exact h.fenceForm
  case trapEntry => exact h.execTrapEntry
  case taskInboxAccept => exact h.inboxAccept.out
  case launchMessageForward => exact h.forwardLaunch.out
  case launchAcceptance => exact h.acceptLaunch.out
  case unfolding => exact h.unfold.out
  case placementPacket => exact h.placementPacket.out
  case roundRobinFallback => exact h.dispatch.out
  case migrationPacketArrival => exact h.migrationArrival.out
  case takeUp => exact h.takeUp.out
  case shadowRegisterLoad => exact h.loadShadow.out
  case strandControlBlockLoad => exact h.loadBlock.out
  case laneModulusReload => exact h.reloadAhead.out
  case quantumExpiry => exact h.expireQuantum.out
  case launchSweep => exact h.sweep.out
  case spatialPreemptionRequest => exact h.request.out
  case preemptSave => exact h.saveStrand.out
  case waitLimitExpiry => exact h.expireWait.out
  case parkWake => exact h.wakePark.out
  case load => exact h.doLoad.out
  case store => exact h.doStore.out
  case atomic => exact h.doAtomic.out
  case fullEmptyLoad | fullEmptyStore => exact h.doFullEmpty.out
  case parkedContinuation => exact h.doParked.out
  case copySegment => exact h.doSegment.out
  case gatherReduce => exact h.doReduce.out
  case kvTableOperation => exact h.doKv.out
  case scratchpadLoad => exact h.doSpadLoad.out
  case scratchpadStore => exact h.doSpadStore.out
  case barrierUpdate => exact h.doBarrier.out
  case waitOnAddress => exact h.doWait.out
  case unknownProcedure => exact h.doUnknown.out
  case reply => exact h.doReply.out
  case stationRequest => exact h.stationRequest.out
  case tableWalk => exact h.tableWalk.out
  case stationInvalidation => exact h.execStationInvalidation
  case vaultControllerPacket => exact h.doPacket.out
  case refresh => exact h.refresh.out
  case hotMode => exact h.hotMode.out
  case dramThermalThrottle => exact h.dramThrottle.out
  case lossOfMemory => exact h.lose.out
  case copyChunk => exact h.copyChunk.out
  case copyCompletion => exact h.copyComplete.out
  case mmaCompletion => exact h.completeMma.out
  case mmagPartial => exact h.acceptPartial.out
  case admission => exact h.admitNext.out
  case tileTaskCompletion => exact h.completeTask.out
  case auditReplay => exact h.finishReplay.out
  case controlInterval => exact h.controlInterval.out
  case boostInterval => exact h.boostInterval.out
  case refillPeriod => exact h.refillPermits.out
  case holdEnd => exact h.endHold.out
  case inRushSlot => exact h.inRush.out
  case railSwitch => exact h.onCluster.out
  case coreThrottle => exact h.coreThrottle.out
  case coreThrottleEconomy => exact h.coreEconomy.out
  case currThrottle => exact h.currThrottle.out
  case pcapThrottle => exact h.pcapThrottle.out
  case throttleClear => exact h.throttleClear.out
  case retention | gainCellRefresh | shortLivedLapse => exact h.onSlot.out
  case operandPrefetchCompletion => exact h.finishPrefetch.out
  case channelEntryArrival => exact h.channelArrival.out
  case streamPatternRead => exact h.patternRead.out
  case cpwrWake => exact h.wakeRequest.out
  case mlpost => exact h.hostStore.out
  case eicArm => exact h.arm.out
  case registerWrite => exact h.execRegisterWrite
  case readEventLog => exact h.readEventLog.out
  case attest => exact h.attest.out
  case stageFirmware => exact h.stageFirmware.out
  case setPowerCap => exact h.setPowerCap.out
  case restartCore => exact h.restartCore.out
  case resetDevice => exact h.resetDevice.out
  case mailboxRefusal => exact h.mailboxRefusal.out
  case hostWrite => exact h.hostWrite.out
  case hostRead => exact h.hostRead.out
  case medlarLinkLoss => exact h.medlarLoss.out
  case medlarRetrain => exact h.execMedlarRetrain
  case sloeRequest => exact h.sloeRequest.out
  case sloeLinkLoss => exact h.sloeLoss.out
  case sloeRetrain => exact h.execSloeRetrain
  case bringUp => exact h.bringUp.out
  case rstn => exact h.holdRstn.out
  case streamPatternWrite => exact h.patternWrite.out
  case gatherChunk => exact h.gatherChunk.out
  case flitReplay => exact h.flitReplay.out

theorem move {m} : Out.MemoryWf (s.move m) := by
  cases m with
  | issue n c j =>
    refine Out.MemoryWf.ite trivial ?_
    have hprepared := h.atIssue (n := n) (c := c) (j := j) |>.prepare
    split
    · exact hprepared
    · exact hprepared.exec
  | event n e => exact Out.MemoryWf.ite h.atEvent.exec trivial

theorem step : Out.MemoryWf (Machine.step s) := h.nextMove.move

end State.MemoryWf

/-- Settles O39: every operation that a step is made of keeps the form, since memory changes by `Memory.write`, by dropping listed
bytes and by nothing else. -/
theorem stepKeepsMemoryForm : Obligations.StepKeepsMemoryForm := by
  unfold Obligations.StepKeepsMemoryForm
  intro s t hs hstep
  have hout : Out.MemoryWf (step s) := hs.step
  rwa [hstep] at hout

end Sys2Proof.Machine
end

section
/-! # Take-up and the loads that follow it (O43)

The statement asks that no slot of the core is reserved for the eight indices below 8 only, while it speaks of take-up at every
index `j`. -/

namespace Sys2Proof.Machine
open Sys2Proof.Statements

/-- A ring entry with a strand of launch 0. -/
def strandEntry (sid : Nat) : RingEntry where
  pkt := { cont := { a := List.replicate 8 0, pc := 0, fl := 0, preds := 0, handle := 0, hops := 0, id := { lid := 0, sid := sid }, pend := none,
                     fresh := false },
           pid := 0, dst := 0, org := 0, bpri := 0, epri := 0, kind := 0, hint := false, hx := 0, hy := 0, rad := 0, lrec := 0, at_ := 0, slot := none,
           ahead := false, wrote := 0, park := none }
  since := 0
  w0 := 0
  pos := 0

/-- Strand 1 waits in the ring of core 0, and the index behind its eight slots is reserved to strand 0. -/
def ninthSlotReserved : State :=
  { State.reset with cores := [(0, { Core.reset with
      slots := [(8, { Slot.reset 0 8 with reserved := some { lid := 0, sid := 0 } })], ring := [strandEntry 1] })] }

/-- Nothing goes ahead of the only entry of a ring. -/
theorem only_entry_first (now n : Nat) (e f : RingEntry) (h : [e][n]? = some f) : ¬ ahead now f e ∧ (n < 0 → ahead now e f) := by
  cases n with
  | zero =>
    obtain rfl : e = f := Option.some.inj h
    exact ⟨by simp [ahead], fun hlt => absurd hlt (Nat.lt_irrefl 0)⟩
  | succ n => simp at h

/-- Refutes O43: at index 8, which the statement's `i < 8` leaves out, a reserved slot takes up its own strand alone, so that the strand
that waits in the ring is not taken up. (With `j < 8` alone the frame of the other cores still wants `c < 1024` and a place of the
ring below 4,096, or the record lies in another core's vault, whose open row the read changes.) -/
theorem not_takingUp : ¬ Obligations.TakingUp := by
  unfold Obligations.TakingUp
  intro h
  obtain ⟨takes, -⟩ := h 0 8 ninthSlotReserved
  obtain ⟨-, loads⟩ := takes rfl rfl rfl rfl rfl rfl (by decide)
  obtain ⟨running, -⟩ := loads 0 (strandEntry 1) rfl (fun n f => only_entry_first _ n _ f) (by unfold State.sound; decide)
  obtain ⟨t, ht, loaded, -⟩ := running rfl rfl
  have stays : exec (.takeUp 0 8) ninthSlotReserved = .next ninthSlotReserved := rfl
  obtain rfl : t = ninthSlotReserved := Host.Outcome.next.inj (ht.symm.trans stays)
  exact Option.some_ne_none _ loaded.strand.symm

end Sys2Proof.Machine
end

section
/-! # Unfolding, dispatch and placement (O46)

How the operations of a launch unit act on the launch, the fallback queue, the counters of R64 and a core's resources, and from them
what unfolding, the fallback and a placement packet do (R46, R47, R53, R54, R64). -/

namespace Sys2Proof.Machine
open Sys2Proof.Statements

/-! ## Launches by id -/

theorem rootOf_ofNat {c n : Nat} (hc : c < 1024) (hn : n < 64) : rootOf (BitVec.ofNat 16 (c * 64 + n)) = c := by
  simp only [rootOf, BitVec.toNat_ofNat]
  omega

theorem index_ofNat (c : Nat) {n : Nat} (hn : n < 64) : (BitVec.ofNat 16 (c * 64 + n)).toNat % 64 = n := by
  simp only [BitVec.toNat_ofNat]
  omega

/-- The first element that a test accepts, where the accepted ones are replaced by others that it accepts. -/
theorem find?_map_update {α : Type} {p : α → Bool} {f : α → α} (h : ∀ a, p (f a) = p a) (l : List α) :
    (l.map fun a => if p a then f a else a).find? p = (l.find? p).map f := by
  induction l with
  | nil => rfl
  | cons a l ih => by_cases ha : p a <;> simp [ha, h, ih]

/-- An update keeps every entry of the launch units. -/
def KeepsLaunches (f : Core → Core) : Prop := ∀ k, (f k).launches = k.launches

theorem State.launches_onCore {f : Core → Core} (h : KeepsLaunches f) (s : State) (c d : Nat) :
    ((s.onCore c f).coreAt d).launches = (s.coreAt d).launches := by
  by_cases hd : d = c
  · subst hd; rw [State.coreAt_onCore_self, h]
  · rw [s.coreAt_onCore_other hd]

theorem State.launchAt_onCore {f : Core → Core} (h : KeepsLaunches f) (s : State) (c : Nat) (lid : BitVec 16) :
    (s.onCore c f).launchAt lid = s.launchAt lid := by
  rw [State.launchAt, State.launches_onCore h, State.launchAt]

@[simp] theorem State.launchAt_onSlot (s : State) (c j : Nat) (f : Slot → Slot) (lid : BitVec 16) :
    (s.onSlot c j f).launchAt lid = s.launchAt lid :=
  State.launchAt_onCore (by intro _; rfl) s c lid

@[simp] theorem State.launchAt_countSent (s : State) (c : Nat) (i lid : BitVec 16) : (s.countSent c i).launchAt lid = s.launchAt lid :=
  State.launchAt_onCore (by intro k; beta_reduce; split <;> rfl) s c lid

/-- The launch that an update of it leaves. -/
theorem State.launchAt_onLaunch (s : State) (lid : BitVec 16) {f : Launch → Launch} (h : ∀ l, (f l).index = l.index) :
    (s.onLaunch lid f).launchAt lid = (s.launchAt lid).map f := by
  simp only [State.launchAt, State.onLaunch, State.coreAt_onCore_self]
  exact find?_map_update (fun l => by rw [h]) _

theorem State.launchAt_onUnfolded (s : State) (id : StrandId) (f : Unfolded → Unfolded) :
    (s.onUnfolded id f).launchAt id.lid =
      (s.launchAt id.lid).map fun l => { l with strands := l.strands.map fun u => if u.sid == id.sid then f u else u } :=
  s.launchAt_onLaunch id.lid fun _ => rfl

/-- An update of a launch changes the list of launches of its root, and nothing else of any core. -/
theorem State.coreAt_onLaunch (s : State) (lid : BitVec 16) (f : Launch → Launch) (c : Nat) :
    ∃ l, (s.onLaunch lid f).coreAt c = { s.coreAt c with launches := l } := by
  by_cases h : c = rootOf lid
  · subst h; exact ⟨_, s.coreAt_onCore_self _ _⟩
  · exact ⟨_, s.coreAt_onCore_other h _⟩

theorem mem_launches_of_byPrio {k : Core} {p : Launch → Bool} {l : Launch} (h : k.byPrio.find? p = some l) : l ∈ k.launches := by
  have hl := List.mem_of_find?_eq_some h
  simp only [Core.byPrio, List.mem_flatMap, List.mem_filter] at hl
  obtain ⟨_, _, ⟨hl, _⟩, _⟩ := hl
  exact hl

/-- A launch of a core's unit is the live launch of its id. -/
theorem State.launchAt_of_mem {s : State} {c : Nat} {l : Launch} (hl : l ∈ (s.coreAt c).launches)
    (hd : (s.coreAt c).launches.Pairwise fun a b => a.index ≠ b.index) (hc : c < 1024) (hi : l.index < 64) :
    s.launchAt (BitVec.ofNat 16 (c * 64 + l.index)) = some l := by
  rw [State.launchAt, rootOf_ofNat hc hi, index_ofNat c hi]
  generalize (s.coreAt c).launches = ls at hl hd
  induction ls with
  | nil => cases hl
  | cons a ls ih =>
    obtain ⟨ha, hd⟩ := List.pairwise_cons.1 hd
    rcases List.mem_cons.1 hl with rfl | hl
    · simp
    · rw [List.find?_cons_of_neg (by simpa using ha l hl), ih hl hd]

/-! ## Unfolding -/

theorem State.hintOf_none {l : Launch} {u : Unfolded} (h : l.mode ≠ 1 ∨ ∀ g ∈ l.groups, g.num ≠ u.lowest) (s : State) : s.hintOf l u = none := by
  rcases h with h | h
  · simp [State.hintOf, h]
  · have : l.groups.find? (fun g => g.num == u.lowest) = none := by simpa using h
    simp [State.hintOf, this]

theorem State.hintOf_some {s : State} {l : Launch} {u : Unfolded} {g : Group} (hm : l.mode = 1)
    (hg : l.groups.find? (fun g => g.num == u.lowest) = some g) (hv : (s.coreAt (32 * g.hy + g.hx)).vacated = false)
    (hw : (s.coreAt (32 * g.hy + g.hx)).vacating = false) : s.hintOf l u = some (32 * g.hy + g.hx) := by
  simp [State.hintOf, hm, hg, hv, hw]

/-- The packet of a strand carries its continuation at birth (R46). -/
theorem Launch.packet_born (l : Launch) (lid : BitVec 16) (u : Unfolded) (root dst : Nat) (slot hint : Option Nat) :
    Born l lid u.sid (l.packet lid u root dst slot hint).cont := by
  refine ⟨rfl, rfl, (BitVec.ofInt_natCast 48 _).symm, rfl, ?_, rfl, fun i => ?_⟩
  · simp [Launch.packet]
  · simp only [Launch.packet, List.getD_eq_getElem?_getD, List.getElem?_replicate]
    split <;> rfl

/-- The state in which the next strand of a launch has been born. -/
def State.born (s : State) (lid : BitVec 16) (l : Launch) : State :=
  (s.onLaunch lid fun m => { m with nextSid := l.nextSid + 1 }).onLaunch lid fun m => { m with strands := m.strands ++ [l.birth l.nextSid] }

theorem State.launchAt_born {s : State} {lid : BitVec 16} {l : Launch} (h : s.launchAt lid = some l) :
    (s.born lid l).launchAt lid = some { l with nextSid := l.nextSid + 1, strands := l.strands ++ [l.birth l.nextSid] } := by
  rw [State.born, State.launchAt_onLaunch _ _ (by intro l; rfl), State.launchAt_onLaunch _ _ (by intro l; rfl), h]
  rfl

theorem State.coreAt_born (s : State) (lid : BitVec 16) (l : Launch) (c : Nat) : ∃ x, (s.born lid l).coreAt c = { s.coreAt c with launches := x } := by
  obtain ⟨x, hx⟩ := (s.onLaunch lid fun m => { m with nextSid := l.nextSid + 1 }).coreAt_onLaunch lid
    (fun m => { m with strands := m.strands ++ [l.birth l.nextSid] }) c
  obtain ⟨y, hy⟩ := s.coreAt_onLaunch lid (fun m => { m with nextSid := l.nextSid + 1 }) c
  exact ⟨x, by rw [State.born, hx, hy]⟩

/-- Unfolding gives birth to the next strand of the first launch that has a place, which joins the queue where it has no hint. -/
theorem State.unfold_of_no_hint {s : State} {c : Nat} {l : Launch} (hl : (s.coreAt c).byPrio.find? (fun l => s.canUnfold l) = some l)
    (hc : l.cores = false) (hs : (s.coreAt c).spoilt = false)
    (hh : (s.born (BitVec.ofNat 16 (c * 64 + l.index)) l).hintOf l (l.birth l.nextSid) = none) :
    s.unfold c = (s.born (BitVec.ofNat 16 (c * 64 + l.index)) l).onLaunch (BitVec.ofNat 16 (c * 64 + l.index)) fun m =>
      { m with queue := joinQueue ((l.birth l.nextSid).lowest, l.nextSid) m.queue } := by
  rw [State.born] at hh ⊢
  simp [State.unfold, hs, hl, hc, hh]

/-- Unfolding sends the strand to its hint where it has one. -/
theorem State.unfold_of_hint {s : State} {c h : Nat} {l : Launch} (hl : (s.coreAt c).byPrio.find? (fun l => s.canUnfold l) = some l)
    (hc : l.cores = false) (hs : (s.coreAt c).spoilt = false)
    (hh : (s.born (BitVec.ofNat 16 (c * 64 + l.index)) l).hintOf l (l.birth l.nextSid) = some h) :
    s.unfold c = (s.born (BitVec.ofNat 16 (c * 64 + l.index)) l).emit c
      (l.packet (BitVec.ofNat 16 (c * 64 + l.index)) (l.birth l.nextSid) c h none (some h)) := by
  rw [State.born] at hh ⊢
  simp [State.unfold, hs, hl, hc, hh]

theorem unfold_to_queue {c : Nat} {l : Launch} {s : State} (hl : (s.coreAt c).byPrio.find? (fun l => s.canUnfold l) = some l)
    (hc : l.cores = false) (hs : (s.coreAt c).spoilt = false) (hd : (s.coreAt c).launches.Pairwise fun a b => a.index ≠ b.index)
    (hlt : c < 1024) (hi : l.index < 64) (hh : l.mode ≠ 1 ∨ ∀ g ∈ l.groups, g.num ≠ (l.birth l.nextSid).lowest) :
    let lid := BitVec.ofNat 16 (c * 64 + l.index)
    let u := l.birth l.nextSid
    (s.unfold c).packets = s.packets ∧ (s.unfold c).launchAt lid =
      some { l with nextSid := l.nextSid + 1, strands := l.strands ++ [u], queue := joinQueue (u.lowest, l.nextSid) l.queue } := by
  intro lid u
  have hat : s.launchAt lid = some l := State.launchAt_of_mem (mem_launches_of_byPrio hl) hd hlt hi
  rw [State.unfold_of_no_hint hl hc hs (State.hintOf_none hh _)]
  exact ⟨rfl, by rw [State.launchAt_onLaunch _ _ (by intro l; rfl), State.launchAt_born hat]; rfl⟩

theorem unfold_to_hint {c : Nat} {l : Launch} {s : State} {g : Group} (hl : (s.coreAt c).byPrio.find? (fun l => s.canUnfold l) = some l)
    (hc : l.cores = false) (hs : (s.coreAt c).spoilt = false) (hd : (s.coreAt c).launches.Pairwise fun a b => a.index ≠ b.index)
    (hlt : c < 1024) (hi : l.index < 64) (hm : l.mode = 1) (hg : l.groups.find? (fun g => g.num == (l.birth l.nextSid).lowest) = some g)
    (hv : (s.coreAt (32 * g.hy + g.hx)).vacated = false) (hw : (s.coreAt (32 * g.hy + g.hx)).vacating = false) :
    let lid := BitVec.ofNat 16 (c * 64 + l.index)
    let u := l.birth l.nextSid
    let h := 32 * g.hy + g.hx
    (s.unfold c).packets = s.packets ++ [l.packet lid u c h none (some h)] ∧
      (s.unfold c).launchAt lid = some { l with nextSid := l.nextSid + 1, strands := l.strands ++ [u] } := by
  intro lid u h
  have hat : s.launchAt lid = some l := State.launchAt_of_mem (mem_launches_of_byPrio hl) hd hlt hi
  obtain ⟨x, hx⟩ := s.coreAt_born lid l h
  rw [State.unfold_of_hint hl hc hs (State.hintOf_some hm hg (by rw [hx]; exact hv) (by rw [hx]; exact hw))]
  exact ⟨rfl, (State.launchAt_countSent _ _ _ _).trans (State.launchAt_born hat)⟩

/-! ## Where a strand fits (R54) -/

theorem lowestBelow_eq_some {n j : Nat} {p : Nat → Bool} : lowestBelow n p = some j ↔ j < n ∧ p j = true ∧ ∀ i, i < j → p i = false := by
  simp only [lowestBelow, List.find?_range_eq_some, List.mem_range, Bool.not_eq_true']
  tauto

theorem State.fitSlot_eq_some {s : State} {l : Launch} {c j : Nat} : s.fitSlot l c = some j ↔ FitsAt s l c j := by
  have hguard : (!l.allowed.contains c || (s.coreAt c).killed || decide ((s.coreAt c).freeBars.length < l.barn) ||
      decide (s.spmFree c < 256 * l.spmn)) = true ↔
      ¬ (c ∈ l.allowed ∧ (s.coreAt c).killed = false ∧ l.barn ≤ (s.coreAt c).freeBars.length ∧ 256 * l.spmn ≤ s.spmFree c) := by
    simp only [Bool.or_eq_true, Bool.not_eq_true', List.contains_eq_mem, decide_eq_true_eq, ← Bool.not_eq_true, ← not_le]
    tauto
  rw [State.fitSlot, FitsAt]
  split
  next h =>
    rw [hguard] at h
    exact ⟨fun hn => by simp at hn, fun hf => absurd ⟨hf.1, hf.2.1, hf.2.2.1, hf.2.2.2.1⟩ h⟩
  next h =>
    rw [hguard, not_not] at h
    rw [lowestBelow_eq_some]
    tauto

theorem State.fitSlot_eq_none {s : State} {l : Launch} {c : Nat} : s.fitSlot l c = none ↔ FitsNowhere s l c := by
  simp only [FitsNowhere, ← State.fitSlot_eq_some, Option.eq_none_iff_forall_ne_some, ne_eq]

/-- The order in which the fallback looks at the allowed cores of a launch (R54). -/
def Launch.scan (l : Launch) : List Nat :=
  match l.last with
  | none => l.allowed
  | some e => l.allowed.filter (fun x => e < x) ++ l.allowed.filter fun x => x ≤ e

theorem State.fallbackCore_eq {s : State} {l : Launch} {d j : Nat} {before after : List Nat} (hscan : l.scan = before ++ d :: after)
    (hb : ∀ e ∈ before, FitsNowhere s l e) (hd : FitsAt s l d j) : s.fallbackCore l = some (d, j) := by
  have hfit : s.fitSlot l d = some j := State.fitSlot_eq_some.2 hd
  have hfind : l.scan.find? (fun c => (s.fitSlot l c).isSome) = some d := by
    rw [hscan, List.find?_append, List.find?_eq_none.2 (fun e he => by simp [State.fitSlot_eq_none.2 (hb e he)])]
    simp [hfit]
  have hdef : s.fallbackCore l = (l.scan.find? fun c => (s.fitSlot l c).isSome).bind fun c => (s.fitSlot l c).map fun j => (c, j) := rfl
  rw [hdef, hfind]
  simp [hfit]

/-! ## Reservation and dispatch -/

/-- What the reservation of a strand leaves at its root. -/
def Unfolded.placed (u : Unfolded) (l : Launch) (c j : Nat) (bars : List Nat) : Unfolded :=
  { u with home := some c, left := 256 * l.spmn, bars := bars, slot := some j }

theorem State.launchAt_reserve (s : State) (l : Launch) (id : StrandId) (c j : Nat) :
    (s.reserve l id c j).launchAt id.lid = (s.launchAt id.lid).map fun m => { m with
      strands := m.strands.map fun u => if u.sid == id.sid then u.placed l c j ((s.coreAt c).freeBars.take l.barn) else u } := by
  rw [State.reserve, State.launchAt_onUnfolded, State.launchAt_onCore (by intro _; rfl)]
  rfl

/-- A reservation takes as many barrier slots as the launch asks for, where the core has them. -/
theorem State.bars_reserve {s : State} {l : Launch} {c : Nat} (h : l.barn ≤ (s.coreAt c).freeBars.length) (id : StrandId) (j : Nat) :
    ((s.reserve l id c j).coreAt c).bars.length = (s.coreAt c).bars.length + l.barn := by
  obtain ⟨x, hx⟩ := (s.onCore c fun k => { k with bars := k.bars ++ ((s.coreAt c).freeBars.take l.barn).map fun b => (b, id) }).coreAt_onLaunch
    id.lid (fun m => { m with strands := m.strands.map fun u =>
      if u.sid == id.sid then u.placed l c j ((s.coreAt c).freeBars.take l.barn) else u }) c
  have : (s.reserve l id c j).coreAt c = _ := hx
  simp [this, h]

/-- The state in which a strand has its place, slot `j` of core `d`, reserved and its packet on the way there (R54). -/
def State.claim (s : State) (l : Launch) (id : StrandId) (d j : Nat) : State :=
  (s.reserve l id d j).onSlot d j fun v => { v with inbound := some id }

theorem State.clusterAt_claim (s : State) (l : Launch) (id : StrandId) (d j g : Nat) : (s.claim l id d j).clusterAt g = s.clusterAt g := rfl

@[simp] theorem State.packets_claim (s : State) (l : Launch) (id : StrandId) (d j : Nat) : (s.claim l id d j).packets = s.packets := rfl

/-- The state in which the head of a queue has its place. -/
def State.dispatched (s : State) (l : Launch) (id : StrandId) (r : List (Nat × Nat)) (d j : Nat) : State :=
  (s.onLaunch id.lid fun m => { m with queue := r, last := some d }).claim l id d j

section
variable {s : State} {l : Launch} {id : StrandId} {r : List (Nat × Nat)} {d j : Nat}

theorem State.launchAt_dispatched (h : s.launchAt id.lid = some l) :
    ∃ bars, (s.dispatched l id r d j).launchAt id.lid = some { l with
      queue := r, last := some d, strands := l.strands.map fun u => if u.sid == id.sid then u.placed l d j bars else u } := by
  refine ⟨((s.onLaunch id.lid fun m => { m with queue := r, last := some d }).coreAt d).freeBars.take l.barn, ?_⟩
  rw [State.dispatched, State.claim, State.launchAt_onSlot, State.launchAt_reserve, State.launchAt_onLaunch _ _ (by intro l; rfl), h]
  rfl

theorem State.unfoldedAt_dispatched {u : Unfolded} (h : s.launchAt id.lid = some l) (hu : l.strands.find? (fun u => u.sid == id.sid) = some u) :
    ∃ bars, (s.dispatched l id r d j).unfoldedAt id = some (u.placed l d j bars) := by
  obtain ⟨bars, hat⟩ := State.launchAt_dispatched (r := r) (d := d) (j := j) h
  refine ⟨bars, ?_⟩
  rw [State.unfoldedAt, hat, Option.bind_some]
  exact (find?_map_update (f := fun u => u.placed l d j bars) (fun _ => rfl) l.strands).trans (by rw [hu, Option.map_some])

@[simp] theorem State.packets_dispatched : (s.dispatched l id r d j).packets = s.packets := rfl

@[simp] theorem State.mem_dispatched : (s.dispatched l id r d j).mem = s.mem := rfl

theorem State.inbound_dispatched : ((s.dispatched l id r d j).slotAt d j).inbound = some id := by
  rw [State.dispatched, State.claim, State.slotAt_onSlot_self]

theorem State.bars_dispatched (h : l.barn ≤ (s.coreAt d).freeBars.length) :
    ((s.dispatched l id r d j).coreAt d).bars.length = (s.coreAt d).bars.length + l.barn := by
  obtain ⟨ls, hcore⟩ := s.coreAt_onLaunch id.lid (fun m => { m with queue := r, last := some d }) d
  have hreserve := State.bars_reserve (s := s.onLaunch id.lid fun m => { m with queue := r, last := some d }) (l := l) (c := d)
    (by rw [hcore]; exact h) id j
  rw [hcore] at hreserve
  rw [State.dispatched, State.claim, State.onSlot, State.coreAt_putSlot_self]
  exact hreserve

/-- The fallback sends the head of the first queue that has a place, its place reserved at once. -/
theorem State.dispatch_eq {c g : Nat} {u : Unfolded}
    (hl : (s.coreAt c).byPrio.find? (fun l => !l.queue.isEmpty && (s.fallbackCore l).isSome) = some l) (hq : l.queue = (g, id.sid) :: r)
    (hf : s.fallbackCore l = some (d, j)) (hid : id.lid = BitVec.ofNat 16 (c * 64 + l.index))
    (hu : (s.dispatched l id r d j).unfoldedAt id = some u) :
    s.dispatch c = (s.dispatched l id r d j).emit c (l.packet id.lid u c d (some j) none) := by
  obtain ⟨lid, sid⟩ := id
  subst hid
  rw [State.dispatched, State.claim] at hu ⊢
  unfold State.dispatch
  rw [hl]
  simp only [hq, hf, hu]

end

/-- Counting a message changes the counters of a core, and nothing else of any core. -/
theorem State.coreAt_countSent (s : State) (c : Nat) (i : BitVec 16) (d : Nat) : ∃ t, (s.countSent c i).coreAt d = { s.coreAt d with traffic := t } := by
  by_cases h : d = c
  · subst h
    rw [State.countSent, State.coreAt_onCore_self]
    split <;> exact ⟨_, rfl⟩
  · exact ⟨_, s.coreAt_onCore_other h _⟩

theorem State.coreAt_countRecv (s : State) (c : Nat) (i : BitVec 16) (d : Nat) : ∃ t, (s.countRecv c i).coreAt d = { s.coreAt d with traffic := t } := by
  by_cases h : d = c
  · subst h
    rw [State.countRecv, State.coreAt_onCore_self]
    split <;> exact ⟨_, rfl⟩
  · exact ⟨_, s.coreAt_onCore_other h _⟩

@[simp] theorem State.packets_emit (s : State) (c : Nat) (p : Packet) : (s.emit c p).packets = s.packets ++ [p] := rfl

@[simp] theorem State.mem_emit (s : State) (c : Nat) (p : Packet) : (s.emit c p).mem = s.mem := rfl

@[simp] theorem State.launchAt_emit (s : State) (c : Nat) (p : Packet) (lid : BitVec 16) : (s.emit c p).launchAt lid = s.launchAt lid :=
  State.launchAt_countSent { s with packets := s.packets ++ [p] } c p.cont.id.lid lid

/-- A packet that leaves a root changes no core but for its counters. -/
theorem State.coreAt_emit (s : State) (c : Nat) (p : Packet) (d : Nat) : ∃ t, (s.emit c p).coreAt d = { s.coreAt d with traffic := t } :=
  State.coreAt_countSent { s with packets := s.packets ++ [p] } c p.cont.id.lid d

theorem dispatch_first_that_fits {c d j g sid : Nat} {r : List (Nat × Nat)} {l : Launch} {s : State} {before after : List Nat} {u : Unfolded}
    (hl : (s.coreAt c).byPrio.find? (fun l => !l.queue.isEmpty && (s.fallbackCore l).isSome) = some l) (hq : l.queue = (g, sid) :: r)
    (hscan : l.scan = before ++ d :: after) (hb : ∀ e ∈ before, FitsNowhere s l e) (hfit : FitsAt s l d j)
    (hd : (s.coreAt c).launches.Pairwise fun a b => a.index ≠ b.index) (hc : c < 1024) (hi : l.index < 64)
    (hu : l.strands.find? (fun u => u.sid == sid) = some u) :
    let lid := BitVec.ofNat 16 (c * 64 + l.index)
    ∃ p, (s.dispatch c).packets = s.packets ++ [p] ∧ Born l lid sid p.cont ∧ p.dst = d ∧
      p.slot = some j ∧ p.hint = false ∧ p.kind = 2 ∧ ((s.dispatch c).slotAt d j).inbound = some { lid := lid, sid := sid } ∧
      (∃ m, (s.dispatch c).launchAt lid = some m ∧ m.queue = r ∧ m.last = some d) ∧
      (s.dispatch c).homeOf { lid := lid, sid := sid } = some d ∧
      ((s.dispatch c).coreAt d).bars.length = (s.coreAt d).bars.length + l.barn ∧ (s.dispatch c).mem = s.mem := by
  intro lid
  let id : StrandId := { lid := lid, sid := sid }
  have hat : s.launchAt id.lid = some l := State.launchAt_of_mem (mem_launches_of_byPrio hl) hd hc hi
  have hsid : u.sid = sid := by simpa using List.find?_some hu
  obtain ⟨bars, hatx⟩ := State.launchAt_dispatched (r := r) (d := d) (j := j) hat
  obtain ⟨bars', hux⟩ := State.unfoldedAt_dispatched (r := r) (d := d) (j := j) hat hu
  have hborn := l.packet_born lid (u.placed l d j bars') c d (some j) none
  rw [State.dispatch_eq hl hq (State.fallbackCore_eq hscan hb hfit) rfl hux]
  obtain ⟨tr, hemit⟩ := (s.dispatched l id r d j).coreAt_emit c (l.packet lid (u.placed l d j bars') c d (some j) none) d
  refine ⟨l.packet id.lid (u.placed l d j bars') c d (some j) none, by simp, hsid ▸ hborn, rfl, rfl, rfl, rfl, ?_,
    ⟨_, (State.launchAt_emit _ _ _ _).trans hatx, rfl, rfl⟩, ?_, ?_, by simp⟩
  · rw [State.slotAt, hemit]
    exact State.inbound_dispatched
  · rw [State.homeOf, State.unfoldedAt, State.launchAt_emit, ← State.unfoldedAt, hux]
    rfl
  · rw [hemit]
    exact State.bars_dispatched hfit.2.2.1

/-! ## Counters along a route (R64) -/

/-- The counters of a core after a message of a launch: its entry is changed, or a new one is listed. -/
def counted (i : BitVec 16) (f : Traffic → Traffic) (new : Traffic) (l : List Traffic) : List Traffic :=
  if l.any (·.lid == i) then l.map fun t => if t.lid == i then f t else t else l ++ [new]

theorem traffic_countRecv (s : State) (c : Nat) (i : BitVec 16) : ((s.countRecv c i).coreAt c).traffic =
    counted i (fun t => { t with recv := t.recv + 1 }) { lid := i, sent := 0, recv := 1 } (s.coreAt c).traffic := by
  rw [State.countRecv, State.coreAt_onCore_self, counted]
  split <;> rfl

theorem traffic_countSent (s : State) (c : Nat) (i : BitVec 16) : ((s.countSent c i).coreAt c).traffic =
    counted i (fun t => { t with sent := t.sent + 1 }) { lid := i, sent := 1, recv := 0 } (s.coreAt c).traffic := by
  rw [State.countSent, State.coreAt_onCore_self, counted]
  split <;> rfl

/-- The entry of a launch among the counters is changed or new, and every other one as before. -/
theorem find?_counted {i : BitVec 16} {f : Traffic → Traffic} {new : Traffic} (hf : ∀ t, (f t).lid = t.lid) (hn : new.lid = i)
    (l : List Traffic) (lid : BitVec 16) : (counted i f new l).find? (·.lid == lid) =
      if lid = i then some ((l.find? (·.lid == lid)).elim new f) else l.find? (·.lid == lid) := by
  subst hn
  have hkey : ((fun t : Traffic => t.lid == lid) ∘ fun t => if t.lid == new.lid then f t else t) = fun t => t.lid == lid := by
    funext t
    simp only [Function.comp]
    split <;> simp [hf]
  have hfound (t : Traffic) (ht : l.find? (·.lid == lid) = some t) : t.lid = lid := by simpa using List.find?_some ht
  rw [counted]
  split
  next hany =>
    rw [List.find?_map, hkey]
    cases hl : l.find? (·.lid == lid) with
    | none =>
      have : lid ≠ new.lid := by
        rintro rfl
        simp only [List.find?_eq_none, List.any_eq_true] at hl hany
        obtain ⟨t, ht, htl⟩ := hany
        exact hl t ht htl
      simp [this]
    | some t => by_cases hi : lid = new.lid <;> simp [hfound t hl, hi]
  next hany =>
    rw [List.find?_append]
    by_cases hi : lid = new.lid
    · subst hi
      have : l.find? (·.lid == new.lid) = none := by simpa using hany
      simp [this]
    · simp [hi, Ne.symm hi]

/-- The counters of a launch after a message of launch `i` that core `c` receives. -/
theorem tally_countRecv (s : State) (c d : Nat) (i lid : BitVec 16) :
    tally (s.countRecv c i) d lid = if d = c ∧ lid = i then ((tally s d lid).1, (tally s d lid).2 + 1) else tally s d lid := by
  by_cases hd : d = c
  · subst hd
    rw [tally, traffic_countRecv, find?_counted (by intro t; rfl) (by rfl), tally]
    by_cases hi : lid = i
    · subst hi
      cases (s.coreAt d).traffic.find? (·.lid == lid) <;> simp
    · simp [hi]
  · have : (s.countRecv c i).coreAt d = s.coreAt d := s.coreAt_onCore_other hd _
    simp [tally, this, hd]

theorem tally_countSent (s : State) (c d : Nat) (i lid : BitVec 16) :
    tally (s.countSent c i) d lid = if d = c ∧ lid = i then ((tally s d lid).1 + 1, (tally s d lid).2) else tally s d lid := by
  by_cases hd : d = c
  · subst hd
    rw [tally, traffic_countSent, find?_counted (by intro t; rfl) (by rfl), tally]
    by_cases hi : lid = i
    · subst hi
      cases (s.coreAt d).traffic.find? (·.lid == lid) <;> simp
    · simp [hi]
  · have : (s.countSent c i).coreAt d = s.coreAt d := s.coreAt_onCore_other hd _
    simp [tally, this, hd]

/-- A core that a packet passes counts it as received and sent, but for a killed one. -/
def State.passCore (s : State) (c : Nat) (lid : BitVec 16) : State :=
  if (s.coreAt c).killed then s else (s.countRecv c lid).countSent c lid

theorem State.killed_passCore (s : State) (c d : Nat) (lid : BitVec 16) : ((s.passCore c lid).coreAt d).killed = (s.coreAt d).killed := by
  rw [State.passCore]
  split
  · rfl
  · obtain ⟨t, ht⟩ := (s.countRecv c lid).coreAt_countSent c lid d
    obtain ⟨r, hr⟩ := s.coreAt_countRecv c lid d
    rw [ht, hr]

theorem tally_passCore (s : State) (c d : Nat) (i lid : BitVec 16) : tally (s.passCore c i) d lid =
    if d = c ∧ (s.coreAt d).killed = false ∧ lid = i then ((tally s d lid).1 + 1, (tally s d lid).2 + 1) else tally s d lid := by
  rw [State.passCore]
  split
  next hk => rw [if_neg]; rintro ⟨rfl, hn, -⟩; simp [hk] at hn
  next hk =>
    rw [tally_countSent, tally_countRecv]
    by_cases hd : d = c ∧ lid = i
    · obtain ⟨rfl, rfl⟩ := hd
      simp [hk]
    · have : ¬ (d = c ∧ (s.coreAt d).killed = false ∧ lid = i) := fun h => hd ⟨h.1, h.2.2⟩
      simp [hd, this]

/-- Each core of a route counts a packet that passes it once. -/
theorem tally_passCores {l : List Nat} (hl : l.Nodup) (s : State) (d : Nat) (i lid : BitVec 16) :
    tally (l.foldl (fun s c => s.passCore c i) s) d lid =
      if d ∈ l ∧ (s.coreAt d).killed = false ∧ lid = i then ((tally s d lid).1 + 1, (tally s d lid).2 + 1) else tally s d lid := by
  induction l generalizing s with
  | nil => simp
  | cons c l ih =>
    obtain ⟨hc, hl⟩ := List.nodup_cons.1 hl
    rw [List.foldl_cons, ih hl, State.killed_passCore, tally_passCore]
    by_cases hd : d = c
    · subst hd
      simp [hc]
    · simp [hd]

/-- The counters are all that a packet that passes cores changes. -/
theorem State.passCores_device (l : List Nat) (s : State) (i : BitVec 16) :
    l.foldl (fun s c => s.passCore c i) s = { s with cores := (l.foldl (fun s c => s.passCore c i) s).cores } := by
  induction l generalizing s with
  | nil => rfl
  | cons c l ih =>
    have hstep : s.passCore c i = { s with cores := (s.passCore c i).cores } := by
      rw [State.passCore]
      split <;> rfl
    rw [List.foldl_cons, ih, hstep]

/-- The coordinates from one to another, both included, as a route takes them (R28). -/
def axisPath (a b : Nat) : List Nat :=
  let l := (List.range (max a b - min a b + 1)).map (min a b + ·)
  if a ≤ b then l else l.reverse

theorem axisPath_nodup (a b : Nat) : (axisPath a b).Nodup := by
  have h : ((List.range (max a b - min a b + 1)).map (min a b + ·)).Nodup :=
    List.nodup_range.map (fun x y hxy => Nat.add_left_cancel hxy)
  rw [axisPath]
  split
  · exact h
  · exact List.nodup_reverse.2 h

theorem le_of_mem_axisPath {a b x : Nat} (h : x ∈ axisPath a b) : x ≤ max a b := by
  have h : x ∈ (List.range (max a b - min a b + 1)).map (min a b + ·) := by
    rw [axisPath] at h
    split at h
    · exact h
    · exact List.mem_reverse.1 h
  simp only [List.mem_map, List.mem_range] at h
  omega

theorem axisPath_head (a b : Nat) : ∃ l, axisPath a b = a :: l := by
  rw [axisPath]
  split
  next h => exact ⟨_, by rw [List.range_succ_eq_map, List.map_cons, Nat.min_eq_left h, Nat.add_zero]⟩
  next h =>
    have hlast : min a b + (max a b - min a b) = a := by omega
    exact ⟨_, by rw [List.range_succ, List.map_append, List.reverse_append, List.map_singleton, hlast]; rfl⟩

theorem route_eq (a b : Nat) : route a b =
    (axisPath (colOf a) (colOf b)).map (fun x => 32 * rowOf a + x) ++ ((axisPath (rowOf a) (rowOf b)).drop 1).map fun y => 32 * y + colOf b := by
  simp only [route, axisPath, decide_eq_true_eq]

/-- No core is on a route twice (R28). -/
theorem route_nodup (a b : Nat) : (route a b).Nodup := by
  obtain ⟨rows, hrows⟩ := axisPath_head (rowOf a) (rowOf b)
  have hn : (rowOf a :: rows).Nodup := hrows ▸ axisPath_nodup (rowOf a) (rowOf b)
  obtain ⟨hfirst, hn⟩ := List.nodup_cons.1 hn
  have hcol (c : Nat) : colOf c < 32 := Nat.mod_lt _ (by decide)
  rw [route_eq, hrows, List.drop_one, List.tail_cons, List.nodup_append]
  refine ⟨(axisPath_nodup _ _).map fun x y hxy => Nat.add_left_cancel hxy, hn.map fun x y hxy => ?_, ?_⟩
  · have : 32 * x + colOf b = 32 * y + colOf b := hxy
    omega
  · intro x hx y hy hxy
    obtain ⟨i, hi, rfl⟩ := List.mem_map.1 hx
    obtain ⟨r, hr, rfl⟩ := List.mem_map.1 hy
    have hi := le_of_mem_axisPath hi
    have ha := hcol a
    have hb := hcol b
    have : r = rowOf a := by omega
    exact hfirst (this ▸ hr)

/-! ## Packets at their cores (R54) -/

@[simp] theorem State.wakeRequest_cores (s : State) (g : Nat) : (s.wakeRequest g).cores = s.cores := by
  rw [State.wakeRequest]; split <;> rfl

@[simp] theorem State.wakeRequest_packets (s : State) (g : Nat) : (s.wakeRequest g).packets = s.packets := by
  rw [State.wakeRequest]; split <;> rfl

@[simp] theorem State.wakeRequest_mem (s : State) (g : Nat) : (s.wakeRequest g).mem = s.mem := by
  rw [State.wakeRequest]; split <;> rfl

/-- A cluster that runs needs no wake request. -/
theorem State.wakeRequest_of_isUp {s : State} {g : Nat} (h : (s.clusterAt g).isUp = true) : s.wakeRequest g = s := by
  have hp : (s.clusterAt g).power = .up := by
    simp only [Cluster.isUp, Bool.and_eq_true, beq_iff_eq] at h
    exact h.1
  rw [State.wakeRequest]; simp [hp]

/-- A wake request brings no cluster up at once. -/
theorem State.isUp_wakeRequest (s : State) (g : Nat) : ((s.wakeRequest g).clusterAt g).isUp = (s.clusterAt g).isUp := by
  rw [State.wakeRequest]
  split
  next hp => rw [State.clusterAt_onCluster_self, Cluster.isUp, Cluster.isUp, hp]; rfl
  next hp =>
    have : (s.onCluster g fun c => { c with power := .queued }).clusterAt g = { s.clusterAt g with power := .queued } :=
      State.clusterAt_onCluster_self _ _ _
    exact (congrArg Cluster.isUp this).trans (by rw [Cluster.isUp, Cluster.isUp, hp]; rfl)
  next => rfl

theorem State.wakeRequest_gated {s : State} {g : Nat} (h : (s.clusterAt g).power = .gated) : ((s.wakeRequest g).clusterAt g).power = .queued := by
  have : (s.wakeRequest g).clusterAt g = (s.onCluster g fun c => { c with power := .queued }).clusterAt g := by
    rw [State.wakeRequest, h]; rfl
  rw [this, State.clusterAt_onCluster_self]

/-- A packet that has a slot at a core runs there, or waits with its slot until the core's cluster is up. -/
theorem State.settlePacket_up {s : State} {c : Nat} (h : (s.clusterAt (clusterOf c)).isUp = true) (k j : Nat) (p : Packet) :
    s.settlePacket k c j p = (landed s k).place c j p := by
  rw [State.settlePacket, State.wakeRequest_of_isUp h]
  simp only [h, if_true]
  rfl

theorem State.settlePacket_down {s : State} {c : Nat} (h : (s.clusterAt (clusterOf c)).isUp = false) (k j : Nat) (p : Packet) :
    s.settlePacket k c j p = { s.wakeRequest (clusterOf c) with packets := s.packets.set k { p with hint := false, slot := some j, dst := c } } := by
  simp [State.settlePacket, State.isUp_wakeRequest, h]

/-- A dispatched packet at a core that holds its place is settled in its slot. -/
theorem State.settleAt_held {s : State} {p : Packet} {j : Nat} (hk : (s.coreAt p.dst).killed = false)
    (hv : (s.coreAt p.dst).vacating = false) (hw : (s.coreAt p.dst).vacated = false)
    (hslot : (s.slotAt p.dst j).inbound = some p.cont.id ∨ (s.slotAt p.dst j).reserved = some p.cont.id) (k : Nat) :
    s.settleAt k p j = s.settlePacket k p.dst j p := by
  have hheld : ((s.slotAt p.dst j).reserved != some p.cont.id && (s.slotAt p.dst j).inbound != some p.cont.id) = false := by
    rcases hslot with h | h <;> simp [h]
  simp [State.settleAt, hk, hv, hw, hheld]

/-- The core after one on the route of a walk. -/
theorem nextOn_eq {a b c d : Nat} {before after : List Nat} (h : route a b = before ++ c :: d :: after) (hc : c ∉ before) :
    nextOn a b c = some d := by
  have hdrop : (before ++ c :: d :: after).dropWhile (· != c) = c :: d :: after := by
    rw [List.dropWhile_append_of_pos (by simpa using fun x hx => fun (hxc : x = c) => hc (hxc ▸ hx))]
    simp
  rw [nextOn, h, hdrop]

section
variable {s : State} {k : Nat} {p : Packet} {l : Launch}

/-- A walking packet takes a slot of a core that fits within its radius. -/
theorem State.walkStep_taken {j : Nat} (hl : s.launchAt p.cont.id.lid = some l) (hd : distance p.at_ (32 * p.hy + p.hx) ≤ p.rad)
    (hfit : FitsAt s l p.at_ j) :
    s.walkStep k p = (s.claim l p.cont.id p.at_ j).settlePacket k p.at_ j p := by
  have hfit : s.fitSlot l p.at_ = some j := State.fitSlot_eq_some.2 hfit
  simp [State.walkStep, State.claim, hl, hd, hfit]

/-- A walking packet goes on from a core that it does not take. -/
theorem State.walkStep_passed {d : Nat} (hl : s.launchAt p.cont.id.lid = some l)
    (hno : p.rad < distance p.at_ (32 * p.hy + p.hx) ∨ FitsNowhere s l p.at_) (hn : nextOn p.org (32 * p.hy + p.hx) p.at_ = some d) :
    (s.walkStep k p).packets = s.packets.set k { p with at_ := d } ∧ (s.walkStep k p).mem = s.mem := by
  have hnone : (if distance p.at_ (32 * p.hy + p.hx) ≤ p.rad then s.fitSlot l p.at_ else none) = none := by
    rcases hno with h | h
    · rw [if_neg (by omega)]
    · rw [State.fitSlot_eq_none.2 h, ite_self]
  simp only [State.walkStep, hl, hnone, hn]
  split <;> exact ⟨rfl, rfl⟩

end

/-- A packet with a hint that is one of the mesh walks, and one with a slot lands. -/
theorem State.placementPacket_hint {s : State} {k : Nat} {p : Packet} (h : s.packets[k]? = some p) (hh : p.hint = true) :
    s.placementPacket k = s.walkStep k p := by
  simp [State.placementPacket, h, hh]

theorem State.placementPacket_slot {s : State} {k j : Nat} {p : Packet} (h : s.packets[k]? = some p) (hh : p.hint = false) (hs : p.slot = some j) :
    s.placementPacket k = s.landPacket k p j := by
  simp [State.placementPacket, h, hh, hs]

/-- The cores between a packet and its own have counted it. -/
theorem placement_passes {s : State} {k j : Nat} {p : Packet} (h : s.packets[k]? = some p) (hh : p.hint = false) (hs : p.slot = some j)
    (hat : p.at_ ≠ p.dst) : let on := ((route p.at_ p.dst).drop 1).dropLast
    ∃ u : State, s.placementPacket k = u.placementPacket k ∧ u = { s with cores := u.cores, packets := s.packets.set k { p with at_ := p.dst } } ∧
      ∀ d lid, tally u d lid = if d ∈ on ∧ (s.coreAt d).killed = false ∧ lid = p.cont.id.lid then
        ((tally s d lid).1 + 1, (tally s d lid).2 + 1) else tally s d lid := by
  intro on
  let y := s.passThrough p.at_ p.dst p.cont.id.lid
  have hy : y = { s with cores := y.cores } := State.passCores_device _ s _
  have hnodup : on.Nodup := ((route_nodup _ _).sublist (List.drop_sublist 1 _)).sublist (List.dropLast_sublist _)
  have hget : (s.packets.set k { p with at_ := p.dst })[k]? = some { p with at_ := p.dst } := by
    rw [List.getElem?_set_self (List.getElem?_eq_some_iff.1 h).1]
  refine ⟨{ y with packets := s.packets.set k { p with at_ := p.dst } }, ?_, ?_, fun d lid => tally_passCores hnodup s d _ lid⟩
  · rw [State.placementPacket_slot h hh hs, State.placementPacket_slot (p := { p with at_ := p.dst }) hget hh hs, State.landPacket,
      State.landPacket, if_neg hat, if_pos rfl]
  · rw [hy]

theorem placement_settles {s : State} {k j : Nat} {p : Packet} (h : s.packets[k]? = some p) (hh : p.hint = false) (hs : p.slot = some j)
    (hat : p.at_ = p.dst) (hslot : (s.slotAt p.dst j).inbound = some p.cont.id ∨ (s.slotAt p.dst j).reserved = some p.cont.id)
    (hk : (s.coreAt p.dst).killed = false) (hv : (s.coreAt p.dst).vacating = false) (hw : (s.coreAt p.dst).vacated = false) :
    s.placementPacket k = s.settlePacket k p.dst j p := by
  rw [State.placementPacket_slot h hh hs, State.landPacket, if_pos hat, State.settleAt_held hk hv hw hslot]

/-- Settles O46: unfolding and the fallback by what their launch and packet are afterwards, a placement packet by the core it has come to. -/
theorem unfoldingAndPlacement : Obligations.UnfoldingAndPlacement := by
  unfold Obligations.UnfoldingAndPlacement
  refine ⟨fun c l s hl hcores hspoilt hd hc hi => ⟨fun hno => ?_, fun hm g hg hv hw => ?_⟩, ?_, fun k p s hp => ⟨?_, ?_, ?_⟩⟩
  · exact ⟨_, exec_unfolding, unfold_to_queue hl hcores hspoilt hd hc hi hno⟩
  · obtain ⟨hpackets, hat⟩ := unfold_to_hint hl hcores hspoilt hd hc hi hm hg hv hw
    exact ⟨_, _, exec_unfolding, hpackets, Launch.packet_born _ _ _ _ _ _ _, rfl, rfl, rfl, rfl, rfl, rfl, rfl, rfl, rfl, hat⟩
  · intro c d j g sid r l s hl hq scan before after hscan hb hfit lid hd hc hi u hu
    obtain ⟨p, h⟩ := dispatch_first_that_fits hl hq hscan hb hfit hd hc hi hu
    exact ⟨_, p, exec_roundRobinFallback, h⟩
  · intro hh j hs hat
    obtain ⟨u, heq, h⟩ := placement_passes hp hh hs hat
    exact ⟨u, congrArg Host.Outcome.next heq, h⟩
  · intro hh j hs hat hslot hk hv hw
    have heq := placement_settles hp hh hs hat hslot hk hv hw
    split
    next hup => exact congrArg Host.Outcome.next (heq.trans (State.settlePacket_up hup k j p))
    next hdown =>
      have hset : { p with hint := false, slot := some j, dst := p.dst } = p := by rw [← hh, ← hs]
      rw [State.settlePacket_down (Bool.not_eq_true _ ▸ hdown), hset] at heq
      exact ⟨_, congrArg Host.Outcome.next heq, rfl, State.wakeRequest_cores s _, State.wakeRequest_mem s _, State.wakeRequest_gated⟩
  · intro hh l hat
    have heq := State.placementPacket_hint hp hh
    refine ⟨fun j hd hfit => ?_, fun hno a b d hroute ha => ?_⟩
    · have hwalk := heq.trans (State.walkStep_taken hat hd hfit)
      have hcluster := s.clusterAt_claim l p.cont.id p.at_ j (clusterOf p.at_)
      intro r
      split
      next hup =>
        rw [State.settlePacket_up (by rw [hcluster]; exact hup)] at hwalk
        exact congrArg Host.Outcome.next hwalk
      next hdown =>
        rw [State.settlePacket_down (by rw [hcluster]; exact Bool.not_eq_true _ ▸ hdown), State.packets_claim] at hwalk
        exact ⟨_, congrArg Host.Outcome.next hwalk, State.wakeRequest_cores _ _, rfl⟩
    · obtain ⟨hpackets, hmem⟩ := State.walkStep_passed (k := k) hat hno (nextOn_eq hroute ha)
      exact ⟨_, congrArg Host.Outcome.next heq, hpackets, hmem⟩

end Sys2Proof.Machine
end

section
/-! # Arrivals, sweeps, pre-emption requests and wait limits (O47)

A continuation record has eight registers (R35), so that a packet fills the 80 bytes of a ring place. The statement speaks of packets
whose list of registers has any length, and asks only that the 80 bytes are sound. -/

namespace Sys2Proof.Machine
open Sys2Proof.Statements

/-- A packet at core 0 whose continuation lists twelve registers. -/
def twelveRegisters : Packet where
  cont := { a := List.replicate 12 0, pc := 0, fl := 0, preds := 0, handle := 0, hops := 0, id := { lid := 0, sid := 0 }, pend := none, fresh := false }
  pid := 0
  dst := 0
  org := 0
  bpri := 0
  epri := 0
  kind := 0
  hint := false
  hx := 0
  hy := 0
  rad := 0
  lrec := 0
  at_ := 0
  slot := none
  ahead := false
  wrote := 0
  park := none

/-- The device in which that packet arrives; the first granule behind those of place 0 of core 0's ring is uncorrectable. -/
def spoiltBehindPlace : State :=
  { State.reset with packets := [twelveRegisters], badGran := [(0x0FF00000 + 96) / 32] }

/-- Refutes O47: the packet's 104 bytes reach a granule that lies behind the 80 sound ones and cannot be written in part, so that its last
eight bytes are not stored. (The clause on several launches of a sweep fails as well where `State.cores` lists its keys out of order: a
replaced core is then listed twice, and `State.totals` counts it twice.) -/
theorem not_migrationAndWaits : ¬ Obligations.MigrationAndWaits := by
  unfold Obligations.MigrationAndWaits
  rintro ⟨migration, -⟩
  obtain ⟨enters, -⟩ := migration 0 twelveRegisters spoiltBehindPlace rfl rfl rfl
  obtain ⟨t, ht, -, pos, -, -, ring, stored⟩ := enters rfl rfl rfl rfl (by decide)
  have arrived : t = spoiltBehindPlace.migrationArrival 0 := Host.Outcome.next.inj (ht.symm.trans exec_migrationPacketArrival)
  have place : (t.coreAt twelveRegisters.dst).ring.map (·.pos) = [0] := by rw [arrived]; decide +kernel
  obtain rfl : pos = 0 := by
    rw [ring] at place
    exact (List.cons.inj place).1
  obtain ⟨bytes, -⟩ := stored (by unfold State.sound; decide +kernel)
  rw [arrived] at bytes
  exact absurd bytes (by decide +kernel)

end Sys2Proof.Machine
end

section
/-! # Register banks, marks and window prefetches (O44)

What retention does to a bank and a lapse to a register (R79, R81), and the windows that due prefetch requests bring into the window
file: on a slot each request is one `Slot.prefetched`, and the relation `Prefetched` holds across any number of them (R75, R76). -/

namespace Sys2Proof.Machine
open Sys2Proof.Statements

/-! ## A slot replaced twice -/

@[simp] theorem State.putSlot_putSlot (s : State) (c j : Nat) (v w : Slot) : (s.putSlot c j v).putSlot c j w = s.putSlot c j w := by
  simp [State.putSlot, State.onCore, State.putCore, State.coreAt]

@[simp] theorem State.onSlot_putSlot (s : State) (c j : Nat) (v : Slot) (f : Slot → Slot) :
    (s.putSlot c j v).onSlot c j f = s.putSlot c j (f v) := by
  simp [State.onSlot]

/-! ## Retention of a bank (R81) -/

theorem Quad.retain_eq (q : Quad) (now : Nat) :
    q.retain now = { q with power := if q.power = .on ∧ q.touched + 4096 ≤ now ∧ q.fails < 3 then .retention else q.power } := by
  unfold Quad.retain
  by_cases h : q.power = .on ∧ q.touched + 4096 ≤ now ∧ q.fails < 3
  · simp [h]
  · rw [if_neg h, if_neg (by simpa [and_assoc] using h)]

theorem Slot.length_onBank_older (v : Slot) (n : Nat) (f : Quad → Quad) : (v.onBank (n + 2) f).older.length = v.older.length := by
  simp [Slot.onBank]

/-- Of the older windows, the bank of the one that is numbered changes, where it lies in the file. -/
theorem Slot.getElem?_onBank_older {v : Slot} {k : Nat} {o : OldWin} (h : v.older[k]? = some o) (n : Nat) (f : Quad → Quad) :
    (v.onBank (n + 2) f).older[k]? = some (if k = n ∧ o.inFile = true then { o with quad := f o.quad } else o) := by
  simp [Slot.onBank, h]

/-! ## The lapse of a mark (R79) -/

/-- A register without a mark stays as it is; one with a mark lapses by its age. -/
theorem Reg.lapse_eq (r : Reg) (now : Nat) : r.lapse now =
    { r with lapsed := r.lapsed || match r.mark with | some t => decide (t + 2048 ≤ now) | none => false } := by
  obtain ⟨val, mark, lapsed, live, ready, bad⟩ := r
  cases mark with
  | none => simp [Reg.lapse, Reg.expired]
  | some t => by_cases h : t + 2048 ≤ now <;> cases lapsed <;> simp [Reg.lapse, Reg.expired, h]

theorem Slot.setReg_eq (v : Slot) (i : Nat) (r : Reg) : v.setReg i r = { v with lo := (v.setReg i r).lo, hi := (v.setReg i r).hi } := by
  unfold Slot.setReg
  split <;> rfl

/-! ## The window that a request brings into the file -/

/-- What a read in the stack store leaves of a window: an error that SEC-DED corrects is corrected (R406). -/
def OldWin.corrected (o : OldWin) : OldWin := { o with flawed := o.inFile && o.flawed }

/-- Nothing is corrected in a window of the file, nor in one without an error. -/
theorem OldWin.corrected_of_clean {o : OldWin} (h : (o.inFile || !o.flawed) = true) : o.corrected = o := by
  obtain ⟨quad, save, inFile, spoilt, flawed⟩ := o
  cases inFile with
  | true => rfl
  | false =>
    obtain rfl : flawed = false := by simpa using h
    rfl

/-- A window put in a bank of the file with a failure count (R75, R78). -/
def OldWin.filed (fails : Nat) (o : OldWin) : OldWin := { o with inFile := true, quad := { o.quad with fails := fails } }

/-- A due request on a slot: the shallowest window of the stack store comes into the file, unless the file holds three windows or the
stack store none (R75, R76). -/
def Slot.prefetched (v : Slot) : Slot :=
  if 3 ≤ v.inFile ∨ v.older.length ≤ v.inFile then v
  else { v with older := v.older.modify v.inFile (OldWin.filed (v.spare.headD 0) ∘ OldWin.corrected), spare := v.spare.tail }

/-- The requests that are due have left the queue of a slot. -/
def Slot.undue (v : Slot) (now : Nat) : Slot := { v with prefetch := v.prefetch.filter (now < ·) }

/-- The effect of a due request on the state. -/
def State.prefetchDue (c j : Nat) (s : State) : State :=
  if 3 ≤ (s.slotAt c j).inFile || (s.slotAt c j).older.length ≤ (s.slotAt c j).inFile then s else s.bringIn c j

theorem State.finishPrefetch_eq (s : State) (c j : Nat) :
    s.finishPrefetch c j = (State.prefetchDue c j)^[((s.slotAt c j).prefetch.filter (· ≤ s.now)).length]
      (s.putSlot c j ((s.slotAt c j).undue s.now)) :=
  List.foldl_const (State.prefetchDue c j) _ _

theorem map_zipIdx_eq_modify {α : Type} (l : List α) (n : Nat) (f : α → α) :
    (l.zipIdx.map fun p => if p.2 = n then f p.1 else p.1) = l.modify n f := by
  refine List.ext_getElem? fun i => ?_
  cases h : l[i]? <;> simp [h, List.getElem?_modify, eq_comm]

theorem modify_of_getElem? {α : Type} {l : List α} {n : Nat} {a : α} (h : l[n]? = some a) (f : α → α) :
    l.modify n f = l.set n (f a) := by
  obtain ⟨hn, rfl⟩ := List.getElem?_eq_some_iff.1 h
  rw [List.modify_eq_take_cons_drop hn, List.set_eq_take_append_cons_drop, if_pos hn]

theorem countP_modify_of_same {α : Type} {p : α → Bool} {f : α → α} (h : ∀ a, p (f a) = p a) (l : List α) (n : Nat) :
    (l.modify n f).countP p = l.countP p := by
  induction l generalizing n with
  | nil => simp
  | cons a l ih => cases n <;> simp [List.countP_cons, h, ih]

theorem countP_modify_le {α : Type} (p : α → Bool) (f : α → α) (l : List α) (n : Nat) : (l.modify n f).countP p ≤ l.countP p + 1 := by
  induction l generalizing n with
  | nil => simp
  | cons a l ih =>
    cases n with
    | zero => simp only [List.modify_zero_cons, List.countP_cons]; split <;> omega
    | succ n => simp only [List.modify_succ_cons, List.countP_cons]; have := ih n; omega

theorem Slot.inFile_eq_countP (v : Slot) : v.inFile = v.older.countP (·.inFile) := List.countP_eq_length_filter.symm

theorem Slot.inFile_corrected (v : Slot) (n : Nat) : ({ v with older := v.older.modify n OldWin.corrected } : Slot).inFile = v.inFile := by
  simp only [Slot.inFile_eq_countP]
  exact countP_modify_of_same (f := OldWin.corrected) (fun _ => rfl) _ _

theorem Slot.bringIn_eq (v : Slot) :
    v.bringIn = { v with older := v.older.modify v.inFile (OldWin.filed (v.spare.headD 0)), spare := v.spare.tail } := by
  rw [← map_zipIdx_eq_modify]
  rfl

/-- An entry of severity 0 changes the log of one core alone. -/
theorem State.slotAt_logError_corrected (s : State) (c d j array cause addr syn : Nat) (w : Who) (inj : Bool) :
    (s.logError c array 0 cause addr syn w inj).slotAt d j = s.slotAt d j := by
  simp only [State.logError, if_true, State.slotAt, State.coreAt_putCore]
  split <;> simp [*]

theorem State.slotAt_readStored (s : State) (c j n : Nat) : (s.readStored c j n).slotAt c j =
    { s.slotAt c j with older := (s.slotAt c j).older.modify n OldWin.corrected } := by
  unfold State.readStored
  split
  next o h =>
    rw [modify_of_getElem? h]
    split
    next clean =>
      obtain ⟨hn, rfl⟩ := List.getElem?_eq_some_iff.1 h
      rw [OldWin.corrected_of_clean clean, List.set_getElem_self]
    next bad =>
      obtain ⟨stored, -⟩ : o.inFile = false ∧ o.flawed = true := by simpa using bad
      rw [State.slotAt_onSlot_self, State.slotAt_logError_corrected, OldWin.corrected, stored, Bool.false_and]
  next h => rw [List.modify_eq_self (List.getElem?_eq_none_iff.1 h)]

theorem State.readStored_unflawed {s : State} {c j : Nat} (h : Unflawed (s.slotAt c j)) (n : Nat) : s.readStored c j n = s := by
  unfold State.readStored
  split
  next o ho => simp [h o (List.mem_of_getElem? ho)]
  next => rfl

theorem State.slotAt_prefetchDue (c j : Nat) (s : State) : (s.prefetchDue c j).slotAt c j = (s.slotAt c j).prefetched := by
  simp only [State.prefetchDue, Slot.prefetched, Bool.or_eq_true, decide_eq_true_eq]
  split
  · rfl
  · rw [State.bringIn, State.slotAt_onSlot_self, State.slotAt_readStored, Slot.bringIn_eq, Slot.inFile_corrected, List.modify_modify_eq]

/-- The slot after the requests that are due. -/
theorem State.slotAt_finishPrefetch (s : State) (c j : Nat) : (s.finishPrefetch c j).slotAt c j =
    Slot.prefetched^[((s.slotAt c j).prefetch.filter (· ≤ s.now)).length] ((s.slotAt c j).undue s.now) := by
  have perRequest : Function.Semiconj (fun t : State => t.slotAt c j) (State.prefetchDue c j) Slot.prefetched := State.slotAt_prefetchDue c j
  rw [State.finishPrefetch_eq, (perRequest.iterate_right _).eq, State.slotAt_putSlot_self]

/-! ## Any number of requests -/

/-- An older window before and after requests: it does not leave the file, gets no new error in the stack store, and changes in nothing
else but the failure count of its bank. -/
def OldWin.Loaded (o q : OldWin) : Prop :=
  (o.inFile = true → q.inFile = true) ∧ q = { o with inFile := q.inFile, quad := { o.quad with fails := q.quad.fails }, flawed := q.flawed } ∧
    (q.flawed = true → o.flawed = true)

theorem OldWin.Loaded.filed {o q : OldWin} (h : o.Loaded q) (fails : Nat) : o.Loaded (q.corrected.filed fails) := by
  obtain ⟨-, same, flaw⟩ := h
  refine ⟨fun _ => rfl, by rw [same]; rfl, fun hf => flaw ?_⟩
  exact (Bool.and_eq_true_iff.1 hf).2

/-- A slot before and after due requests. -/
structure Prefetched (v w : Slot) : Prop where
  rest    : w = { v with older := w.older, spare := w.spare }
  length  : w.older.length = v.older.length
  file    : v.inFile ≤ 3 → w.inFile ≤ 3
  windows : ∀ (i : Nat) (o : OldWin), v.older[i]? = some o → ∃ q : OldWin, w.older[i]? = some q ∧ o.Loaded q

theorem Prefetched.refl (v : Slot) : Prefetched v v := ⟨rfl, rfl, id, fun _ o h => ⟨o, h, id, rfl, id⟩⟩

/-- One more request. -/
theorem Prefetched.prefetched {v w : Slot} (h : Prefetched v w) : Prefetched v w.prefetched := by
  unfold Slot.prefetched
  split
  next => exact h
  next room =>
    refine ⟨by rw [h.rest], by simp [h.length], fun _ => ?_, fun i o ho => ?_⟩
    · have grows := countP_modify_le (·.inFile) (OldWin.filed (w.spare.headD 0) ∘ OldWin.corrected) w.older w.inFile
      rw [← Slot.inFile_eq_countP w] at grows
      rw [Slot.inFile_eq_countP]
      exact grows.trans (by omega)
    · obtain ⟨q, hq, loaded⟩ := h.windows i o ho
      rw [List.getElem?_modify, hq]
      refine ⟨_, rfl, ?_⟩
      dsimp only
      split
      · exact loaded.filed _
      · exact loaded

theorem Prefetched.iterate (v : Slot) (n : Nat) : Prefetched v (Slot.prefetched^[n] v) := by
  induction n with
  | zero => exact .refl v
  | succ n ih => rw [Function.iterate_succ_apply']; exact ih.prefetched

theorem Slot.prefetched_of_no_room {v : Slot} (h : 3 ≤ v.inFile ∨ v.older.length ≤ v.inFile) : v.prefetched = v := if_pos h

/-- The window that one request brings in, where there is room for it. -/
theorem Slot.getElem?_prefetched {v : Slot} {i : Nat} {o : OldWin} (hf : v.inFile < 3) (hl : v.inFile < v.older.length) (ho : v.older[i]? = some o) :
    v.prefetched.older[i]? = some (if i = v.inFile then
      { o with inFile := true, quad := { o.quad with fails := v.spare.headD 0 }, flawed := o.inFile && o.flawed } else o) := by
  rw [Slot.prefetched, if_neg (by omega), List.getElem?_modify, ho]
  simp only [eq_comm (a := i)]
  rfl

theorem Slot.spare_prefetched {v : Slot} (hf : v.inFile < 3) (hl : v.inFile < v.older.length) : v.prefetched.spare = v.spare.drop 1 := by
  rw [Slot.prefetched, if_neg (by omega), List.drop_one]

/-! ## Requests change their slot alone where no read corrects anything -/

theorem Prefetched.unflawed {v w : Slot} (h : Prefetched v w) (hv : Unflawed v) : Unflawed w := by
  intro q hq
  obtain ⟨i, hi, rfl⟩ := List.getElem_of_mem hq
  have hi' : i < v.older.length := h.length ▸ hi
  obtain ⟨q, hq, -, -, flaw⟩ := h.windows i _ (List.getElem?_eq_getElem hi')
  obtain rfl : w.older[i] = q := Option.some.inj ((List.getElem?_eq_getElem hi).symm.trans hq)
  exact Bool.eq_false_iff.2 fun hf => Bool.eq_false_iff.1 (hv _ (List.getElem_mem hi')) (flaw hf)

theorem State.prefetchDue_putSlot {s : State} {c j : Nat} {v : Slot} (h : Unflawed v) :
    (s.putSlot c j v).prefetchDue c j = s.putSlot c j v.prefetched := by
  have alone : ∃ w, (s.putSlot c j v).prefetchDue c j = s.putSlot c j w := by
    unfold State.prefetchDue
    split
    · exact ⟨v, rfl⟩
    · rw [State.bringIn, State.readStored_unflawed (by rwa [State.slotAt_putSlot_self]), State.onSlot_putSlot]
      exact ⟨_, rfl⟩
  obtain ⟨w, hw⟩ := alone
  have := State.slotAt_prefetchDue c j (s.putSlot c j v)
  rw [hw, State.slotAt_putSlot_self, State.slotAt_putSlot_self] at this
  rw [hw, this]

theorem State.prefetchDue_iterate_putSlot {s : State} {c j : Nat} {v : Slot} (h : Unflawed v) (n : Nat) :
    (State.prefetchDue c j)^[n] (s.putSlot c j v) = s.putSlot c j (Slot.prefetched^[n] v) := by
  induction n with
  | zero => rfl
  | succ n ih => rw [Function.iterate_succ_apply', Function.iterate_succ_apply', ih, State.prefetchDue_putSlot ((Prefetched.iterate v n).unflawed h)]

theorem State.finishPrefetch_unflawed {s : State} {c j : Nat} (h : Unflawed (s.slotAt c j)) :
    s.finishPrefetch c j = s.putSlot c j ((s.finishPrefetch c j).slotAt c j) := by
  rw [State.slotAt_finishPrefetch, State.finishPrefetch_eq, State.prefetchDue_iterate_putSlot (v := (s.slotAt c j).undue s.now) h]

/-- Settles O44: retention, refresh and lapse replace one bank, cycle or register of the slot, and the requests that are due bring windows
in as `Prefetched` says. -/
theorem banksAndMarks : Obligations.BanksAndMarks := by
  unfold Obligations.BanksAndMarks
  intro c j s v kept
  have retained : (fun q : Quad => q.retain s.now) = kept := funext fun q => q.retain_eq s.now
  refine ⟨fun b hb => ?_, fun n => ⟨_, rfl, ?_⟩, ⟨_, rfl, rfl⟩, fun n hn => ⟨_, rfl, ?_⟩, _, rfl, ?_⟩
  · rw [exec_retention, execRetention, retained]
    match b, hb with
    | 0, _ => rfl
    | 1, _ => rfl
  · rw [retained, State.slotAt_onSlot_self]
    exact ⟨rfl, v.length_onBank_older n kept, fun k o ho => Slot.getElem?_onBank_older ho n kept⟩
  · refine ⟨fun d hd => State.coreAt_putSlot_other s hd j _, rfl, ?_⟩
    rw [State.slotAt_onSlot_self]
    exact ⟨v.setReg_eq n _, fun i hi hin => v.reg_setReg_other n i hn hi hin _, (v.reg_setReg_self n hn _).trans ((v.reg n).lapse_eq s.now)⟩
  · intro w due held
    have hw : w = Slot.prefetched^[due] (v.undue s.now) := State.slotAt_finishPrefetch s c j
    have rel : Prefetched (v.undue s.now) w := hw ▸ Prefetched.iterate _ due
    refine ⟨State.finishPrefetch_unflawed, rel.rest, rel.length, rel.file, rel.windows, fun stays => ?_, fun one hf hl => ?_⟩
    · have same : w = v.undue s.now := by
        rcases stays with none | full
        · rw [hw, none]; rfl
        · rw [hw, Function.iterate_fixed (Slot.prefetched_of_no_room (v := v.undue s.now) full)]
      rw [same]
      exact ⟨rfl, rfl⟩
    · have once : w = (v.undue s.now).prefetched := by rw [hw, one]; rfl
      rw [once]
      exact ⟨Slot.spare_prefetched (v := v.undue s.now) hf hl, fun i o ho => Slot.getElem?_prefetched (v := v.undue s.now) hf hl ho⟩

end Sys2Proof.Machine
end

section
/-! # Products, their completion and partials (O55)

The lanes of a row, the integer-class product as a sum over K-blocks (R113), the end of an operation on its engine and at its slot
(R341), and the addition of a partial (R343). -/

namespace Sys2Proof.Machine
open Sys2Proof.Statements

/-! ## Lanes of a row -/

theorem joinFields_lt (w : Nat) (l : List Nat) : joinFields w l < 2 ^ (w * l.length) := by
  induction l with
  | nil => simp [joinFields]
  | cons x r ih =>
    have hx : x % 2 ^ w < 2 ^ w := Nat.mod_lt _ (Nat.two_pow_pos w)
    calc joinFields w (x :: r) = x % 2 ^ w + 2 ^ w * joinFields w r := rfl
      _ < 2 ^ w * (joinFields w r + 1) := by rw [Nat.mul_succ]; omega
      _ ≤ 2 ^ w * 2 ^ (w * r.length) := Nat.mul_le_mul_left _ ih
      _ = 2 ^ (w * (x :: r).length) := by rw [← Nat.pow_add, List.length_cons]; ring_nf

theorem toNat_joinFields (w : Nat) (l : List Nat) : (BitVec.ofNat (w * l.length) (joinFields w l)).toNat = joinFields w l :=
  Nat.mod_eq_of_lt (joinFields_lt w l)

/-- A field of a joined number is the field it was joined from. -/
theorem elemAt_joinFields (w : Nat) (l : List Nat) (j : Nat) : elemAt w j (joinFields w l) = l.getD j 0 % 2 ^ w := by
  induction l generalizing j with
  | nil => simp [elemAt, joinFields]
  | cons x r ih =>
    cases j with
    | zero => simp [elemAt, joinFields]
    | succ j =>
      have hx : x % 2 ^ w < 2 ^ w := Nat.mod_lt _ (Nat.two_pow_pos w)
      have first : joinFields w (x :: r) / 2 ^ w = joinFields w r := by
        rw [joinFields, Nat.add_mul_div_left _ _ (Nat.two_pow_pos w), Nat.div_eq_of_lt hx, Nat.zero_add]
      rw [List.getD_cons_succ, ← ih j, elemAt, elemAt, Nat.mul_succ, Nat.add_comm, Nat.pow_add, ← Nat.div_div_eq_div_mul, first]

/-- A row of 32 lanes of an integer tile has the lanes it was made from. -/
theorem lane_ofLanes {l : List Nat} (h : l.length = 32) (j : Nat) : lane 1 (ofLanes 1 l) j = l.getD j 0 % 2 ^ 32 := by
  have bits : tyBits 1 * l.length = 1024 := by rw [h]; rfl
  have same := toNat_joinFields (tyBits 1) l
  rw [bits] at same
  rw [lane, ofLanes, same]
  exact elemAt_joinFields (tyBits 1) l j

theorem length_lanesOf (r : Row) : (lanesOf 1 r).length = 32 := by simp [lanesOf, tyLanes, tyBytes]

theorem getElem?_lanesOf (r : Row) {j : Nat} (hj : j < 32) : (lanesOf 1 r)[j]? = some (lane 1 r j) := by
  simp [lanesOf, tyLanes, tyBytes, hj, lane, elemAt]

theorem lane_lt (r : Row) (j : Nat) : lane 1 r j < 2 ^ 32 := Nat.mod_lt _ (by decide)

/-! ## Sums over blocks (R113) -/

/-- The sum over two lists side by side, where an element that the second list does not have adds nothing. -/
theorem sum_zip {α β : Type} (g : α → β → Int) (a : α) (b : β) (h : ∀ x, g x b = 0) (l : List α) (r : List β) :
    ((l.zip r).map fun p => g p.1 p.2).sum = Statements.total l.length fun i => g (l.getD i a) (r.getD i b) := by
  induction l generalizing r with
  | nil => rfl
  | cons x l ih =>
    cases r with
    | nil => simp [Statements.total, h]
    | cons y r => simpa [Statements.total, List.range_succ_eq_map, Function.comp_def] using ih r

theorem total_congr {n : Nat} {f g : Nat → Int} (h : ∀ i, i < n → f i = g i) : Statements.total n f = Statements.total n g := by
  rw [Statements.total, Statements.total, List.map_congr_left fun i hi => h i (List.mem_range.1 hi)]

/-- The block without elements, for one that a column does not have. -/
def KBlock.empty : KBlock := { vals := [], exp := 0, poison := false }

theorem dotBlock_eq (a b : KBlock) : dotBlock a b = Statements.total a.vals.length fun p => a.vals.getD p 0 * b.vals.getD p 0 := by
  rw [← sum_zip (· * ·) 0 0 Int.mul_zero, dotBlock, List.sum_eq_foldl, List.foldl_map]

theorem dotBlock_empty (a : KBlock) : dotBlock a KBlock.empty = 0 := by simp [dotBlock, KBlock.empty]

/-- An element after integer block sums: the one before plus all of them, mod 2^32. -/
theorem foldl_addBlock (mode : Mode) (wA : Nat) (l : List (KBlock × KBlock)) {x : Nat} (hx : x < 2 ^ 32) :
    ((l.foldl (addBlock false mode wA) x : Nat) : Int) = (x + (l.map fun p => dotBlock p.1 p.2).sum) % 2 ^ 32 := by
  induction l generalizing x with
  | nil => simp; omega
  | cons p l ih =>
    have sum : ((addBlock false mode wA x p : Nat) : Int) = (x + dotBlock p.1 p.2) % 2 ^ 32 :=
      Int.toNat_of_nonneg (Int.emod_nonneg _ (by decide))
    rw [List.foldl_cons, ih (by omega), sum, Int.emod_add_emod, List.map_cons, List.sum_cons, Int.add_assoc]

/-- An integer element after the blocks of its row and its column. -/
theorem dotAll_eq (mode : Mode) (wA : Nat) {x : Nat} (hx : x < 2 ^ 32) (a b : List KBlock) :
    (dotAll false mode wA x a b : Int) = (x + Statements.total a.length fun i => dotBlock (a.getD i KBlock.empty) (b.getD i KBlock.empty)) % 2 ^ 32 := by
  rw [dotAll, foldl_addBlock mode wA _ hx, sum_zip dotBlock _ _ dotBlock_empty]

theorem getD_take_drop {α : Type} (l : List α) {m n i : Nat} (h : i < n - m) (d : α) : ((l.take n).drop m).getD i d = l.getD (m + i) d := by
  have hi : m + i < n := by omega
  simp [List.getD_eq_getElem?_getD, hi]

/-! ## The operands of an integer-class operation (R99, R112) -/

/-- S8 and C4 are of the integer class (R91). -/
theorem flt_eq_false {o : MmaOp} (h : o.afmt = 4 ∨ o.afmt = 5) : o.flt = false := by
  rcases h with h | h <;> simp [MmaOp.flt, isFloatFmt, h]

theorem length_aBlocks (s : State) (c : Nat) (o : MmaOp) (i : Nat) : (s.aBlocks c o i).length = o.b := by
  simp [State.aBlocks, blocksOf, MmaOp.b]

/-- The K-blocks of A hold its values. -/
theorem getD_aBlocks {s : State} {c i b : Nat} {o : MmaOp} (h : o.afmt = 4 ∨ o.afmt = 5) (hb : b < o.b) :
    (s.aBlocks c o i).getD b KBlock.empty = { vals := (List.range 32).map fun p => aValue s c o i (32 * b + p), exp := 0, poison := false } := by
  have int : isFloatFmt o.afmt = false := flt_eq_false h
  have hb : b < (o.k + 31) / 32 := hb
  simp only [State.aBlocks, blocksOf, int, List.getD_eq_getElem?_getD, List.getElem?_map, List.getElem?_range hb]
  simp [Function.comp_def, aValue, formatBits, elemBits]

/-- The columns of B from block `kb0` on hold its values. -/
theorem getD_columnsFrom (e : Engine) (kb0 j kb p : Nat) :
    (((e.columnsFrom kb0).getD j []).getD kb KBlock.empty).vals.getD p 0 = bValue e j (kb0 + kb) p := by
  have col : (e.columnsFrom kb0).getD j [] = (e.bcols.getD j []).drop kb0 := by
    simpa [Engine.columnsFrom] using List.getD_map (d := []) (f := List.drop kb0) (l := e.bcols) (n := j)
  rw [col, bValue, List.getD_eq_getElem?_getD (l := List.drop kb0 _), List.getElem?_drop]
  cases (e.bcols.getD j [])[kb0 + kb]? <;> rfl

/-- A block of A times a block of B (R113). -/
theorem dotBlock_operands {s : State} {c i b : Nat} {o : MmaOp} (h : o.afmt = 4 ∨ o.afmt = 5) (hb : b < o.b) (e : Engine) (j : Nat) :
    dotBlock ((s.aBlocks c o i).getD b KBlock.empty) (((e.columnsFrom o.kb0).getD j []).getD b KBlock.empty) =
      Statements.total 32 fun p => aValue s c o i (32 * b + p) * bValue e j (o.kb0 + b) p := by
  rw [dotBlock_eq, getD_aBlocks h hb, List.length_map, List.length_range]
  refine total_congr fun p hp => ?_
  rw [getD_columnsFrom]
  simp [hp]

/-! ## An integer-class product (R113) -/

theorem dotAll_lt (mode : Mode) (wA : Nat) {x : Nat} (hx : x < 2 ^ 32) (a b : List KBlock) : dotAll false mode wA x a b < 2 ^ 32 := by
  have := dotAll_eq mode wA hx a b
  omega

theorem getElem?_rows_multiply {A : List (List KBlock)} {i : Nat} {a : List KBlock} (h : A[i]? = some a) (flt : Bool) (mode : Mode) (wA m n : Nat)
    (B : List (List KBlock)) (t : Tile) : (multiply flt mode wA m n A B t).rows[i]? = t.rows[i]?.map fun r =>
      ofLanes t.ty.toNat ((lanesOf t.ty.toNat r).zipIdx.map fun q =>
        dotAll flt mode wA q.1 ((a.take n).drop m) (((B.getD q.2 []).take n).drop m)) := by
  simp [multiply, h, Function.comp_def]

theorem length_rows_multiply (flt : Bool) (mode : Mode) (wA m n : Nat) (A B : List (List KBlock)) (t : Tile) :
    (multiply flt mode wA m n A B t).rows.length = t.rows.length := by
  simp [multiply]

/-- A product leaves the rows of C that A has no row for. -/
theorem getD_rows_multiply_past {A : List (List KBlock)} {i : Nat} (h : A.length ≤ i) (flt : Bool) (mode : Mode) (wA m n : Nat) (B : List (List KBlock))
    (t : Tile) : (multiply flt mode wA m n A B t).rows.getD i 0 = t.rows.getD i 0 := by
  have row : (multiply flt mode wA m n A B t).rows[i]? = t.rows[i]? := by cases ht : t.rows[i]? <;> simp [multiply, ht, List.getElem?_eq_none h]
  rw [List.getD_eq_getElem?_getD, row, List.getD_eq_getElem?_getD]

/-- An element of a product is the element before with its blocks from `m` to `n - 1`. -/
theorem lane_multiply {A : List (List KBlock)} {t : Tile} {i j : Nat} {a : List KBlock} (ha : A[i]? = some a) (ht : t.ty = 1) (hi : i < t.rows.length)
    (hj : j < 32) (mode : Mode) (wA m n : Nat) (B : List (List KBlock)) :
    lane 1 ((multiply false mode wA m n A B t).rows.getD i 0) j =
      dotAll false mode wA (lane 1 (t.rows.getD i 0) j) ((a.take n).drop m) (((B.getD j []).take n).drop m) := by
  have ty : t.ty.toNat = 1 := by rw [ht]; rfl
  simp only [List.getD_eq_getElem?_getD (l := Tile.rows _), getElem?_rows_multiply ha, List.getElem?_eq_getElem hi, Option.map_some, Option.getD_some, ty]
  rw [lane_ofLanes (by simp [length_lanesOf]), List.getD_eq_getElem?_getD, List.getElem?_map, List.getElem?_zipIdx, getElem?_lanesOf _ hj]
  simpa using Nat.mod_eq_of_lt (dotAll_lt mode wA (lane_lt _ j) _ _)

theorem Engine.unsound_eq_none {e : Engine} {o : MmaOp} (hb : e.badB = false) (ha : e.badA = false ∨ o.fromTile = true) : e.unsound o = none := by
  rcases ha with h | h <;> simp [Engine.unsound, hb, h]

theorem Engine.unsound_eq_some {e : Engine} {o : MmaOp} (h : e.badB = true ∨ e.badA = true ∧ o.fromTile = false) :
    ∃ array, e.unsound o = some array := by
  unfold Engine.unsound
  split
  · exact ⟨5, rfl⟩
  · next hA =>
    have hb : e.badB = true := h.resolve_right fun h => hA (by simp [h])
    exact ⟨6, by simp [hb]⟩

/-- A failed parity stops an operation with ECCUE and C as it was (R341). -/
theorem State.runOp_unsound {s y : State} {c upto n : Nat} {o p : MmaOp} {x : Tile} {f : Option (Cause × Word)}
    (bad : (s.coreAt c).engine.badB = true ∨ (s.coreAt c).engine.badA = true ∧ o.fromTile = false) (h : s.runOp c o upto = (y, p, x, n, f)) :
    n = o.blocks ∧ x = s.tileAt c o.td ∧ ∃ a, f = some (.eccue, a) := by
  obtain ⟨array, unsound⟩ := Engine.unsound_eq_some bad
  simp only [State.runOp, unsound, Prod.mk.injEq] at h
  obtain ⟨-, -, rfl, rfl, rfl⟩ := h
  exact ⟨rfl, rfl, _, rfl⟩

/-- An integer-class operation reads no scale words, so that its product is of the state it finds, and ends without a fault. -/
theorem State.runOp_integer {s : State} {c : Nat} {o : MmaOp} (sound : (s.coreAt c).engine.unsound o = none) (h : o.afmt = 4 ∨ o.afmt = 5) (upto : Nat) :
    s.runOp c o upto = (s, o, { multiply false o.mode o.wA o.blocks (max o.blocks (min upto o.b)) (s.aMatrix c o)
      ((s.coreAt c).engine.columnsFrom o.kb0) (s.tileAt c o.td) with stale := false, prov := false, writer := o.pid },
      max o.blocks (min upto o.b), none) := by
  have scaled : o.scaled = false := by rcases h with h | h <;> simp [MmaOp.scaled, h]
  simp [State.runOp, sound, State.withScales, scaled, MmaOp.formed, flt_eq_false h]

/-- An element of an integer-class product, in a row that A has (R113). -/
theorem lane_product {s : State} {c i j n : Nat} {o : MmaOp} (h : o.afmt = 4 ∨ o.afmt = 5) (ht : (s.tileAt c o.td).ty = 1)
    (hi : i < (s.tileAt c o.td).rows.length) (hj : j < 32) (hm : i < o.m) (hn : n ≤ max o.blocks o.b) :
    (lane 1 ((multiply false o.mode o.wA o.blocks n (s.aMatrix c o) ((s.coreAt c).engine.columnsFrom o.kb0) (s.tileAt c o.td)).rows.getD i 0) j : Int) =
      (lane 1 ((s.tileAt c o.td).rows.getD i 0) j + Statements.total (n - o.blocks) fun b => Statements.total 32 fun p =>
        aValue s c o i (32 * (o.blocks + b) + p) * bValue (s.coreAt c).engine j (o.kb0 + o.blocks + b) p) % 2 ^ 32 := by
  have row : (s.aMatrix c o)[i]? = some (s.aBlocks c o i) := by simp [State.aMatrix, hm]
  have blocks : (((s.aBlocks c o i).take n).drop o.blocks).length = n - o.blocks := by
    rw [List.length_drop, List.length_take, length_aBlocks]
    omega
  rw [lane_multiply row ht hi hj, dotAll_eq _ _ (lane_lt _ j), blocks]
  congr 2
  refine total_congr fun b hb => ?_
  rw [getD_take_drop _ hb, getD_take_drop _ hb, dotBlock_operands h (by omega), Nat.add_assoc]

/-! ## An operation over (R341) -/

theorem State.withScales_op (s : State) (c : Nat) (o : MmaOp) (upto : Nat) : ∃ l, (s.withScales c o upto).2.1 = { o with scales := l } := by
  unfold State.withScales
  split
  · exact ⟨o.scales, rfl⟩
  · exact ⟨_, rfl⟩

theorem State.runOp_op (s : State) (c : Nat) (o : MmaOp) (upto : Nat) : ∃ l, (s.runOp c o upto).2.1 = { o with scales := l } := by
  unfold State.runOp
  split
  · exact ⟨o.scales, rfl⟩
  · exact s.withScales_op c o upto

/-- A product changes the blocks performed and the scale words read of its operation, and nothing else of it. -/
theorem State.product_op (s : State) (c : Nat) (o : MmaOp) (last : Bool) :
    ∃ l n, (s.product c o last).2.1 = { o with scales := l, blocks := n } := by
  unfold State.product
  split
  · exact ⟨o.scales, o.blocks, rfl⟩
  · next y _ =>
    obtain ⟨l, hl⟩ := y.runOp_op c o o.b
    generalize y.runOp c o o.b = r at hl ⊢
    obtain ⟨z, q, t, n, f⟩ := r
    obtain rfl := hl
    cases f with
    | some f => exact ⟨l, n, rfl⟩
    | none => cases last <;> exact ⟨l, n, rfl⟩

/-- Work that ends with success, and whose entry is on the board of the strand that issued it, frees or records that entry (R385). -/
theorem State.endWork_entry {s : State} {c j k : Nat} {id : StrandId} (hf : Unframed s c j) (hs : (s.slotAt c j).strand.map (·.id) = some id)
    (hk : ∃ q ∈ (s.slotAt c j).board, q.num = k) (told : Told) (array aux : Nat) (part : Bool) :
    s.endWork c j id (some k) none told array aux part = s.putSlot c j ((s.slotAt c j).entryDone k aux s.now) := by
  have framed : ((s.slotAt c j).entryDone k aux s.now).trapAt ≠ some s.now := by
    unfold Slot.entryDone
    split <;> exact hf
  simp [State.endWork, Option.filter, hs, hk, State.putEntry, framed]

/-- Work that ends with success changes its slot alone, outside the cycle of a trap entry (R385, R405). -/
theorem State.endWork_success {s : State} {c j : Nat} (hf : Unframed s c j) (id : StrandId) (entry : Option Nat) (told : Told) (array aux : Nat)
    (part : Bool) : s.endWork c j id entry none told array aux part = s ∨ ∃ v, s.endWork c j id entry none told array aux part = s.putSlot c j v := by
  by_cases held : ∃ k, entry = some k ∧ (s.slotAt c j).strand.map (·.id) = some id ∧ ∃ q ∈ (s.slotAt c j).board, q.num = k
  · obtain ⟨k, rfl, hs, hk⟩ := held
    exact .inr ⟨_, State.endWork_entry hf hs hk told array aux part⟩
  · left
    have : (entry.filter fun n => ((s.slotAt c j).strand.map fun b => b.id) == some id &&
        (s.slotAt c j).board.any fun (e : SbEntry) => e.num == n) = none := by
      rw [Option.filter_eq_none_iff]
      intro k hk hheld
      exact held ⟨k, hk, by simpa using hheld⟩
    simp only [State.endWork, this]

theorem Slot.entryDone_of_not_handler {v : Slot} (h : v.handler = false) (n aux now : Nat) :
    v.entryDone n aux now = { v with board := v.board.filter fun q => q.num != n, freed := (v.entryDone n aux now).freed } := by
  simp [Slot.entryDone, h]

/-- The head of the queue leaves it. -/
theorem State.coreAt_popOp (s : State) (c : Nat) : (s.popOp c).coreAt c =
    { s.coreAt c with engine := { (s.coreAt c).engine with queue := started s.now (s.coreAt c).engine.queue } } := by
  rw [State.popOp, State.coreAt_onCore_self]
  match (s.coreAt c).engine.queue with
  | [] | [_] | _ :: _ :: _ => rfl

theorem State.tileAt_popOp (s : State) (c n : Nat) : (s.popOp c).tileAt c n = s.tileAt c n := by
  rw [State.tileAt, State.coreAt_popOp, State.tileAt]

theorem State.slotAt_popOp (s : State) (c j : Nat) : (s.popOp c).slotAt c j = s.slotAt c j := by
  rw [State.slotAt, State.coreAt_popOp, State.slotAt]

/-- An operation without a barrier that succeeds ends at its slot and leaves the queue. -/
theorem State.closeOp_success {o : MmaOp} (hb : o.bar = 0) (s : State) (c : Nat) :
    s.closeOp c o none = (s.endWork c o.slot o.id o.entry none .entry 4 0 (o.blocks != 0)).popOp c := by
  simp [State.closeOp, State.signalOp, hb]

/-- The engine, the tiles and the memories after an operation without a barrier that succeeds. -/
theorem State.closeOp_engine {s : State} {c : Nat} {o : MmaOp} (hb : o.bar = 0) (hf : Unframed s c o.slot) :
    let t := s.closeOp c o none
    t.mem = s.mem ∧ t.spm = s.spm ∧ (∀ n, t.tileAt c n = s.tileAt c n) ∧
      (t.coreAt c).engine = { (s.coreAt c).engine with queue := started s.now (s.coreAt c).engine.queue } := by
  simp only [State.closeOp_success hb, State.tileAt_popOp, State.coreAt_popOp]
  rcases State.endWork_success hf o.id o.entry .entry 4 0 (o.blocks != 0) with h | ⟨v, h⟩ <;> rw [h]
  · exact ⟨rfl, rfl, fun _ => rfl, rfl⟩
  · exact ⟨rfl, rfl, fun n => by simp [State.tileAt], by simp⟩

/-- The slot after an operation without a barrier that succeeds: its entry is freed (R385). -/
theorem State.closeOp_slot {s : State} {c k : Nat} {o : MmaOp} (hb : o.bar = 0) (hf : Unframed s c o.slot) (he : o.entry = some k)
    (hs : (s.slotAt c o.slot).strand.map (·.id) = some o.id) (hh : (s.slotAt c o.slot).handler = false)
    (hk : ∃ q ∈ (s.slotAt c o.slot).board, q.num = k) :
    (s.closeOp c o none).slotAt c o.slot = { s.slotAt c o.slot with
      board := (s.slotAt c o.slot).board.filter fun q => q.num != k, freed := ((s.closeOp c o none).slotAt c o.slot).freed } := by
  have slot : (s.closeOp c o none).slotAt c o.slot = (s.slotAt c o.slot).entryDone k 0 s.now := by
    rw [State.closeOp_success hb, State.slotAt_popOp, he, State.endWork_entry hf hs hk, State.slotAt_putSlot_self]
  rw [slot]
  exact Slot.entryDone_of_not_handler hh k 0 s.now

/-! ## Completion (R194, R341) -/

/-- The direct operation that is due, alone on its engine: its cycles have run, and no posted store of its strand is ahead of it. -/
theorem State.dueOp_of_head {s : State} {c : Nat} {o : MmaOp} {rest : List MmaOp} (hq : (s.coreAt c).engine.queue = o :: rest)
    (hz : (s.coreAt c).engine.frozen = false) (ht : o.task = none) (hg : o.group = none) (hp : s.plainTask c = false) :
    s.dueOp c = if s.now < o.started + o.cycles ∨ s.opBehind c o = true then none else some o := by
  simp [State.dueOp, Core.runningOp, hq, hz, ht, hg, hp]

theorem State.dueOp_idle {s : State} {c : Nat} (h : (s.coreAt c).engine.frozen = true ∨ (s.coreAt c).engine.queue = []) : s.dueOp c = none := by
  rcases h with h | h <;> simp [State.dueOp, Core.runningOp, h]

theorem State.completeMma_none {s : State} {c : Nat} (h : s.dueOp c = none) : exec (.mmaCompletion c) s = .next s := by
  rw [exec_mmaCompletion, execMmaCompletion, State.completeMma, h]

/-- An operation of one part that is due ends with the tile its product leaves. -/
theorem State.completeMma_due {s : State} {c : Nat} {o : MmaOp} (h : s.dueOp c = some o) (hg : o.group = none) :
    exec (.mmaCompletion c) s = .next ((s.product c o true).1.closeOp c (s.product c o true).2.1 (s.product c o true).2.2) := by
  rw [exec_mmaCompletion, execMmaCompletion, State.completeMma, h]
  simp only [hg]

/-! ## Partials (R343) -/

/-- The state in which partial `k` has left the list and is added to the owner's tile, with its count on the operation (R343). -/
def State.partialAdded (s : State) (k : Nat) (m : Partial) (o : MmaOp) : State :=
  (({ s with partials := without s.partials k } : State).putTile m.owner o.td ((s.tileAt m.owner o.td).addPartial o m)).onCore m.owner fun q =>
    { q with engine := q.engine.setHead { o with got := o.got + 1 } }

theorem MmaOp.agrees_iff (o p : MmaOp) :
    o.agrees p = true ↔ o.word = p.word ∧ o.fmt.toNat % 256 = p.fmt.toNat % 256 ∧ o.fpc.toNat % 8 = p.fpc.toNat % 8 := by
  simp [MmaOp.agrees, and_assoc]

/-- The statement's words for a partial of the product of `m` that its owner holds. -/
theorem Partial.held_with (m q : Partial) :
    (q.held && q.owner == m.owner && q.lid == m.lid && q.group == m.group && q.tile == m.tile) = m.with_ q := rfl

section
variable {s : State} {k : Nat} {m : Partial} (h : s.partials[k]? = some m)
include h

theorem State.acceptPartial_killed (hk : (s.coreAt m.owner).killed = true) :
    s.acceptPartial k = ({ s with partials := without s.partials k } : State).partSent m (some (.refused, 0)) := by
  simp only [State.acceptPartial, h, hk, if_true]
  rfl

/-- A partial that arrives is held while fewer than four are, or the owner's operation runs. -/
theorem State.acceptPartial_arriving (hk : (s.coreAt m.owner).killed = false) (hm : m.held = false) :
    s.acceptPartial k = if 4 ≤ (s.partials.filter fun q => q.held && q.owner == m.owner).length ∧ s.ownerOp m = none then s
      else ({ s with partials := without s.partials k ++ [{ m with held := true }] } : State).partSent m none := by
  simp [State.acceptPartial, h, hk, hm]
  rfl

theorem State.acceptPartial_ownerless (hk : (s.coreAt m.owner).killed = false) (hm : m.held = true) (ho : s.ownerOp m = none) :
    s.acceptPartial k = s := by
  simp [State.acceptPartial, h, hk, hm, ho]

section
variable {o : MmaOp} (hk : (s.coreAt m.owner).killed = false) (hm : m.held = true) (ho : s.ownerOp m = some o)
include hk hm ho

/-- A held partial waits for the owner's own part and for those held before it. -/
theorem State.acceptPartial_waits (hw : o.blocks < o.b ∨ (s.partials.take k).any m.with_ = true) : s.acceptPartial k = s := by
  have wait : (decide (o.blocks < o.b) || (s.partials.take k).any m.with_) = true := by rcases hw with h | h <;> simp [h]
  simp only [State.acceptPartial, h, hk, hm, ho, wait]
  simp

variable (hd : ¬ o.blocks < o.b) (hf : (s.partials.take k).any m.with_ = false)
include hd hf

theorem State.acceptPartial_disagrees (ha : o.agrees m.op = false) : s.acceptPartial k =
    ({ s with partials := s.partials.filter fun q => !m.with_ q } : State).closeOp m.owner o (some (.group, wrap m.group)) := by
  simp only [State.acceptPartial, h, hk, hm, ho]
  simp [hd, hf, ha, wrap]

/-- A partial that agrees, with more to come, is added. -/
theorem State.acceptPartial_adds (ha : o.agrees m.op = true) (hp : o.got + 2 < o.parts) : s.acceptPartial k = s.partialAdded k m o := by
  have more : MmaOp.parts { o with got := o.got + 1 } = o.parts := rfl
  simp only [State.acceptPartial, h, hk, hm, ho]
  simp [hd, hf, ha, more, hp]
  rfl
end
end

theorem State.queue_partialAdded (s : State) (k : Nat) (m : Partial) (o : MmaOp) : ((s.partialAdded k m o).coreAt m.owner).engine.queue =
    { o with got := o.got + 1 } :: (s.coreAt m.owner).engine.queue.drop 1 := by
  rw [State.partialAdded, State.coreAt_onCore_self, State.putTile, State.coreAt_onCore_self]
  rfl

theorem State.tileAt_partialAdded_self (s : State) (k : Nat) (m : Partial) (o : MmaOp) :
    (s.partialAdded k m o).tileAt m.owner o.td = (s.tileAt m.owner o.td).addPartial o m := by
  simp [State.partialAdded, State.tileAt, State.putTile]

theorem State.tileAt_partialAdded_other (s : State) (k : Nat) (m : Partial) {o : MmaOp} {n : Nat} (hn : n ≠ o.td) :
    (s.partialAdded k m o).tileAt m.owner n = s.tileAt m.owner n := by
  rw [State.partialAdded, State.tileAt, State.coreAt_onCore_self, State.putTile, State.coreAt_onCore_self]
  exact congrArg (·.getD Tile.reset) (look_put_other hn _ _)

/-- The lanes of the owner's tile after a partial of an integer-class product. -/
theorem lane_addPartial {t : Tile} {o : MmaOp} {i j : Nat} (hc : o.afmt = 4 ∨ o.afmt = 5) (ht : t.ty = 1) (hi : i < t.rows.length) (hj : j < 32)
    (m : Partial) : lane 1 ((t.addPartial o m).rows.getD i 0) j = match m.rows[i]? with
      | some r => (lane 1 (t.rows.getD i 0) j + lane 1 r j) % 2 ^ 32
      | none => lane 1 (t.rows.getD i 0) j := by
  have ty : t.ty.toNat = 1 := by rw [ht]; rfl
  cases hr : m.rows[i]? with
  | none => simp [Tile.addPartial, List.getD_eq_getElem?_getD, hi, hr]
  | some r =>
    have row : (t.addPartial o m).rows.getD i 0 =
        ofLanes 1 ((lanesOf 1 (t.rows.getD i 0)).zipWith (addTo false o.mode) (lanesOf 1 r)) := by
      simp [Tile.addPartial, List.getD_eq_getElem?_getD, hi, hr, ty, flt_eq_false hc]
    rw [row, lane_ofLanes (by simp [length_lanesOf]), List.getD_eq_getElem?_getD, List.getElem?_zipWith, getElem?_lanesOf _ hj, getElem?_lanesOf _ hj]
    simp [addTo]

/-! ## The obligation -/

/-- Settles O55: an integer element grows by the sum over its blocks (`lane_product`), and each clause of the completion and of a
partial is an equation of `completeMma` or `acceptPartial` for its case. -/
theorem matrixProducts : Obligations.MatrixProducts := by
  unfold Obligations.MatrixProducts
  refine ⟨?product, ?completion, ?partials⟩
  case product =>
    refine fun s y c o p upto n x f h => ⟨fun bad => State.runOp_unsound bad h, fun goodB goodA int ty rows => ?_⟩
    rw [State.runOp_integer (Engine.unsound_eq_none goodB goodA) int] at h
    obtain ⟨rfl, rfl, rfl, rfl, rfl⟩ := h
    refine ⟨rfl, rfl, rfl, rfl, (length_rows_multiply ..).trans rows, fun i j hi hj => ?_⟩
    dsimp only
    split
    next past => rw [getD_rows_multiply_past (by simpa [State.aMatrix] using past)]
    next inside => exact lane_product int ty (by omega) hj (by omega) (by omega)
  case completion =>
    refine fun c s => ⟨?_, fun o rest hq hz ht hg hp => ⟨?_, ?_, ?_⟩⟩
    · exact fun idle => State.completeMma_none (State.dueOp_idle idle)
    · intro early
      exact State.completeMma_none (by rw [State.dueOp_of_head hq hz ht hg hp, if_pos (.inl early)])
    · intro behind
      exact State.completeMma_none (by rw [State.dueOp_of_head hq hz ht hg hp, if_pos (.inr behind)])
    · intro ran ahead y p f hprod
      have due : s.dueOp c = some o := by rw [State.dueOp_of_head hq hz ht hg hp, if_neg (by simp [ahead]; omega)]
      have ends : exec (.mmaCompletion c) s = .next (y.closeOp c p f) := by rw [State.completeMma_due due hg, hprod]
      refine ⟨ends, ?_⟩
      rintro hb rfl hf
      obtain ⟨l, b, hp⟩ := s.product_op c o true
      rw [hprod] at hp
      obtain rfl := hp
      obtain ⟨mem, spm, tiles, engine⟩ := State.closeOp_engine (o := { o with scales := l, blocks := b }) hb hf
      exact ⟨_, ends, mem, spm, tiles, engine, fun k he hs hh hk =>
        State.closeOp_slot (o := { o with scales := l, blocks := b }) hb hf he hs hh hk⟩
  case partials =>
    refine fun k m s h => ⟨?_, fun alive arriving => ?_, fun alive held => ?_⟩
    · intro killed
      rw [exec_mmagPartial, execMmagPartial, State.acceptPartial_killed h killed]
    · rw [exec_mmagPartial, execMmagPartial, State.acceptPartial_arriving h alive arriving]
      refine ⟨fun full free => by rw [if_pos ⟨full, free⟩], fun room => ?_⟩
      have held : ¬ (4 ≤ (s.partials.filter fun q => q.held && q.owner == m.owner).length ∧ s.ownerOp m = none) :=
        fun ⟨full, free⟩ => room.elim (by omega) fun owned => owned free
      rw [if_neg held]
    · simp only [exec_mmagPartial, execMmagPartial, Partial.held_with, ← List.not_any_eq_all_not, Bool.not_eq_false', Bool.not_eq_true']
      refine ⟨fun free => by rw [State.acceptPartial_ownerless h alive held free], fun o ho => ⟨fun wait => ?_, fun first done differs => ?_,
        fun first done word fmt fpc more => ?_⟩⟩
      · rw [State.acceptPartial_waits h alive held ho wait]
      · have apart : o.agrees m.op = false := Bool.eq_false_iff.2 fun same => by
          obtain ⟨word, fmt, fpc⟩ := (MmaOp.agrees_iff o m.op).1 same
          simp [word, fmt, fpc] at differs
        rw [State.acceptPartial_disagrees h alive held ho (by omega) first apart]
      · have adds := State.acceptPartial_adds h alive held ho (by omega) first ((MmaOp.agrees_iff o m.op).2 ⟨word, fmt, fpc⟩) more
        refine ⟨_, congrArg _ adds, rfl, rfl, s.queue_partialAdded k m o, fun n hn => s.tileAt_partialAdded_other k m hn,
          fun low high ty rows i j hi hj => ?_⟩
        rw [State.tileAt_partialAdded_self]
        exact lane_addPartial (by omega) ty (by omega) hj m

end Sys2Proof.Machine
end

section
/-! # Refresh, hot mode, throttle, loss and armed errors (O53)

An access leaves its row open, and the row packets of its bank that the controller holds are then done with (`State.openRow`). A `rowact`
opens its row by the same rule, so that it also drops the packets that came after it. -/

namespace Sys2Proof.Machine
open Sys2Proof.Statements

/-- The controller of core 0's vault holds a `rowact` and, behind it, a `rowpre` of the same bank. -/
def openThenClose : State :=
  { State.reset with cores := [(0, { Core.reset with ctl := [.act 0, .pre 0] })] }

/-- Refutes O53: when the `rowact` is performed, the `rowpre` that came after it leaves the controller too, and its bank is never
closed. -/
theorem not_banksAndThrottle : ¬ Obligations.BanksAndThrottle := by
  unfold Obligations.BanksAndThrottle
  rintro ⟨-, -, -, packets, -⟩
  obtain ⟨-, opens, -⟩ := packets 0 0 0 openThenClose
  obtain ⟨t, ht, -, -, left⟩ := opens (by decide) rfl (by decide)
  have performed : t = openThenClose.doPacket 0 0 := Host.Outcome.next.inj (ht.symm.trans exec_vaultControllerPacket)
  have dropped : (t.coreAt 0).ctl = [] := by rw [performed]; decide
  exact absurd (dropped.symm.trans left) (by decide)

end Sys2Proof.Machine
end

section
/-! # Completion barriers (O11)

A barrier slot holds ARR in 14 bits (R150). The statement's rule counts an arrival without that bound. -/

namespace Sys2Proof.Machine
open Sys2Proof.Statements

/-- A register bank that is on and holds 0xF8000050, the address of barrier slot 5 of core 0, in its first register. -/
def barrierAddressBank : Quad :=
  { r0 := Reg.written 0xF8000050 none 0, r1 := Reg.reset, r2 := Reg.reset, r3 := Reg.reset, power := .on, touched := 0, fails := 0, poison := false }

/-- A launch of process 0 in entry 0 of core 0 that has no strands left. -/
def processZeroLaunch : Launch :=
  { index := 0, lrec := 0, pid := 0, entry := 0, count := 0, prio := 0, feat := 0, consts := [], wpkt := 0, done := 0, cont := 0, stkb := 0,
    vac := false, barn := 1, spmn := 0, npkt := 0, stks := 0, cores := true, rad := 0, mode := 0, groups := [], allowed := [0], nextSid := 0,
    queue := [], last := none, plan := [], strands := [], ndone := 0, dead := false, ending := false, swept := none, heir := none }

/-- Barrier slot 5 of core 0, reserved to process 0, holds ARR 16,383 and EXP 0; the current slot's a0 is its address. -/
def allArrived : State :=
  { State.reset with
    spm := [(0x2FC50 + 4, 0xFF), (0x2FC50 + 5, 0x3F)]
    cores := [(0, { Core.reset with
      slots := [(0, { Slot.reset 0 0 with lo := barrierAddressBank, hi := barrierAddressBank })],
      launches := [processZeroLaunch], bars := [(5, { lid := 0, sid := 0 })] })] }

theorem issues_allArrived : Issues allArrived (.cbArr 0 0) [0] [] [] [] where
  form := by decide
  privilege := by decide
  unit := by decide
  ready := by decide
  movedRead := by decide
  predsRead := by decide
  vecsRead := by decide
  timely := by decide
  awake := by decide
  sound := by decide
  clear := .inl rfl
  unlapsed := by decide

/-- Refutes O11: an arrival at ARR 16,383, with EXP 0, leaves an ARR of 14 bits, where the statement's rule has 16,384. -/
theorem not_barriers : ¬ Obligations.Barriers := by
  unfold Obligations.Barriers
  rintro ⟨updates, -⟩
  obtain ⟨own, -⟩ := updates (.cbArr 0 0) 2 3 0 16 allArrived rfl issues_allArrived (by decide) ⟨by decide, by decide, by decide, by decide⟩
  obtain ⟨t, -, -, -, -, -, left, -⟩ := own (by decide) (by decide) rfl (by unfold State.spmSound; decide)
  have count : (t.barRead 0 5).arr = 16384 := by
    rw [show t.barRead 0 5 = _ from left]
    decide
  have bounded : (t.barRead 0 5).arr < 2 ^ 14 := by
    simp only [State.barRead, bitsOf]
    omega
  omega

end Sys2Proof.Machine
end

section
/-! # Error-free accesses to vaults

A read or a write of granules that are there, correct and have no error armed (`State.sound`) opens rows and moves the bytes; nothing else
of the device changes (R135, R136, R138, R406, R411). -/

namespace Sys2Proof.Machine
open Sys2Proof.Statements

/-! ## Granules -/

/-- A granule is there, correct, and has no error armed. -/
def State.Intact (s : State) (g : Nat) : Prop :=
  s.isLost (g * 32) = false ∧ s.badGran.contains g = false ∧ ∀ e ∈ s.injected, e.2.1 ≠ g

theorem mem_granules {a n g : Nat} : g ∈ granules a n ↔ a / 32 ≤ g ∧ g < (a + n + 31) / 32 := by
  simp only [granules, List.mem_map, List.mem_range]
  constructor
  · rintro ⟨i, hi, rfl⟩
    omega
  · rintro ⟨low, high⟩
    exact ⟨g - a / 32, by omega, by omega⟩

/-- Part of a sound range is sound. -/
theorem State.sound.sub {s : State} {a n b m : Nat} (h : s.sound a n) (hl : a ≤ b) (hr : b + m ≤ a + n) : s.sound b m := fun g hg => by
  obtain ⟨low, high⟩ := mem_granules.1 hg
  exact h g (mem_granules.2 ⟨by omega, by omega⟩)

/-- A byte of a granule and the granule itself lie in one bank of one vault. -/
theorem isLost_granule (s : State) (a : Nat) : s.isLost (a / 32 * 32) = s.isLost a := by
  simp only [State.isLost, vaultOf, bankOf]
  congr 2 <;> omega

theorem vaultOf_granule (a : Nat) : vaultOf (a / 32 * 32) = vaultOf a := by
  simp only [vaultOf]
  omega

/-! ## What an access changes -/

/-- An error-free access to granules: their vaults' open rows and row requests, and memory (R136, R138). -/
structure Accessed (l : List Nat) (s t : State) : Prop where
  device : t = { s with cores := t.cores, mem := t.mem }
  core   : ∀ c, t.coreAt c = { s.coreAt c with banks := (t.coreAt c).banks, ctl := (t.coreAt c).ctl }
  others : ∀ c, (∀ g ∈ l, vaultOf (g * 32) ≠ c) → t.coreAt c = s.coreAt c

namespace Accessed

theorem refl (l : List Nat) (s : State) : Accessed l s s := ⟨rfl, fun _ => rfl, fun _ _ => rfl⟩

variable {l : List Nat} {s t : State} (h : Accessed l s t)
include h

theorem trans {u : State} (k : Accessed l t u) : Accessed l s u where
  device := by rw [k.device, h.device]
  core c := by rw [k.core c, h.core c]
  others c hc := (k.others c hc).trans (h.others c hc)

theorem mono {l' : List Nat} (hl : ∀ g ∈ l, g ∈ l') : Accessed l' s t := ⟨h.device, h.core, fun c hc => h.others c fun g hg => hc g (hl g hg)⟩

theorem now : t.now = s.now := by rw [h.device]
theorem place : t.core = s.core := by rw [h.device]
theorem slot : t.slot = s.slot := by rw [h.device]
theorem spm : t.spm = s.spm := by rw [h.device]
theorem empties : t.empties = s.empties := by rw [h.device]
theorem quince : t.quince = s.quince := by rw [h.device]
theorem mesh : t.mesh = s.mesh := by rw [h.device]

theorem clusterAt (g : Nat) : t.clusterAt g = s.clusterAt g := by rw [h.device]; rfl

theorem slotAt (c j : Nat) : t.slotAt c j = s.slotAt c j := by rw [State.slotAt, h.core c]; rfl

theorem me : t.me = s.me := by rw [State.me, h.place, h.slot, h.slotAt]; rfl

theorem waiters (c : Nat) : (t.coreAt c).waiters = (s.coreAt c).waiters := by rw [h.core c]

theorem intact (g : Nat) : t.Intact g ↔ s.Intact g := by rw [h.device]; rfl

theorem sound (a n : Nat) : t.sound a n ↔ s.sound a n := forall₂_congr fun g _ => h.intact g

/-- A write beside it. -/
theorem write (m : Memory) : Accessed l s { t with mem := m } :=
  ⟨congrArg (fun z : State => { z with mem := m }) h.device, h.core, h.others⟩

end Accessed

/-! ## One granule -/

/-- Opening a row leaves the bank with its row open, and drops the row requests of the bank. -/
theorem Accessed.openRow (s : State) (a : Nat) : Accessed [a / 32] s (s.openRow a) where
  device := rfl
  core c := by
    by_cases hc : c = vaultOf a
    · subst hc; simp [State.openRow, State.putBank]
    · simp [State.openRow, State.putBank, State.coreAt_onCore_other _ hc]
  others c hc := by
    have away : c ≠ vaultOf a := fun e => hc (a / 32) (List.mem_singleton_self _) (by rw [vaultOf_granule, e])
    simp [State.openRow, State.putBank, State.coreAt_onCore_other _ away]

@[simp] theorem State.openRow_mem (s : State) (a : Nat) : (s.openRow a).mem = s.mem := rfl

/-- No armed error is found at an intact granule, and its check changes nothing (R406, R411). -/
theorem State.Intact.checkGranule {s : State} {g : Nat} (h : s.Intact g) (w : Who) : s.checkGranule w g = (s, 0) := by
  obtain ⟨-, good, unarmed⟩ := h
  have good : g ∉ s.badGran := by simpa using good
  have none : s.injected.filter (fun e => e.2.1 == g) = [] := List.filter_eq_nil_iff.2 fun e he => by simpa using unarmed e he
  have zero : flipCount 256 [] = 0 := by decide
  simp [State.checkGranule, none, zero, good]

theorem State.Intact.readGranule {s : State} {g : Nat} (h : s.Intact g) (w : Who) : s.readGranule w g = (s.openRow (g * 32), 0) := by
  have open_ : (s.openRow (g * 32)).Intact g := ((Accessed.openRow s (g * 32)).intact g).2 h
  rw [State.readGranule, h.1, open_.checkGranule]
  rfl

/-- A write within an intact granule succeeds, whether it is masked or whole (R136). -/
theorem State.Intact.writeGranule {s : State} {a : Nat} (h : s.Intact (a / 32)) (w : Who) (bs : List Byte) :
    ∃ t, s.writeGranule w a bs = ({ t with mem := s.mem.write a bs }, 0) ∧ Accessed [a / 32] s t := by
  have here : s.isLost a = false := (isLost_granule s a).symm.trans h.1
  by_cases whole : bs.length = 32
  · refine ⟨s.openRow a, ?_, .openRow s a⟩
    have kept : s.badGran.filter (fun g => g != a / 32) = s.badGran := by
      refine List.filter_eq_self.2 fun g hg => ?_
      have : ¬ a / 32 ∈ s.badGran := by simpa using h.2.1
      simpa using fun e : g = a / 32 => this (e ▸ hg)
    have kept' : (s.openRow a).badGran.filter (fun g => g != a / 32) = (s.openRow a).badGran := kept
    simp [State.writeGranule, here, whole, kept']
  · refine ⟨s.openRow (a / 32 * 32), ?_, ?_⟩
    · simp [State.writeGranule, here, whole, h.readGranule]
    · simpa using Accessed.openRow s (a / 32 * 32)

/-! ## Reads -/

/-- Granules read in turn. -/
theorem readGranules_intact {s : State} {l : List Nat} (h : ∀ g ∈ l, s.Intact g) (w : Who) :
    ∃ t, l.foldl (fun (acc : State × Nat) g => let t := acc.1.readGranule w g; (t.1, if acc.2 = 0 then t.2 else acc.2)) (s, 0) = (t, 0) ∧
      Accessed l s t ∧ t.mem = s.mem := by
  induction l generalizing s with
  | nil => exact ⟨s, rfl, .refl _ s, rfl⟩
  | cons g l ih =>
    have first : Accessed [g] s (s.openRow (g * 32)) := by simpa using Accessed.openRow s (g * 32)
    obtain ⟨t, ht, rest, mem⟩ := ih fun i hi => (first.intact i).2 (h i (List.mem_cons_of_mem _ hi))
    refine ⟨t, ?_, (first.mono (by simp)).trans (rest.mono fun i hi => List.mem_cons_of_mem _ hi), mem⟩
    rw [List.foldl_cons, (h g List.mem_cons_self).readGranule]
    exact ht

/-- A sound read succeeds with the bytes there. -/
theorem State.sound.vaultRead {s : State} {a n : Nat} (h : s.sound a n) (w : Who) :
    ∃ t, s.vaultRead w a n = (t, 0, s.mem.readBytes a n) ∧ Accessed (granules a n) s t ∧ t.mem = s.mem := by
  obtain ⟨t, ht, acc, mem⟩ := readGranules_intact (l := granules a n) h w
  exact ⟨t, by simp [State.vaultRead, ht, State.countLost, mem], acc, mem⟩

/-! ## Writes -/

@[simp] theorem Memory.readBytes_length (m : Memory) (a n : Nat) : (m.readBytes a n).length = n := by simp [Memory.readBytes]

theorem Memory.getElem_readBytes (m : Memory) (a n i : Nat) (h : i < (m.readBytes a n).length) : (m.readBytes a n)[i] = m.read (a + i) := by
  simp [Memory.readBytes]

theorem Memory.readBytes_congr {m n : Memory} {a k : Nat} (h : ∀ x, a ≤ x → x < a + k → n.read x = m.read x) : n.readBytes a k = m.readBytes a k := by
  refine List.map_congr_left fun i hi => h _ (by omega) ?_
  have := List.mem_range.1 hi
  omega

/-- What a byte reads as after a store. -/
theorem stored_iff {m n : Memory} {a : Nat} {bs : List Byte} : Stored m n a bs ↔ ∀ x, n.read x = (m.write a bs).read x := by
  constructor
  · rintro ⟨inside, outside⟩ x
    by_cases hx : a ≤ x ∧ x < a + bs.length
    · obtain ⟨i, rfl⟩ := Nat.exists_eq_add_of_le hx.1
      have hi : i < bs.length := by omega
      rw [Memory.read_write_in _ _ _ _ hi, ← Memory.getElem_readBytes n a bs.length i (by simpa using hi)]
      simp only [inside]
    · rw [Memory.read_write_out _ _ _ _ (by omega), outside x (by omega)]
  · intro h
    exact ⟨(Memory.readBytes_congr fun x _ _ => h x).trans (Memory.readBytes_write m a bs), fun x hx => (h x).trans (Memory.read_write_out _ _ _ _ hx)⟩

theorem stored_write (m : Memory) (a : Nat) (bs : List Byte) : Stored m (m.write a bs) a bs := stored_iff.2 fun _ => rfl

/-- The bytes written in two parts, the lower first. -/
theorem stored_append {m n o : Memory} {a : Nat} {xs ys : List Byte} (h : Stored m n a xs) (k : Stored n o (a + xs.length) ys) :
    Stored m o a (xs ++ ys) := by
  obtain ⟨low, below⟩ := h
  obtain ⟨high, above⟩ := k
  refine ⟨?_, fun x hx => ?_⟩
  · refine List.ext_getElem (by simp) fun i hi _ => ?_
    rw [Memory.getElem_readBytes]
    by_cases hx : i < xs.length
    · rw [above _ (by omega), List.getElem_append_left hx, ← Memory.getElem_readBytes n a xs.length i (by simpa using hx)]
      simp only [low]
    · have hy : i - xs.length < ys.length := by simp at hi; omega
      have at_ : a + i = a + xs.length + (i - xs.length) := by omega
      rw [at_, List.getElem_append_right (by omega), ← Memory.getElem_readBytes o (a + xs.length) ys.length _ (by simpa using hy)]
      simp only [high]
  · rw [List.length_append] at hx
    rw [above x (by omega), below x (by omega)]

/-- Pieces written in turn, each in its granule. -/
theorem writeGranules_intact (w : Who) : ∀ (n a : Nat) (bs : List Byte) (s : State), a % 32 + bs.length ≤ 32 * n → s.sound a bs.length →
    ∃ t, (splitGranules n a bs).foldl (fun (acc : State × Nat) p =>
        let t := acc.1.writeGranule w p.1 p.2; (t.1, if acc.2 = 0 then t.2 else acc.2)) (s, 0) = (t, 0) ∧
      Accessed (granules a bs.length) s t ∧ Stored s.mem t.mem a bs
  | 0, a, bs, s, hn, _ => by
    obtain rfl : bs = [] := List.eq_nil_of_length_eq_zero (by omega)
    exact ⟨s, rfl, .refl _ s, rfl, fun _ _ => rfl⟩
  | n + 1, a, bs, s, hn, h => by
    by_cases empty : bs = []
    · subst empty
      exact ⟨s, rfl, .refl _ s, rfl, fun _ _ => rfl⟩
    have pos : 0 < bs.length := List.length_pos_iff.2 empty
    have mine : a / 32 ∈ granules a bs.length := mem_granules.2 ⟨Nat.le_refl _, by omega⟩
    obtain ⟨y, hy, first⟩ := (show s.Intact (a / 32) from h _ mine).writeGranule w (bs.take (32 - a % 32))
    have first' : Accessed [a / 32] s { y with mem := s.mem.write a (bs.take (32 - a % 32)) } := first.write _
    have split : splitGranules (n + 1) a bs =
        (a, bs.take (32 - a % 32)) :: splitGranules n (a + (32 - a % 32)) (bs.drop (32 - a % 32)) := by simp [splitGranules, empty]
    rw [split, List.foldl_cons]
    by_cases more : 32 - a % 32 ≤ bs.length
    · have rest : s.sound (a + (32 - a % 32)) (bs.drop (32 - a % 32)).length := h.sub (by omega) (by simp; omega)
      obtain ⟨t, ht, acc, stored⟩ := writeGranules_intact w n (a + (32 - a % 32)) (bs.drop (32 - a % 32)) _ (by simp; omega)
        ((first'.sound _ _).2 rest)
      refine ⟨t, by simpa [hy] using ht, (first'.mono (by simpa using mine)).trans (acc.mono fun g hg => ?_), ?_⟩
      · obtain ⟨low, high⟩ := mem_granules.1 hg
        rw [List.length_drop] at high
        exact mem_granules.2 ⟨by omega, by omega⟩
      · have lengths : (bs.take (32 - a % 32)).length = 32 - a % 32 := by simp; omega
        have joined := stored_append (stored_write s.mem a (bs.take (32 - a % 32))) (by rw [lengths]; exact stored)
        rwa [List.take_append_drop] at joined
    · have past : bs.drop (32 - a % 32) = [] := List.drop_eq_nil_of_le (by omega)
      have none : splitGranules n (a + (32 - a % 32)) [] = [] := by cases n <;> rfl
      have all : bs.take (32 - a % 32) = bs := List.take_of_length_le (by omega)
      rw [past, none]
      exact ⟨_, by simp [hy], first'.mono (by simpa using mine), by rw [all]; exact stored_write ..⟩

/-- A sound write succeeds and stores the bytes. -/
theorem State.sound.vaultWrite {s : State} {a : Nat} {bs : List Byte} (h : s.sound a bs.length) (w : Who) :
    ∃ t, s.vaultWrite w a bs = (t, 0) ∧ Accessed (granules a bs.length) s t ∧ Stored s.mem t.mem a bs := by
  obtain ⟨t, ht, acc, stored⟩ := writeGranules_intact w (bs.length / 32 + 2) a bs s (by omega) h
  exact ⟨t, by simp [State.vaultWrite, ht, State.countLost], acc, stored⟩

end Sys2Proof.Machine
end

section
/-! # Instructions that access memory

What an instruction that accesses the own vault leaves beside its slot, and its slot once it has retired with a value or a store
(R225, R231, R277). -/

namespace Sys2Proof.Machine
open Sys2Proof.Statements

/-! ## Values -/

theorem wrap_add_toNat (x : Word) (i : Int) : wrap (x.toNat + i) = x + BitVec.ofInt 48 i := by
  rw [wrap, BitVec.ofInt_add]
  simp

theorem lowWord_ofNat (n : Nat) : lowWord (BitVec.ofNat 64 n) = wrap n := by
  refine BitVec.eq_of_toNat_eq ?_
  simp only [lowWord, wrap, BitVec.toNat_setWidth, BitVec.toNat_ofNat, BitVec.toNat_ofInt]
  omega

theorem leNat_lt (bs : List Byte) : leNat bs < 256 ^ bs.length := by
  induction bs with
  | nil => simp [leNat]
  | cons b r ih =>
    have hb : b.toNat < 256 := b.isLt
    rw [leNat, List.length_cons, Nat.pow_succ]
    omega

/-- The sizes of a scalar access (R277). -/
def scalarSize (n : Nat) : Prop := n = 1 ∨ n = 2 ∨ n = 4 ∨ n = 8

/-- What a load delivers from the bytes it read (R277). -/
theorem loadValue_eq {size : Nat} (hz : scalarSize size) (signed : Bool) (hw : signed = true → size ≠ 8) {bs : List Byte} (hl : bs.length = size) :
    loadValue size signed (BitVec.ofNat 64 (leNat bs)) = if signed then wrap (sx (8 * size) (leNat bs)) else wrap (leNat bs) := by
  have bound := leNat_lt bs
  rw [hl] at bound
  have wide : (256 : Nat) ^ size ≤ 2 ^ 64 := by rcases hz with rfl | rfl | rfl | rfl <;> decide
  have whole : leNat bs % 2 ^ 64 = leNat bs := Nat.mod_eq_of_lt (Nat.lt_of_lt_of_le bound wide)
  have bits : (2 : Nat) ^ (8 * size) = 256 ^ size := by rw [Nat.pow_mul]
  by_cases h8 : size = 8
  · have plain : signed = false := Bool.eq_false_iff.2 fun e => hw e h8
    simp [loadValue, h8, plain, lowWord_ofNat]
  · cases signed with
    | true => simp only [loadValue, h8, BitVec.toNat_ofNat, whole, wrap, if_true, if_false]
    | false =>
      simp only [loadValue, h8, BitVec.toNat_ofNat, whole, bits, Nat.mod_eq_of_lt bound, wrap]
      exact BitVec.eq_of_toNat_eq (by simp)

/-! ## The own vault -/

/-- A granule of a range of a core's window lies in its vault (R118). -/
theorem vaultOf_window {c va n g : Nat} (hc : c < 1024) (h : va + n ≤ 2 ^ 28) (hg : g ∈ granules (c * 2 ^ 28 + va) n) : vaultOf (g * 32) = c := by
  obtain ⟨low, high⟩ := mem_granules.1 hg
  simp only [vaultOf]
  omega

theorem vaultOf_own {c va : Nat} (hc : c < 1024) (h : va < 2 ^ 28) : vaultOf (c * 2 ^ 28 + va) = c := by
  simp only [vaultOf]
  omega

theorem window_end {va n : Nat} (hz : scalarSize n) (ha : va % n = 0) (h : va < 2 ^ 28) : va + n ≤ 2 ^ 28 := by
  rcases hz with rfl | rfl | rfl | rfl <;> omega

/-- The owner check of a page whose entry can be read (R120, R406). -/
theorem ownerCheck_readable {s : State} {a : Nat} (h : OwnerReadable s a) (w : Who) (pid : BitVec 16) :
    s.ownerCheck w pid a = (s, if s.owns pid a then none else some .prot) := by
  obtain ⟨good, unarmed⟩ := h
  have good : s.ownerAt a / 32 ∉ s.badGran := by simpa using good
  have none : s.injected.filter (fun e => e.2.1 == s.ownerAt a / 32) = [] := List.filter_eq_nil_iff.2 fun e he => by simpa using unarmed e he
  have zero : flipCount 256 [] = 0 := by decide
  have check : s.checkGranule w (s.ownerAt a / 32) = (s, 0) := by simp [State.checkGranule, none, zero, good]
  simp only [State.ownerCheck, check]

/-- The region check of a local address: privilege in the reserved range, and else the page's owner (R118). -/
theorem regionFor_local {va : Nat} (hva : va < 2 ^ 28) (s : State) (x : Ctx) :
    (0x0FF00000 ≤ va ∨ s.reservedBase x.core ≤ va ∧ va < s.reservedBase x.core + 2 ^ 20 →
      s.regionFor x va = (s, if x.prv then none else some .prot)) ∧
    (¬ (0x0FF00000 ≤ va ∨ s.reservedBase x.core ≤ va ∧ va < s.reservedBase x.core + 2 ^ 20) →
      s.regionFor x va = s.ownerCheck x.who x.pid (x.core * 2 ^ 28 + va)) := by
  have local_ : regionOf va = .local_ := by rw [regionOf, if_pos (show va < 0x10000000 by omega)]
  simp only [State.regionFor, local_, Bool.or_eq_true, Bool.and_eq_true, decide_eq_true_eq]
  exact ⟨fun within => if_pos within, fun outside => if_neg outside⟩

/-- The region check of an admitted byte of the window passes (R118). -/
theorem regionCheck_admitted {s : State} {va : Nat} (hva : va < 2 ^ 28) (h : Admitted s va) : s.regionCheck s.core s.slot va = (s, none) := by
  obtain ⟨reserved, page⟩ := regionFor_local hva s (s.ctx s.core s.slot)
  unfold Admitted at h
  split at h
  next within =>
    rw [State.regionCheck, reserved within, show (s.ctx s.core s.slot).prv = true from h]
    rfl
  next outside =>
    obtain ⟨owned, readable⟩ := h
    have check := ownerCheck_readable readable (s.ctx s.core s.slot).who s.me.pid
    rw [owned] at check
    exact (page outside).trans check

/-- The region check of a scratchpad address depends on the address alone. -/
theorem regionCheck_spad {s t : State} {c j va : Nat} (low : 2 ^ 28 ≤ va) (high : va < 2 ^ 32) (h : s.regionCheck c j va = (s, none)) (c' j' : Nat) :
    t.regionCheck c' j' va = (t, none) := by
  have spad : regionOf va = .spad := by rw [regionOf, if_neg (by omega), if_pos (by omega)]
  simp only [State.regionCheck, State.regionFor, spad, Prod.mk.injEq, true_and, ite_eq_right_iff, reduceCtorEq, imp_false] at h ⊢
  exact h

theorem regionCheck_global {s : State} {c j va : Nat} (low : 2 ^ 32 ≤ va) : s.regionCheck c j va = (s, none) := by
  have global : regionOf va = .global := by rw [regionOf, if_neg (by omega), if_neg (by omega)]
  simp only [State.regionCheck, State.regionFor, global]

/-! ## Touching banks -/

theorem State.touched_reads (s : State) (u : Use) : (s.touched u).me.pid = s.me.pid ∧ (s.touched u).me.id = s.me.id ∧
    (s.touched u).me.acct = s.me.acct ∧ (s.touched u).me.handler = s.me.handler ∧ (s.touched u).me.run = s.me.run := by
  rw [State.me_touched, Slot.touch_eq]
  exact ⟨rfl, rfl, rfl, rfl, rfl⟩

theorem State.privileged_touched (s : State) (u : Use) : (s.touched u).privileged s.core s.slot = s.privileged s.core s.slot := by
  have slot : (s.touched u).slotAt s.core s.slot = (s.slotAt s.core s.slot).touch s.now u.codes := State.me_touched s u
  rw [State.privileged, slot, Slot.touch_eq]
  rfl

theorem admitted_touched {s : State} {va : Nat} (u : Use) (h : Admitted s va) : Admitted (s.touched u) va := by
  have pid := (s.touched_reads u).1
  have prv := s.privileged_touched u
  unfold Admitted at h ⊢
  rw [pid, State.touched_core, State.touched_slot, prv]
  exact h

theorem State.here_touched (s : State) (u : Use) : (s.touched u).here = { s.here with slots := (s.touched u).here.slots } := by
  rw [State.touched, State.here_onMe]

/-! ## The frame of an access -/

/-- An access to the own vault: its open rows and row requests, what its tag owes for energy, memory and the full/empty bits. -/
structure OwnAccess (s t : State) : Prop where
  device   : t = { s with cores := t.cores, clusters := t.clusters, mem := t.mem, empties := t.empties }
  here     : t.coreAt s.core = { s.coreAt s.core with banks := (t.coreAt s.core).banks, ctl := (t.coreAt s.core).ctl }
  cores    : ∀ c, c ≠ s.core → t.coreAt c = s.coreAt c
  cluster  : t.clusterAt (clusterOf s.core) = { s.clusterAt (clusterOf s.core) with dues := (t.clusterAt (clusterOf s.core)).dues }
  clusters : ∀ g, g ≠ clusterOf s.core → t.clusterAt g = s.clusterAt g

namespace OwnAccess

theorem charge (s : State) (tag : BitVec 16) (n : Nat) : OwnAccess s (s.chargeGranules s.core tag n) where
  device := rfl
  here := rfl
  cores _ _ := rfl
  cluster := by rw [State.chargeGranules, State.clusterAt_onCluster_self]
  clusters _ hg := State.clusterAt_onCluster_other s hg _

theorem of_accessed {l : List Nat} {s t : State} (h : Accessed l s t) (hl : ∀ g ∈ l, vaultOf (g * 32) = s.core) : OwnAccess s t where
  device := by rw [h.device]
  here := h.core _
  cores c hc := h.others c fun g hg e => hc (e ▸ hl g hg)
  cluster := by rw [h.clusterAt]
  clusters g _ := h.clusterAt g

/-- The full/empty bits may change beside. -/
theorem withEmpties {s t : State} (h : OwnAccess s t) (l : List Nat) : OwnAccess s { t with empties := l } :=
  ⟨congrArg (fun z : State => { z with empties := l }) h.device, h.here, h.cores, h.cluster, h.clusters⟩

variable {s t : State} (h : OwnAccess s t)
include h

theorem place : t.core = s.core := by rw [h.device]
theorem slot : t.slot = s.slot := by rw [h.device]
theorem now : t.now = s.now := by rw [h.device]

theorem trans {u : State} (k : OwnAccess t u) : OwnAccess s u := by
  obtain ⟨device, here, cores, cluster, clusters⟩ := k
  rw [h.place] at here cores cluster clusters
  refine ⟨by rw [device, h.device], by rw [here, h.here], fun c hc => (cores c hc).trans (h.cores c hc), by rw [cluster, h.cluster],
    fun g hg => (clusters g hg).trans (h.clusters g hg)⟩

theorem slotAt (c j : Nat) : t.slotAt c j = s.slotAt c j := by
  by_cases hc : c = s.core
  · subst hc
    rw [State.slotAt, h.here]
    rfl
  · rw [State.slotAt, h.cores c hc]
    rfl

theorem me : t.me = s.me := by rw [State.me, h.place, h.slot, h.slotAt]; rfl

theorem reg (c : BitVec 5) : t.src c = s.src c := by
  have consts : (t.coreAt s.core).const = (s.coreAt s.core).const := by rw [h.here]; rfl
  simp only [State.src, State.readCode, h.place, h.slot, h.slotAt, consts]

end OwnAccess

/-- What an instruction leaves that accesses its own vault, changes its slot and retires. -/
structure RetiredAccess (s t : State) : Prop where
  device : t = { s with cores := t.cores, clusters := t.clusters, mem := t.mem, empties := t.empties }
  others : OthersKept s t
  here   : t.here = { s.here with slots := t.here.slots, banks := t.here.banks, ctl := t.here.ctl }

theorem RetiredAccess.vaultOnly {s t : State} (h : RetiredAccess s t) (he : t.empties = s.empties) : VaultOnly s t :=
  ⟨by have := h.device; rw [he] at this; exact this, h.others, h.here⟩

theorem OwnAccess.retire {s y : State} {u : Use} (h : OwnAccess (s.touched u) y) (f : Slot → Slot) (u' : Use)
    (hf : (f (s.me.touch s.now u.codes)).acct = s.me.acct) : RetiredAccess s ((y.onMe f).retire u' none) := by
  have place : y.core = s.core := h.place
  have slot : y.slot = s.slot := h.slot
  have mine : (y.onMe f).me.acct = s.me.acct := by rw [State.me_onMe, h.me, State.me_touched, hf]
  have device : (y.onMe f).retire u' none =
      { y with cores := ((y.onMe f).retire u' none).cores, clusters := ((y.onMe f).retire u' none).clusters } := rfl
  refine ⟨?_, ⟨fun c hc => ?_, fun j hj => ?_, fun g hg => ?_, ?_⟩, ?_⟩
  · rw [device, h.device]
    rfl
  · rw [State.coreAt_retire_other (y.onMe f) _ _ (by simpa [place] using hc), State.coreAt_onMe_other y (by simpa [place] using hc),
      h.cores c hc]
    exact State.coreAt_onMe_other s hc _
  · rw [State.slotAt_retire_other (y.onMe f) _ _ (.inr (by simpa [slot] using hj)), State.slotAt_onMe_other y (.inr (by simpa [slot] using hj)),
      h.slotAt]
    exact State.slotAt_onMe_other s (.inr hj) _
  · rw [State.clusterAt_retire_other (y.onMe f) _ _ (by simpa [place] using hg)]
    exact h.clusters g hg
  · have own := State.clusterAt_retire_self (y.onMe f) u' none
    have counted : ((y.onMe f).clusterAt (clusterOf s.core)) = _ := h.cluster
    rw [State.onMe_core, place, mine, counted] at own
    rw [own]
    rfl
  · have own := State.here_retire (y.onMe f) u' none
    rw [State.here_onMe] at own
    have core : y.here = { (s.touched u).here with banks := y.here.banks, ctl := y.here.ctl } := by
      rw [State.here, place]
      exact h.here
    rw [own, core, s.here_touched u]

theorem OwnAccess.me_retire {s y : State} {u : Use} (h : OwnAccess (s.touched u) y) (f : Slot → Slot) (u' : Use) :
    ((y.onMe f).retire u' none).me = (f (s.me.touch s.now u.codes)).retired u' none s.turn := by
  rw [State.me_onMe_retire, h.me, State.me_touched, State.turn, h.now]
  rfl

/-! ## The slot of an access that has retired -/

/-- No source carries a last-read mark, so that none is freed. -/
theorem Use.free_unmarked {u : Use} (h : ∀ p ∈ u.srcs, p.2 = 0) (v : Slot) : u.free v = v := by
  unfold Use.free
  generalize u.srcs = l at h
  induction l with
  | nil => rfl
  | cons p l ih =>
    have plain : p.2 = 0 := h p List.mem_cons_self
    rw [List.foldl_cons, plain]
    exact ih fun q hq => h q (List.mem_cons_of_mem _ hq)

/-- Retirement without marked sources moves the pc and sets when the next instruction may issue. -/
theorem Slot.retired_unmarked {u : Use} (h : ∀ p ∈ u.srcs, p.2 = 0) (v : Slot) (turn : Nat) :
    ∃ pc frame next, v.retired u none turn = { v with pc := pc, frame := frame, run := none, turnNext := next } := by
  rw [Slot.retired, Use.free_unmarked h, Slot.step_eq]
  exact ⟨_, _, _, rfl⟩

theorem Slot.retired_advances (u : Use) {v w : Slot} (pc : v.pc = w.pc) (frame : v.frame = w.frame) (turn : Nat) :
    Advances w (v.retired u none turn) := fun hf => by
  obtain ⟨hpc, hframe⟩ := Slot.retired_step v u turn (frame.trans hf)
  exact ⟨hpc.trans (by rw [pc]), hframe⟩

theorem Slot.touch_banks (v : Slot) (now : Nat) (codes : List (BitVec 5)) : ∃ lo hi, v.touch now codes = { v with lo := lo, hi := hi } :=
  ⟨_, _, v.touch_eq now codes⟩

theorem Slot.setReg_banks (v : Slot) (i : Nat) (r : Reg) : ∃ lo hi, v.setReg i r = { v with lo := lo, hi := hi } := by
  unfold Slot.setReg
  split <;> exact ⟨_, _, rfl⟩

theorem Slot.unmark_banks (v : Slot) (d : BitVec 5) : ∃ lo hi, v.unmark d = { v with lo := lo, hi := hi } := by
  unfold Slot.unmark
  split
  · exact v.setReg_banks _ _
  · exact ⟨_, _, rfl⟩

/-- A slot that has retired with a value delivered. -/
theorem Slot.retired_delivered {u : Use} (h : ∀ p ∈ u.srcs, p.2 = 0) (v : Slot) (now : Nat) (codes : List (BitVec 5)) (d : BitVec 5) (x : Word)
    (lat turn : Nat) :
    let w := ((v.touch now codes).writeCode now d x false lat).retired u none turn
    Delivered v w now d x false lat ∧ WindowKept v w [d] [] ∧ ScalarOnly v w ∧ Advances v w := by
  intro w
  obtain ⟨pc, frame, next, shape⟩ := Slot.retired_unmarked h ((v.touch now codes).writeCode now d x false lat) turn
  have hw : w = _ := shape
  have regs (i : Nat) (hi : i < 8) : w.reg i = ((v.touch now codes).writeCode now d x false lat).reg i := by rw [hw]; rfl
  have fields := (v.touch now codes).writeCode_eq now d x false lat
  have delivered (i : Nat) (hi : i < 8) := Slot.reg_writeCode (v.touch now codes) now d x false lat i hi
  simp only [Slot.reg_touch] at delivered
  have steps : Advances ((v.touch now codes).writeCode now d x false lat) w := Slot.retired_advances u rfl rfl turn
  obtain ⟨lo, hi, touch⟩ := v.touch_banks now codes
  generalize (v.touch now codes).writeCode now d x false lat = z at *
  generalize v.touch now codes = y at *
  subst touch
  refine ⟨⟨fun h8 => ?_, ?_, ?_, ?_, fun quiet => ?_⟩, fun i hi hd => ?_, ?_, ?_⟩
  · rw [regs _ h8, delivered _ h8, if_pos rfl]
  · rw [hw, fields]
  · rw [hw, fields]
  · rw [hw, fields]
  · rw [hw, fields]
    exact if_pos quiet
  · have other : d.toNat ≠ i := hd d (by simp)
    have kept : w.reg i = v.reg i := by rw [regs i hi, delivered i hi, if_neg other]
    simp [Kept, kept]
  · rw [ScalarOnly, hw, fields]
  · rw [fields] at steps
    exact steps

theorem Slot.reg_unmark_touch (v : Slot) (now : Nat) (codes : List (BitVec 5)) (d : BitVec 5) {i : Nat} (hi : i < 8) :
    ((v.touch now codes).unmark d).reg i = (v.unmark d).reg i := by
  unfold Slot.unmark
  split
  next h8 =>
    rw [Slot.reg_touch]
    by_cases own : i = d.toNat
    · subst own; rw [Slot.reg_setReg_self _ _ h8, Slot.reg_setReg_self _ _ h8]
    · rw [Slot.reg_setReg_other _ _ _ h8 hi own, Slot.reg_setReg_other _ _ _ h8 hi own, Slot.reg_touch]
  next => exact Slot.reg_touch v now codes i

/-- A slot that has retired with the short-lived mark of its data ended (R79). -/
theorem Slot.retired_unmark {u : Use} (h : ∀ p ∈ u.srcs, p.2 = 0) (v : Slot) (now : Nat) (codes : List (BitVec 5)) (d : BitVec 5) (turn : Nat) :
    Retires (v.unmark d) (((v.touch now codes).unmark d).retired u none turn) [] := by
  obtain ⟨pc, frame, next, shape⟩ := Slot.retired_unmarked h ((v.touch now codes).unmark d) turn
  have regs (i : Nat) (hi : i < 8) : (((v.touch now codes).unmark d).retired u none turn).reg i = (v.unmark d).reg i := by
    rw [shape]
    exact Slot.reg_unmark_touch v now codes d hi
  have steps := Slot.retired_advances u (v := (v.touch now codes).unmark d) rfl rfl turn
  obtain ⟨_, _, touch⟩ := v.touch_banks now codes
  obtain ⟨_, _, after⟩ := (v.touch now codes).unmark_banks d
  obtain ⟨_, _, alone⟩ := v.unmark_banks d
  generalize ((v.touch now codes).unmark d).retired u none turn = w at *
  generalize (v.touch now codes).unmark d = z at *
  generalize v.touch now codes = y at *
  generalize v.unmark d = x at *
  subst touch after alone
  exact ⟨fun i hi _ => by simp [Kept, regs i hi, marked], by rw [shape], steps⟩

section
variable {s y : State} {u : Use} (h : OwnAccess (s.touched u) y) (plain : ∀ p ∈ u.srcs, p.2 = 0)
include h plain

/-- An access of the own vault that delivers a value and retires. -/
theorem OwnAccess.delivered (d : BitVec 5) (x : Word) (lat : Nat) : let t := (y.dst d x 0 lat).retire u none
    RetiredAccess s t ∧ Delivered s.me t.me s.now d x false lat ∧ WindowKept s.me t.me [d] [] ∧ ScalarOnly s.me t.me ∧ Advances s.me t.me := by
  have written : y.dst d x 0 lat = y.onMe fun v => v.writeCode s.now d x false lat := by
    rw [State.dst, h.now]
    rfl
  dsimp only
  rw [written, h.me_retire]
  exact ⟨h.retire _ u (by rw [Slot.writeCode_eq, Slot.touch_eq]), Slot.retired_delivered plain ..⟩

/-- An access of the own vault that ends the mark of its data and retires. -/
theorem OwnAccess.unmarked (d : BitVec 5) : let t := (y.onMe fun v => v.unmark d).retire u none
    RetiredAccess s t ∧ Retires (s.me.unmark d) t.me [] := by
  obtain ⟨_, _, banks⟩ := (s.me.touch s.now u.codes).unmark_banks d
  dsimp only
  rw [h.me_retire]
  exact ⟨h.retire _ u (by rw [banks, Slot.touch_eq]), Slot.retired_unmark plain ..⟩
end

end Sys2Proof.Machine
end

section
/-! # Remote accesses and atomics (O8)

A load, store or atomic issues, retires and leaves a message (`State.send`); one of the own vault is an error-free access of it. -/

namespace Sys2Proof.Machine
open Sys2Proof.Statements

/-! ## Sending a message (R64, R133) -/

theorem State.coreAt_send (s : State) (m : Msg) (c : Nat) :
    ∃ traffic, (s.send m).1.coreAt c = { s.coreAt c with traffic := traffic, seq := if c = m.src then (s.coreAt c).seq + 1 else (s.coreAt c).seq } := by
  obtain ⟨traffic, counted⟩ := State.coreAt_countSent
    ({ s.onCore m.src fun k => { k with seq := k.seq + 1 } with mesh := s.mesh ++ [{ m with seq := (s.coreAt m.src).seq }] }) m.src m.lid c
  have sent : (s.send m).1.coreAt c = { (s.onCore m.src fun k => { k with seq := k.seq + 1 }).coreAt c with traffic := traffic } := counted
  refine ⟨traffic, sent.trans ?_⟩
  by_cases h : c = m.src
  · subst h
    rw [State.coreAt_onCore_self, if_pos rfl]
  · rw [State.coreAt_onCore_other s h, if_neg h]

theorem State.slotAt_send (s : State) (m : Msg) (c j : Nat) : (s.send m).1.slotAt c j = s.slotAt c j := by
  obtain ⟨traffic, core⟩ := s.coreAt_send m c
  rw [State.slotAt, core]
  rfl

@[simp] theorem State.me_send (s : State) (m : Msg) : (s.send m).1.me = s.me := s.slotAt_send m s.core s.slot

@[simp] theorem State.send_mesh (s : State) (m : Msg) : (s.send m).1.mesh = s.mesh ++ [{ m with seq := (s.coreAt m.src).seq }] := rfl
@[simp] theorem State.send_number (s : State) (m : Msg) : (s.send m).2 = (s.coreAt m.src).seq := rfl

/-- A message made by the issuing slot. -/
structure FromSlot (s : State) (m : Msg) : Prop where
  pid    : m.pid = s.me.pid
  src    : m.src = s.core
  prv    : m.prv = s.privileged s.core s.slot
  acct   : m.acct = s.me.acct
  lid    : m.lid = s.me.id.lid
  client : m.client = .slot s.core s.slot s.me.id

/-- Touching banks changes nothing that a message takes from its slot. -/
theorem State.blank_touched (s : State) (u : Use) : (s.touched u).blank s.core s.slot = s.blank s.core s.slot := by
  obtain ⟨pid, id, acct, -⟩ := s.touched_reads u
  have slot : (s.touched u).slotAt s.core s.slot = (s.touched u).me := rfl
  have was : s.slotAt s.core s.slot = s.me := rfl
  simp only [State.blank, slot, was, pid, id, acct, s.privileged_touched u]

/-- A state that has sent nothing since the instruction issued. -/
structure Unsent (s z : State) : Prop where
  mesh : z.mesh = s.mesh
  mem  : z.mem = s.mem
  spm  : z.spm = s.spm
  core : z.core = s.core
  seq  : z.here.seq = s.here.seq

theorem Unsent.refl (s : State) : Unsent s s := ⟨rfl, rfl, rfl, rfl, rfl⟩

theorem Unsent.onMe {s z : State} (h : Unsent s z) (f : Slot → Slot) : Unsent s (z.onMe f) :=
  ⟨h.mesh, h.mem, h.spm, h.core, by rw [State.here_onMe, ← h.seq]⟩

theorem sent_send {s z : State} {m : Msg} (h : Unsent s z) (hm : FromSlot s m) : Sent s (z.send m).1 { m with seq := s.here.seq } := by
  have number : (z.coreAt s.core).seq = s.here.seq := by rw [← h.seq, State.here, h.core]
  refine ⟨by rw [State.send_mesh, h.mesh, hm.src, number], ⟨hm.pid, hm.src, hm.prv, hm.acct, hm.lid, rfl, hm.client⟩, ?_, h.mem, h.spm⟩
  obtain ⟨_, core⟩ := z.coreAt_send m s.core
  rw [State.here, show (z.send m).1.core = s.core from h.core, core, hm.src, if_pos rfl, number]

theorem sent_onMe {s y : State} {m : Msg} (h : Sent s y m) (f : Slot → Slot) : Sent s (y.onMe f) m :=
  ⟨h.mesh, h.header, by rw [State.here_onMe, h.number], h.memory⟩

theorem sent_retire {s y : State} {m : Msg} (h : Sent s y m) (u : Use) : Sent s (y.retire u none) m :=
  ⟨h.mesh, h.header, by rw [State.here_retire]; exact h.number, h.memory⟩

/-! ## Awaited accesses (R231, R276) -/

/-- The slot of an awaited access that has retired. -/
theorem Slot.retired_awaiting {u : Use} (h : ∀ p ∈ u.srcs, p.2 = 0) (v : Slot) (now : Nat) (codes : List (BitVec 5)) (m : Msg) (act : AwaitAct)
    (plain : Bool) (turn : Nat) :
    Awaits v (({ v.touch now codes with awaits := (v.touch now codes).awaits ++
      [{ seqs := [m.seq], act := act, ea := m.va, plain := plain, saved := (v.touch now codes).saved, failed := none }] } : Slot).retired u none turn)
      m act := by
  have same := v.touch_eq now codes
  generalize v.touch now codes = z at same ⊢
  obtain ⟨pc, frame, next, shape⟩ := Slot.retired_unmarked h { z with awaits := z.awaits ++
    [{ seqs := [m.seq], act := act, ea := m.va, plain := plain, saved := z.saved, failed := none }] } turn
  have steps := Slot.retired_advances u (v := { z with awaits := z.awaits ++
    [{ seqs := [m.seq], act := act, ea := m.va, plain := plain, saved := z.saved, failed := none }] }) (w := v)
    (by rw [same]) (by rw [same]) turn
  generalize Slot.retired { z with awaits := _ } u none turn = w at *
  subst same
  exact ⟨by rw [shape], ⟨_, by rw [shape], rfl, rfl, rfl, rfl, rfl, rfl, rfl, rfl, rfl, rfl, rfl⟩, fun i => by rw [shape]; rfl, steps⟩

/-- An instruction that sends an awaited request and retires. -/
theorem awaited_retire {s : State} {u : Use} (h : ∀ p ∈ u.srcs, p.2 = 0) {m : Msg} (hm : FromSlot s m) (act : AwaitAct) (plain : Bool) :
    let t := ((s.touched u).sendAwaited [m] m.va act plain).retire u none
    Sent s t { m with seq := s.here.seq } ∧ Awaits s.me t.me { m with seq := s.here.seq } act := by
  have quiet : Unsent s (s.touched u) := (Unsent.refl s).onMe _
  have number : ((s.touched u).coreAt m.src).seq = s.here.seq := by rw [hm.src]; exact quiet.seq
  refine ⟨sent_retire (sent_onMe (sent_send quiet hm) _) u, ?_⟩
  have slot := Slot.retired_awaiting h s.me s.now u.codes { m with seq := s.here.seq } act plain s.turn
  have turn : ((s.touched u).send m).1.turn = s.turn := rfl
  rw [State.sendAwaited, State.me_onMe_retire]
  simpa only [turn, State.sendAll, State.me_send, State.me_touched, State.send_number, number] using slot

/-! ## Posted accesses (R166, R276, R385, R390) -/

/-- Outside strict mode the slot takes a new entry. -/
theorem State.addEntry_lazy {z : State} (strict : z.here.strict = false) (w : Work) (cls : Cls) (seq : BitVec 16) (left : Nat) : ∃ e : SbEntry,
    z.addEntry w cls seq left =
      (z.onMe fun v => { v with unack := z.me.unack, board := z.me.board ++ [e], boardNext := z.me.boardNext + 1 }, some z.me.boardNext) := by
  rw [State.addEntry, if_neg (by simp [strict])]
  exact ⟨_, rfl⟩

/-- A posted request of a slot: counted in strict mode, and otherwise held in a new entry. -/
theorem State.sendPosted_one (z : State) (m : Msg) (w : Work) : ∃ unack board next e,
    z.sendPosted m w = ((z.onMe fun v => { v with unack := unack, board := board, boardNext := next }).send { m with entry := e, storing := true }).1 ∧
      unack = (if z.here.strict then z.me.unack + 1 else z.me.unack) ∧
      board.length = (if z.here.strict then z.me.board.length else z.me.board.length + 1) := by
  cases strict : z.here.strict with
  | true =>
    refine ⟨_, _, z.me.boardNext, none, ?_, rfl, rfl⟩
    rw [State.sendPosted, State.postAll, State.addEntry, if_pos strict]
    simp only [strict, if_true]
    rfl
  | false =>
    have kept (f : Slot → Slot) : (z.onMe f).here.strict = false := by rw [State.here_onMe]; exact strict
    obtain ⟨e, added⟩ := State.addEntry_lazy strict w m.cls z.here.seq 1
    refine ⟨z.me.unack, z.me.board ++ [e], z.me.boardNext + 1, some z.me.boardNext, ?_, rfl, by simp⟩
    rw [State.sendPosted, State.postAll, List.length_singleton, added]
    simp only [kept, Bool.false_eq_true, if_false]
    rfl

/-- A posted access, with the sc fence that a synchronising one leaves to come. -/
theorem State.sendStore_one {s z : State} {m : Msg} (h : Unsent s z) (hm : FromSlot s m) (hs : z.here.strict = s.here.strict) (w : Work) :
    ∃ unack board next syncing e, (z.sendStore m w).me = { z.me with unack := unack, board := board, boardNext := next, syncing := syncing } ∧
      unack = (if s.here.strict then z.me.unack + 1 else z.me.unack) ∧
      board.length = (if s.here.strict then z.me.board.length else z.me.board.length + 1) ∧
      syncing = (z.me.syncing || m.ord == 3) ∧ Sent s (z.sendStore m w) { m with entry := e, storing := true, seq := s.here.seq } ∧
      (z.sendStore m w).turn = z.turn := by
  obtain ⟨unack, board, next, e, sends, hunack, hboard⟩ := z.sendPosted_one m w
  rw [hs] at hunack hboard
  have sent := sent_send (m := { m with entry := e, storing := true }) (h.onMe fun v => { v with unack := unack, board := board, boardNext := next })
    ⟨hm.pid, hm.src, hm.prv, hm.acct, hm.lid, hm.client⟩
  rw [← sends] at sent
  have me : (z.sendPosted m w).me = { z.me with unack := unack, board := board, boardNext := next } := by rw [sends, State.me_send, State.me_onMe]
  have turn : (z.sendPosted m w).turn = z.turn := by rw [sends]; rfl
  by_cases sync : m.ord = 3
  · refine ⟨unack, board, next, true, e, ?_, hunack, hboard, by simp [sync], ?_⟩
    · rw [State.sendStore, if_pos sync, State.me_onMe, me]
    · rw [State.sendStore, if_pos sync]
      exact ⟨sent_onMe sent _, turn⟩
  · refine ⟨unack, board, next, z.me.syncing, e, ?_, hunack, hboard, by rw [beq_eq_false_iff_ne.2 sync, Bool.or_false], ?_⟩
    · rw [State.sendStore, if_neg sync, me]
    · rw [State.sendStore, if_neg sync]
      exact ⟨sent, turn⟩

/-! ## Passing issue -/

theorem State.holds_touched {s : State} {wc : Nat} (h : s.posted s.core wc = false) (u : Use) : (s.touched u).holds wc = false := by
  have same : (s.touched u).posted (s.touched u).core wc = false := h
  rw [State.holds, same, Bool.and_false]

theorem State.strict_touched (s : State) (u : Use) : (s.touched u).here.strict = s.here.strict := by
  rw [s.here_touched u]
  rfl

theorem State.boardFull_touched {s : State} (h : s.here.strict = true ∨ s.me.board.length < 16) (u : Use) : (s.touched u).boardFull = false := by
  have board : (s.touched u).me.board = s.me.board := by rw [State.me_touched, Slot.touch_eq]
  rw [State.boardFull, s.strict_touched u, board]
  rcases h with h | h
  · simp [h]
  · simp; omega

/-! ## Loads (R277) -/

theorem exec_loadOf {i : Instr} {f : MemForm} (h : loadOf i = some f) : scalarSize f.size ∧
    ∀ s, exec i s = loadForm i f.size f.signed f.d f.a f.o f.sc f.w f.off s := by
  unfold loadOf at h
  split at h
  all_goals cases h
  all_goals exact ⟨by simp [scalarSize], fun _ => rfl⟩

theorem exec_storeOf {i : Instr} {f : MemForm} (h : storeOf i = some f) : scalarSize f.size ∧
    ∀ s, exec i s = storeForm i f.size f.d f.a f.o f.sc f.w f.off s := by
  unfold storeOf at h
  split at h
  all_goals cases h
  all_goals exact ⟨by simp [scalarSize], fun _ => rfl⟩

theorem MemForm.ea_eq (f : MemForm) (s : State) : f.ea s = eaScaled (s.src f.a) f.off f.size := by
  rw [MemForm.ea, wrap_add_toNat, eaScaled, Int.mul_comm]

theorem sizeCode_size {n : Nat} (h : scalarSize n) : 2 ^ (sizeCode n).toNat = n := by
  rcases h with rfl | rfl | rfl | rfl <;> decide

theorem regionOf_global {va : Nat} (h : 2 ^ 32 ≤ va) : regionOf va = .global := by rw [regionOf, if_neg (by omega), if_neg (by omega)]

theorem regionOf_spad {va : Nat} (low : 2 ^ 28 ≤ va) (high : va < 2 ^ 32) : regionOf va = .spad := by rw [regionOf, if_neg (by omega), if_pos (by omega)]

theorem regionOf_local {va : Nat} (h : va < 2 ^ 28) : regionOf va = .local_ := by rw [regionOf, if_pos (by omega)]

theorem loadAt_global {size : Nat} {ea : Word} (h : Global ea size) (signed : Bool) (d : BitVec 5) (o sc : BitVec 2) (z : State) :
    loadAt size signed d o sc ea z = .retire (z.sendAwaited
      [{ z.blank z.core z.slot with ord := o, sc := sc, size := sizeCode size, va := ea, proc := 0 }] ea (.load size signed d) (o == 0)) none := by
  obtain ⟨aligned, far⟩ := h
  simp [loadAt, aligned, regionCheck_global far, regionOf_global far]

theorem loadAt_otherSpad {z : State} {size : Nat} {ea : Word} (h : OtherSpad z ea size) (signed : Bool) (d : BitVec 5) (o sc : BitVec 2) :
    loadAt size signed d o sc ea z = .retire (z.sendAwaited
      [{ z.blank z.core z.slot with ord := o, sc := sc, size := sizeCode size, va := ea, dst := spmCore ea.toNat, proc := 8,
                                    paddr := z.spadPlace (z.blank z.core z.slot).pid ea, stage := .toOwner }] ea (.load size signed d) (o == 0)) none := by
  obtain ⟨aligned, low, high, away, check⟩ := h
  simp [loadAt, aligned, check, regionOf_spad low high, away]

theorem otherSpad_touched {s : State} {ea : Word} {n : Nat} (h : OtherSpad s ea n) (u : Use) : OtherSpad (s.touched u) ea n := by
  obtain ⟨aligned, low, high, away, check⟩ := h
  exact ⟨aligned, low, high, away, regionCheck_spad low high check _ _⟩

/-- PADDR does not change as banks are touched. -/
theorem State.spadPlace_touched (s : State) (u : Use) (pid : BitVec 16) (va : Word) : (s.touched u).spadPlace pid va = s.spadPlace pid va := by
  have allocs : ((s.touched u).coreAt (spmCore va.toNat)).allocs = (s.coreAt (spmCore va.toNat)).allocs := by
    by_cases own : spmCore va.toNat = s.core
    · rw [own]
      exact congrArg (·.allocs) (s.here_touched u)
    · rw [State.touched, State.coreAt_onMe_other s own]
  simp only [State.spadPlace, State.spmByte, State.allocAt, allocs]

theorem fromSlot_blank (s : State) (u : Use) : FromSlot s ((s.touched u).blank s.core s.slot) := by
  rw [s.blank_touched u]
  exact ⟨rfl, rfl, rfl, rfl, rfl, rfl⟩

/-- A load that passes issue acts at its address. -/
theorem exec_load_issues {i : Instr} {f : MemForm} {s : State} (hf : loadOf i = some f)
    (hi : Issues s i [f.a] [f.d] [] [] (if f.o = 3 then .waits else .load)) (hp : s.posted s.core (if f.o = 3 then 3 else f.w.toNat) = false) :
    ∃ u : Use, (∀ p ∈ u.srcs, p.2 = 0) ∧ u.codes = [f.a, f.d] ∧
      exec i s = (loadAt f.size f.signed f.d f.o f.sc (f.ea s) (s.touched u)).out u s := by
  let u : Use := { use i with srcs := [(f.a, 0)], dsts := [f.d], young := if f.o = 3 then .waits else .load }
  have passes : Passes u s := hi.passes (u := u) rfl rfl rfl rfl
  refine ⟨u, by simp [u], rfl, ?_⟩
  rw [(exec_loadOf hf).2 s, loadForm, issue_passes passes, State.holds_touched hp u, State.src_touched, ← MemForm.ea_eq]
  rfl

/-- A store that passes issue acts at its address. -/
theorem exec_store_issues {i : Instr} {f : MemForm} {s : State} (hf : storeOf i = some f) (hi : Issues s i [f.a, f.d] [] [] [])
    (hp : s.posted s.core (if f.o = 2 ∨ f.o = 3 then 3 else f.w.toNat) = false) :
    ∃ u : Use, (∀ p ∈ u.srcs, p.2 = 0) ∧ u.codes = [f.a, f.d] ∧
      exec i s = ((storeAt f.size f.o f.sc (f.ea s) ((s.src f.d).signExtend 64) (s.touched u)).also fun t => t.onMe fun v => v.unmark f.d).out u s := by
  let u : Use := { use i with srcs := [(f.a, 0), (f.d, 0)] }
  have passes : Passes u s := hi.passes (u := u) rfl rfl rfl rfl
  have free : (s.touched u).holds (orderWait f.o f.w) = false := State.holds_touched hp u
  refine ⟨u, by simp [u], rfl, ?_⟩
  rw [(exec_storeOf hf).2 s, storeForm, issue_passes passes, free, State.src_touched, State.src_touched, ← MemForm.ea_eq]
  rfl

/-! ## Stores (R277) -/

theorem storeAt_global {z : State} {size : Nat} {ea : Word} (h : Global ea size) (room : z.boardFull = false) (o sc : BitVec 2) (x : XWord) :
    storeAt size o sc ea x z = .retire (z.sendStore
      { z.blank z.core z.slot with ord := o, sc := sc, size := sizeCode size, va := ea, opa := x, proc := 1, cls := .moot }
      (.scalar ea size 0 x 0)) none := by
  obtain ⟨aligned, far⟩ := h
  simp [storeAt, aligned, regionCheck_global far, regionOf_global far, room]

theorem storeAt_otherSpad {z : State} {size : Nat} {ea : Word} (h : OtherSpad z ea size) (room : z.boardFull = false) (o sc : BitVec 2) (x : XWord) :
    storeAt size o sc ea x z = .retire (z.sendStore
      { z.blank z.core z.slot with ord := o, sc := sc, size := sizeCode size, va := ea, opa := x, dst := spmCore ea.toNat, proc := 9,
                                   paddr := z.spadPlace (z.blank z.core z.slot).pid ea, stage := .toOwner, cls := .two }
      (.scalar ea size 0 x 0)) none := by
  obtain ⟨aligned, low, high, away, check⟩ := h
  simp [storeAt, aligned, check, regionOf_spad low high, away, room]

/-- The slot of a posted access that has retired. -/
theorem Slot.retired_posted {u : Use} (h : ∀ p ∈ u.srcs, p.2 = 0) (v : Slot) (now : Nat) (codes : List (BitVec 5)) {x : Slot} {unack next : Nat}
    {board : List SbEntry} {syncing : Bool}
    (hx : x = { v.touch now codes with unack := unack, board := board, boardNext := next, syncing := syncing }) {y : Slot}
    (hy : ∃ lo hi, y = { x with lo := lo, hi := hi }) (turn : Nat) :
    let w := y.retired u none turn
    w.unack = unack ∧ w.board = board ∧ w.syncing = syncing ∧ Advances v w := by
  obtain ⟨lo, hi, rfl⟩ := hy
  obtain ⟨_, _, touch⟩ := v.touch_banks now codes
  obtain ⟨_, _, _, shape⟩ := Slot.retired_unmarked h { x with lo := lo, hi := hi } turn
  have steps := Slot.retired_advances u (v := { x with lo := lo, hi := hi }) (w := v) (by rw [hx, touch]) (by rw [hx, touch]) turn
  refine ⟨?_, ?_, ?_, steps⟩ <;> rw [shape, hx]

/-- What a posted access leaves: the message, and a slot that any change of its banks and retirement leave as R276 and R385 say. -/
theorem posted_sent {s : State} {u : Use} (h : ∀ p ∈ u.srcs, p.2 = 0) {m : Msg} (hm : FromSlot s m) (w : Work) :
    let y := (s.touched u).sendStore m w
    ∃ e, Sent s y { m with entry := e, storing := true, seq := s.here.seq } ∧ y.turn = s.turn ∧
      ∀ v, (∃ lo hi, v = { y.me with lo := lo, hi := hi }) → let w := v.retired u none s.turn
        w.unack = (if s.here.strict then s.me.unack + 1 else s.me.unack) ∧
        w.board.length = (if s.here.strict then s.me.board.length else s.me.board.length + 1) ∧
        w.syncing = (s.me.syncing || m.ord == 3) ∧ Advances s.me w := by
  obtain ⟨unack, board, next, syncing, e, me, hunack, hboard, hsync, sent, turn⟩ :=
    State.sendStore_one (z := s.touched u) ((Unsent.refl s).onMe _) hm (s.strict_touched u) w
  have fields := s.me.touch_eq s.now u.codes
  rw [s.me_touched u] at me hunack hboard hsync
  refine ⟨e, sent, turn, fun v hv => ?_⟩
  obtain ⟨a, b, c, steps⟩ := Slot.retired_posted h s.me s.now u.codes me hv s.turn
  dsimp only
  rw [a, b, c, hunack, hboard, hsync, fields]
  exact ⟨rfl, rfl, rfl, steps⟩

/-- A store that sends a posted request, ends the mark of its data and retires. -/
theorem posted_retire {s : State} {u : Use} (h : ∀ p ∈ u.srcs, p.2 = 0) {m : Msg} (hm : FromSlot s m) (w : Work) (d : BitVec 5) :
    let t := (((s.touched u).sendStore m w).onMe fun v => v.unmark d).retire u none
    ∃ e, Sent s t { m with entry := e, storing := true, seq := s.here.seq } ∧
      t.me.unack = (if s.here.strict then s.me.unack + 1 else s.me.unack) ∧
      t.me.board.length = (if s.here.strict then s.me.board.length else s.me.board.length + 1) ∧
      t.me.syncing = (s.me.syncing || m.ord == 3) ∧ Advances s.me t.me := by
  obtain ⟨e, sent, turn, slot⟩ := posted_sent h hm w
  refine ⟨e, sent_retire (sent_onMe sent _) u, ?_⟩
  rw [State.me_onMe_retire, turn]
  exact slot _ (Slot.unmark_banks _ d)

/-- R126 and R276: the message of a remote load. -/
theorem remoteLoads {i : Instr} {f : MemForm} {s : State} (hf : loadOf i = some f)
    (hi : Issues s i [f.a] [f.d] [] [] (if f.o = 3 then .waits else .load)) (hp : s.posted s.core (if f.o = 3 then 3 else f.w.toNat) = false) :
    (Global (f.ea s) f.size → ∃ t m, exec i s = .next t ∧ Sent s t m ∧ m.proc = 0 ∧ m.stage = .toStation ∧ m.va = f.ea s ∧
      m.ord = f.o ∧ m.sc = f.sc ∧ 2 ^ m.size.toNat = f.size ∧ m.storing = false ∧ Awaits s.me t.me m (.load f.size f.signed f.d)) ∧
    (OtherSpad s (f.ea s) f.size → ∃ t m, exec i s = .next t ∧ Sent s t m ∧ m.proc = 8 ∧ m.fn = 0 ∧ m.stage = .toOwner ∧
      m.dst = spmCore (f.ea s).toNat ∧ m.va = f.ea s ∧ m.paddr = s.spadPlace s.me.pid (f.ea s) ∧ 2 ^ m.size.toNat = f.size ∧
      Awaits s.me t.me m (.load f.size f.signed f.d)) := by
  obtain ⟨u, plain, -, run⟩ := exec_load_issues hf hi hp
  have from_ := fromSlot_blank s u
  have size := sizeCode_size (exec_loadOf hf).1
  refine ⟨fun global => ?_, fun other => ?_⟩
  · rw [loadAt_global global] at run
    obtain ⟨sent, awaits⟩ := awaited_retire plain (m := { (s.touched u).blank s.core s.slot with ord := f.o, sc := f.sc, size := sizeCode f.size, va := f.ea s, proc := 0 })
      ⟨from_.pid, from_.src, from_.prv, from_.acct, from_.lid, from_.client⟩ (.load f.size f.signed f.d) (f.o == 0)
    exact ⟨_, _, run, sent, rfl, rfl, rfl, rfl, rfl, size, rfl, awaits⟩
  · rw [loadAt_otherSpad (otherSpad_touched other u)] at run
    have place : (s.touched u).spadPlace ((s.touched u).blank s.core s.slot).pid (f.ea s) = s.spadPlace s.me.pid (f.ea s) := by
      rw [s.spadPlace_touched u, from_.pid]
    obtain ⟨sent, awaits⟩ := awaited_retire plain (m := { (s.touched u).blank s.core s.slot with
        ord := f.o, sc := f.sc, size := sizeCode f.size, va := f.ea s, dst := spmCore (f.ea s).toNat, proc := 8,
        paddr := (s.touched u).spadPlace ((s.touched u).blank s.core s.slot).pid (f.ea s), stage := .toOwner })
      ⟨from_.pid, from_.src, from_.prv, from_.acct, from_.lid, from_.client⟩ (.load f.size f.signed f.d) (f.o == 0)
    exact ⟨_, _, run, sent, rfl, rfl, rfl, rfl, rfl, place, size, awaits⟩

/-- R126 and R276: the message of a remote store. -/
theorem remoteStores {i : Instr} {f : MemForm} {s : State} (hf : storeOf i = some f) (hi : Issues s i [f.a, f.d] [] [] [])
    (hp : s.posted s.core (if f.o = 2 ∨ f.o = 3 then 3 else f.w.toNat) = false) (room : s.here.strict = true ∨ s.me.board.length < 16) :
    (Global (f.ea s) f.size → ∃ t m, exec i s = .next t ∧ Sent s t m ∧ m.proc = 1 ∧ m.stage = .toStation ∧ m.va = f.ea s ∧
      m.opa = (s.src f.d).signExtend 64 ∧ 2 ^ m.size.toNat = f.size ∧ m.storing = true ∧
      t.me.unack = (if s.here.strict then s.me.unack + 1 else s.me.unack) ∧
      t.me.board.length = (if s.here.strict then s.me.board.length else s.me.board.length + 1) ∧
      t.me.syncing = (s.me.syncing || f.o == 3) ∧ Advances s.me t.me) ∧
    (OtherSpad s (f.ea s) f.size → ∃ t m, exec i s = .next t ∧ Sent s t m ∧ m.proc = 9 ∧ m.fn = 0 ∧ m.stage = .toOwner ∧
      m.dst = spmCore (f.ea s).toNat ∧ m.va = f.ea s ∧ m.paddr = s.spadPlace s.me.pid (f.ea s) ∧ m.opa = (s.src f.d).signExtend 64 ∧
      2 ^ m.size.toNat = f.size ∧ m.storing = true ∧ t.me.syncing = (s.me.syncing || f.o == 3) ∧ Advances s.me t.me) := by
  obtain ⟨u, plain, -, run⟩ := exec_store_issues hf hi hp
  have from_ := fromSlot_blank s u
  have size := sizeCode_size (exec_storeOf hf).1
  have free := State.boardFull_touched room u
  refine ⟨fun global => ?_, fun other => ?_⟩
  · rw [storeAt_global global free] at run
    obtain ⟨e, sent, unack, board, syncing, steps⟩ := posted_retire plain (m := { (s.touched u).blank s.core s.slot with
        ord := f.o, sc := f.sc, size := sizeCode f.size, va := f.ea s, opa := (s.src f.d).signExtend 64, proc := 1, cls := .moot })
      ⟨from_.pid, from_.src, from_.prv, from_.acct, from_.lid, from_.client⟩ (.scalar (f.ea s) f.size 0 ((s.src f.d).signExtend 64) 0) f.d
    exact ⟨_, _, run, sent, rfl, rfl, rfl, rfl, size, rfl, unack, board, syncing, steps⟩
  · rw [storeAt_otherSpad (otherSpad_touched other u) free] at run
    have place : (s.touched u).spadPlace ((s.touched u).blank s.core s.slot).pid (f.ea s) = s.spadPlace s.me.pid (f.ea s) := by
      rw [s.spadPlace_touched u, from_.pid]
    obtain ⟨e, sent, -, -, syncing, steps⟩ := posted_retire plain (m := { (s.touched u).blank s.core s.slot with
        ord := f.o, sc := f.sc, size := sizeCode f.size, va := f.ea s, opa := (s.src f.d).signExtend 64, dst := spmCore (f.ea s).toNat, proc := 9,
        paddr := (s.touched u).spadPlace ((s.touched u).blank s.core s.slot).pid (f.ea s), stage := .toOwner, cls := .two })
      ⟨from_.pid, from_.src, from_.prv, from_.acct, from_.lid, from_.client⟩ (.scalar (f.ea s) f.size 0 ((s.src f.d).signExtend 64) 0) f.d
    exact ⟨_, _, run, sent, rfl, rfl, rfl, rfl, rfl, place, rfl, size, rfl, syncing, steps⟩

/-! ## Accesses of the own vault -/

/-- What the region check, the wait and the energy account leave to an access of the own vault: a state with the same slot and sound words. -/
theorem inVault_touched {s : State} {ea : Word} {n : Nat} (h : InVault s ea n) (u : Use) :
    (s.touched u).regionCheck s.core s.slot ea.toNat = (s.touched u, none) ∧
      ((s.touched u).chargeGranules s.core (s.touched u).me.acct n).sound (ownVault s ea) n := by
  obtain ⟨-, -, window, admitted, sound⟩ := h
  exact ⟨regionCheck_admitted (s := s.touched u) window (admitted_touched u admitted), sound⟩

/-- The granules of an aligned access to the own vault lie there. -/
theorem inVault_granules {s : State} {ea : Word} {n : Nat} (h : InVault s ea n) (hz : scalarSize n) :
    ∀ g ∈ granules (ownVault s ea) n, vaultOf (g * 32) = s.core := by
  obtain ⟨core, aligned, window, -⟩ := h
  exact fun g hg => vaultOf_window core (window_end hz aligned window) hg

/-! ## Atomics (R280) -/

/-- The function of an atomic is that of R280. -/
theorem atomicOf_eq {fn : Nat} (h : fn ≤ 9) (old b c : XWord) : atomicOf fn old b c = atomicWord fn old b c := by
  match fn, h with
  | 0, _ => exact BitVec.eq_of_toNat_eq (by simp [atomicOf, atomicWord])
  | 1, _ | 2, _ | 3, _ | 8, _ | 9, _ => rfl
  | 4, _ =>
    simp only [atomicOf, atomicWord, min_def, apply_ite (BitVec.ofInt 64), BitVec.ofInt_toInt]
  | 5, _ =>
    simp only [atomicOf, atomicWord, max_def, apply_ite (BitVec.ofInt 64), BitVec.ofInt_toInt]
  | 6, _ =>
    simp only [atomicOf, atomicWord, min_def, apply_ite (BitVec.ofNat 64), BitVec.ofNat_toNat, BitVec.setWidth_eq]
  | 7, _ =>
    simp only [atomicOf, atomicWord, max_def, apply_ite (BitVec.ofNat 64), BitVec.ofNat_toNat, BitVec.setWidth_eq]

/-- An atomic on a sound word. -/
theorem atomicAccess_sound {s : State} {a : Nat} (h : s.sound a 8) (w : Who) (fn : Nat) (b c : XWord) :
    ∃ t, s.atomicAccess w a fn b c = (t, 0, BitVec.ofNat 64 (s.mem.readNat a 8)) ∧ Accessed (granules a 8) s t ∧
      Stored s.mem t.mem a (leBytes 8 (atomicOf fn (BitVec.ofNat 64 (s.mem.readNat a 8)) b c).toNat) := by
  obtain ⟨y, read, first, same⟩ := h.vaultRead w
  have there : y.sound a (leBytes 8 (atomicOf fn (BitVec.ofNat 64 (s.mem.readNat a 8)) b c).toNat).length := by
    rw [leBytes_length]
    exact (first.sound a 8).2 h
  obtain ⟨t, write, second, stored⟩ := there.vaultWrite w
  rw [leBytes_length] at second
  rw [same] at stored
  refine ⟨t, ?_, first.trans second, stored⟩
  rw [State.atomicAccess, read]
  simp only [bne_self_eq_false, Bool.false_eq_true, if_false]
  rw [← Memory.readNat, write]

theorem exec_atomicOf {i : Instr} {f : WordForm} (h : atomicOf? i = some f) :
    f.fn ≤ 9 ∧ ∃ sc, ∀ s, exec i s = atomicForm i f.fn f.d f.a f.b f.o sc f.w s := by
  unfold atomicOf? at h
  split at h
  all_goals cases h
  all_goals exact ⟨Nat.le_of_ble_eq_true rfl, _, fun _ => rfl⟩

section
variable {i : Instr} {f : WordForm} {s : State} (hf : atomicOf? i = some f)
  (hi : Issues s i (if f.fn = 9 then [f.a, f.b, f.d] else [f.a, f.b]) [f.d] [] [])
  (hp : s.posted s.core (if f.o = 2 ∨ f.o = 3 then 3 else f.w.toNat) = false)
include hf hi hp

/-- An atomic that passes issue: an access of the own vault, or a message, posted where rd discards writes. -/
theorem exec_atomic_issues : ∃ (u : Use) (sc : BitVec 2), (∀ p ∈ u.srcs, p.2 = 0) ∧
    u.codes = (if f.fn = 9 then [f.a, f.b, f.d, f.d] else [f.a, f.b, f.d]) ∧
    let ea := s.src f.a
    let b := (s.src f.b).signExtend 64
    let c := if f.fn = 9 then (s.src f.d).signExtend 64 else 0
    let z := s.touched u
    let m := { z.blank s.core s.slot with ord := f.o, sc := sc, size := 3, va := ea, opa := b, opb := c, proc := 2, fn := BitVec.ofNat 4 f.fn }
    (InVault s ea 8 → z.vaultBusy (ownVault s ea) 8 = false → ∃ w, ∀ y old,
      (z.chargeGranules s.core z.me.acct 8).atomicAccess w (ownVault s ea) f.fn b c = (y, 0, old) →
        exec i s = .next ((y.dst f.d (lowWord old) 0 1).retire u none)) ∧
    (Global ea 8 → discards f.d = false → exec i s = .next ((z.sendAwait m (.atomic f.d)).retire u none)) ∧
    (Global ea 8 → discards f.d = true → z.boardFull = false →
      exec i s = .next ((z.sendStore { m with cls := .moot } (.scalar ea 8 (16 + f.fn) b c)).retire u none)) := by
  obtain ⟨-, sc, run⟩ := exec_atomicOf hf
  let u : Use := { use i with srcs := if f.fn == 9 then [(f.a, 0), (f.b, 0), (f.d, 0)] else [(f.a, 0), (f.b, 0)], dsts := [f.d] }
  have names : u.srcs.map (·.1) = if f.fn = 9 then [f.a, f.b, f.d] else [f.a, f.b] := by by_cases cas : f.fn = 9 <;> simp [u, cas]
  have passes : Passes u s := Issues.passes (i := i) (u := u) (vecs := []) (by rw [names]; exact hi) rfl rfl rfl rfl
  have free : (s.touched u).holds (orderWait f.o f.w) = false := State.holds_touched hp u
  have issued := run s
  rw [atomicForm] at issued
  change exec i s = issue u s _ at issued
  rw [issue_passes passes] at issued
  simp only [State.src_touched, free, beq_iff_eq, sxWord] at issued
  refine ⟨u, sc, ?_, ?_, fun own idle => ⟨((s.touched u).chargeGranules s.core (s.touched u).me.acct 8).who s.core s.slot, fun y old access => ?_⟩, fun global keeps => ?_, fun global quiet room => ?_⟩
  · by_cases cas : f.fn = 9 <;> simp [u, cas]
  · by_cases cas : f.fn = 9 <;> simp [u, cas, Use.codes]
  · obtain ⟨check, -⟩ := inVault_touched own u
    obtain ⟨-, aligned, window, -⟩ := own
    rw [ownVault] at idle access
    rw [aligned, State.touched_core, State.touched_slot, check] at issued
    dsimp only at issued
    rw [regionOf_local window] at issued
    dsimp only at issued
    rw [State.touched_core, idle, State.chargeGranules_core, State.chargeGranules_slot, State.touched_core, State.touched_slot, access] at issued
    exact issued
  · obtain ⟨aligned, far⟩ := global
    rw [issued]
    simp [aligned, regionCheck_global far, regionOf_global far, keeps, Act.out]
  · obtain ⟨aligned, far⟩ := global
    rw [issued]
    simp [aligned, regionCheck_global far, regionOf_global far, quiet, room, Act.out]
/-- An atomic on a word of the own vault (R280). -/
theorem ownAtomics (own : InVault s (s.src f.a) 8)
    (idle : Unblocked s (if f.fn = 9 then [f.a, f.b, f.d, f.d] else [f.a, f.b, f.d]) (s.src f.a) 8) :
    ∃ t, exec i s = .next t ∧ VaultOnly s t ∧
      Stored s.mem t.mem (ownVault s (s.src f.a)) (leBytes 8 (atomicWord f.fn (BitVec.ofNat 64 (s.mem.readNat (ownVault s (s.src f.a)) 8))
        ((s.src f.b).signExtend 64) (if f.fn = 9 then (s.src f.d).signExtend 64 else 0)).toNat) ∧
      Delivered s.me t.me s.now f.d (wrap (s.mem.readNat (ownVault s (s.src f.a)) 8)) false 1 ∧ WindowKept s.me t.me [f.d] [] ∧
      ScalarOnly s.me t.me ∧ Advances s.me t.me := by
  obtain ⟨u, _, plain, codes, run, -, -⟩ := exec_atomic_issues hf hi hp
  rw [Unblocked, ← codes, State.acting_eq] at idle
  obtain ⟨-, sound⟩ := inVault_touched own u
  obtain ⟨w, run⟩ := run own idle
  obtain ⟨y, access, acc, stored⟩ := atomicAccess_sound sound w f.fn ((s.src f.b).signExtend 64) (if f.fn = 9 then (s.src f.d).signExtend 64 else 0)
  have frame : OwnAccess (s.touched u) y := (OwnAccess.charge (s.touched u) _ 8).trans
    (.of_accessed acc (inVault_granules own (.inr (.inr (.inr rfl)))))
  obtain ⟨retired, delivered⟩ := frame.delivered plain f.d (lowWord (BitVec.ofNat 64 (s.mem.readNat (ownVault s (s.src f.a)) 8))) 1
  rw [atomicOf_eq (exec_atomicOf hf).1] at stored
  rw [← lowWord_ofNat]
  exact ⟨_, run y _ access, retired.vaultOnly acc.empties, stored, delivered⟩

/-- The message of an atomic on a global address (R133, R276, R280). -/
theorem globalAtomics (global : Global (s.src f.a) 8) (room : discards f.d = false ∨ s.here.strict = true ∨ s.me.board.length < 16) :
    ∃ t m, exec i s = .next t ∧ Sent s t m ∧ m.proc = 2 ∧ m.fn.toNat = f.fn ∧ m.stage = .toStation ∧ m.va = s.src f.a ∧
      m.opa = (s.src f.b).signExtend 64 ∧ m.opb = (if f.fn = 9 then (s.src f.d).signExtend 64 else 0) ∧ m.storing = discards f.d ∧
      (discards f.d = false → Awaits s.me t.me m (.atomic f.d)) ∧ (discards f.d = true → Advances s.me t.me) := by
  obtain ⟨u, sc, plain, -, -, awaited, posted⟩ := exec_atomic_issues hf hi hp
  have from_ := fromSlot_blank s u
  have fn : (BitVec.ofNat 4 f.fn).toNat = f.fn := by
    have := (exec_atomicOf hf).1
    simp
    omega
  cases quiet : discards f.d with
  | false =>
    obtain ⟨sent, awaits⟩ := awaited_retire plain (m := { (s.touched u).blank s.core s.slot with
        ord := f.o, sc := sc, size := 3, va := s.src f.a, opa := (s.src f.b).signExtend 64,
        opb := if f.fn = 9 then (s.src f.d).signExtend 64 else 0, proc := 2, fn := BitVec.ofNat 4 f.fn })
      ⟨from_.pid, from_.src, from_.prv, from_.acct, from_.lid, from_.client⟩ (.atomic f.d) false
    exact ⟨_, _, awaited global quiet, sent, rfl, fn, rfl, rfl, rfl, rfl, rfl, fun _ => awaits, fun h => nomatch h⟩
  | true =>
    have free := State.boardFull_touched (room.resolve_left (by simp [quiet])) u
    obtain ⟨e, sent, turn, slot⟩ := posted_sent plain (m := { (s.touched u).blank s.core s.slot with
        ord := f.o, sc := sc, size := 3, va := s.src f.a, opa := (s.src f.b).signExtend 64,
        opb := if f.fn = 9 then (s.src f.d).signExtend 64 else 0, proc := 2, fn := BitVec.ofNat 4 f.fn, cls := .moot })
      ⟨from_.pid, from_.src, from_.prv, from_.acct, from_.lid, from_.client⟩
      (.scalar (s.src f.a) 8 (16 + f.fn) ((s.src f.b).signExtend 64) (if f.fn = 9 then (s.src f.d).signExtend 64 else 0))
    refine ⟨_, _, posted global quiet free, sent_retire sent u, rfl, fn, rfl, rfl, rfl, rfl, rfl, (nomatch ·), fun _ => ?_⟩
    rw [State.me_retire, turn]
    exact (slot _ ⟨_, _, rfl⟩).2.2.2
end

/-! ## The obligation -/

/-- Settles O8: each form is the one act that it makes once it has issued, a message sent (`awaited_retire`, `posted_retire`) or an
access of the own vault without an error (`atomicAccess_sound`). -/
theorem remoteAccessesAndAtomics : Obligations.RemoteAccessesAndAtomics := by
  unfold Obligations.RemoteAccessesAndAtomics
  refine ⟨fun i f s => ⟨remoteLoads, remoteStores⟩, fun i f s hf hi hp => ⟨ownAtomics hf hi hp, globalAtomics hf hi hp⟩⟩

end Sys2Proof.Machine
end

section
/-! # Full/empty forms and forms that migrate (O9)

A full/empty form whose condition is met is an error-free access of its word that visits no waiter, and one whose condition fails suspends its
strand; a migrating form is a load or a store where the word is the current core's, and else a suspension. -/

namespace Sys2Proof.Machine
open Sys2Proof.Statements

/-! ## Full/empty words -/

theorem WordForm.may_eq (f : WordForm) (full : Bool) : f.may full = feHolds f.load f.fn full := by
  unfold WordForm.may feHolds
  split
  · rfl
  · by_cases h : f.fn = 0 <;> simp [h]

/-- The bits after a form at its bank are those of R145. -/
theorem WordForm.feBit_eq (f : WordForm) (s : State) (a : Nat) : s.feBit f.load f.fn a = { s with empties := f.after (a / 8) s.empties } := by
  unfold State.feBit WordForm.after
  cases f.load with
  | true =>
    by_cases h : f.fn = 0
    · simp [h]
    · simp [h]
  | false => rfl

/-- A bank visits no waiter of a word that no strand waits on. -/
theorem State.feWake_quiet {s : State} {a : Nat} (h : ∀ w ∈ (s.coreAt (vaultOf a)).waiters, w.onWord a = false) : s.feWake a = s := by
  have none : (s.coreAt (vaultOf a)).waiters.any (fun w => w.onWord a) = false := List.any_eq_false.2 fun w hw => by simp [h w hw]
  simp [State.feWake, none]

/-- The word of a sound access is not lost. -/
theorem State.sound.not_lost {s : State} {a n : Nat} (h : s.sound a n) (hn : 0 < n) : s.isLost a = false :=
  (isLost_granule s a).symm.trans (h _ (mem_granules.2 ⟨Nat.le_refl _, by omega⟩)).1

/-- A form at a sound word that no strand waits on: a load delivers the word, a store writes it, and the bit is set as the form says
(R145). -/
theorem fePerform_sound {s : State} {a : Nat} (h : s.sound a 8) (hw : ∀ w ∈ (s.coreAt (vaultOf a)).waiters, w.onWord a = false) (f : WordForm)
    (w : Who) (x : XWord) :
    ∃ t, s.fePerform w a f.load f.fn x =
        ({ t with empties := f.after (a / 8) s.empties }, 0, if f.load then BitVec.ofNat 64 (leNat (s.mem.readBytes a 8)) else 0) ∧
      Accessed (granules a 8) s t ∧ (f.load = true → t.mem = s.mem) ∧ (f.load = false → Stored s.mem t.mem a (leBytes 8 x.toNat)) := by
  have quiet {t : State} (acc : Accessed (granules a 8) s t) : (t.feBit f.load f.fn a).feWake a = { t with empties := f.after (a / 8) s.empties } := by
    rw [WordForm.feBit_eq, acc.empties]
    refine State.feWake_quiet fun w hm => hw w ?_
    rw [← acc.waiters]
    exact hm
  cases load : f.load with
  | true =>
    obtain ⟨t, read, acc, same⟩ := h.vaultRead w
    refine ⟨t, ?_, acc, fun _ => same, nofun⟩
    have quiet := quiet acc
    rw [load] at quiet
    simp only [State.fePerform, State.feAccess, read, if_true, quiet]
  | false =>
    have there : s.sound a (leBytes 8 x.toNat).length := by rw [leBytes_length]; exact h
    obtain ⟨t, write, acc, stored⟩ := there.vaultWrite w
    rw [leBytes_length] at acc
    refine ⟨t, ?_, acc, nofun, fun _ => stored⟩
    have quiet := quiet acc
    rw [load] at quiet
    simp only [State.fePerform, State.feAccess, write, Bool.false_eq_true, if_false, if_true, quiet]

/-! ## Full/empty forms at the issuing strand (R279) -/

theorem exec_fullEmptyOf {i : Instr} {f : WordForm} (h : fullEmptyOf i = some f) :
    ∃ sc, ∀ s, exec i s = fullEmptyForm i f.load f.fn f.d f.a f.o sc f.w f.off s := by
  unfold fullEmptyOf at h
  split at h
  all_goals cases h
  all_goals exact ⟨_, fun _ => rfl⟩

theorem WordForm.ea_eq (f : WordForm) (s : State) : f.ea s = s.src f.a + BitVec.ofInt 48 (f.off.toInt * 8) := by
  rw [WordForm.ea, wrap_add_toNat, Int.mul_comm]

/-- The slot of a store is as that of an instruction that delivers nothing. -/
theorem Slot.scalarOnly_of_unmark {v w : Slot} {d : BitVec 5} (h : Retires (v.unmark d) w []) : ScalarOnly v w ∧ Advances v w := by
  obtain ⟨-, slot, steps⟩ := h
  obtain ⟨lo, hi, unmark⟩ := v.unmark_banks d
  rw [unmark] at slot steps
  exact ⟨by rw [ScalarOnly, slot], steps⟩

section
variable {i : Instr} {f : WordForm} {s : State} (hf : fullEmptyOf i = some f)
  (hi : Issues s i (if f.load then [f.a] else [f.a, f.d]) (if f.load then [f.d] else []) [] [])
  (hp : s.posted s.core (if f.o = 2 ∨ f.o = 3 then 3 else f.w.toNat) = false) (own : InVault s (f.ea s) 8)
  (idle : Unblocked s [f.a, f.d] (f.ea s) 8)
include hf hi hp own idle

/-- A full/empty form on a word of the own vault that passes issue is performed, or parks its strand. -/
theorem exec_fullEmpty_issues : ∃ u : Use, (∀ p ∈ u.srcs, p.2 = 0) ∧ u.codes = [f.a, f.d] ∧
    let pa := ownVault s (f.ea s)
    let x := (s.src f.d).signExtend 64
    let z := s.touched u
    (z.feReady pa f.load f.fn = true → ∃ w, ∀ y old, (z.chargeGranules s.core z.me.acct 8).fePerform w pa f.load f.fn x = (y, 0, old) →
      exec i s = .next ((if f.load then y.dst f.d (lowWord old) 0 1 else y.onMe fun v => v.unmark f.d).retire u none)) ∧
    (z.feReady pa f.load f.fn = false → exec i s = (parkFullEmpty z pa f.load f.fn f.d x (f.ea s)).out u s) := by
  obtain ⟨sc, run⟩ := exec_fullEmptyOf hf
  let u : Use := { use i with srcs := if f.load then [(f.a, 0)] else [(f.a, 0), (f.d, 0)], dsts := if f.load then [f.d] else [] }
  have names : u.srcs.map (·.1) = if f.load then [f.a] else [f.a, f.d] := by cases load : f.load <;> simp [u, load]
  have codes : u.codes = [f.a, f.d] := by cases load : f.load <;> simp [u, load, Use.codes]
  have passes : Passes u s := Issues.passes (i := i) (u := u) (vecs := []) (by rw [names]; exact hi) rfl rfl rfl rfl
  have free : (s.touched u).holds (orderWait f.o f.w) = false := State.holds_touched hp u
  rw [Unblocked, ← codes, State.acting_eq] at idle
  obtain ⟨check, -⟩ := inVault_touched own u
  obtain ⟨-, aligned, window, -⟩ := own
  have issued := run s
  rw [fullEmptyForm] at issued
  change exec i s = issue u s _ at issued
  rw [issue_passes passes, free] at issued
  dsimp only at issued
  rw [State.src_touched, State.src_touched, ← WordForm.ea_eq, aligned, State.touched_core, State.touched_slot, check] at issued
  dsimp only at issued
  rw [regionOf_local window] at issued
  dsimp only at issued
  rw [State.touched_core, show s.core * 2 ^ 28 + (f.ea s).toNat = ownVault s (f.ea s) from rfl, idle] at issued
  refine ⟨u, by cases load : f.load <;> simp [u, load], codes,
    fun ready => ⟨((s.touched u).chargeGranules s.core (s.touched u).me.acct 8).who s.core s.slot, fun y old access => ?_⟩, fun unready => ?_⟩
  · rw [ready, State.chargeGranules_core, State.chargeGranules_slot, State.touched_core, State.touched_slot, sxWord, access] at issued
    exact issued
  · rw [unready] at issued
    exact issued

end

theorem feReady_touched {s : State} {f : WordForm} (own : InVault s (f.ea s) 8) (u : Use) :
    (s.touched u).feReady (ownVault s (f.ea s)) f.load f.fn = f.may (s.isFull (ownVault s (f.ea s))) := by
  obtain ⟨-, -, -, -, sound⟩ := own
  have there : (s.touched u).isLost (ownVault s (f.ea s)) = false := sound.not_lost (by decide)
  rw [State.feReady, there, WordForm.may_eq]
  rfl

section
variable {i : Instr} {f : WordForm} {s : State} (hf : fullEmptyOf i = some f)
  (hi : Issues s i (if f.load then [f.a] else [f.a, f.d]) (if f.load then [f.d] else []) [] [])
  (hp : s.posted s.core (if f.o = 2 ∨ f.o = 3 then 3 else f.w.toNat) = false) (own : InVault s (f.ea s) 8)
  (idle : Unblocked s [f.a, f.d] (f.ea s) 8)
include hf hi hp own idle

/-- R145 and R279: a full/empty form whose condition is met, on a word that no strand waits on. -/
theorem fullEmpty_performed (met : f.may (s.isFull (ownVault s (f.ea s))) = true)
    (alone : ∀ w ∈ s.here.waiters, w.onWord (ownVault s (f.ea s)) = false) :
    ∃ t, exec i s = .next t ∧ t = { s with cores := t.cores, clusters := t.clusters, mem := t.mem, empties := t.empties } ∧
      OthersKept s t ∧ t.here = { s.here with slots := t.here.slots, banks := t.here.banks, ctl := t.here.ctl } ∧ Advances s.me t.me ∧
      t.empties = f.after (ownVault s (f.ea s) / 8) s.empties ∧ ScalarOnly s.me t.me ∧
      (f.load = true → t.mem = s.mem ∧ WindowKept s.me t.me [f.d] [] ∧
        Delivered s.me t.me s.now f.d (wrap (leNat (s.mem.readBytes (ownVault s (f.ea s)) 8))) false 1) ∧
      (f.load = false → Stored s.mem t.mem (ownVault s (f.ea s)) (stored 8 (s.src f.d)) ∧ Retires (s.me.unmark f.d) t.me []) := by
  obtain ⟨u, plain, codes, run, -⟩ := exec_fullEmpty_issues hf hi hp own idle
  obtain ⟨w, run⟩ := run ((feReady_touched own u).trans met)
  obtain ⟨-, sound⟩ := inVault_touched own u
  have vault : vaultOf (ownVault s (f.ea s)) = s.core := vaultOf_own own.1 own.2.2.1
  have waiters : ((s.touched u).coreAt s.core).waiters = s.here.waiters := congrArg (·.waiters) (s.here_touched u)
  obtain ⟨y, performed, acc, read, wrote⟩ := fePerform_sound sound
    (by rw [vault]; exact fun v hv => alone v (waiters ▸ hv)) f w ((s.src f.d).signExtend 64)
  have frame := ((OwnAccess.charge (s.touched u) _ 8).trans (.of_accessed acc (inVault_granules own (.inr (.inr (.inr rfl)))))).withEmpties
    (f.after (ownVault s (f.ea s) / 8) ((s.touched u).chargeGranules s.core (s.touched u).me.acct 8).empties)
  have run := run _ _ performed
  cases load : f.load with
  | true =>
    simp only [load, if_true] at run
    obtain ⟨⟨device, others, here⟩, delivered, window, only, steps⟩ :=
      frame.delivered plain f.d (lowWord (BitVec.ofNat 64 (leNat (s.mem.readBytes (ownVault s (f.ea s)) 8)))) 1
    rw [← lowWord_ofNat]
    exact ⟨_, run, device, others, here, steps, rfl, only, fun _ => ⟨read load, window, delivered⟩, nofun⟩
  | false =>
    simp only [load, Bool.false_eq_true, if_false] at run
    obtain ⟨⟨device, others, here⟩, retired⟩ := frame.unmarked plain f.d
    obtain ⟨only, steps⟩ := Slot.scalarOnly_of_unmark retired
    exact ⟨_, run, device, others, here, steps, rfl, only, nofun, fun _ => ⟨wrote load, retired⟩⟩

/-- R146: a full/empty form whose condition is not met parks its strand on the word. -/
theorem fullEmpty_parks (unmet : f.may (s.isFull (ownVault s (f.ea s))) = false) (may : MaySuspend s) (y : State) (p : Packet)
    (suspended : (s.acting [f.a, f.d]).suspend s.core s.slot id s.me.pc s.core 0 = (y, .ok p)) :
    ∃ w : Waiter, exec i s = .next ((y.countIssue s.core s.me.acct).parkAt w (ownVault s (f.ea s))) ∧ w.pkt = p ∧ w.back = s.core ∧ w.since = s.now ∧
      w.limit = s.me.wlim.toNat % 2 ^ 48 ∧ w.acct = s.me.acct ∧
      w.kind = .fullEmpty (ownVault s (f.ea s)) f.load f.fn f.d ((s.src f.d).signExtend 64) := by
  obtain ⟨u, -, codes, -, run⟩ := exec_fullEmpty_issues hf hi hp own idle
  have run := run ((feReady_touched own u).trans unmet)
  rw [← codes, State.acting_eq] at suspended
  obtain ⟨awake, stores, drained⟩ := may
  have fields : (s.touched u).me.handler = s.me.handler ∧ (s.touched u).me.draining = s.me.draining ∧ (s.touched u).me.pc = s.me.pc ∧
      (s.touched u).me.wlim = s.me.wlim ∧ (s.touched u).me.acct = s.me.acct := by
    rw [State.me_touched, Slot.touch_eq]
    exact ⟨rfl, rfl, rfl, rfl, rfl⟩
  obtain ⟨handler, draining, pc, wlim, acct⟩ := fields
  have goes : ((s.touched u).me.handler || (s.touched u).mustWait) = false := by
    rw [State.mustWait, handler, draining, awake, drained, show (s.touched u).posted (s.touched u).core 3 = false from stores]
    rfl
  have vault : vaultOf (ownVault s (f.ea s)) = s.core := vaultOf_own own.1 own.2.2.1
  rw [parkFullEmpty, goes, State.touched_core, State.touched_slot, pc, suspended] at run
  dsimp only at run
  rw [vault, acct, wlim, if_neg Bool.false_ne_true, if_pos rfl] at run
  exact ⟨_, run, rfl, rfl, rfl, by simp [feWaiter, bitsOf], rfl, rfl⟩
end

/-! ## Loads and stores of the own vault (R277) -/

section
variable {s : State} {u : Use} {ea : Word} {size : Nat} (hz : scalarSize size) (own : InVault s ea size)
  (idle : (s.touched u).vaultBusy (ownVault s ea) size = false)
include hz own idle

theorem loadAt_own (signed : Bool) (d : BitVec 5) (o sc : BitVec 2) : ∃ y,
    loadAt size signed d o sc ea (s.touched u) =
      .retire (y.dst d (loadValue size signed (BitVec.ofNat 64 (leNat (s.mem.readBytes (ownVault s ea) size)))) 0 1) none ∧
    OwnAccess (s.touched u) y ∧ y.mem = s.mem ∧ y.empties = s.empties := by
  obtain ⟨check, sound⟩ := inVault_touched own u
  have granules := inVault_granules own hz
  obtain ⟨-, aligned, window, -⟩ := own
  obtain ⟨y, read, acc, same⟩ := sound.vaultRead ((s.touched u).who s.core s.slot)
  refine ⟨y, ?_, (OwnAccess.charge (s.touched u) _ size).trans (.of_accessed acc granules), same, acc.empties⟩
  rw [ownVault] at idle read ⊢
  rw [loadAt, aligned, State.touched_core, State.touched_slot, check]
  dsimp only
  rw [regionOf_local window]
  dsimp only
  rw [State.touched_core, idle, State.chargeGranules_core, State.touched_core, read]
  rfl

theorem storeAt_own (o sc : BitVec 2) (x : XWord) : ∃ y,
    storeAt size o sc ea x (s.touched u) = .retire y none ∧
    OwnAccess (s.touched u) y ∧ Stored s.mem y.mem (ownVault s ea) (leBytes size x.toNat) ∧ y.empties = s.empties := by
  obtain ⟨check, sound⟩ := inVault_touched own u
  have granules := inVault_granules own hz
  obtain ⟨-, aligned, window, -⟩ := own
  rw [← leBytes_length size x.toNat] at sound
  obtain ⟨y, write, acc, stored⟩ := sound.vaultWrite ((s.touched u).who s.core s.slot)
  rw [leBytes_length] at acc write
  refine ⟨y, ?_, (OwnAccess.charge (s.touched u) _ size).trans (.of_accessed acc granules), stored, acc.empties⟩
  rw [ownVault] at idle write
  rw [storeAt, aligned, State.touched_core, State.touched_slot, check]
  dsimp only
  rw [regionOf_local window]
  dsimp only
  rw [State.touched_core, idle, State.chargeGranules_core, State.touched_core, write]
  rfl
end

/-! ## Forms that migrate (R60, R278) -/

/-- A suspension that succeeds names its destination and the pc at which the strand goes on (R37). -/
theorem State.suspend_ok {s t : State} {c j dst : Nat} {f : Slot → Slot} {pc : Word} {kind : BitVec 3} {p : Packet}
    (h : s.suspend c j f pc dst kind = (t, .ok p)) : p.dst = dst ∧ p.cont.pc = pc := by
  unfold State.suspend at h
  split at h
  · cases h
  · dsimp only at h
    split at h
    · cases h
    · cases h
      exact ⟨rfl, rfl⟩

/-- A form that migrates acts, once issued, as its address says: as a load or a store in the own vault, and else as the owner of the address
says. -/
theorem exec_migrates {i : Instr} {store : Bool} {d a : BitVec 5} {o sc w : BitVec 2} {s : State} (run : exec i s = migratingForm i store d a o sc w s)
    (handler : s.me.handler = false) (hp : s.posted s.core (if o = 2 ∨ o = 3 then 3 else w.toNat) = false)
    (hi : Issues s i (if store then [a, d] else [a]) (if store then [] else [d]) [] []) :
    ∃ u : Use, (∀ p ∈ u.srcs, p.2 = 0) ∧ u.codes = [a, d] ∧
      let ea := s.src a
      let x := sxWord (s.src d)
      (InVault s ea 8 → exec i s =
        (if store then (storeAt 8 o sc ea x (s.touched u)).also fun t => t.onMe fun v => v.unmark d
          else loadAt 8 false d o sc ea (s.touched u)).out u s) ∧
      (Global ea 8 → ∀ y owner pa, (s.touched u).ownerCore ea (if store then .write else .read) = (y, .ok (owner, pa)) →
        (owner ≠ y.core → MaySuspend y → ∀ z p, y.suspend y.core y.slot id y.me.pc owner 0 = (z, .ok p) →
          exec i s = .next ((z.countIssue y.core y.me.acct).sendPacket p)) ∧
        (owner = y.core → y.vaultBusy (pa.getD 0) 8 = false →
          ((store = false → ∀ q bs, (y.chargeGranules y.core y.me.acct 8).vaultRead ((y.chargeGranules y.core y.me.acct 8).who y.core y.slot) (pa.getD 0) 8 = (q, 0, bs) →
            exec i s = .next ((q.dst d (lowWord (BitVec.ofNat 64 (leNat bs))) 0 1).retire u none)) ∧
          (store = true → ∀ q, (y.chargeGranules y.core y.me.acct 8).vaultWrite ((y.chargeGranules y.core y.me.acct 8).who y.core y.slot) (pa.getD 0) (leBytes 8 x.toNat) = (q, 0) →
            exec i s = .next ((q.onMe fun v => v.unmark d).retire u none))))) := by
  let u : Use := { use i with srcs := if store then [(a, 0), (d, 0)] else [(a, 0)], dsts := if store then [] else [d], legal := !s.me.handler }
  have names : u.srcs.map (·.1) = if store then [a, d] else [a] := by cases store <;> simp [u]
  have legal : u.legal = true := by simp [u, handler]
  have passes : Passes u s := Issues.passes (i := i) (u := u) (vecs := []) (by rw [names]; exact hi) legal rfl rfl rfl
  have free : (s.touched u).holds (orderWait o w) = false := State.holds_touched hp u
  have issued := run
  rw [migratingForm] at issued
  change exec i s = issue u s _ at issued
  rw [issue_passes passes, free] at issued
  dsimp only at issued
  rw [State.src_touched, State.src_touched] at issued
  refine ⟨u, by cases store <;> simp [u], by cases store <;> simp [u, Use.codes], fun own => ?_, fun global y owner pa owned => ⟨fun away may z p gone => ?_, fun here idle =>
    ⟨fun load q bs read => ?_, fun stores q wrote => ?_⟩⟩⟩
  · obtain ⟨-, aligned, window, -⟩ := own
    rw [aligned, regionOf_local window] at issued
    exact issued
  all_goals
    obtain ⟨aligned, far⟩ := global
    rw [aligned, regionOf_global far] at issued
    change exec i s = Act.out u s (match (s.touched u).ownerCore (s.src a) (if store then .write else .read) with
      | (s, .error c) => _
      | (s, .ok (owner, pa)) => _) at issued
    rw [owned] at issued
    dsimp only at issued
  · obtain ⟨-, stores, drained⟩ := may
    have goes : y.mustWait = false := by rw [State.mustWait, stores, drained]; rfl
    rw [if_neg away, goes, gone] at issued
    exact issued
  · rw [if_pos here, idle, load] at issued
    rw [State.chargeGranules_core, State.chargeGranules_slot, read] at issued
    exact issued
  · rw [if_pos here, idle, stores] at issued
    rw [State.chargeGranules_core, State.chargeGranules_slot, wrote] at issued
    exact issued

section
variable {d a : BitVec 5} {o sc w : BitVec 2} {s : State} (handler : s.me.handler = false)
  (hp : s.posted s.core (if o = 2 ∨ o = 3 then 3 else w.toNat) = false)
include handler hp

/-- R278: `ldx.m`. -/
theorem migratingLoad (hi : Issues s (.ldxM d a o sc w) [a] [d] [] []) :
    (InVault s (s.src a) 8 → Unblocked s [a, d] (s.src a) 8 → ∃ t, exec (.ldxM d a o sc w) s = .next t ∧ VaultOnly s t ∧ t.mem = s.mem ∧
      Delivered s.me t.me s.now d (wrap (s.mem.readNat (ownVault s (s.src a)) 8)) false 1 ∧ WindowKept s.me t.me [d] [] ∧
      ScalarOnly s.me t.me ∧ Advances s.me t.me) ∧
    (∀ (y z : State) (owner : Nat) pa (p : Packet), Global (s.src a) 8 → (s.acting [a, d]).ownerCore (s.src a) .read = (y, .ok (owner, pa)) →
      owner ≠ y.core → MaySuspend y → y.suspend y.core y.slot id y.me.pc owner 0 = (z, .ok p) →
      exec (.ldxM d a o sc w) s = .next ((z.countIssue y.core y.me.acct).sendPacket p) ∧ p.dst = owner ∧ p.cont.pc = y.me.pc) ∧
    (∀ (y : State) (pa : Nat), Global (s.src a) 8 → (s.acting [a, d]).ownerCore (s.src a) .read = (y, .ok (y.core, some pa)) → y.sound pa 8 →
      y.vaultBusy pa 8 = false → ∃ t, exec (.ldxM d a o sc w) s = .next t ∧ t.mem = y.mem ∧
        Delivered y.me t.me y.now d (wrap (y.mem.readNat pa 8)) false 1 ∧ Advances y.me t.me) := by
  obtain ⟨u, plain, codes, local_, migrates⟩ := exec_migrates (store := false) exec_ldxM handler hp hi
  rw [Unblocked, ← codes, State.acting_eq]
  refine ⟨fun own idle => ?_, fun y z owner pa p global owned away may gone => ?_, fun y pa global owned sound idle => ?_⟩
  · obtain ⟨y, load, frame, mem, empties⟩ := loadAt_own (.inr (.inr (.inr rfl))) own idle false d o sc
    have run := local_ own
    rw [if_neg Bool.false_ne_true, load] at run
    obtain ⟨retired, delivered⟩ := frame.delivered plain d (lowWord (BitVec.ofNat 64 (s.mem.readNat (ownVault s (s.src a)) 8))) 1
    rw [← lowWord_ofNat]
    exact ⟨_, run, retired.vaultOnly empties, mem, delivered⟩
  · exact ⟨(migrates global y owner pa owned).1 away may z p gone, State.suspend_ok gone⟩
  · have there : (y.chargeGranules y.core y.me.acct 8).sound pa 8 := sound
    obtain ⟨q, read, acc, mem⟩ := there.vaultRead ((y.chargeGranules y.core y.me.acct 8).who y.core y.slot)
    have run := ((migrates global y y.core (some pa) owned).2 rfl idle).1 rfl q _ read
    have me : q.me = y.me := acc.me
    obtain ⟨delivered, -, -, steps⟩ := Slot.retired_delivered plain y.me y.now [] d (lowWord (BitVec.ofNat 64 (y.mem.readNat pa 8))) 1 y.turn
    have retired : ((q.dst d (lowWord (BitVec.ofNat 64 (y.mem.readNat pa 8))) 0 1).retire u none).me =
        ((y.me.touch y.now []).writeCode y.now d (lowWord (BitVec.ofNat 64 (y.mem.readNat pa 8))) false 1).retired u none y.turn := by
      rw [State.dst, State.me_onMe_retire, me, State.turn, acc.now]
      rfl
    rw [← retired] at delivered steps
    rw [← lowWord_ofNat]
    exact ⟨_, run, mem, delivered, steps⟩

/-- R278: `stx.m`. -/
theorem migratingStore (hi : Issues s (.stxM d a o sc w) [a, d] [] [] []) :
    (InVault s (s.src a) 8 → Unblocked s [a, d] (s.src a) 8 → ∃ t, exec (.stxM d a o sc w) s = .next t ∧ VaultOnly s t ∧
      Stored s.mem t.mem (ownVault s (s.src a)) (stored 8 (s.src d)) ∧ Retires (s.me.unmark d) t.me []) ∧
    (∀ (y z : State) (owner : Nat) pa (p : Packet), Global (s.src a) 8 → (s.acting [a, d]).ownerCore (s.src a) .write = (y, .ok (owner, pa)) →
      owner ≠ y.core → MaySuspend y → y.suspend y.core y.slot id y.me.pc owner 0 = (z, .ok p) →
      exec (.stxM d a o sc w) s = .next ((z.countIssue y.core y.me.acct).sendPacket p) ∧ p.dst = owner ∧ p.cont.pc = y.me.pc) ∧
    (∀ (y : State) (pa : Nat), Global (s.src a) 8 → (s.acting [a, d]).ownerCore (s.src a) .write = (y, .ok (y.core, some pa)) → y.sound pa 8 →
      y.vaultBusy pa 8 = false → pa % 8 = 0 →
      ∃ t, exec (.stxM d a o sc w) s = .next t ∧ Stored y.mem t.mem pa (stored 8 (s.src d)) ∧ Advances y.me t.me) := by
  obtain ⟨u, plain, codes, local_, migrates⟩ := exec_migrates (store := true) exec_stxM handler hp hi
  rw [Unblocked, ← codes, State.acting_eq]
  refine ⟨fun own idle => ?_, fun y z owner pa p global owned away may gone => ?_, fun y pa global owned sound idle _ => ?_⟩
  · obtain ⟨y, store, frame, stored, empties⟩ := storeAt_own (.inr (.inr (.inr rfl))) own idle o sc (sxWord (s.src d))
    have run := local_ own
    rw [if_pos rfl, store] at run
    obtain ⟨retired, slot⟩ := frame.unmarked plain d
    exact ⟨_, run, retired.vaultOnly empties, stored, slot⟩
  · exact ⟨(migrates global y owner pa owned).1 away may z p gone, State.suspend_ok gone⟩
  · have there : (y.chargeGranules y.core y.me.acct 8).sound pa (leBytes 8 ((s.src d).signExtend 64).toNat).length := by
      rw [leBytes_length]
      exact sound
    obtain ⟨q, write, acc, stored⟩ := there.vaultWrite ((y.chargeGranules y.core y.me.acct 8).who y.core y.slot)
    have run := ((migrates global y y.core (some pa) owned).2 rfl idle).2 rfl q write
    have me : q.me = y.me := acc.me
    obtain ⟨_, _, banks⟩ := q.me.unmark_banks d
    refine ⟨_, run, stored, ?_⟩
    rw [State.me_onMe_retire]
    exact Slot.retired_advances u (by rw [banks, me]) (by rw [banks, me]) _
end

/-! ## The obligation -/

/-- Settles O9: a full/empty form is performed (`fePerform_sound`) or parks its strand as its condition says, and a migrating form is a
load or a store of a vault of the current core, or the suspension that takes its strand to the owner (`exec_migrates`). -/
theorem waitingAndMigratingForms : Obligations.WaitingAndMigratingForms := by
  unfold Obligations.WaitingAndMigratingForms
  exact ⟨fun i f s hf hi hp own idle => ⟨fullEmpty_performed hf hi hp own idle, fullEmpty_parks hf hi hp own idle⟩,
    fun d a o sc w s handler hp => ⟨migratingLoad handler hp, migratingStore handler hp⟩⟩

end Sys2Proof.Machine
end

section
/-! # Messages at their owner's vault (O48)

A message at its owner waits, is refused or is performed (`State.serve`); one that is performed reaches the state it was sent to, but for the
turn of the agent and the count of the core (`Received`), and there it is an error-free access of the vault. -/

namespace Sys2Proof.Machine
open Sys2Proof.Statements

/-! ## Runs of enabled bytes (R299) -/

/-- The byte that a run writes at an offset. -/
def runAt (p : Nat × List Byte) (i : Nat) : Option Byte := if p.1 ≤ i then p.2[i - p.1]? else none

/-- The byte that runs written in turn leave at an offset, where they write one. -/
def runByte : List (Nat × List Byte) → Nat → Option Byte
  | [], _ => none
  | p :: r, i => (runByte r i).or (runAt p i)

theorem runAt_cons (o : Nat) (b : Byte) (l : List Byte) (i : Nat) : runAt (o, b :: l) i = (runAt (o + 1, l) i).or (if i = o then some b else none) := by
  unfold runAt
  rcases Nat.lt_trichotomy i o with below | rfl | above
  · rw [if_neg (by omega), if_neg (by omega), if_neg (by omega)]
    rfl
  · simp
  · obtain ⟨n, rfl⟩ := Nat.exists_eq_add_of_lt above
    have next : o + n + 1 - o = n + 1 := by omega
    have rest : o + n + 1 - (o + 1) = n := by omega
    rw [if_pos (by omega), if_pos (by omega), if_neg (by omega), next, rest, List.getElem?_cons_succ, Option.or_none]

/-- An enabled byte lengthens the run that follows it, or is a run of its own. -/
theorem runByte_enabled (o : Nat) (b : Byte) (r : List (Byte × Bool)) (i : Nat) :
    runByte (runsFrom o ((b, true) :: r)) i = (runByte (runsFrom (o + 1) r) i).or (if i = o then some b else none) := by
  have alone : runAt (o, [b]) i = if i = o then some b else none := by rw [runAt_cons]; simp [runAt]
  simp only [runsFrom]
  split
  next p l t same =>
    split
    next next_ => rw [same, runByte, runByte, runAt_cons, next_, Option.or_assoc]
    next apart => rw [same, runByte, alone]
  next empty => simp [empty, runByte, alone]

/-- The byte that runs of enabled bytes write is the byte there, if it is enabled. -/
theorem runByte_runsFrom : ∀ (l : List (Byte × Bool)) (o i : Nat), runByte (runsFrom o l) i =
    if o ≤ i then (l[i - o]?).bind fun p => if p.2 then some p.1 else none else none
  | [], o, i => by simp [runsFrom, runByte]
  | (b, on) :: r, o, i => by
    have split : runByte (runsFrom o ((b, on) :: r)) i =
        (runByte (runsFrom (o + 1) r) i).or (if i = o then if on then some b else none else none) := by
      cases on with
      | true => rw [runByte_enabled, if_pos rfl]
      | false => simp [runsFrom]
    rw [split, runByte_runsFrom r (o + 1) i]
    rcases Nat.lt_trichotomy i o with below | rfl | above
    · rw [if_neg (by omega), if_neg (by omega), if_neg (by omega)]
      rfl
    · simp
    · obtain ⟨n, rfl⟩ := Nat.exists_eq_add_of_lt above
      have next : o + n + 1 - o = n + 1 := by omega
      have rest : o + n + 1 - (o + 1) = n := by omega
      rw [if_pos (by omega), if_neg (by omega), if_pos (by omega), next, rest, List.getElem?_cons_succ, Option.or_none]

theorem runByte_maskRuns (mask : BitVec 128) (bs : List Byte) (i : Nat) :
    runByte (maskRuns mask bs) i = (bs[i]?).bind fun b => if mask.getLsbD i then some b else none := by
  rw [maskRuns, runByte_runsFrom]
  by_cases h : i < bs.length <;> simp [h]

/-- Runs from an offset lie within the bytes they are taken of. -/
theorem runsFrom_within : ∀ (l : List (Byte × Bool)) (o : Nat), ∀ p ∈ runsFrom o l, p.1 + p.2.length ≤ o + l.length
  | [], o, p, hp => by simp [runsFrom] at hp
  | (b, false) :: r, o, p, hp => by
    have := runsFrom_within r (o + 1) p hp
    rw [List.length_cons]
    omega
  | (b, true) :: r, o, p, hp => by
    have rest := runsFrom_within r (o + 1)
    simp only [runsFrom] at hp
    rw [List.length_cons]
    split at hp
    next q l t same =>
      have head := rest (q, l) (by rw [same]; exact List.mem_cons_self)
      have tail (x) (hx : x ∈ t) := rest x (by rw [same]; exact List.mem_cons_of_mem _ hx)
      simp only at head
      split at hp
      · rcases List.mem_cons.1 hp with rfl | hp
        · simp only [List.length_cons]; omega
        · have := tail p hp; omega
      · rcases List.mem_cons.1 hp with rfl | hp
        · simp only [List.length_cons, List.length_nil]; omega
        · rcases List.mem_cons.1 hp with rfl | hp
          · simp only; omega
          · have := tail p hp; omega
    next =>
      obtain rfl := List.mem_singleton.1 hp
      simp only [List.length_cons, List.length_nil]; omega

/-- Runs within a sound range are stored: each byte they write, and no other. -/
theorem storeRuns_sound (w : Who) {a n : Nat} (ha : spaceOf a = .vault) : ∀ (runs : List (Nat × List Byte)) (s : State), s.sound a n →
    (∀ p ∈ runs, p.1 + p.2.length ≤ n) → ∃ t, State.storeRuns w a runs s = (t, 0) ∧ Accessed (granules a n) s t ∧
      (∀ i, t.mem.read (a + i) = (runByte runs i).getD (s.mem.read (a + i))) ∧ ∀ x, x < a → t.mem.read x = s.mem.read x
  | [], s, _, _ => ⟨s, rfl, .refl _ s, fun _ => rfl, fun _ _ => rfl⟩
  | p :: r, s, h, within => by
    obtain ⟨y, write, first, inside, outside⟩ := (h.sub (b := a + p.1) (m := p.2.length) (by omega)
      (by have := within p List.mem_cons_self; omega)).vaultWrite (bs := p.2) w
    obtain ⟨t, rest, acc, bytes, below⟩ := storeRuns_sound w ha r y ((first.sound a n).2 h) fun q hq => within q (List.mem_cons_of_mem _ hq)
    have part : ∀ g ∈ granules (a + p.1) p.2.length, g ∈ granules a n := fun g hg => by
      obtain ⟨low, high⟩ := mem_granules.1 hg
      have := within p List.mem_cons_self
      exact mem_granules.2 ⟨by omega, by omega⟩
    refine ⟨t, ?_, (first.mono part).trans acc, fun i => ?_, fun x hx => (below x hx).trans (outside x (by omega))⟩
    · rw [State.storeRuns, ha, write]
      exact rest
    · rw [bytes, runByte]
      cases runByte r i with
      | some b => rfl
      | none =>
        rw [Option.none_or, Option.getD_none, runAt]
        by_cases hi : p.1 ≤ i ∧ i < p.1 + p.2.length
        · have last : i - p.1 < (y.mem.readBytes (a + p.1) p.2.length).length := by simp; omega
          have at_ : a + p.1 + (i - p.1) = a + i := by omega
          have byte := Memory.getElem_readBytes y.mem (a + p.1) p.2.length (i - p.1) last
          rw [at_] at byte
          rw [if_pos hi.1, ← byte]
          simp only [inside]
          rw [List.getElem?_eq_getElem (by omega), Option.getD_some]
        · rw [outside _ (by omega)]
          split
          · rw [List.getElem?_eq_none (by omega), Option.getD_none]
          · rfl

/-! ## Messages at their owner (R135, R136, R163, R416) -/

theorem spaceOf_vault {a : Nat} (h : a < 2 ^ 38) : spaceOf a = .vault := by rw [spaceOf, if_pos h]

/-- The event of a procedure serves its messages. -/
theorem exec_ownerEvent {m : Msg} {proc : Nat} (hm : m.proc.toNat = proc) (h9 : proc ≠ 9 ∨ m.fn = 0) (h10 : proc ≠ 10) (k : Nat) :
    ∃ p f, p m = true ∧ ∀ s, exec (ownerEvent proc k) s = .next (s.serve k p f) := by
  have code : m.proc = BitVec.ofNat 4 proc := by rw [← hm, BitVec.ofNat_toNat, BitVec.setWidth_eq]
  match proc, code, h9, h10 with
  | 0, code, _, _ => exact ⟨(·.proc == 0), _, beq_iff_eq.2 code, fun s => (exec_load : _ = execLoad k s)⟩
  | 1, code, _, _ => exact ⟨(·.proc == 1), _, beq_iff_eq.2 code, fun s => (exec_store : _ = execStore k s)⟩
  | 2, code, _, _ => exact ⟨(·.proc == 2), _, beq_iff_eq.2 code, fun s => (exec_atomic : _ = execAtomic k s)⟩
  | 3, code, _, _ => exact ⟨(·.proc == 3), _, beq_iff_eq.2 code, fun s => (exec_fullEmptyLoad : _ = execFullEmptyLoad k s)⟩
  | 4, code, _, _ => exact ⟨(·.proc == 4), _, beq_iff_eq.2 code, fun s => (exec_fullEmptyStore : _ = execFullEmptyStore k s)⟩
  | 5, code, _, _ => exact ⟨(·.proc == 5), _, beq_iff_eq.2 code, fun s => (exec_copySegment : _ = execCopySegment k s)⟩
  | 6, code, _, _ => exact ⟨(·.proc == 6), _, beq_iff_eq.2 code, fun s => (exec_gatherReduce : _ = execGatherReduce k s)⟩
  | 7, code, _, _ => exact ⟨(·.proc == 7), _, beq_iff_eq.2 code, fun s => (exec_kvTableOperation : _ = execKvTableOperation k s)⟩
  | 8, code, _, _ => exact ⟨(·.proc == 8), _, beq_iff_eq.2 code, fun s => (exec_scratchpadLoad : _ = execScratchpadLoad k s)⟩
  | 9, code, h9, _ =>
    exact ⟨fun m => m.proc == 9 && (m.fn == 0 || decide (5 ≤ m.fn.toNat)), _, by simp [code, h9.resolve_left (· rfl)], fun s => (exec_scratchpadStore : _ = execScratchpadStore k s)⟩
  | 10, _, _, h10 => exact absurd rfl h10
  | n + 11, _, _, _ => exact ⟨fun m => decide (11 ≤ m.proc.toNat), _, decide_eq_true (by omega), fun s => (exec_unknownProcedure : _ = execUnknownProcedure k s)⟩

/-- A message as its procedure is given it, without its place among the requests that wait for a tag (R136). -/
def Msg.untagged (m : Msg) : Msg := { m with tag := none }

section
variable {s : State} {k : Nat} {m : Msg} {proc : Nat} (h : AtOwner s k m proc) {p : Msg → Bool} {f : State → Msg → State} (hp : p m = true)
include h hp

/-- What a message at its owner meets there. -/
theorem State.serve_atOwner : s.serve k p f =
    if (s.coreAt m.dst).killed then s.putMsg k (m.answerAway 4 0)
    else if m.atVault && !s.tagFree m.dst m.tag then
      if m.tag.isSome then s else { s.putMsg k { m with tag := some s.orders } with orders := s.orders + 1 }
    else f (if m.fromPeer then (if m.atVault then s.agentTurn m.dst else s)
      else (if m.atVault then s.agentTurn m.dst else s).countRecv m.dst m.lid) m.untagged := by
  obtain ⟨there, stage, -, rec_, dst, turn⟩ := h
  have free : (m.tag.isNone && s.blocked k m) = false := by
    cases tag : m.tag with
    | none => exact turn tag
    | some _ => rfl
  have live : m.dst ≠ noCore := by unfold noCore; omega
  have goes : (m.stage != .toOwner || m.rec_.isSome || !p m || (m.tag.isNone && s.blocked k m)) = false := by
    rw [stage, rec_, hp, free]
    rfl
  rw [State.serve, there]
  dsimp only
  rw [goes, if_neg Bool.false_ne_true, if_neg live]
  rfl
end

/-- A state at which a message has been received: the agent's turn, the core's count, and what its tag owes (R64, R132, R224). -/
structure Received (s t : State) : Prop where
  device : t = { s with now := t.now, cores := t.cores, clusters := t.clusters }
  core   : ∀ c, t.coreAt c = { s.coreAt c with meshAt := (t.coreAt c).meshAt, traffic := (t.coreAt c).traffic }

namespace Received

theorem refl (s : State) : Received s s := ⟨rfl, fun _ => rfl⟩

theorem trans {s t u : State} (h : Received s t) (k : Received t u) : Received s u :=
  ⟨by rw [k.device, h.device], fun c => by rw [k.core c, h.core c]⟩

theorem agentTurn (s : State) (c : Nat) : Received s (s.agentTurn c) := by
  have other (t : State) (same : ∀ d, t.coreAt d = s.coreAt d) (n d : Nat) :
      (t.onCore c fun k => { k with meshAt := some n }).coreAt d =
        { s.coreAt d with meshAt := ((t.onCore c fun k => { k with meshAt := some n }).coreAt d).meshAt,
                          traffic := ((t.onCore c fun k => { k with meshAt := some n }).coreAt d).traffic } := by
    by_cases hd : d = c
    · subst hd
      rw [State.coreAt_onCore_self, same]
    · rw [State.coreAt_onCore_other t hd, same]
  rw [State.agentTurn]
  split
  · exact ⟨rfl, other _ (fun _ => rfl) _⟩
  · exact ⟨rfl, other _ (fun _ => rfl) _⟩

theorem countRecv (s : State) (c : Nat) (lid : BitVec 16) : Received s (s.countRecv c lid) :=
  ⟨rfl, fun d => by obtain ⟨traffic, core⟩ := s.coreAt_countRecv c lid d; rw [core]⟩

theorem charge (s : State) (c : Nat) (tag : BitVec 16) (n : Nat) : Received s (s.chargeGranules c tag n) := ⟨rfl, fun _ => rfl⟩

variable {s t : State} (h : Received s t)
include h

theorem mesh : t.mesh = s.mesh := by rw [h.device]
theorem mem : t.mem = s.mem := by rw [h.device]
theorem spm : t.spm = s.spm := by rw [h.device]
theorem empties : t.empties = s.empties := by rw [h.device]
theorem waiters (c : Nat) : (t.coreAt c).waiters = (s.coreAt c).waiters := by rw [h.core c]
theorem sound (a n : Nat) : t.sound a n ↔ s.sound a n := by rw [h.device]; rfl

end Received

/-- A message that has arrived is performed at a state that has received it. -/
theorem State.serve_arrived {s : State} {k : Nat} {m : Msg} {proc : Nat} (h : Arrived s k m proc) {p : Msg → Bool} (hp : p m = true)
    (f : State → Msg → State) : ∃ t, Received s t ∧ s.serve k p f = f t m.untagged := by
  have tags : (m.atVault && !s.tagFree m.dst m.tag) = false := by
    cases vault : m.atVault with
    | true => rw [h.tags vault]; rfl
    | false => rfl
  rw [State.serve_atOwner h.toAtOwner hp, h.alive, tags]
  have turned : Received s (if m.atVault then s.agentTurn m.dst else s) := by
    split
    · exact .agentTurn s m.dst
    · exact .refl s
  refine ⟨_, ?_, rfl⟩
  split
  · exact turned
  · exact turned.trans (.countRecv _ m.dst m.lid)

/-! ## Answers (R135) -/

/-- An answer goes back with its status and the cause of R135. -/
theorem replied_answer (m : Msg) (status : Nat) (x : XWord) : Replied m (m.untagged.answer status x) status x where
  reply := rfl
  cause := by
    show statusCause status = none ↔ status = 0
    unfold statusCause
    split <;> simp_all
  prot := by rintro rfl; rfl
  eccue := by rintro (rfl | rfl) <;> rfl
  refuse := by rintro rfl; rfl

/-- A step that answers a message at a core charges its granules and puts the reply in the message's place. -/
theorem State.answer_eq {k : Nat} {m : Msg} (hd : m.dst < 1024) (y : State) (r : Msg) :
    ∃ c n, State.answer k m (y, r) = (y.chargeGranules c m.acct n).putMsg k r := by
  have live : m.dst ≠ noCore := by unfold noCore; omega
  exact ⟨_, _, by rw [State.answer, if_neg live]⟩

section
variable {s : State} {k : Nat} {m : Msg} {proc : Nat} (h : Arrived s k m proc) {e : Instr} {p : Msg → Bool} {status : Nat} {x : XWord} {bs : List Byte}
  {P : Memory → Memory → List Nat → Prop}
include h

/-- A message that its procedure answers: what the procedure does at a state that has received the message is what becomes of the device,
beside the answer in its place of the mesh. -/
theorem exec_served {f : State → Msg → State} (run : ∀ s, exec e s = .next (s.serve k p f)) (hp : p m = true)
    (act : ∀ z, Received s z → ∃ y : State, f z m.untagged = y.putMsg k { m.untagged.answer status x with data := bs } ∧ y.mesh = s.mesh ∧ P y.mem y.spm y.empties) :
    ∃ t, exec e s = .next t ∧ Answered s t k { m with data := bs } status x ∧ P t.mem t.spm t.empties := by
  obtain ⟨z, received, served⟩ := State.serve_arrived h hp f
  obtain ⟨y, done, mesh, after⟩ := act z received
  refine ⟨_, run s, ?_⟩
  rw [served, done]
  exact ⟨⟨_, replied_answer { m with data := bs } status x, congrArg (List.set · k _) mesh⟩, after⟩

/-- A message that its procedure answers with the reply that it gives, charged for its granules. -/
theorem exec_answered {g : State → Msg → State × Msg} (run : ∀ s, exec e s = .next (s.serve k p fun s m => State.answer k m (g s m))) (hp : p m = true)
    (act : ∀ z, Received s z → ∃ y, g z m.untagged = (y, { m.untagged.answer status x with data := bs }) ∧ y.mesh = s.mesh ∧ P y.mem y.spm y.empties) :
    ∃ t, exec e s = .next t ∧ Answered s t k { m with data := bs } status x ∧ P t.mem t.spm t.empties := by
  refine exec_served h run hp fun z received => ?_
  obtain ⟨y, done, rest⟩ := act z received
  obtain ⟨c, n, answered⟩ := State.answer_eq (k := k) (m := m.untagged) h.dst y ({ m.untagged.answer status x with data := bs })
  refine ⟨y.chargeGranules c m.untagged.acct n, ?_, rest⟩
  dsimp only
  rw [done, answered]
end

/-! ## Loads, stores and atomics at a sound vault (R276, R280, R299) -/

theorem atVault_space {s : State} {m : Msg} {n : Nat} (h : AtVault s m n) : spaceOf m.paddr = .vault := spaceOf_vault h.1

theorem atVault_sound {s z : State} {m : Msg} {n : Nat} (h : AtVault s m n) (r : Received s z) : z.sound m.paddr n := (r.sound _ _).2 h.2.2

theorem arrived_code {s : State} {k : Nat} {m : Msg} {proc : Nat} (h : Arrived s k m proc) {b : BitVec 4} (hb : b.toNat = proc) : (m.proc == b) = true :=
  beq_iff_eq.2 (BitVec.eq_of_toNat_eq (h.which.trans hb.symm))

section
variable {s : State} {k : Nat} {m : Msg}

/-- A load answers with the bytes at its address. -/
theorem ownerLoad (h : Arrived s k m 0) {n : Nat} (length : m.length = n) (there : AtVault s m n) {x : XWord} {bs : List Byte}
    (value : m.untagged.answerRead 0 (s.mem.readBytes m.paddr n) = { m.untagged.answer 0 x with data := bs }) :
    ∃ t, exec (.load k) s = .next t ∧ Answered s t k { m with data := bs } 0 x ∧ t.mem = s.mem ∧ t.spm = s.spm ∧ t.empties = s.empties := by
  refine exec_answered h (e := .load k) (p := (·.proc == 0)) (fun s => (exec_load : _ = execLoad k s)) (arrived_code h rfl)
    (P := fun mem spm empties => mem = s.mem ∧ spm = s.spm ∧ empties = s.empties) fun z received => ?_
  obtain ⟨y, read, acc, mem⟩ := (atVault_sound there received).vaultRead m.untagged.who
  rw [received.mem] at read mem
  refine ⟨y, ?_, acc.mesh.trans received.mesh, mem, acc.spm.trans received.spm, acc.empties.trans received.empties⟩
  have same : m.untagged.length = n := length
  have space : spaceOf m.untagged.paddr = .vault := (atVault_space there)
  rw [space, same]
  simp only [bne_self_eq_false, Bool.false_eq_true, if_false]
  exact (congrArg (fun r : State × Nat × List Byte => (r.1, m.untagged.answerRead r.2.1 r.2.2)) read).trans
    (congrArg (Prod.mk y) value)

/-- A store writes its runs of bytes and nothing else. -/
theorem ownerStore (h : Arrived s k m 1) {n : Nat} (there : AtVault s m n) (within : ∀ p ∈ m.runs, p.1 + p.2.length ≤ n) :
    ∃ t, exec (.store k) s = .next t ∧ Answered s t k m 0 0 ∧ (∀ i, t.mem.read (m.paddr + i) = (runByte m.runs i).getD (s.mem.read (m.paddr + i))) ∧
      (∀ x, x < m.paddr → t.mem.read x = s.mem.read x) ∧ t.spm = s.spm ∧ t.empties = s.empties := by
  refine exec_answered h (e := .store k) (p := (·.proc == 1)) (fun s => (exec_store : _ = execStore k s)) (arrived_code h rfl) (bs := m.data)
    (P := fun mem spm empties => (∀ i, mem.read (m.paddr + i) = (runByte m.runs i).getD (s.mem.read (m.paddr + i))) ∧
      (∀ x, x < m.paddr → mem.read x = s.mem.read x) ∧ spm = s.spm ∧ empties = s.empties) fun z received => ?_
  obtain ⟨y, write, acc, bytes, below⟩ := storeRuns_sound m.untagged.who (atVault_space there) m.runs z (atVault_sound there received) within
  rw [received.mem] at bytes below
  refine ⟨y, ?_, acc.mesh.trans received.mesh, bytes, below, acc.spm.trans received.spm, acc.empties.trans received.empties⟩
  have space : spaceOf m.untagged.paddr = .vault := (atVault_space there)
  rw [space]
  simp only [bne_self_eq_false, Bool.false_and, Bool.false_eq_true, if_false]
  exact congrArg (fun r : State × Nat => (r.1, m.untagged.answer r.2 0)) write

/-- An atomic writes its function of the old word and answers the old word. -/
theorem ownerAtomic (h : Arrived s k m 2) (there : AtVault s m 8) (hf : m.fn.toNat ≤ 9) : ∃ t, exec (.atomic k) s = .next t ∧
    Answered s t k m 0 (BitVec.ofNat 64 (s.mem.readNat m.paddr 8)) ∧
    Stored s.mem t.mem m.paddr (leBytes 8 (atomicWord m.fn.toNat (BitVec.ofNat 64 (s.mem.readNat m.paddr 8)) m.opa m.opb).toNat) ∧ t.spm = s.spm := by
  refine exec_answered h (e := .atomic k) (p := (·.proc == 2)) (fun s => (exec_atomic : _ = execAtomic k s)) (arrived_code h rfl) (bs := m.data)
    (P := fun mem spm _ => Stored s.mem mem m.paddr (leBytes 8 (atomicWord m.fn.toNat (BitVec.ofNat 64 (s.mem.readNat m.paddr 8)) m.opa m.opb).toNat) ∧
      spm = s.spm) fun z received => ?_
  obtain ⟨y, done, acc, stored⟩ := atomicAccess_sound (atVault_sound there received) m.untagged.who m.fn.toNat m.opa m.opb
  rw [received.mem] at done stored
  rw [atomicOf_eq hf] at stored
  refine ⟨y, ?_, acc.mesh.trans received.mesh, stored, acc.spm.trans received.spm⟩
  have space : spaceOf m.untagged.paddr = .vault := (atVault_space there)
  rw [space]
  simp only [bne_self_eq_false, Bool.false_eq_true, if_false]
  exact congrArg (fun r : State × Nat × XWord => (r.1, m.untagged.answer r.2.1 r.2.2)) done
end

/-! ## Full/empty requests (R145, R146, R279) -/

/-- The form of a full/empty request. -/
def requestForm (isLoad : Bool) (fn : Nat) : WordForm := { load := isLoad, fn := fn, d := 0, a := 0, b := 0, o := 0, w := 0, off := 0 }

section
variable {s : State} {k : Nat} {m : Msg} {isLoad : Bool} (h : Arrived s k m (if isLoad then 3 else 4)) (there : AtVault s m 8)
include h there

/-- What a full/empty request does, it does by the step of its procedure. -/
theorem exec_fullEmpty_answered {status : Nat} {x : XWord} {P : Memory → Memory → List Nat → Prop}
    (act : ∀ z, Received s z → ∃ y, (if feHolds isLoad m.fn.toNat (s.isFull m.paddr) then
        let r := z.fePerform m.untagged.who m.paddr isLoad m.fn.toNat m.opa
        (r.1, m.untagged.answer r.2.1 r.2.2)
      else (z, m.untagged.answer 5 0)) = (y, m.untagged.answer status x) ∧ y.mesh = s.mesh ∧ P y.mem y.spm y.empties) :
    ∃ t, exec (if isLoad then .fullEmptyLoad k else .fullEmptyStore k) s = .next t ∧ Answered s t k m status x ∧ P t.mem t.spm t.empties := by
  have run (s : State) : exec (if isLoad then .fullEmptyLoad k else .fullEmptyStore k) s = .next (State.doFullEmpty isLoad s k) := by
    cases isLoad with
    | true => exact (exec_fullEmptyLoad : _ = execFullEmptyLoad k s)
    | false => exact (exec_fullEmptyStore : _ = execFullEmptyStore k s)
  have kind : (m.proc == if isLoad then 3 else 4) = true := arrived_code h (by cases isLoad <;> rfl)
  refine exec_answered h (p := fun m => m.proc == if isLoad then 3 else 4) (bs := m.data) run kind fun z received => ?_
  obtain ⟨y, done, rest⟩ := act z received
  refine ⟨y, ?_, rest⟩
  have whole : z.isLost m.paddr = false := (atVault_sound there received).not_lost (by decide)
  have ready : z.feReady m.paddr isLoad m.fn.toNat = feHolds isLoad m.fn.toNat (s.isFull m.paddr) := by
    rw [State.feReady, whole, State.isFull, received.empties]
    rfl
  rw [← ready] at done
  exact done

/-- A request whose condition fails. -/
theorem ownerFullEmpty_unmet (unmet : (requestForm isLoad m.fn.toNat).may (s.isFull m.paddr) = false) :
    ∃ t, exec (if isLoad then .fullEmptyLoad k else .fullEmptyStore k) s = .next t ∧ Answered s t k m 5 0 ∧ t.mem = s.mem ∧ t.empties = s.empties := by
  rw [WordForm.may_eq] at unmet
  refine exec_fullEmpty_answered h there (P := fun mem _ empties => mem = s.mem ∧ empties = s.empties) fun z received =>
    ⟨z, if_neg (Bool.eq_false_iff.1 unmet), received.mesh, received.mem, received.empties⟩

/-- A request whose condition holds, on a word that no strand waits on. -/
theorem ownerFullEmpty_met (met : (requestForm isLoad m.fn.toNat).may (s.isFull m.paddr) = true)
    (alone : ∀ w ∈ (s.coreAt m.dst).waiters, w.onWord m.paddr = false) :
    ∃ t, exec (if isLoad then .fullEmptyLoad k else .fullEmptyStore k) s = .next t ∧
      Answered s t k m 0 (if isLoad then BitVec.ofNat 64 (s.mem.readNat m.paddr 8) else 0) ∧
      t.empties = (requestForm isLoad m.fn.toNat).after (m.paddr / 8) s.empties ∧
      (isLoad = true → t.mem = s.mem) ∧ (isLoad = false → Stored s.mem t.mem m.paddr (leBytes 8 m.opa.toNat)) := by
  rw [WordForm.may_eq] at met
  refine exec_fullEmpty_answered h there (P := fun mem _ empties => empties = (requestForm isLoad m.fn.toNat).after (m.paddr / 8) s.empties ∧
    (isLoad = true → mem = s.mem) ∧ (isLoad = false → Stored s.mem mem m.paddr (leBytes 8 m.opa.toNat))) fun z received => ?_
  obtain ⟨y, done, acc, read, wrote⟩ := fePerform_sound (atVault_sound there received)
    (by rw [there.2.1, received.waiters]; exact alone) (requestForm isLoad m.fn.toNat) m.untagged.who m.opa
  rw [received.mem] at done read wrote
  rw [received.empties] at done
  refine ⟨{ y with empties := (requestForm isLoad m.fn.toNat).after (m.paddr / 8) s.empties }, ?_, acc.mesh.trans received.mesh, rfl, read, wrote⟩
  exact (if_pos met).trans <| congrArg (fun r : State × Nat × XWord => (r.1, m.untagged.answer r.2.1 r.2.2)) done
end

/-! ## Parked continuations (R146) -/

/-- A waiter joins a list with room on chip (R147). -/
theorem State.enlist_room {s : State} {c : Nat} {w : Waiter} (room : (s.coreAt c).waiters.length < 64) (chip : w.inMem = false) :
    s.enlist c w = s.onCore c fun k => { k with waiters := k.waiters ++ [w] } := by
  have short : (((s.coreAt c).waiters.filter fun x => x.list == w.list).filter fun x => !x.inMem).length < 64 :=
    Nat.lt_of_le_of_lt ((List.length_filter_le _ _).trans (List.length_filter_le _ _)) room
  have same : ({ w with inMem := false } : Waiter) = w := by rw [← chip]
  rw [State.enlist, if_pos short, same]

/-- A bank serves nobody where the one continuation that waits on the word finds its condition false (R146, R147). -/
theorem State.feWake_unserved {s : State} {a : Nat} {w : Waiter} {isLoad : Bool} {fn : Nat} {rd : BitVec 5} {x : XWord}
    (one : (s.coreAt (vaultOf a)).waiters.filter (fun w => w.onWord a) = [w]) (kind : w.kind = .fullEmpty a isLoad fn rd x)
    (there : s.isLost a = false) (unmet : feHolds isLoad fn (s.isFull a) = false) : s.feWake a = s := by
  have mine (v : Waiter) (hv : v ∈ (s.coreAt (vaultOf a)).waiters) (word : v.onWord a = true) : v = w :=
    List.mem_singleton.1 (one ▸ List.mem_filter.2 ⟨hv, word⟩)
  have once : s.visitOnce (vaultOf a) a = s := by
    rw [State.visitOnce, one]
    simp only [List.map_cons, List.map_nil, List.foldl_cons, List.foldl_nil]
    split
    · rfl
    next v found =>
      have matched := List.find?_some found
      obtain ⟨word, -⟩ := Bool.and_eq_true_iff.1 matched
      rw [mine v (List.mem_of_find?_eq_some found) word, kind]
      simp [there, unmet]
  rw [State.feWake]
  split
  · rw [State.visit]
    simp [once]
  · rfl

section
variable {s : State} {k : Nat} {m : Msg} {w : Waiter} (there : s.mesh[k]? = some m) (stage : m.stage = .toOwner) (proc : m.proc = 10)
  (cont : m.cont = some w)
include there stage proc cont

/-- What a parked continuation meets at its bank. -/
theorem State.doParked_eq : s.doParked k =
    if (s.coreAt m.dst).killed then ((s.dropMsg k).countRecv m.src m.lid).releaseWaiter m.src w (some (.refused, w.ea))
    else (((s.dropMsg k).agentTurn m.dst).countRecv m.dst m.lid).parkAt w m.paddr := by
  rw [State.doParked, there]
  dsimp only
  rw [cont]
  dsimp only
  rw [stage, proc]
  rfl

/-- A continuation whose condition fails joins the waiters of the bank. -/
theorem parked_waits {fn : Nat} {isLoad : Bool} {rd : BitVec 5} {x : XWord} (kind : w.kind = .fullEmpty m.paddr isLoad fn rd x)
    (home : m.dst = vaultOf m.paddr) (chip : w.inMem = false) (whole : s.isLost m.paddr = false) (alive : (s.coreAt m.dst).killed = false)
    (room : (s.coreAt m.dst).waiters.length < 64) (alone : ∀ v ∈ (s.coreAt m.dst).waiters, v.onWord m.paddr = false)
    (unmet : feHolds isLoad fn (s.isFull m.paddr) = false) :
    ∃ t, exec (.parkedContinuation k) s = .next t ∧ t.mesh = without s.mesh k ∧ (t.coreAt m.dst).waiters = (s.coreAt m.dst).waiters ++ [w] ∧
      t.mem = s.mem ∧ t.empties = s.empties := by
  have received : Received (s.dropMsg k) (((s.dropMsg k).agentTurn m.dst).countRecv m.dst m.lid) :=
    (Received.agentTurn _ m.dst).trans (.countRecv _ m.dst m.lid)
  refine ⟨_, (exec_parkedContinuation : _ = execParkedContinuation k s), ?_⟩
  rw [State.doParked_eq there stage proc cont, alive, if_neg Bool.false_ne_true]
  generalize ((s.dropMsg k).agentTurn m.dst).countRecv m.dst m.lid = z at received
  have waiters : (z.coreAt m.dst).waiters = (s.coreAt m.dst).waiters := received.waiters m.dst
  have after : ((z.onCore m.dst fun q => { q with waiters := q.waiters ++ [w] }).coreAt m.dst).waiters = (s.coreAt m.dst).waiters ++ [w] := by
    rw [State.coreAt_onCore_self, ← waiters]
  have parked : z.parkAt w m.paddr = z.onCore m.dst fun q => { q with waiters := q.waiters ++ [w] } := by
    rw [State.parkAt, ← home, State.enlist_room (waiters ▸ room) chip]
    refine State.feWake_unserved (w := w) ?_ kind ?_ ?_
    · have none : (s.coreAt m.dst).waiters.filter (fun w => w.onWord m.paddr) = [] := List.filter_eq_nil_iff.2 fun v hv => by simp [alone v hv]
      rw [← home, after, List.filter_append, none]
      simp [Waiter.onWord, kind]
    · rw [← whole, received.device]
      rfl
    · rw [← unmet]
      exact congrArg (fun l : List Nat => feHolds isLoad fn !l.contains (m.paddr / 8)) received.empties
  rw [parked]
  exact ⟨received.mesh, after, received.mem, received.empties⟩
end

/-! ## The obligation -/

section
variable {s : State} {k : Nat} {m : Msg}

theorem ownerLoads (h : Arrived s k m 0) (hd : m.data = []) :
    (m.mask = 0 → AtVault s m (2 ^ m.size.toNat) → ∃ t, exec (.load k) s = .next t ∧
      Answered s t k m 0 (BitVec.ofNat 64 (s.mem.readNat m.paddr (2 ^ m.size.toNat))) ∧ t.mem = s.mem ∧ t.spm = s.spm ∧ t.empties = s.empties) ∧
    (m.mask ≠ 0 → AtVault s m 32 → ∃ t, exec (.load k) s = .next t ∧ Answered s t k { m with data := s.mem.readBytes m.paddr 32 } 0 0 ∧
      t.mem = s.mem ∧ t.spm = s.spm ∧ t.empties = s.empties) := by
  refine ⟨fun plain there => ?_, fun masked there => ?_⟩
  · have length : m.length = 2 ^ m.size.toNat := by simp [Msg.length, Msg.bytes, hd, plain]
    exact ownerLoad h length there (bs := m.data) (if_pos plain)
  · have on : (m.mask != 0) = true := bne_iff_ne.2 masked
    have length : m.length = 32 := by
      rw [Msg.length, hd, on]
      rfl
    exact ownerLoad h length there (if_neg masked)

theorem ownerStores (h : Arrived s k m 1) :
    (m.data = [] → AtVault s m (2 ^ m.size.toNat) → ∃ t, exec (.store k) s = .next t ∧ Answered s t k m 0 0 ∧
      Stored s.mem t.mem m.paddr (leBytes (2 ^ m.size.toNat) m.opa.toNat) ∧ t.spm = s.spm ∧ t.empties = s.empties) ∧
    (m.data.length = 32 → AtVault s m 32 → ∃ t, exec (.store k) s = .next t ∧ Answered s t k m 0 0 ∧ t.spm = s.spm ∧ t.empties = s.empties ∧
      (∀ i b, m.data[i]? = some b → t.mem.read (m.paddr + i) = if m.mask.getLsbD i then b else s.mem.read (m.paddr + i)) ∧
      ∀ x, x < m.paddr ∨ m.paddr + 32 ≤ x → t.mem.read x = s.mem.read x) := by
  refine ⟨fun plain there => ?_, fun granule there => ?_⟩
  · have runs : m.runs = [(0, leBytes (2 ^ m.size.toNat) m.opa.toNat)] := by simp [Msg.runs, Msg.bytes, plain]
    obtain ⟨t, run, answered, bytes, below, spm, empties⟩ := ownerStore h there (by simp [runs])
    refine ⟨t, run, answered, stored_iff.2 fun x => ?_, spm, empties⟩
    rcases Nat.lt_or_ge x m.paddr with low | high
    · rw [below x low, Memory.read_write_out _ _ _ _ (.inl low)]
    · obtain ⟨i, rfl⟩ := Nat.exists_eq_add_of_le high
      rw [bytes i, runs]
      by_cases inside : i < (leBytes (2 ^ m.size.toNat) m.opa.toNat).length
      · simp [runByte, runAt, Memory.read_write_in _ _ _ _ inside, List.getElem?_eq_getElem inside]
      · rw [Memory.read_write_out _ _ _ _ (by omega)]
        simp [runByte, runAt, List.getElem?_eq_none (Nat.le_of_not_lt inside)]
  · have runs : m.runs = maskRuns m.mask m.data := by
      have some_ : m.data.isEmpty = false := by
        cases data : m.data with
        | nil => simp [data] at granule
        | cons b r => rfl
      simp [Msg.runs, some_]
    obtain ⟨t, run, answered, bytes, below, spm, empties⟩ := ownerStore h there fun p hp => by
      have := runsFrom_within _ 0 p (runs ▸ hp)
      simpa [granule] using this
    have at_ (i : Nat) := (bytes i).trans (by rw [runs, runByte_maskRuns])
    refine ⟨t, run, answered, spm, empties, fun i b hb => ?_, fun x hx => ?_⟩
    · rw [at_, hb]
      cases m.mask.getLsbD i <;> simp
    · rcases hx with low | high
      · exact below x low
      · obtain ⟨i, rfl⟩ := Nat.exists_eq_add_of_le (show m.paddr ≤ x by omega)
        rw [at_, List.getElem?_eq_none (by omega)]
        rfl

theorem ownerFullEmpties {isLoad : Bool} (h : Arrived s k m (if isLoad then 3 else 4)) (there : AtVault s m 8) :
    let e : Instr := if isLoad then .fullEmptyLoad k else .fullEmptyStore k
    let full := !s.empties.contains (m.paddr / 8)
    let may := if isLoad then full else m.fn == 0 || !full
    (may = false → ∃ t, exec e s = .next t ∧ Answered s t k m 5 0 ∧ t.mem = s.mem ∧ t.empties = s.empties) ∧
    (may = true → (∀ w ∈ (s.coreAt m.dst).waiters, w.onWord m.paddr = false) → ∃ t, exec e s = .next t ∧
      (isLoad = true → Answered s t k m 0 (BitVec.ofNat 64 (s.mem.readNat m.paddr 8)) ∧ t.mem = s.mem ∧
        t.empties = if m.fn = 0 then s.empties else insertNat (m.paddr / 8) s.empties) ∧
      (isLoad = false → Answered s t k m 0 0 ∧ Stored s.mem t.mem m.paddr (leBytes 8 m.opa.toNat) ∧
        t.empties = s.empties.filter fun w => w != m.paddr / 8)) := by
  intro e full may
  have none_ : m.fn.toNat = 0 ↔ m.fn = 0 := ⟨fun h => BitVec.eq_of_toNat_eq h, fun h => h ▸ rfl⟩
  have zero : (m.fn.toNat == 0) = (m.fn == 0) := by rw [Bool.eq_iff_iff, beq_iff_eq, beq_iff_eq, none_]
  have form : (requestForm isLoad m.fn.toNat).may (s.isFull m.paddr) = may := by
    show (if isLoad then full else m.fn.toNat == 0 || !full) = may
    rw [zero]
  refine ⟨fun unmet => ownerFullEmpty_unmet h there (form.trans unmet), fun met alone => ?_⟩
  obtain ⟨t, run, answered, empties, read, wrote⟩ := ownerFullEmpty_met h there (form.trans met) alone
  refine ⟨t, run, fun load => ?_, fun store => ?_⟩
  · subst load
    simp only [WordForm.after, requestForm, if_true, none_] at empties
    exact ⟨answered, read rfl, empties⟩
  · subst store
    exact ⟨answered, wrote rfl, empties⟩
end

/-- A killed core refuses a message (R416). -/
theorem killed_refuses {s : State} {k proc : Nat} {m : Msg} (h : AtOwner s k m proc) (h9 : proc ≠ 9 ∨ m.fn = 0) (h10 : proc ≠ 10)
    (killed : (s.coreAt m.dst).killed = true) :
    let r : Msg := { m with stage := .replied, status := 4, cause := some .refused, result := 0, dst := 1024 }
    exec (ownerEvent proc k) s = .next { s with mesh := s.mesh.set k r } := by
  obtain ⟨p, f, hp, run⟩ := exec_ownerEvent h.which h9 h10 k
  rw [run, State.serve_atOwner h hp, killed]
  rfl

/-- A request for a vault waits in the order of arrival while its agent has no tag for it (R136). -/
theorem tagless_waits {s : State} {k proc : Nat} {m : Msg} (h : AtOwner s k m proc) (vault : m.atVault = true)
    (alive : (s.coreAt m.dst).killed = false) (tags : s.tagFree m.dst m.tag = false) :
    (m.tag = none → exec (ownerEvent proc k) s = .next { s with mesh := s.mesh.set k { m with tag := some s.orders }, orders := s.orders + 1 }) ∧
    (m.tag ≠ none → exec (ownerEvent proc k) s = .next s) := by
  obtain ⟨low, -⟩ := Bool.and_eq_true_iff.1 vault
  have low := of_decide_eq_true low
  rw [h.which] at low
  obtain ⟨p, f, hp, run⟩ := exec_ownerEvent h.which (.inl (by omega)) (by omega) k
  rw [run, State.serve_atOwner h hp, alive, vault, tags]
  refine ⟨fun none => by rw [none]; rfl, fun placed => ?_⟩
  rw [Option.isSome_iff_ne_none.2 placed]
  rfl

/-- A message waits for an older one of its strand that may reach one of its words (R163). -/
theorem blocked_waits {s : State} {k proc : Nat} {m : Msg} (there : s.mesh[k]? = some m) (hm : m.proc.toNat = proc) (h10 : proc ≠ 10)
    (h9 : proc ≠ 9 ∨ m.fn = 0) (first : m.tag = none) (blocked : s.blocked k m = true) : exec (ownerEvent proc k) s = .next s := by
  obtain ⟨p, f, -, run⟩ := exec_ownerEvent hm h9 h10 k
  rw [run, State.serve, there]
  simp [first, blocked]

/-- A procedure above 10 is refused with status 4 (R134). -/
theorem unknown_refused {s : State} {k proc : Nat} {m : Msg} (h : Arrived s k m proc) (unknown : 11 ≤ proc) :
    ∃ t, exec (.unknownProcedure k) s = .next t ∧ Answered s t k m 4 0 ∧ t.mem = s.mem ∧ t.spm = s.spm := by
  obtain ⟨z, received, served⟩ := State.serve_arrived h (p := fun m => decide (11 ≤ m.proc.toNat)) (decide_eq_true (by rw [h.which]; exact unknown))
    fun s m => s.putMsg k (m.answer 4 0)
  refine ⟨_, (exec_unknownProcedure : _ = execUnknownProcedure k s), ?_⟩
  rw [State.doUnknown, served]
  exact ⟨⟨_, replied_answer m 4 0, congrArg (List.set · k _) received.mesh⟩, received.mem, received.spm⟩

/-- Settles O48: what a message meets at its owner is `State.serve_atOwner`; one that has arrived at a sound vault is performed without error
and answered in its place (`exec_answered`), and a parked continuation whose condition fails is enlisted (`parked_waits`). -/
theorem ownerAccesses : Obligations.OwnerAccesses := by
  unfold Obligations.OwnerAccesses
  refine ⟨fun k proc m s there stage hm h10 h9 first blocked => blocked_waits there hm h10 h9 first blocked,
    fun k proc m s h vault alive tags => tagless_waits h vault alive tags, fun k m s h hd => ownerLoads h hd, fun k m s h => ownerStores h,
    fun k m s h there _ hf => ownerAtomic h there hf, fun k m isLoad s h there _ _ => ownerFullEmpties h there, ?_,
    fun proc k m s h h9 h10 killed => killed_refuses h h9 h10 killed, fun proc k m s h unknown => unknown_refused h unknown⟩
  intro k fn m w isLoad rd x s there stage proc cont kind home chip whole
  refine ⟨fun killed => ?_, fun alive room alone unmet => parked_waits there stage proc cont kind home chip whole alive room alone ?_⟩
  · rw [(exec_parkedContinuation : _ = execParkedContinuation k s), execParkedContinuation, State.doParked_eq there stage proc cont, if_pos killed,
      show s.dropMsg k = { s with mesh := without s.mesh k } from rfl]
  · cases isLoad with
    | true => simpa [feHolds, State.isFull] using unmet
    | false => simpa [feHolds, State.isFull] using unmet

end Sys2Proof.Machine
end

section
/-! # Stations, walks, invalidations and replies (O50)

A station translates a message from its cache or has it wait for a walk; the walk reads tables and changes nothing of the mesh or of the stations
(`Reading`); a reply delivers to its slot, undoes it, or acknowledges a posted access. -/

namespace Sys2Proof.Machine
open Sys2Proof.Statements

/-! ## What a read of vault space changes (R136, R143, R144, R406, R407, R411) -/

/-- Reads of vault space may change cores, Quince's lists and log, and the errors that are armed; nothing else. -/
def Reading (s t : State) : Prop := t = { s with cores := t.cores, quince := t.quince, injected := t.injected }

namespace Reading

theorem refl (s : State) : Reading s s := rfl

variable {s t u : State} (h : Reading s t)
include h

theorem trans (k : Reading t u) : Reading s u := by
  rw [Reading] at h k ⊢
  rw [k, h]

theorem mesh : t.mesh = s.mesh := by rw [Reading] at h; rw [h]
theorem stations : t.stations = s.stations := by rw [Reading] at h; rw [h]
theorem spm : t.spm = s.spm := by rw [Reading] at h; rw [h]

theorem ite {c : Prop} [Decidable c] (k : Reading s u) : Reading s (if c then t else u) := by
  split
  · exact h
  · exact k

theorem fstIte {α : Type} {c : Prop} [Decidable c] {x : α} {y : State × α} (k : Reading s y.1) : Reading s (if c then (t, x) else y).1 := by
  split
  · exact h
  · exact k

theorem onCore (c : Nat) (f : Core → Core) : Reading s (t.onCore c f) := h.trans rfl
theorem withQuince (q : Quince) : Reading s { t with quince := q } := h.trans rfl
theorem withInjected (l : List (Nat × Nat × Nat × Bool)) : Reading s { t with injected := l } := h.trans rfl

theorem logError (c array sev cause addr syn : Nat) (w : Who) (inj : Bool) : Reading s (t.logError c array sev cause addr syn w inj) := by
  rw [State.logError]
  exact ite (h.onCore c fun _ => _) ((h.onCore c fun _ => _).withQuince _)

theorem putBank (c b : Nat) (v : Bank) : Reading s (t.putBank c b v) := h.onCore c _

theorem openRow (a : Nat) : Reading s (t.openRow a) := (h.onCore _ _).putBank _ _ _

theorem failBank (c b : Nat) : Reading s (t.failBank c b) := ite h (h.withQuince _)

theorem repairRow (a : Nat) (w : Who) : Reading s (t.repairRow a w) := ite (h.failBank _ _) (((h.putBank _ _ _).onCore _ _).logError ..)

theorem noteFix (a : Nat) (w : Who) : Reading s (t.noteFix a w) := ite (h.repairRow a w) (h.putBank _ _ _)

theorem noteBad (a : Nat) : Reading s (t.noteBad a) := ite ((h.putBank _ _ _).failBank _ _) (h.putBank _ _ _)

theorem fire (key : Nat) : Reading s (t.fire key) :=
  List.foldlRecOn (motive := Reading s) _ _ (h.withInjected _) fun _ hu e _ => hu.onCore e.1 _

theorem checkGranule (w : Who) (g : Nat) : Reading s (t.checkGranule w g).1 :=
  have fired := ite h (h.fire g)
  fstIte ((fired.logError ..).noteBad _) (fstIte ((fired.logError ..).noteFix _ _) fired)

theorem readGranule (w : Who) (g : Nat) : Reading s (t.readGranule w g).1 := fstIte h ((h.openRow _).checkGranule w g)

theorem countLost (a status : Nat) : Reading s (t.countLost a status) := ite (h.onCore _ _) h

theorem vaultRead (w : Who) (a n : Nat) : Reading s (t.vaultRead w a n).1 := by
  have granules : Reading s ((granules a n).foldl (fun (acc : State × Nat) g =>
      let t := acc.1.readGranule w g; (t.1, if acc.2 = 0 then t.2 else acc.2)) (t, 0)).1 :=
    List.foldlRecOn (motive := fun r : State × Nat => Reading s r.1) _ _ h fun _ hr g _ => hr.readGranule w g
  exact granules.countLost _ _

theorem tableEntry (w : Who) (a : Nat) : Reading s (t.tableEntry w a).1 := fstIte h (fstIte h (h.vaultRead w a 8))

omit h in
theorem of_eq {α : Type} {r : State × α} (hr : Reading s r.1) {v : State} {x : α} (e : r = (v, x)) : Reading s v := by
  rw [e] at hr
  exact hr

theorem walkFrom (w : Who) (va n table : Nat) : Reading s (State.walkFrom w va n t table).1 := by
  induction n generalizing t table with
  | zero => exact h
  | succ n ih =>
    unfold State.walkFrom
    dsimp only
    split
    next e => exact of_eq (h.tableEntry w _) e
    next e =>
      have read := of_eq (h.tableEntry w _) e
      refine fstIte read ?_
      split
      · exact fstIte read read
      · exact fstIte read (ih read _)

theorem walk (w : Who) (pid : BitVec 16) (va : Nat) : Reading s (t.walk w pid va).1 := by
  unfold State.walk
  split
  next e => exact of_eq (h.tableEntry w _) e
  next e =>
    have read := of_eq (h.tableEntry w _) e
    exact fstIte read (read.walkFrom w va 4 _)

end Reading

/-! ## Stations (R126, R129, R130) -/

/-- A page that grants an access translates it (R125, R129). -/
theorem leafAddress_granted {level frame va : Nat} {w x prv : Bool} {m : Msg} (may : w = true ∨ m.access = .read)
    (vault : frame + va % 2 ^ pageBits level < 2 ^ 38) : leafAddress level frame w x prv va m.access = .ok (frame + va % 2 ^ pageBits level) := by
  have fetch : m.access ≠ .fetch := by unfold Msg.access; split <;> exact nofun
  have write : (decide (m.access = .write) && !w) = false := by
    rcases may with rfl | read
    · exact Bool.and_false _
    · rw [read]; rfl
  simp [leafAddress, write, fetch, spaceOf_vault vault]

/-- A write is refused where its page is not writable (R129). -/
theorem leafAddress_refused {level frame va : Nat} {x prv : Bool} : leafAddress level frame false x prv va .write = .error .prot := rfl

theorem State.classify_frame (s : State) (m : Msg) (c : Cls) : (s.classify m c).mesh = s.mesh ∧ (s.classify m c).stations = s.stations ∧
    (s.classify m c).mem = s.mem := by
  unfold State.classify
  split
  · exact ⟨rfl, rfl, rfl⟩
  · exact ⟨rfl, rfl, rfl⟩

/-- A message translated to vault space goes on to its owner (R126). -/
theorem State.forward_vault {s : State} {k pa : Nat} {m : Msg} (vault : pa < 2 ^ 38) :
    (s.forward k m (.ok pa)).mesh = s.mesh.set k { m with paddr := pa, dst := pa / 2 ^ 28, stage := .toOwner, cls := if m.storing then .one else m.cls } ∧
    (s.forward k m (.ok pa)).stations = s.stations ∧ (s.forward k m (.ok pa)).mem = s.mem := by
  have owner : vaultOf pa = pa / 2 ^ 28 := by simp only [vaultOf]; omega
  rw [State.forward]
  dsimp only
  rw [spaceOf_vault vault]
  dsimp only
  rw [owner]
  obtain ⟨mesh, stations, mem⟩ := s.classify_frame
    { m with paddr := pa, dst := pa / 2 ^ 28, stage := .toOwner, cls := if m.storing then .one else m.cls } .one
  exact ⟨congrArg (List.set · k _) mesh, stations, mem⟩

section
variable {s : State} {k : Nat} {m : Msg} (there : s.mesh[k]? = some m) (stage : m.stage = .toStation)
include there stage

/-- With translation off a request takes XLATE. -/
theorem stationRequest_off (off : s.stpt.getLsbD 0 = false) : s.stationRequest k = s.putMsg k (m.refuseAway .xlate) := by
  rw [State.stationRequest, there]
  dsimp only
  rw [stage, off]
  rfl

/-- A request whose page the station holds is forwarded as the page says. -/
theorem stationRequest_hit (on : s.stpt.getLsbD 0 = true) {e : Tlb} (hit : (s.stationAt (stationOf m.src)).hit m.pid m.va.toNat = some e)
    (good : e.bad = false) : s.stationRequest k = s.forward k m (leafAddress e.level e.frame e.w e.x m.prv m.va.toNat m.access) := by
  have found : s.probe (stationOf m.src) m.pid m.va.toNat = (s, some e) := by
    rw [State.probe, hit]
    dsimp only
    rw [good, if_neg Bool.false_ne_true]
  rw [State.stationRequest, there]
  dsimp only
  rw [stage, on, found]
  rfl

/-- A request whose page the station does not hold has a walk begun, and waits for it. -/
theorem stationRequest_miss (on : s.stpt.getLsbD 0 = true) (miss : (s.stationAt (stationOf m.src)).hit m.pid m.va.toNat = none)
    (idle : (s.stationAt (stationOf m.src)).walks = []) : s.stationRequest k =
      (s.putStation (stationOf m.src) { s.stationAt (stationOf m.src) with
        walks := [{ pid := m.pid, va := BitVec.ofNat 48 (m.va.toNat / 65536 * 65536) }] }).putMsg k { m with stage := .walking } := by
  have absent : s.probe (stationOf m.src) m.pid m.va.toNat = (s, none) := by rw [State.probe, miss]
  rw [State.stationRequest, there]
  dsimp only
  rw [stage, on, absent]
  dsimp only
  rw [idle]
  rfl
end

/-! ## Walks (R127 to R130) -/

/-- A walk that finds its leaf is cached, and the request that waited for it goes on to the owner. -/
theorem tableWalk_found {s y : State} {n : Nat} {w : Walk} {m : Msg} {f : Leaf} (one : (s.stationAt n).walks = [w]) (on : s.stpt.getLsbD 0 = true)
    (mesh : s.mesh = [m]) (stage : m.stage = .walking) (station : stationOf m.src = n) (pid : m.pid = w.pid)
    (page : m.va.toNat / 2 ^ 16 * 2 ^ 16 = w.va.toNat)
    (found : (s.putStation n { s.stationAt n with walks := [] }).walk { core := stationCore n, pid := w.pid, id := { lid := 0, sid := 0 } } w.pid w.va.toNat =
      (y, .ok f)) :
    y.mesh = [m] ∧ (y.stationAt n).walks = [] ∧ s.tableWalk n 0 = (y.putStation n ((y.stationAt n).keep w.pid w.va.toNat f)).forward 0 m
      (leafAddress f.level f.frame f.w f.x m.prv m.va.toNat m.access) := by
  have read := Reading.of_eq ((Reading.refl (s.putStation n { s.stationAt n with walks := [] })).walk _ _ _) found
  have kept : y.mesh = [m] := read.mesh.trans mesh
  have idle : (y.stationAt n).walks = [] := by
    have same : y.stationAt n = (s.putStation n { s.stationAt n with walks := [] }).stationAt n := by rw [State.stationAt, read.stations]; rfl
    rw [same, State.stationAt_putStation_self]
  refine ⟨kept, idle, ?_⟩
  have mine : (m.stage == .walking && stationOf m.src == n && m.pid == w.pid && m.va.toNat / 65536 * 65536 == w.va.toNat) = true := by
    rw [stage, station, pid, show m.va.toNat / 65536 * 65536 = w.va.toNat from page]
    simp
  rw [State.tableWalk, one]
  dsimp only [List.getElem?_cons_zero]
  rw [show dropAt [w] 0 = [] from rfl, State.putStation_stpt, on, if_pos rfl, found]
  dsimp only
  rw [State.putStation_mesh, kept]
  show (match (y.putStation n ((y.stationAt n).keep w.pid w.va.toNat f)).mesh[0]? with
    | none => _
    | some m => _) = _
  rw [State.putStation_mesh, kept]
  dsimp only [List.getElem?_cons_zero]
  rw [mine, if_pos rfl]

/-! ## Invalidations (R131) -/

/-- A station drops the entries that an invalidation selects, and with no request on its way acknowledges it. -/
theorem stationInvalidation_done {s : State} {k : Nat} {v : InvMsg} (there : s.invs[k]? = some v) (quiet : ∀ m ∈ s.mesh, m.stage = .replied) :
    exec (.stationInvalidation k) s = .next { s.putStation v.station { s.stationAt v.station with
      cache := (s.stationAt v.station).cache.filter fun e => !v.selects e.pid e.level e.vpage } with invs := dropAt s.invs k } := by
  have none_ (f : Msg → Bool) : s.mesh.any (fun x => x.stage == .toOwner && f x) = false := List.any_eq_false.2 fun m hm => by simp [quiet m hm]
  rw [exec_stationInvalidation, Machine.execStationInvalidation, there]
  dsimp only
  rw [State.putStation_mesh]
  simp only [Bool.and_assoc]
  rw [none_, if_neg Bool.false_ne_true]
  rfl

/-! ## Awaited replies (R135, R231, R377) -/

theorem map_marked {α β : Type} (l : List α) (f : α × Nat → α) (g : α → β) (h : ∀ p, g (f p) = g p.1) : (l.zipIdx.map f).map g = l.map g := by
  have same : g ∘ f = g ∘ Prod.fst := funext h
  rw [List.map_map, same, ← List.map_map, List.zipIdx_map_fst]

theorem map_beside {α : Type} (l : List α) (f : α → α) {n i : Nat} (h : ∀ p ∈ l.zipIdx n, p.2 ≠ i) :
    (l.zipIdx n).map (fun p => if p.2 = i then f p.1 else p.1) = l :=
  (List.map_congr_left (g := Prod.fst) fun p hp => if_neg (h p hp)).trans (List.zipIdx_map_fst n l)

/-- A change of one place of a list. -/
theorem map_at {α : Type} (l r : List α) (a : α) (f : α → α) :
    (l ++ a :: r).zipIdx.map (fun p => if p.2 = l.length then f p.1 else p.1) = l ++ f a :: r := by
  rw [List.zipIdx_append, List.map_append, List.zipIdx_cons, List.map_cons,
    map_beside l f fun p hp => Nat.ne_of_lt (by simpa using List.snd_lt_add_of_mem_zipIdx hp),
    map_beside r f fun p hp => by have := List.le_snd_of_mem_zipIdx hp; omega, if_pos (Nat.zero_add _)]

theorem dropAt_middle {α : Type} (l r : List α) (a : α) : dropAt (l ++ a :: r) l.length = l ++ r := by simp [dropAt]

theorem map_dropAt {α β : Type} (l : List α) (i : Nat) (g : α → β) : (dropAt l i).map g = dropAt (l.map g) i := by simp [dropAt]

/-- The result of an access reaches its slot as any write of a destination does. -/
theorem Slot.reg_deliver (v : Slot) (now : Nat) (d : BitVec 5) (x : Word) {i : Nat} (hi : i < 8) :
    (v.deliver now (d, x, false)).reg i = if d.toNat = i then Reg.written x none (now / 8) else v.reg i := by
  have reg : (v.deliver now (d, x, false)).reg i = (v.writeCode now d x false 0).reg i := by
    unfold Slot.deliver
    split
    · rfl
    · split
      · rfl
      · rfl
  rw [reg, Slot.reg_writeCode v now d x false 0 i hi]
  rfl

theorem Slot.deliver_eq (v : Slot) (now : Nat) (d : BitVec 5) (x : Word) : v.deliver now (d, x, false) = { v with
    lo := (v.deliver now (d, x, false)).lo, hi := (v.deliver now (d, x, false)).hi,
    preds := if d.toNat = 17 then x.extractLsb' 1 11 else v.preds, fl := if d.toNat = 18 then x else v.fl,
    k := if 24 ≤ d.toNat then v.k.set (d.toNat - 24) x else v.k,
    ready := if d.toNat < 8 ∨ discards d = true then v.ready else (v.deliver now (d, x, false)).ready } := by
  have banks : ∃ lo hi, v.deliver now (d, x, false) = { v.writeCode now d x false 0 with lo := lo, hi := hi } := by
    unfold Slot.deliver
    split
    · exact ⟨_, _, rfl⟩
    · split
      · exact ⟨_, _, rfl⟩
      · exact ⟨_, _, rfl⟩
  obtain ⟨lo, hi, banks⟩ := banks
  have fields := v.writeCode_eq now d x false 0
  rw [banks]
  generalize v.writeCode now d x false 0 = w at fields
  rw [fields]
  by_cases keeps : d.toNat < 8 ∨ discards d = true
  · simp only [if_pos keeps]
  · simp only [if_neg keeps]

theorem loadValue_wrap (size : Nat) (signed : Bool) (x : XWord) : loadValue size signed x =
    if size = 8 then x.setWidth 48 else if signed then wrap (sx (8 * size) x.toNat) else wrap (x.toNat % 2 ^ (8 * size) : Nat) := by
  have plain : wrap (x.toNat % 2 ^ (8 * size) : Nat) = BitVec.ofNat 48 (x.toNat % 2 ^ (8 * size)) := BitVec.ofInt_natCast 48 _
  rw [loadValue, plain]
  rfl

/-- What an awaited access leaves of its slot as its result reaches it. -/
theorem Slot.taken_eq (v : Slot) (now i : Nat) (d : BitVec 5) (x : Word) : ∃ f : Await × Nat → Await,
    (∀ p, (f p).ea = p.1.ea ∧ (f p).seqs = p.1.seqs ∧ (f p).failed = p.1.failed) ∧
    v.taken now i (some (d, x, false)) = { v.deliver now (d, x, false) with awaits := dropAt (v.awaits.zipIdx.map f) i } := by
  refine ⟨_, fun p => ?_, rfl⟩
  dsimp only
  split
  · exact ⟨rfl, rfl, rfl⟩
  · exact ⟨rfl, rfl, rfl⟩

/-- No oldest access that failed, no cause to take. -/
theorem State.settleAwaits_quiet {s : State} {c j : Nat} (h : ∀ a, (s.slotAt c j).awaits.head? = some a → a.failed = none) : s.settleAwaits c j = s := by
  rw [State.settleAwaits]
  split
  · rfl
  next a r e =>
    rw [h a (by rw [e]; rfl)]

section
variable {s : State} {k c j : Nat} {m : Msg} {before after : List Await} {a : Await} (h : AwaitedReply s k m c j before after a)
include h

/-- The reply to an awaited access is the one its slot waits for. -/
theorem doReply_awaited : s.doReply k = (s.dropMsg k).awaitReply c j before.length a m := by
  obtain ⟨there, stage, client, strand, awaits, seq, other, -, kind, dst⟩ := h
  have live : m.dst ≠ noCore := by unfold noCore; omega
  have present : ((s.slotAt c j).strand.map fun b => b.id) = some (s.slotAt c j).id := by
    obtain ⟨b, hb⟩ := Option.isSome_iff_exists.1 strand
    rw [Slot.id, hb]
    rfl
  have skip : before.zipIdx.find? (fun p => p.1.seqs.contains m.seq) = none := List.find?_eq_none.2 fun p hp => by
    simpa using other p.1 (List.fst_mem_of_mem_zipIdx hp)
  have found : (before ++ a :: after).zipIdx.find? (fun p => p.1.seqs.contains m.seq) = some (a, before.length) := by
    rw [List.zipIdx_append, List.find?_append, skip, List.zipIdx_cons, List.find?_cons]
    simp [seq]
  have slot : (s.dropMsg k).slotAt c j = s.slotAt c j := rfl
  rw [State.doReply, there]
  dsimp only
  rw [if_neg (by rw [stage]; exact Bool.false_ne_true), decide_eq_false live, client]
  simp only [Bool.false_and, Bool.false_eq_true, if_false]
  rw [kind, slot, present, awaits, found]
  simp

/-- The result of a load or an atomic reaches its register, and the access leaves the list of its slot. -/
theorem awaited_written (ok : m.cause = none) {d : BitVec 5} {x : Word} (plain : a.act.got m = a.act) (write : a.act.write m.result = some (d, x, false))
    (direct : ∀ y : State, y.awaitDone c j before.length { a with seqs := [] } m.result = y.finishAwait c j before.length (a.act.write m.result))
    (clean : (s.slotAt c j).poisonIn (banksOf [d]) = none) :
    ∃ t, exec (.reply k) s = .next t ∧ t.mem = s.mem ∧ t.mesh = without s.mesh k ∧
      let v := s.slotAt c j
      let w := t.slotAt c j
      Delivered v w s.now d x false 0 ∧ WindowKept v w [d] [] ∧ w.awaits.map (·.ea) = (before ++ after).map (·.ea) ∧
        w.awaits.map (·.seqs) = (before ++ after).map (·.seqs) ∧
        w = { v with lo := w.lo, hi := w.hi, ready := w.ready, preds := w.preds, fl := w.fl, k := w.k, awaits := w.awaits } := by
  let b : Await := { a with seqs := [] }
  let v := s.slotAt c j
  let held : Slot := { v with awaits := before ++ b :: after }
  let y := (s.dropMsg k).putSlot c j held
  have last : a.seqs.filter (· != m.seq) = [] := by simp [h.seq]
  have landed : (s.dropMsg k).awaitReply c j before.length a m = y.finishAwait c j before.length (some (d, x, false)) := by
    have put : (before ++ a :: after).set before.length b = before ++ b :: after := by simp
    have slot : (s.dropMsg k).slotAt c j = v := rfl
    rw [State.awaitReply, ok, show ((none : Option Cause) == some .illegal) = false from rfl, Bool.and_false, if_neg Bool.false_ne_true]
    dsimp only
    rw [last, plain, State.onSlot, slot, h.awaits, put, ← write, ← direct]
    rfl
  obtain ⟨f, kept, taken⟩ := held.taken_eq s.now before.length d x
  let w : Slot := held.taken s.now before.length (some (d, x, false))
  have list {β : Type} (g : Await → β) (hg : ∀ p, g (f p) = g p.1) : w.awaits.map g = (before ++ after).map g := by
    have awaits : w.awaits = dropAt ((before ++ b :: after).zipIdx.map f) before.length := congrArg Slot.awaits taken
    rw [awaits, map_dropAt, map_marked _ _ _ hg, ← map_dropAt, dropAt_middle]
  have done : y.finishAwait c j before.length (some (d, x, false)) = (s.dropMsg k).putSlot c j w := by
    have slot : y.slotAt c j = held := State.slotAt_putSlot_self ..
    have good : ((some (d, x, false)).bind fun r => (y.slotAt c j).poisonIn (banksOf [r.1])) = none := by
      rw [slot]
      exact clean
    rw [State.finishAwait, good]
    dsimp only
    rw [State.onSlot_putSlot, State.settleAwaits_quiet]
    · rfl
    · intro e he
      rw [State.slotAt_putSlot_self] at he
      have fails : e.failed ∈ (before ++ after).map (·.failed) := by
        rw [← list (·.failed) fun p => (kept p).2.2]
        exact List.mem_map_of_mem (List.mem_of_mem_head? he)
      obtain ⟨e', there, same⟩ := List.mem_map.1 fails
      rw [← same]
      refine h.failed e' ?_
      rcases List.mem_append.1 there with old | young
      · exact List.mem_append_left _ old
      · exact List.mem_append_right _ (List.mem_cons_of_mem _ young)
  have run : exec (.reply k) s = .next ((s.dropMsg k).putSlot c j w) := by
    rw [(exec_reply : _ = execReply k s), execReply, doReply_awaited h, landed, done]
  refine ⟨_, run, rfl, rfl, ?_⟩
  dsimp only
  rw [State.slotAt_putSlot_self]
  have fields := held.deliver_eq s.now d x
  have regs {i : Nat} (hi : i < 8) : w.reg i = if d.toNat = i then Reg.written x none (s.now / 8) else v.reg i := by
    have same : w.reg i = (held.deliver s.now (d, x, false)).reg i := by rw [show w = _ from taken]; rfl
    rw [same, held.reg_deliver s.now d x hi]
    rfl
  have shape : w = { held.deliver s.now (d, x, false) with awaits := w.awaits } := by rw [show w = _ from taken]
  generalize held.deliver s.now (d, x, false) = q at fields shape
  refine ⟨⟨fun h8 => ?_, ?_, ?_, ?_, fun quiet => ?_⟩, fun i hi away => ?_, list (·.ea) fun p => (kept p).1, list (·.seqs) fun p => (kept p).2.1, ?_⟩
  · rw [regs h8, if_pos rfl]
    rfl
  · rw [shape, fields]
  · rw [shape, fields]
  · rw [shape, fields]
  · rw [shape, fields]
    exact if_pos quiet
  · rw [regs hi, if_neg (away d (by simp))]
    simp [Kept, v]
  · rw [shape, fields]
/-- A failing access of an awaited one is recorded, and taken once no older one is awaited (R135, R377). -/
theorem awaited_fails {cause : Cause} (fails : m.cause = some cause) (waits : m.status ≠ 5) (gathers : m.status ≠ 8) :
    s.doReply k = ((s.dropMsg k).putSlot c j { s.slotAt c j with awaits := before ++ { a with failed := some (cause, a.ea) } :: after }).settleAwaits c j := by
  have plain : a.failed = none := h.failed a (by simp)
  have put := map_at before after a fun b => { b with failed := b.failed <|> some (cause, a.ea) }
  rw [plain] at put
  have slot : (s.dropMsg k).slotAt c j = s.slotAt c j := rfl
  rw [doReply_awaited h, State.awaitReply, fails, decide_eq_false waits]
  dsimp only
  rw [Bool.false_and, if_neg Bool.false_ne_true, if_neg gathers, State.failAwait, State.onSlot, slot, h.awaits, put]
  rfl

/-- The oldest awaited access that fails undoes itself and what issued behind it, and its cause is taken. -/
theorem awaited_fails_first {cause : Cause} (fails : m.cause = some cause) (poison : cause ≠ .poison) (waits : m.status ≠ 5) (gathers : m.status ≠ 8)
    (first : before = []) : exec (.reply k) s = .next ((({ s with mesh := without s.mesh k } : State).onSlot c j fun w =>
      { a.saved.onto w with awaits := [], early := none, run := none }).enterTrap c j cause a.ea false 0) := by
  subst first
  rw [(exec_reply : _ = execReply k s), execReply, awaited_fails h fails waits gathers, State.settleAwaits, State.slotAt_putSlot_self]
  dsimp only [List.nil_append]
  rw [if_neg poison, State.onSlot_putSlot]
  rfl

/-- A failing access behind an older one waits with its cause. -/
theorem awaited_fails_later {cause : Cause} (fails : m.cause = some cause) (waits : m.status ≠ 5) (gathers : m.status ≠ 8) (later : before ≠ []) :
    exec (.reply k) s = .next (({ s with mesh := without s.mesh k } : State).putSlot c j
      { s.slotAt c j with awaits := before ++ { a with failed := some (cause, a.ea) } :: after }) := by
  rw [(exec_reply : _ = execReply k s), execReply, awaited_fails h fails waits gathers, State.settleAwaits_quiet]
  · rfl
  · intro e he
    rw [State.slotAt_putSlot_self] at he
    obtain ⟨old, rest, rfl⟩ := List.exists_cons_of_ne_nil later
    obtain rfl : old = e := by simpa using he
    exact h.failed old (by simp)
end

/-! ## Acknowledgements of posted accesses (R385, R387, R390) -/

section
variable {s : State} {k c j : Nat} {m : Msg} (there : s.mesh[k]? = some m) (stage : m.stage = .replied) (storing : m.storing = true)
  (client : m.client = .slot c j (s.slotAt c j).id) (strand : (s.slotAt c j).strand.isSome = true) (dst : m.dst < 1024) (proc : m.proc ≠ 7)
include there stage storing client strand dst proc

/-- The acknowledgement of a request reaches its slot, of which no trap frame has been written in this cycle. -/
theorem exec_acknowledge (unframed : ((s.slotAt c j).acknowledge m s.now).trapAt ≠ some s.now) :
    exec (.reply k) s = .next (({ s with mesh := without s.mesh k } : State).putSlot c j ((s.slotAt c j).acknowledge m s.now)) := by
  have live : m.dst ≠ noCore := by unfold noCore; omega
  have present : ((s.slotAt c j).strand.map fun b => b.id) = some (s.slotAt c j).id := by
    obtain ⟨b, hb⟩ := Option.isSome_iff_exists.1 strand
    rw [Slot.id, hb]
    rfl
  have slot : (s.dropMsg k).slotAt c j = s.slotAt c j := rfl
  rw [(exec_reply : _ = execReply k s), execReply, State.doReply, there]
  dsimp only
  rw [if_neg (by rw [stage]; exact Bool.false_ne_true), decide_eq_false live, client]
  simp only [Bool.false_and, Bool.false_eq_true, if_false]
  rw [storing, if_pos rfl, State.postedReply, slot, present, if_neg proc]
  dsimp only
  rw [beq_self_eq_true, if_pos rfl, State.putEntry]
  exact congrArg Host.Outcome.next (if_neg unframed)
end

/-- An acknowledgement in strict mode is counted; a failure is a cause of the strand (R390, R391). -/
theorem Slot.acknowledge_counted (v : Slot) {m : Msg} (entry : m.entry = none) (now : Nat) :
    (m.cause = none → v.acknowledge m now = { v with unack := v.unack - 1 }) ∧
    (∀ cause, m.cause = some cause → v.acknowledge m now =
      { v with unack := v.unack - 1, pend := v.pend ++ [Pend.mk .refused (m.seq.setWidth 48) m.status none] }) := by
  rw [Slot.acknowledge, entry]
  refine ⟨fun ok => ?_, fun cause fails => ?_⟩
  · rw [ok]; rfl
  · rw [fails]; rfl

/-- The acknowledgement of a request whose entry has gone is nothing to its slot. -/
theorem Slot.acknowledge_gone {v : Slot} {m : Msg} {n : Nat} (entry : m.entry = some n) (gone : v.board.find? (fun e => e.num == n) = none) (now : Nat) :
    v.acknowledge m now = v := by
  rw [Slot.acknowledge, entry]
  dsimp only
  rw [gone]

/-- What an acknowledgement leaves of the entry of its access: one request fewer to be answered, and the first failure (R390). -/
def acknowledged (m : Msg) (e : SbEntry) : SbEntry :=
  if m.cause = none then { e with left := e.left - 1, part := true }
  else { e with left := e.left - 1, cause := m.cause, eva := wrap (e.work.addr : Nat), sub := m.status }

section
variable {v : Slot} {m : Msg} {n : Nat} {e : SbEntry} (entry : m.entry = some n) (found : v.board.find? (fun e => e.num == n) = some e)
  (clean : e.cause = none)
include entry found clean

/-- The acknowledgement of a request of a posted access, with no failure before it. -/
theorem Slot.acknowledge_entry (now : Nat) : v.acknowledge m now =
    if 1 < e.left then v.onEntry n fun _ => acknowledged m e
    else if m.cause = none then v.entryDone n 0 now
    else v.entryFailed n (m.cause.getD .refused) (wrap (e.work.addr : Nat)) m.status 0 e.part true := by
  have address : wrap (e.work.addr : Nat) = BitVec.ofNat 48 e.work.addr := BitVec.ofInt_natCast 48 _
  rw [Slot.acknowledge, entry]
  dsimp only
  rw [found]
  dsimp only
  rw [clean]
  unfold acknowledged
  cases fails : m.cause with
  | none => simp [clean]
  | some cause => simp [address]

/-- The last acknowledgement of a posted access without a failure frees its entry. -/
theorem Slot.acknowledge_done (handler : v.handler = false) (last : e.left ≤ 1) (ok : m.cause = none) (now : Nat) :
    v.acknowledge m now = { v with board := v.board.filter fun e => e.num != n, freed := v.freed.filter (fun e => e.1 == now) ++
      (v.board.filter fun e => e.num == n).map fun e => (now, e.done 0) } := by
  rw [Slot.acknowledge_entry entry found clean, if_neg (by omega), if_pos ok, Slot.entryDone, handler]
  rfl

/-- One with the failure records it, and has the strand take it. -/
theorem Slot.acknowledge_failed (handler : v.handler = false) (last : e.left ≤ 1) {cause : Cause} (fails : m.cause = some cause) (now : Nat) :
    v.acknowledge m now = { v with
      board := v.board.map fun x =>
        if x.num = n then { x with stop := true, cause := some cause, eva := wrap (e.work.addr : Nat), sub := m.status, aux := 0, part := e.part } else x,
      pend := v.pend ++ [Pend.mk cause (wrap (e.work.addr : Nat)) m.status (some n)] } := by
  have stops : (v.handler || !true) = false := by rw [handler]; rfl
  rw [Slot.acknowledge_entry entry found clean, if_neg (by omega), fails, if_neg (by simp), Slot.entryFailed]
  exact if_neg (Bool.eq_false_iff.1 stops)
end

/-! ## The obligation -/

/-- R126, R129, R130: what a station does with a request. -/
theorem stationRequests {s : State} {k : Nat} {m : Msg} (there : s.mesh[k]? = some m) (stage : m.stage = .toStation) :
    let n := 2 * (m.src / 32) + if m.src % 32 < 16 then 0 else 1
    (s.stpt.getLsbD 0 = false → ∃ t, exec (.stationRequest k) s = .next t ∧ t.mem = s.mem ∧
      ∃ r, t.mesh = s.mesh.set k r ∧ r.stage = .replied ∧ r.cause = some .xlate) ∧
    (s.stpt.getLsbD 0 = true → ∀ e, (s.stationAt n).hit m.pid m.va.toNat = some e → e.bad = false → let pa := e.frame + m.va.toNat % 2 ^ pageBits e.level
      (e.w = true ∨ m.proc = 0 ∨ m.proc = 3) → pa < 2 ^ 38 → ∃ t, exec (.stationRequest k) s = .next t ∧ t.mem = s.mem ∧ t.stations = s.stations ∧
        t.mesh = s.mesh.set k { m with paddr := pa, dst := pa / 2 ^ 28, stage := .toOwner, cls := if m.storing then .one else m.cls }) ∧
    (s.stpt.getLsbD 0 = true → ∀ e, (s.stationAt n).hit m.pid m.va.toNat = some e → e.bad = false → e.w = false → (m.proc = 1 ∨ m.proc = 2 ∨ m.proc = 4) →
      ∃ t r, exec (.stationRequest k) s = .next t ∧ t.mesh = s.mesh.set k r ∧ r.stage = .replied ∧ r.cause = some .prot ∧ r.status = 1) ∧
    (s.stpt.getLsbD 0 = true → (s.stationAt n).hit m.pid m.va.toNat = none → (s.stationAt n).walks = [] → ∃ t, exec (.stationRequest k) s = .next t ∧
      t.mesh = s.mesh.set k { m with stage := .walking } ∧
      (t.stationAt n).walks = [{ pid := m.pid, va := wrap (m.va.toNat / 2 ^ 16 * 2 ^ 16 : Nat) }] ∧ (t.stationAt n).cache = (s.stationAt n).cache) := by
  intro n
  have run : exec (.stationRequest k) s = .next (s.stationRequest k) := (exec_stationRequest : _ = execStationRequest k s)
  refine ⟨fun off => ⟨_, run, ?_⟩, fun on e hit good may vault => ⟨_, run, ?_⟩, fun on e hit good locked writes => ?_,
    fun on miss idle => ⟨_, run, ?_⟩⟩
  · rw [stationRequest_off there stage off]
    exact ⟨rfl, _, rfl, rfl, rfl⟩
  · have access : e.w = true ∨ m.access = .read := may.imp_right fun load => by rcases load with load | load <;> simp [Msg.access, load]
    rw [stationRequest_hit there stage on hit good, leafAddress_granted access vault]
    obtain ⟨mesh, stations, mem⟩ := State.forward_vault (s := s) (k := k) (m := m) vault
    exact ⟨mem, stations, mesh⟩
  · have access : m.access = .write := by rcases writes with w | w | w <;> simp [Msg.access, w]
    refine ⟨_, m.refuseAway .prot, run, ?_, rfl, rfl, rfl⟩
    rw [stationRequest_hit there stage on hit good, locked, access, leafAddress_refused]
    rfl
  · have page : wrap (m.va.toNat / 2 ^ 16 * 2 ^ 16 : Nat) = BitVec.ofNat 48 (m.va.toNat / 65536 * 65536) := BitVec.ofInt_natCast 48 _
    have placed (v : Station) (q : Msg) : ((s.putStation n v).putMsg k q).stationAt n = v := State.stationAt_putStation_self s n v
    rw [stationRequest_miss there stage on miss idle, page, show stationOf m.src = n from rfl]
    exact ⟨rfl, by rw [placed], by rw [placed]⟩

/-- R385, R387, R390: the acknowledgement of a request of a posted access. -/
theorem acknowledgements {s : State} {k c j : Nat} {m : Msg} (there : s.mesh[k]? = some m) (stage : m.stage = .replied) (storing : m.storing = true)
    (client : m.client = .slot c j (s.slotAt c j).id) (strand : (s.slotAt c j).strand.isSome = true) (dst : m.dst < 1024) (proc : m.proc ≠ 7)
    (handler : (s.slotAt c j).handler = false) (unframed : (s.slotAt c j).trapAt ≠ some s.now) :
    let v := s.slotAt c j
    let gone : State := { s with mesh := without s.mesh k }
    (m.cause = none → m.entry = none → exec (.reply k) s = .next (gone.putSlot c j { v with unack := v.unack - 1 })) ∧
    (∀ n, m.cause = none → m.entry = some n → (∀ e ∈ v.board, e.num = n → e.left ≤ 1 ∧ e.cause = none) →
      ∃ l, exec (.reply k) s = .next (gone.putSlot c j { v with board := v.board.filter fun e => e.num != n, freed := l }) ∧
        ∀ e ∈ v.board, e.num = n → (s.now, { e with stop := true, part := true, aux := 0 }) ∈ l) ∧
    (∀ n cause e, m.cause = some cause → m.entry = some n → v.board.find? (fun e => e.num == n) = some e → e.left ≤ 1 → e.cause = none →
      exec (.reply k) s = .next (gone.putSlot c j { v with
        board := v.board.map fun x =>
          if x.num = n then { x with stop := true, cause := some cause, eva := wrap (e.work.addr : Nat), sub := m.status, aux := 0, part := e.part } else x,
        pend := v.pend ++ [Pend.mk cause (wrap (e.work.addr : Nat)) m.status (some n)] })) ∧
    (∀ n e, m.entry = some n → v.board.find? (fun e => e.num == n) = some e → 1 < e.left → e.cause = none →
      let f : SbEntry := if m.cause = none then { e with left := e.left - 1, part := true }
        else { e with left := e.left - 1, cause := m.cause, eva := wrap (e.work.addr : Nat), sub := m.status }
      exec (.reply k) s = .next (gone.putSlot c j { v with board := v.board.map fun x => if x.num = n then f else x })) ∧
    (∀ cause, m.cause = some cause → m.entry = none → exec (.reply k) s = .next (gone.putSlot c j { v with
      unack := v.unack - 1, pend := v.pend ++ [Pend.mk .refused (m.seq.setWidth 48) m.status none] })) := by
  intro v gone
  have run {w : Slot} (ack : v.acknowledge m s.now = w) (same : w.trapAt = v.trapAt) : exec (.reply k) s = .next (gone.putSlot c j w) := by
    have after := exec_acknowledge there stage storing client strand dst proc
    rw [show (s.slotAt c j).acknowledge m s.now = w from ack, same] at after
    exact after unframed
  refine ⟨fun ok entry => run ((v.acknowledge_counted entry s.now).1 ok) rfl, fun n ok entry last => ?_,
    fun n cause e fails entry found last clean => run (Slot.acknowledge_failed entry found clean handler last fails s.now) rfl,
    fun n e entry found more clean => run ((Slot.acknowledge_entry entry found clean s.now).trans (if_pos more)) rfl,
    fun cause fails entry => run ((v.acknowledge_counted entry s.now).2 cause fails) rfl⟩
  cases found : v.board.find? (fun e => e.num == n) with
  | none =>
    have absent : ∀ e ∈ v.board, e.num ≠ n := by simpa using found
    have all : v.board.filter (fun e => e.num != n) = v.board := List.filter_eq_self.2 fun e he => by simpa using absent e he
    refine ⟨v.freed, run ((Slot.acknowledge_gone entry found s.now).trans ?_) rfl, fun e he same => absurd same (absent e he)⟩
    rw [all]
  | some e =>
    have num : e.num = n := by simpa using List.find?_some found
    obtain ⟨last, clean⟩ := last e (List.mem_of_find?_eq_some found) num
    refine ⟨_, run (Slot.acknowledge_done entry found clean handler last ok s.now) rfl, fun q hq same => List.mem_append_right _ ?_⟩
    exact List.mem_map.2 ⟨q, List.mem_filter.2 ⟨hq, by simpa using same⟩, rfl⟩

/-- Settles O50: a station forwards a request, refuses it or has it wait (`stationRequests`), a walk is a read (`Reading`) that the station caches
(`tableWalk_found`), and a reply delivers, fails or acknowledges (`awaited_written`, `awaited_fails`, `acknowledgements`). -/
theorem stationsAndReplies : Obligations.StationsAndReplies := by
  unfold Obligations.StationsAndReplies
  refine ⟨fun k m s there stage => stationRequests there stage, ?_, ?_, ?_,
    fun k c j m s there stage storing client strand dst proc handler unframed => acknowledgements there stage storing client strand dst proc handler unframed⟩
  · rintro n k w m y f s one on mesh stage station pid page storing load x found pa vault rfl
    obtain ⟨kept, idle, run⟩ := tableWalk_found one on mesh stage station pid page found
    have access : m.access = .read := by simp [Msg.access, load]
    obtain ⟨mesh', stations, mem⟩ := State.forward_vault (s := y.putStation n ((y.stationAt n).keep w.pid w.va.toNat f)) (k := 0) (m := m) vault
    have cached : ∀ z : State, z.stations = (y.putStation n ((y.stationAt n).keep w.pid w.va.toNat f)).stations →
        z.stationAt n = (y.stationAt n).keep w.pid w.va.toNat f := fun z same => by
      rw [State.stationAt, same]
      exact State.stationAt_putStation_self y n _
    refine ⟨_, (exec_tableWalk : _ = execTableWalk n 0 s), ?_⟩
    rw [run, leafAddress_granted (.inr access) vault]
    refine ⟨mem, (congrArg Station.walks (cached _ stations)).trans idle, congrArg Station.cache (cached _ stations), mesh'.trans ?_⟩
    rw [State.putStation_mesh, kept, storing]
    rfl
  · intro k v s there quiet
    refine ⟨_, stationInvalidation_done there quiet, rfl, rfl, ?_⟩
    refine (congrArg Station.cache (State.stationAt_putStation_self s v.station _)).trans (List.filter_congr fun e _ => ?_)
    rw [InvMsg.selects, BEq.comm (a := v.pid), beq_eq_decide (a := v.page.toNat * 65536 / 2 ^ pageBits e.level)]
    rfl
  · intro k c j m before after a s h
    refine ⟨fun size signed rd load ok => awaited_written h ok (by rw [load]; rfl)
        (by rw [load, ← loadValue_wrap]; rfl) fun y => by rw [load]; rfl,
      fun rd atomic ok => awaited_written h ok (by rw [atomic]; rfl) (by rw [atomic]; rfl) fun y => by rw [atomic]; rfl,
      fun cause fails poison waits gathers first => awaited_fails_first h fails poison waits gathers first,
      fun cause fails waits gathers later => awaited_fails_later h fails waits gathers later⟩

end Sys2Proof.Machine
end

section
/-! # Scratchpad messages and copy segments at their core (O49)

A read of sound scratchpad words changes nothing; a write wakes waiters and has tasks take note, which changes neither the mesh nor the
scratchpads (`Aside`). -/

namespace Sys2Proof.Machine
open Sys2Proof.Statements

/-! ## What keeps the mesh and the scratchpads (R35 to R40, R56, R146 to R149, R209) -/

/-- The mesh and the scratchpads are as they were. -/
def Aside (s t : State) : Prop := t.mesh = s.mesh ∧ t.spm = s.spm

namespace Aside

theorem refl (s : State) : Aside s s := ⟨rfl, rfl⟩

variable {s t u : State} (h : Aside s t)
include h

theorem read (k : Reading t u) : Aside s u := ⟨k.mesh.trans h.1, k.spm.trans h.2⟩

theorem ite {c : Prop} [Decidable c] (k : Aside s u) : Aside s (if c then t else u) := by
  split
  · exact h
  · exact k

theorem fstIte {α : Type} {c : Prop} [Decidable c] {x : α} {y : State × α} (k : Aside s y.1) : Aside s (if c then (t, x) else y).1 := by
  split
  · exact h
  · exact k

omit h in
theorem of_eq {α : Type} {r : State × α} (hr : Aside s r.1) {v : State} {x : α} (e : r = (v, x)) : Aside s v := by
  rw [e] at hr
  exact hr

/-- Operations in turn. -/
theorem foldl {α : Type} {f : State → α → State} (hf : ∀ {t}, Aside s t → ∀ a, Aside s (f t a)) (l : List α) : Aside s (l.foldl f t) :=
  List.foldlRecOn l f h fun _ ht a _ => hf ht a

theorem foldlPair {α β : Type} {f : State × β → α → State × β} (hf : ∀ {t}, Aside s t → ∀ b a, Aside s (f (t, b) a).1) (l : List α) (b : β) :
    Aside s (l.foldl f (t, b)).1 :=
  List.foldlRecOn (motive := fun r : State × β => Aside s r.1) l f h fun r hr a _ => hf hr r.2 a

theorem onCore (c : Nat) (f : Core → Core) : Aside s (t.onCore c f) := h

theorem logError (c array sev cause addr syn : Nat) (w : Who) (inj : Bool) : Aside s (t.logError c array sev cause addr syn w inj) :=
  h.read ((Reading.refl t).logError ..)

theorem vaultRead (w : Who) (a n : Nat) : Aside s (t.vaultRead w a n).1 := h.read ((Reading.refl t).vaultRead w a n)

theorem vaultWrite (w : Who) (a : Nat) (bs : List Byte) : Aside s (t.vaultWrite w a bs).1 := by
  have granule {y : State} (hy : Aside s y) (a : Nat) (bs : List Byte) : Aside s (y.writeGranule w a bs).1 := by
    have read := hy.read ((Reading.refl y).readGranule w (a / 32))
    unfold State.writeGranule
    dsimp only
    split
    · exact hy
    · split
      · exact hy
      · split
        · exact read
        · exact read
  have written := h.foldlPair (f := fun acc (p : Nat × List Byte) => ((acc.1.writeGranule w p.1 p.2).1, if acc.2 = 0 then (acc.1.writeGranule w p.1 p.2).2 else acc.2))
    (fun hy _ p => granule hy p.1 p.2) (splitGranules (bs.length / 32 + 2) a bs) 0
  unfold State.vaultWrite State.countLost
  dsimp only
  split
  · exact written
  · exact written

theorem sysStore (a : Nat) (bs : List Byte) : Aside s (t.sysStore a bs).1 := by
  have only : (t.sysStore a bs).1 = t.withRegistersOf _ := t.sysStore_registersOnly a bs
  rw [only]
  exact h

/-! ### Translated accesses -/

theorem probe (n : Nat) (pid : BitVec 16) (va : Nat) : Aside s (t.probe n pid va).1 := by
  unfold State.probe
  split
  · exact h
  next e _ => exact fstIte (logError (t := t.putStation n ((t.stationAt n).drop e)) h ..) h

theorem translate (w : Who) (pid : BitVec 16) (prv : Bool) (va : Nat) (acc : Acc) : Aside s (t.translate w pid prv va acc).1 := by
  refine fstIte h ?_
  dsimp only
  split
  next e => exact of_eq (h.probe ..) e
  next e =>
    have probed := of_eq (h.probe ..) e
    have walked := fun w pid va => probed.read ((Reading.refl _).walk w pid va)
    split
    next e => exact of_eq (walked ..) e
    next e => exact (of_eq (walked ..) e : Aside s _)

theorem countPairs (w : Who) (owner va n : Nat) : Aside s (t.countPairs w owner va n) := 
  h.foldl (f := fun s _ => (s.countSent w.core w.id.lid).countRecv owner w.id.lid) (fun hy _ => hy) _

theorem readGlobal (w : Who) (pid : BitVec 16) (prv : Bool) (va n : Nat) (acc : Acc) : Aside s (t.readGlobal w pid prv va n acc).1 := by
  have phys {y : State} (hy : Aside s y) (pa : Nat) : Aside s (y.readPhys w pa n).1 := by
    unfold State.readPhys
    split
    · refine fstIte hy ?_
      dsimp only
      split
      · exact hy.vaultRead ..
      · exact hy.vaultRead ..
    · exact fstIte hy hy
    · exact fstIte hy hy
    · exact fstIte hy hy
    · exact hy
  unfold State.readGlobal
  split
  next e => exact (of_eq (h.translate ..) e).countPairs ..
  next e => exact phys ((of_eq (h.translate ..) e).countPairs ..) _

theorem writeGlobal (w : Who) (pid : BitVec 16) (prv : Bool) (va : Nat) (bs : List Byte) : Aside s (t.writeGlobal w pid prv va bs).1 := by
  have phys {y : State} (hy : Aside s y) (pa : Nat) : Aside s (y.writePhys w pa bs).1 := by
    unfold State.writePhys
    split
    · exact fstIte hy (hy.vaultWrite ..)
    · exact fstIte (t := { y with mem := y.mem.write pa bs }) hy hy
    · exact fstIte (t := { y with mem := y.mem.write pa bs }) hy hy
    · exact hy.sysStore ..
    · exact hy
  unfold State.writeGlobal
  split
  next e => exact (of_eq (h.translate ..) e).countPairs ..
  next e => exact phys ((of_eq (h.translate ..) e).countPairs ..) _

/-! ### Continuations on their way -/

theorem freeReserved (c : Nat) (id : StrandId) : Aside s (t.freeReserved c id) := by
  refine h.foldl (fun hy j => ?_) _
  dsimp only
  split
  · exact hy
  · exact hy

theorem strandDone (id : StrandId) (exited : Bool) : Aside s (t.strandDone id exited) := by
  have cores := h.foldl (f := fun (y : State) (e : Nat × Core) =>
    (y.onCore e.1 fun k => { k.unbind id with bars := k.bars.filter fun b => b.2 != id }).freeReserved e.1 id)
    (fun hy e => (hy.onCore e.1 _).freeReserved e.1 id) t.cores
  exact cores

theorem loseSlot (c : Nat) (p : Packet) (cause : Cause) : Aside s (t.loseSlot c p cause) := (h.strandDone ..).logError ..

theorem saveSlot (c : Nat) (p : Packet) (link : Nat) : Aside s (t.saveSlot c p link).1 := by
  unfold State.saveSlot
  split
  next e => exact of_eq (h.writeGlobal ..) e
  next e => exact (of_eq (h.writeGlobal ..) e).loseSlot ..

theorem linkSlot (c : Nat) (p : Packet) (next : Option StrandId) : Aside s (t.linkSlot c p next).1 := by
  unfold State.linkSlot
  split
  next e => exact of_eq (h.writeGlobal ..) e
  next e => exact (of_eq (h.writeGlobal ..) e).loseSlot ..

theorem readSlot (c : Nat) (p : Packet) : Aside s (t.readSlot c p).1 := by
  unfold State.readSlot
  split
  next e => exact of_eq (h.readGlobal ..) e
  next e => exact (of_eq (h.readGlobal ..) e).loseSlot ..

theorem stir (c : Nat) : Aside s (t.stir c) := by
  refine h.foldl (fun hy _ => ?_) _
  dsimp only
  split
  · exact hy
  · exact hy

theorem intoRing (c : Nat) (p : Packet) : Aside s (t.intoRing c p) := by
  unfold State.intoRing
  exact ((h.stir c).vaultWrite ..).onCore ..

theorem intoOverflow (c : Nat) (p : Packet) : Aside s (t.intoOverflow c p) := by
  unfold State.intoOverflow
  split
  next e => exact of_eq (h.saveSlot ..) e
  next e =>
    have saved := of_eq (h.saveSlot ..) e
    dsimp only
    split
    · exact saved.onCore ..
    · split
      next e => exact (of_eq (saved.linkSlot ..) e).onCore ..
      next e => exact (of_eq (saved.linkSlot ..) e).onCore ..

theorem wakeRequest (g : Nat) : Aside s (t.wakeRequest g) := by
  unfold State.wakeRequest
  split
  · exact h
  · exact h
  · exact h

theorem enterRing (c : Nat) (p : Packet) : Aside s (t.enterRing c p) := ite ((h.wakeRequest _).intoRing ..) ((h.wakeRequest _).intoOverflow ..)

theorem sendPacket (p : Packet) : Aside s (t.sendPacket p) := h

theorem moveAway (c : Nat) (p : Packet) : Aside s (t.moveAway c p) := by
  unfold State.moveAway
  split
  · exact h.sendPacket _
  · split
    next e => exact of_eq (h.saveSlot ..) e
    next e => exact (of_eq (h.saveSlot ..) e).onCore ..

theorem makeReady (c : Nat) (p : Packet) : Aside s (t.makeReady c p) := ite (h.moveAway c p) (h.enterRing c p)

theorem releaseWaiter (c : Nat) (w : Waiter) (pend : Option (Cause × Word)) : Aside s (t.releaseWaiter c w pend) := by
  refine ite (((h.stir c).onCore _ _).moveAway _ _) (ite ((h.stir c).makeReady _ _) (ite ((h.stir c).makeReady _ _) ?_))
  split
  · exact (h.stir c).makeReady _ _
  · exact (h.stir c).strandDone _ _

theorem takeWaiter (c : Nat) (w : Waiter) : Aside s (t.takeWaiter c w).1 := by
  have unlinked : Aside s (t.unlink c w) := by
    unfold State.unlink
    dsimp only
    split
    · exact h
    · split
      next e => exact of_eq (h.linkSlot ..) e
      next e => exact (of_eq (h.linkSlot ..) e).onCore ..
  have promoted {y : State} (hy : Aside s y) : Aside s (y.promote c w.list) := by
    unfold State.promote
    split
    · exact hy
    · split
      next e => exact (of_eq (hy.readSlot ..) e).onCore ..
      next e => exact (of_eq (hy.readSlot ..) e).onCore ..
  unfold State.takeWaiter
  dsimp only
  split
  · have taken := unlinked.onCore c fun k => { k with waiters := k.waiters.erase w }
    split
    next e => exact of_eq (taken.readSlot ..) e
    next e => exact of_eq (taken.readSlot ..) e
  · exact promoted (h.onCore c fun k => { k with waiters := k.waiters.erase w })

theorem releaseWhere (c : Nat) (p : Waiter → Bool) (f : Waiter → Waiter) : Aside s (t.releaseWhere c p f) := by
  refine h.foldl (fun hy _ => ?_) _
  split
  · exact hy
  · split
    next e => exact (of_eq (hy.takeWaiter ..) e).releaseWaiter ..
    next e => exact of_eq (hy.takeWaiter ..) e

theorem orderTasks (g : Nat) : Aside s (t.orderTasks g) := by
  refine h.foldl (fun {y} hy a => ite ?_ hy) _
  exact wakeRequest (t := y.onCluster g fun c =>
    { c with active := true, queue := c.queue.map fun u => if u.num == a.num then { u with readyAt := some y.orders } else u }) hy g

end Aside

/-! ## Sound words of a scratchpad (R121, R406, R411) -/

theorem mem_spmWords {b n x : Nat} : x ∈ spmWords b n ↔ b / 8 ≤ x ∧ x < (b + n + 7) / 8 := by
  simp only [spmWords, List.mem_map, List.mem_range]
  constructor
  · rintro ⟨i, hi, rfl⟩
    omega
  · rintro ⟨low, high⟩
    exact ⟨x - b / 8, by omega, by omega⟩

/-- Correct words with no error armed are checked without effect. -/
theorem readSpmWords_sound (w : Who) (c : Nat) {s : State} {l : List Nat}
    (h : ∀ x ∈ l, s.badSpm.contains (c * 2 ^ 15 + x) = false ∧ ∀ e ∈ s.injected, e.2.1 ≠ spmKey c x) :
    l.foldl (fun (acc : State × Bool) word => let t := acc.1.readSpmWord w c word; (t.1, acc.2 && t.2)) (s, true) = (s, true) := by
  induction l with
  | nil => rfl
  | cons x l ih =>
    obtain ⟨good, unarmed⟩ := h x List.mem_cons_self
    have none : s.injected.filter (fun e => e.2.1 == spmKey c x) = [] := List.filter_eq_nil_iff.2 fun e he => by simpa using unarmed e he
    have zero : flipCount 64 [] = 0 := by decide
    have check : s.readSpmWord w c x = (s, true) := by simpa [State.readSpmWord, none, zero] using good
    rw [List.foldl_cons, check]
    exact ih fun y hy => h y (List.mem_cons_of_mem _ hy)

section
variable {s : State} {c b n : Nat} (h : s.spmSound c b n) (w : Who)
include h

theorem State.spmSound.spmRead : s.spmRead w c b n = (s, some (s.spm.readBytes (spmAt c b) n)) := by
  rw [State.spmRead, readSpmWords_sound w c h]
  rfl

theorem State.spmSound.spmEdges : s.spmEdges w c b n = (s, true) :=
  readSpmWords_sound w c fun x hx => h x (List.mem_of_mem_filter hx)
end

theorem State.spmSound.barLook {s : State} {c b : Nat} (h : s.spmSound c (barByte b) 16) (w : Who) : s.barLook w c b = (s, some (s.barRead c b)) := by
  rw [State.barLook, State.barSound, h.spmRead w]
  rfl

/-! ## The scratchpad window (R121, R123) -/

section
variable {s : State} {pid : BitVec 16} {va : Nat}

theorem allocAt_of_spmByte {b : Nat} (h : s.spmByte pid va = some b) : ∃ a, s.allocAt pid va = some a ∧ a.base + spmOff va % a.size = b := by
  obtain ⟨a, found, base⟩ := Option.map_eq_some_iff.1 h
  exact ⟨a, found, base⟩

theorem allocAt_none (h : s.spmByte pid va = none) : s.allocAt pid va = none := Option.map_eq_none_iff.1 h

/-- An access of 256 bytes or less is one range of its allocation. -/
theorem Alloc.spans_one (a : Alloc) {n : Nat} (h : n ≤ 256) (off : Nat) : a.spans (n + 1) off n = [(a.base + off % a.size, n)] := by
  rw [Alloc.spans, decide_eq_true h, Bool.true_or, if_pos rfl]

variable {b n : Nat} (there : s.spmByte pid va = some b)
include there

/-- A sound read of an allocation. -/
theorem windowRead_sound (hn : n ≤ 256) (sound : s.spmSound (spmCore va) b n) (w : Who) :
    s.windowRead w pid va n = (s, some (s.spm.readBytes (spmAt (spmCore va) b) n)) := by
  obtain ⟨a, found, base⟩ := allocAt_of_spmByte there
  rw [State.windowRead, found]
  dsimp only
  rw [a.spans_one hn, base]
  simp [sound.spmRead w]

/-- A sound write of an allocation. -/
theorem windowWrite_sound {bs : List Byte} (hn : bs.length ≤ 256) (sound : s.spmSound (spmCore va) b bs.length) (w : Who) :
    s.windowWrite w pid va bs = (s.spmPut (spmCore va) b bs, true) := by
  obtain ⟨a, found, base⟩ := allocAt_of_spmByte there
  rw [State.windowWrite, found]
  dsimp only
  rw [a.spans_one hn, base]
  simp [sound.spmEdges w, State.writeSpans]
end

/-- A write of scratchpad bytes leaves the mesh, and the scratchpads with the bytes there. -/
theorem spmPut_aside (s : State) (c b : Nat) (bs : List Byte) : Aside { s with spm := s.spm.write (spmAt c b) bs } (s.spmPut c b bs) := by
  unfold State.spmPut State.wakeWords
  refine Aside.releaseWhere ?_ _ _ _
  exact ⟨rfl, rfl⟩

/-- Nobody is released where nobody waits. -/
theorem State.releaseWhere_nobody {s : State} {c : Nat} (h : (s.coreAt c).waiters = []) (p : Waiter → Bool) (f : Waiter → Waiter) :
    s.releaseWhere c p f = s := by
  rw [State.releaseWhere, h]
  rfl

/-- Where nobody waits, a write of scratchpad bytes changes the bytes, their checks, and the regions there. -/
theorem spmPut_quiet {s : State} {c : Nat} (h : (s.coreAt c).waiters = []) (b : Nat) (bs : List Byte) :
    s.spmPut c b bs = { (s.onCore c fun k => k.staleRegions b bs.length s.now) with
      spm := s.spm.write (spmAt c b) bs,
      badSpm := s.badSpm.filter fun w => !((b + 7) / 8 ≤ w % 2 ^ 15 && w % 2 ^ 15 < (b + bs.length) / 8 && w / 2 ^ 15 == c) } := by
  unfold State.spmPut State.wakeWords
  rw [State.releaseWhere_nobody]
  · rfl
  · rw [State.coreAt_onCore_self]
    exact h

/-! ## What a message finds at its core -/

section
variable {s z : State} (h : Received s z)
include h

theorem Received.barOwned (c b : Nat) (pid : BitVec 16) : z.barOwned c b pid = s.barOwned c b pid := by
  have launches (lid : BitVec 16) : z.launchAt lid = s.launchAt lid := by rw [State.launchAt, h.core]; rfl
  rw [State.barOwned, State.barOwned, h.core]
  simp only [launches]

theorem Received.spmByte (pid : BitVec 16) (va : Nat) : z.spmByte pid va = s.spmByte pid va := by
  rw [State.spmByte, State.allocAt, h.core]
  rfl

theorem Received.spmSound (c b n : Nat) : z.spmSound c b n ↔ s.spmSound c b n := by rw [h.device]; rfl

theorem Received.barRead (c b : Nat) : z.barRead c b = s.barRead c b := by rw [h.device]; rfl
end

/-! ## Scratchpad loads (R123, R284, R285) -/

theorem leNat_zeros (n : Nat) : leNat (List.replicate n 0) = 0 := by
  induction n with
  | zero => rfl
  | succ n ih => rw [List.replicate_succ, leNat, ih]; rfl

theorem leNat_append (xs ys : List Byte) : leNat (xs ++ ys) = leNat xs + 256 ^ xs.length * leNat ys := by
  induction xs with
  | nil => simp [leNat]
  | cons x xs ih => rw [List.cons_append, leNat, leNat, ih, List.length_cons, Nat.pow_succ]; ring

/-- The upper half of a word. -/
theorem readNat_upper (m : Memory) (a : Nat) : m.readNat (a + 4) 4 = m.readNat a 8 / 2 ^ 32 := by
  have halves : m.readBytes a 8 = m.readBytes a 4 ++ m.readBytes (a + 4) 4 := rfl
  have low := leNat_lt (m.readBytes a 4)
  rw [Memory.readBytes_length] at low
  rw [Memory.readNat, Memory.readNat, halves, leNat_append, Memory.readBytes_length]
  omega

/-- The word at offset 4 of a barrier slot is its status (R150, R284). -/
theorem barRead_status (s : State) (c b : Nat) : (s.barRead c b).status = s.spm.readNat (spmAt c (0x2FC00 + 16 * b) + 4) 4 := by
  have word := leNat_lt (s.spm.readBytes (spmAt c (0x2FC00 + 16 * b)) 8)
  rw [Memory.readBytes_length] at word
  rw [readNat_upper, State.barRead, Bar.status, barByte]
  simp only [Memory.readNat, bit, bitAt, bitsOf, beq_iff_eq]
  generalize leNat (s.spm.readBytes (spmAt c (0x2FC00 + 16 * b)) 8) = x at word ⊢
  split
  · split
    · omega
    · omega
  · split
    · omega
    · omega

section
variable {s : State} {k : Nat} {m : Msg} (h : Arrived s k m 8)
include h

/-- What a scratchpad load of an address answers with. -/
theorem exec_scratchpadLoad_bytes (hm : m.mask = 0) (fn : m.fn = 0) {bs : List Byte}
    (read : ∀ z, Received s z → ∃ y, (if (z.allocAt m.pid m.va.toNat).isNone && m.opb != 0 then (z, m.untagged.answerRead 0 (List.replicate m.length 0))
      else match z.windowRead m.untagged.who m.pid m.va.toNat m.length with
        | (s, none) => (s, m.untagged.answer 2 0)
        | (s, some bs) => (s, m.untagged.answerRead 0 bs)) = (y, m.untagged.answerRead 0 bs) ∧ y.mesh = s.mesh ∧ y.mem = s.mem ∧ y.spm = s.spm) :
    ∃ t, exec (.scratchpadLoad k) s = .next t ∧ Answered s t k m 0 (BitVec.ofNat 64 (leNat bs)) ∧ t.mem = s.mem ∧ t.spm = s.spm := by
  refine exec_served h (e := .scratchpadLoad k) (p := (·.proc == 8)) (bs := m.data) (P := fun mem spm _ => mem = s.mem ∧ spm = s.spm)
    (fun s => (exec_scratchpadLoad : _ = execScratchpadLoad k s)) (arrived_code h rfl) fun z received => ?_
  obtain ⟨y, done, rest⟩ := read z received
  obtain ⟨c, n, answered⟩ := State.answer_eq (k := k) (m := m.untagged) h.dst y (m.untagged.answerRead 0 bs)
  refine ⟨y.chargeGranules c m.untagged.acct n, ?_, rest⟩
  have plain : m.untagged.answerRead 0 bs = m.untagged.answer 0 (BitVec.ofNat 64 (leNat bs)) := if_pos hm
  rw [plain] at answered done
  exact (if_pos fn).trans ((congrArg (State.answer k m.untagged) done).trans answered)

/-- R123: a scratchpad load answers with the bytes of the sender's allocation, or zero where it has none. -/
theorem scratchpadLoads (hd : m.data = []) (hm : m.mask = 0) (core : spmCore m.va.toNat = m.dst) (fn : m.fn = 0) :
    (∀ b, s.spmByte m.pid m.va.toNat = some b → s.spmSound m.dst b (2 ^ m.size.toNat) → ∃ t, exec (.scratchpadLoad k) s = .next t ∧
      Answered s t k m 0 (BitVec.ofNat 64 (s.spm.readNat (spmAt m.dst b) (2 ^ m.size.toNat))) ∧ t.mem = s.mem ∧ t.spm = s.spm) ∧
    (s.spmByte m.pid m.va.toNat = none → ∃ t, exec (.scratchpadLoad k) s = .next t ∧ Answered s t k m 0 0 ∧ t.mem = s.mem ∧ t.spm = s.spm) := by
  have length : m.length = 2 ^ m.size.toNat := by simp [Msg.length, Msg.bytes, hd, hm]
  have small : 2 ^ m.size.toNat ≤ 256 := (Nat.pow_le_pow_right (by decide) (Nat.le_of_lt_succ m.size.isLt)).trans (by decide)
  refine ⟨fun b there sound => exec_scratchpadLoad_bytes h hm fn fun z received => ⟨z, ?_, received.mesh, received.mem, received.spm⟩, fun miss => ?_⟩
  · have there' : z.spmByte m.pid m.va.toNat = some b := (received.spmByte ..).trans there
    obtain ⟨a, found, -⟩ := allocAt_of_spmByte there'
    have sound' : z.spmSound (spmCore m.va.toNat) b (2 ^ m.size.toNat) := by rw [core]; exact (received.spmSound ..).2 sound
    rw [found, length, windowRead_sound there' small sound' m.untagged.who, core, received.spm]
    rfl
  · have zero : (0 : XWord) = BitVec.ofNat 64 (leNat (List.replicate m.length 0)) := by rw [leNat_zeros]; rfl
    rw [zero]
    refine exec_scratchpadLoad_bytes h hm fn fun z received => ?_
    have miss' : z.allocAt m.pid m.va.toNat = none := allocAt_none ((received.spmByte ..).trans miss)
    rw [State.windowRead, miss']
    dsimp only
    split
    · exact ⟨z, rfl, received.mesh, received.mem, received.spm⟩
    · exact ⟨z.spmMiss (spmCore m.va.toNat), rfl, received.mesh, received.mem, received.spm⟩

/-- What a test of a barrier slot answers. -/
theorem exec_scratchpadLoad_slot (fn : m.fn ≠ 0) {status : Nat} {x : XWord}
    (test : ∀ z, Received s z → (if !z.barOwned m.dst (slotNamed m.va) m.pid then z.putMsg k (m.untagged.answer 1 0)
      else match z.barLook m.untagged.who m.dst (slotNamed m.va) with
        | (s, none) => s.putMsg k (m.untagged.answer 2 0)
        | (s, some bar) =>
          if m.fn = 4 then s.putMsg k (m.untagged.answer 0 (BitVec.ofNat 64 bar.status))
          else s.putMsg k (m.untagged.answer (if bit bar.phase = m.opa.toNat then 0 else 5) 0)) = z.putMsg k (m.untagged.answer status x)) :
    ∃ t, exec (.scratchpadLoad k) s = .next t ∧ Answered s t k m status x ∧ t.spm = s.spm := by
  refine exec_served h (e := .scratchpadLoad k) (p := (·.proc == 8)) (bs := m.data) (P := fun _ spm _ => spm = s.spm)
    (fun s => (exec_scratchpadLoad : _ = execScratchpadLoad k s)) (arrived_code h rfl) fun z received => ⟨z, ?_, received.mesh, received.spm⟩
  exact (if_neg fn).trans (test z received)

/-- R284, R285: `cb.test` and the phase test of a slot of the process answer from the slot's words. -/
theorem barrierTests :
    (s.barOwned m.dst (slotNamed m.va) m.pid = true → s.spmSound m.dst (barByte (slotNamed m.va)) 16 → (m.fn = 4 → ∃ t, exec (.scratchpadLoad k) s = .next t ∧
        Answered s t k m 0 (BitVec.ofNat 64 (s.spm.readNat (spmAt m.dst (0x2FC00 + 16 * slotNamed m.va) + 4) 4)) ∧ t.spm = s.spm) ∧
      (m.fn = 5 → ∃ t r, exec (.scratchpadLoad k) s = .next t ∧ t.mesh = s.mesh.set k r ∧ r.stage = .replied ∧ t.spm = s.spm ∧
        r.status = if bit (s.barRead m.dst (slotNamed m.va)).phase = m.opa.toNat then 0 else 5)) ∧
    (s.barOwned m.dst (slotNamed m.va) m.pid = false → m.fn = 4 ∨ m.fn = 5 → ∃ t, exec (.scratchpadLoad k) s = .next t ∧ Answered s t k m 1 0) := by
  refine ⟨fun owned sound => ⟨fun fn => ?_, fun fn => ?_⟩, fun foreign fn => ?_⟩
  · rw [← barRead_status]
    refine exec_scratchpadLoad_slot h (by rw [fn]; decide) fun z received => ?_
    rw [received.barOwned, owned, ((received.spmSound ..).2 sound).barLook, received.barRead, fn]
    rfl
  · obtain ⟨t, run, ⟨r, replied, mesh⟩, spm⟩ := exec_scratchpadLoad_slot h (by rw [fn]; decide)
      (status := if bit (s.barRead m.dst (slotNamed m.va)).phase = m.opa.toNat then 0 else 5) (x := 0) fun z received => by
        rw [received.barOwned, owned, ((received.spmSound ..).2 sound).barLook, received.barRead, fn]
        rfl
    refine ⟨t, r, run, mesh, ?_, spm, ?_⟩
    · rw [replied.reply]
    · rw [replied.reply]
  · obtain ⟨t, run, answered, -⟩ := exec_scratchpadLoad_slot h (by rcases fn with fn | fn <;> rw [fn] <;> decide) (status := 1) (x := 0)
      fun z received => by
        rw [received.barOwned, foreign]
        rfl
    exact ⟨t, run, answered⟩
end

/-! ## Scratchpad stores and SPM operations (R123, R290) -/

theorem spmOp_aside (s : State) (c fn : Nat) (id : StrandId) (pid : BitVec 16) (x : Nat) : Aside s (s.spmOp c fn id pid x).1 := by
  have allocate : Aside s (s.allocate c id pid x).1 := by
    unfold State.allocate
    dsimp only
    split
    · split
      · exact .refl s
      · split
        · exact .refl s
        · exact .refl s
    · split
      · exact .refl s
      · split
        · exact Aside.fstIte (.refl s) (Aside.refl s)
        · exact .refl s
  have release : Aside s (s.release c id.lid pid x) := by
    unfold State.release
    split
    · split
      · exact .refl s
      · exact .refl s
    · exact .refl s
  unfold State.spmOp
  split
  · exact allocate
  · split
    · exact release
    · exact .refl s

section
variable {s : State} {k : Nat} {m : Msg} (h : Arrived s k m 9)
include h

theorem exec_scratchpadStore_bytes (fn : m.fn = 0) {P : Memory → Memory → Prop}
    (store : ∀ z, Received s z → ∃ y, z.windowStore m.untagged = (y, true) ∧ y.mesh = s.mesh ∧ P y.mem y.spm) :
    ∃ t, exec (.scratchpadStore k) s = .next t ∧ Answered s t k m 0 0 ∧ P t.mem t.spm := by
  have kind : (m.proc == 9 && (m.fn == 0 || decide (5 ≤ m.fn.toNat))) = true := by rw [arrived_code h (b := 9) rfl, fn]; rfl
  refine exec_served h (e := .scratchpadStore k) (p := fun m => m.proc == 9 && (m.fn == 0 || decide (5 ≤ m.fn.toNat))) (bs := m.data)
    (P := fun mem spm _ => P mem spm) (fun s => (exec_scratchpadStore : _ = execScratchpadStore k s)) kind fun z received => ?_
  obtain ⟨y, done, rest⟩ := store z received
  obtain ⟨c, n, answered⟩ := State.answer_eq (k := k) (m := m.untagged) h.dst y (m.untagged.answer 0 0)
  refine ⟨y.chargeGranules c m.untagged.acct n, (if_pos fn).trans ?_, rest⟩
  rw [done]
  exact answered

/-- R123: a scratchpad store writes the bytes of the sender's allocation, or nothing where it has none. -/
theorem scratchpadStores (core : spmCore m.va.toNat = m.dst) (fn : m.fn = 0) (hd : m.data = []) :
    (∀ b, s.spmByte m.pid m.va.toNat = some b → s.spmSound m.dst b (2 ^ m.size.toNat) → ∃ t, exec (.scratchpadStore k) s = .next t ∧
      Answered s t k m 0 0 ∧ Stored s.spm t.spm (spmAt m.dst b) (leBytes (2 ^ m.size.toNat) m.opa.toNat)) ∧
    (s.spmByte m.pid m.va.toNat = none → ∃ t, exec (.scratchpadStore k) s = .next t ∧ Answered s t k m 0 0 ∧ t.spm = s.spm ∧ t.mem = s.mem) := by
  have small : 2 ^ m.size.toNat ≤ 256 := (Nat.pow_le_pow_right (by decide) (Nat.le_of_lt_succ m.size.isLt)).trans (by decide)
  have runs : m.untagged.runs = [(0, leBytes (2 ^ m.size.toNat) m.opa.toNat)] := by
    rw [Msg.runs, show m.untagged.data = [] from hd]
    rfl
  refine ⟨fun b there sound => ?_, fun miss => ?_⟩
  · refine exec_scratchpadStore_bytes h fn (P := fun _ spm => Stored s.spm spm (spmAt m.dst b) (leBytes (2 ^ m.size.toNat) m.opa.toNat)) fun z received => ?_
    have there' : z.spmByte m.pid m.va.toNat = some b := (received.spmByte ..).trans there
    obtain ⟨a, found, -⟩ := allocAt_of_spmByte there'
    have sound' : z.spmSound (spmCore m.va.toNat) b (leBytes (2 ^ m.size.toNat) m.opa.toNat).length := by
      rw [core, leBytes_length]
      exact (received.spmSound ..).2 sound
    obtain ⟨mesh, spm⟩ := spmPut_aside z (spmCore m.va.toNat) b (leBytes (2 ^ m.size.toNat) m.opa.toNat)
    refine ⟨z.spmPut (spmCore m.va.toNat) b (leBytes (2 ^ m.size.toNat) m.opa.toNat), ?_, mesh.trans received.mesh, ?_⟩
    · have write := windowWrite_sound there' (by rw [leBytes_length]; exact small) sound' m.untagged.who
      have here : z.allocAt m.untagged.pid m.untagged.va.toNat = some a := found
      rw [State.windowStore, here, runs]
      simp only [Option.isSome_some, if_true, State.windowRuns, Nat.add_zero]
      rw [show z.windowWrite m.untagged.who m.untagged.pid m.untagged.va.toNat _ = _ from write]
    · rw [spm, core, received.spm]
      exact stored_write ..
  · refine exec_scratchpadStore_bytes h fn (P := fun mem spm => spm = s.spm ∧ mem = s.mem) fun z received => ?_
    have miss' : z.allocAt m.untagged.pid m.untagged.va.toNat = none := allocAt_none ((received.spmByte ..).trans miss)
    have first : (m.untagged.data.isEmpty || decide (m.untagged.opb = 0)) = true := by rw [show m.untagged.data = [] from hd]; rfl
    refine ⟨z.spmMiss (spmCore m.va.toNat), ?_, received.mesh, received.spm, received.mem⟩
    rw [State.windowStore, miss', first]
    rfl

/-- R290: an SPM operation is performed at the core. -/
theorem spmOperations (low : 5 ≤ m.fn.toNat) (y : State) (x : Word)
    (op : (if m.fromPeer then s else s.countRecv m.dst m.lid).spmOp m.dst m.fn.toNat m.strand m.pid m.opa.toNat = (y, x)) :
    ∃ t, exec (.scratchpadStore k) s = .next t ∧ t = { y with mesh := t.mesh } ∧ Answered s t k m 0 (x.setWidth 64) := by
  have other : m.fn ≠ 0 := fun e => by rw [e] at low; exact absurd low (by decide)
  have kind : (m.proc == 9 && (m.fn == 0 || decide (5 ≤ m.fn.toNat))) = true := by
    rw [arrived_code h (b := 9) rfl, decide_eq_true low, Bool.or_true]
    rfl
  have spad : m.atVault = false := by rw [Msg.atVault, h.which]; rfl
  have mesh : y.mesh = s.mesh := by
    have kept := (spmOp_aside (if m.fromPeer then s else s.countRecv m.dst m.lid) m.dst m.fn.toNat m.strand m.pid m.opa.toNat).1
    rw [op] at kept
    refine kept.trans ?_
    split
    · rfl
    · rfl
  refine ⟨y.putMsg k (m.untagged.answer 0 (x.setWidth 64)), ?_, rfl, _, replied_answer m 0 (x.setWidth 64), congrArg (List.set · k _) mesh⟩
  rw [(exec_scratchpadStore : _ = execScratchpadStore k s), execScratchpadStore, State.doSpadStore, State.serve_atOwner h.toAtOwner kind, h.alive, spad]
  simp only [Bool.false_and, Bool.false_eq_true, if_false]
  have fn : m.untagged.fn ≠ 0 := other
  rw [if_neg fn]
  exact congrArg (fun r : State × Word => Host.Outcome.next (r.1.putMsg k (m.untagged.answer 0 (r.2.setWidth 64)))) op
end

/-! ## Barrier updates (R151, R284) -/

/-- A barrier after an update is that of the rule. -/
theorem Bar.apply_eq_barAfter (b : Bar) {fn : Nat} (low : 1 ≤ fn) (high : fn ≤ 3) (x : Word) :
    (b.apply (barOpOf fn (x.signExtend 64))).complete (barOpOf fn (x.signExtend 64)) = barAfter fn b x := by
  match fn, low, high with
  | 1, _, _ =>
    have operand : lowWord (x.signExtend 64) = x := by
      refine BitVec.eq_of_getLsbD_eq fun i hi => ?_
      have wide : i < 64 := by omega
      rw [lowWord, BitVec.getLsbD_setWidth, BitVec.getLsbD_signExtend]
      simp [hi, wide]
    simp [barOpOf, operand, Bar.apply, Bar.complete, barAfter, bitsOf]
  | 2, _, _ => rfl
  | 3, _, _ =>
    have operand : (x.signExtend 64).toInt = x.toInt := BitVec.toInt_signExtend_of_le (by decide)
    simp [barOpOf, operand, Bar.apply, Bar.complete, Bar.addTx, txFits, barAfter, phased]

/-- A barrier that takes new fields leaves the mesh, and the scratchpads with its bytes. -/
theorem barPut_aside (s : State) (c b : Nat) (bar : Bar) :
    Aside { s with spm := s.spm.write (spmAt c (barByte b)) bar.bytes } (s.barPut c b bar) := by
  unfold State.barPut
  refine Aside.orderTasks ?_ _
  exact Aside.releaseWhere (t := { s with
    spm := s.spm.write (spmAt c (barByte b)) bar.bytes
    badSpm := s.badSpm.filter fun w => !(w == c * 2 ^ 15 + barByte b / 8 || w == c * 2 ^ 15 + barByte b / 8 + 1) }) ⟨rfl, rfl⟩ _ _ _

/-- An update that reads a barrier with correct words. -/
theorem barTry_read {s : State} {c b : Nat} (sound : s.spmSound c (barByte b) 16) {op : BarOp} (reads : ∀ v, op ≠ .init v) (w : Who) :
    s.barTry w c b op = (s.barPut c b (((s.barRead c b).apply op).complete op), true) := by
  unfold State.barTry
  split
  next v => exact absurd rfl (reads v)
  next => rw [sound.barLook w]

/-- An update of a barrier: the initialising form reads no word, the others read correct ones. -/
theorem barTry_sound {s : State} {c b fn : Nat} (low : 1 ≤ fn) (high : fn ≤ 3) (sound : fn ≠ 1 → s.spmSound c (barByte b) 16) (w : Who) (x : Word) :
    s.barTry w c b (barOpOf fn (x.signExtend 64)) = (s.barPut c b (barAfter fn (s.barRead c b) x), true) := by
  rw [← (s.barRead c b).apply_eq_barAfter low high x]
  match fn, low, high with
  | 1, _, _ => rfl
  | 2, _, _ | 3, _, _ => exact barTry_read (sound (by decide)) (fun v => by simp [barOpOf]) w

section
variable {s : State} {k : Nat} {m : Msg} (h : Arrived s k m 9)
include h

/-- R151, R283, R284: a barrier update leaves the slot as its form gives, or is refused where the slot is not the process's. -/
theorem barrierUpdates (low : 1 ≤ m.fn.toNat) (high : m.fn.toNat ≤ 3) (x : Word) (operand : m.opa = x.signExtend 64) :
    (s.barOwned m.dst (slotNamed m.va) m.pid = false → ∃ t, exec (.barrierUpdate k) s = .next t ∧ Answered s t k m 1 0 ∧ t.spm = s.spm) ∧
    (s.barOwned m.dst (slotNamed m.va) m.pid = true → (m.fn ≠ 1 → s.spmSound m.dst (barByte (slotNamed m.va)) 16) → ∃ t, exec (.barrierUpdate k) s = .next t ∧
      Answered s t k m 0 0 ∧
      Stored s.spm t.spm (spmAt m.dst (0x2FC00 + 16 * slotNamed m.va)) (barAfter m.fn.toNat (s.barRead m.dst (slotNamed m.va)) x).bytes) := by
  have kind : (m.proc == 9 && decide (1 ≤ m.fn.toNat) && decide (m.fn.toNat ≤ 3)) = true := by
    rw [arrived_code h (b := 9) rfl, decide_eq_true low, decide_eq_true high]
    rfl
  refine ⟨fun foreign => ?_, fun owned sound => ?_⟩
  · refine exec_served h (e := .barrierUpdate k) (p := fun m => m.proc == 9 && decide (1 ≤ m.fn.toNat) && decide (m.fn.toNat ≤ 3)) (bs := m.data)
      (P := fun _ spm _ => spm = s.spm) (fun s => (exec_barrierUpdate : _ = execBarrierUpdate k s)) kind fun z received => ⟨z, ?_, received.mesh, received.spm⟩
    have refused : z.barOwned m.untagged.dst (barSlot m.untagged.va) m.untagged.pid = false := (received.barOwned ..).trans foreign
    dsimp only
    rw [refused]
    rfl
  · refine exec_served h (e := .barrierUpdate k) (p := fun m => m.proc == 9 && decide (1 ≤ m.fn.toNat) && decide (m.fn.toNat ≤ 3)) (bs := m.data)
      (P := fun _ spm _ => Stored s.spm spm (spmAt m.dst (0x2FC00 + 16 * slotNamed m.va)) (barAfter m.fn.toNat (s.barRead m.dst (slotNamed m.va)) x).bytes)
      (fun s => (exec_barrierUpdate : _ = execBarrierUpdate k s)) kind fun z received => ?_
    have granted : z.barOwned m.untagged.dst (barSlot m.untagged.va) m.untagged.pid = true := (received.barOwned ..).trans owned
    have first : m.fn.toNat ≠ 1 → z.spmSound m.dst (barByte (slotNamed m.va)) 16 := fun other =>
      (received.spmSound ..).2 (sound fun e => other (by rw [e]; rfl))
    obtain ⟨mesh, spm⟩ := barPut_aside z m.dst (slotNamed m.va) (barAfter m.fn.toNat (z.barRead m.dst (slotNamed m.va)) x)
    have update : z.barTry m.untagged.who m.untagged.dst (barSlot m.untagged.va) (barOpOf m.untagged.fn.toNat m.untagged.opa) = _ :=
      (congrArg (fun o => z.barTry m.untagged.who m.dst (slotNamed m.va) (barOpOf m.fn.toNat o)) operand).trans
        (barTry_sound low high first m.untagged.who x)
    refine ⟨_, ?_, mesh.trans received.mesh, ?_⟩
    · dsimp only
      rw [granted, update]
      rfl
    · rw [spm, received.spm, received.barRead]
      exact stored_write ..

/-! ## Remote waits (R285) -/

/-- What a remote `cb.wait` meets at a live core. -/
theorem remoteWaits (fn : m.fn = 4) {w : Waiter} (cont : m.cont = some w) (chip : w.inMem = false) :
    let y := { s with mesh := without s.mesh k }.countRecv m.dst m.lid
    let phase := bit (s.barRead m.dst (slotNamed m.va)).phase
    (s.barOwned m.dst (slotNamed m.va) m.pid = false → exec (.waitOnAddress k) s = .next (y.releaseWaiter m.dst w (some (.prot, w.ea)))) ∧
    (s.barOwned m.dst (slotNamed m.va) m.pid = true → s.spmSound m.dst (barByte (slotNamed m.va)) 16 → phase = m.opa.toNat → exec (.waitOnAddress k) s = .next (y.releaseWaiter m.dst
      { w with pkt := { w.pkt with cont := { w.pkt.cont with pc := w.pkt.cont.pc + 4 } } } none)) ∧
    (s.barOwned m.dst (slotNamed m.va) m.pid = true → s.spmSound m.dst (barByte (slotNamed m.va)) 16 → phase ≠ m.opa.toNat → (s.coreAt m.dst).waiters.length < 64 → ∃ t,
      exec (.waitOnAddress k) s = .next t ∧ (t.coreAt m.dst).waiters = (s.coreAt m.dst).waiters ++ [w] ∧ t.mesh = without s.mesh k) := by
  intro y phase
  have received : Received { s with mesh := without s.mesh k } y := .countRecv _ _ _
  have run : exec (.waitOnAddress k) s = .next (if !y.barOwned m.dst (slotNamed m.va) m.pid then y.releaseWaiter m.dst w (some (.prot, w.ea))
      else match y.barLook m.who m.dst (slotNamed m.va) with
        | (s, none) => s.releaseWaiter m.dst w (some (.eccue, w.ea))
        | (s, some bar) => if bit bar.phase = m.opa.toNat then s.releaseWaiter m.dst w.served none else s.enlist m.dst w) := by
    have proc : m.proc = 9 := beq_iff_eq.1 (arrived_code h rfl)
    have alive : ((s.dropMsg k).coreAt m.dst).killed = false := h.alive
    rw [(exec_waitOnAddress : _ = execWaitOnAddress k s), execWaitOnAddress, State.doWait, h.there]
    dsimp only
    rw [cont]
    dsimp only
    rw [h.stage, proc, fn, alive]
    rfl
  have owner : y.barOwned m.dst (slotNamed m.va) m.pid = s.barOwned m.dst (slotNamed m.va) m.pid := received.barOwned ..
  have look (sound : s.spmSound m.dst (barByte (slotNamed m.va)) 16) :
      y.barLook m.who m.dst (slotNamed m.va) = (y, some (s.barRead m.dst (slotNamed m.va))) := ((received.spmSound ..).2 sound).barLook m.who
  refine ⟨fun foreign => ?_, fun owned sound met => ?_, fun owned sound unmet room => ?_⟩
  · rw [run, owner, foreign]
    rfl
  · rw [run, owner, owned, look sound]
    exact congrArg Host.Outcome.next (if_pos met)
  · have waiters : (y.coreAt m.dst).waiters = (s.coreAt m.dst).waiters := received.waiters m.dst
    refine ⟨y.onCore m.dst fun q => { q with waiters := q.waiters ++ [w] }, ?_, ?_, rfl⟩
    · rw [run, owner, owned, look sound, ← State.enlist_room (by rw [waiters]; exact room) chip]
      exact congrArg Host.Outcome.next (if_neg unmet)
    · rw [State.coreAt_onCore_self, ← waiters]
end

/-! ## Copy segments (R123, R145, R153) -/

/-- Where nobody waits on a vault, words that a write touches there become full and nothing else happens (R145). -/
theorem setFull_quiet {s : State} {a n : Nat} (h : (s.coreAt (vaultOf a)).waiters = []) (fits : a % 2 ^ 28 + n ≤ 2 ^ 28) :
    s.setFull a n = { s with empties := fillWords s.empties a n } := by
  rw [State.setFull]
  refine List.foldlRecOn (motive := fun t => t = { s with empties := fillWords s.empties a n }) _ _ rfl fun t ht w hw => ?_
  subst ht
  have range := (List.mem_filter.1 hw).2
  simp only [Bool.and_eq_true, decide_eq_true_eq] at range
  have vault : vaultOf (w * 8) = vaultOf a := by
    simp only [vaultOf]
    omega
  refine State.feWake_quiet fun v hv => ?_
  rw [vault] at hv
  have hv : v ∈ (s.coreAt (vaultOf a)).waiters := hv
  rw [h] at hv
  cases hv

theorem mem_fillWords {l : List Nat} {a n w : Nat} : w ∈ fillWords l a n ↔ w ∈ l ∧ ¬ (a / 8 ≤ w ∧ w < (a + n + 7) / 8) := by
  rw [fillWords, List.mem_filter]
  refine and_congr_right fun _ => ?_
  simp
  omega

/-- A sound write of an engine or a copy, at a vault where nobody waits. -/
theorem engineWrite_sound {s : State} {a : Nat} {bs : List Byte} (sound : s.sound a bs.length) (h : (s.coreAt (vaultOf a)).waiters = [])
    (fits : a % 2 ^ 28 + bs.length ≤ 2 ^ 28) (w : Who) : ∃ t, s.engineWrite w a bs = ({ t with empties := fillWords s.empties a bs.length }, 0) ∧
      Accessed (granules a bs.length) s t ∧ Stored s.mem t.mem a bs := by
  obtain ⟨t, write, acc, stored⟩ := sound.vaultWrite w
  refine ⟨t, ?_, acc, stored⟩
  rw [State.engineWrite, write]
  dsimp only
  rw [if_pos rfl, setFull_quiet (by rw [acc.waiters]; exact h) fits, acc.empties]

section
variable {s : State} {k : Nat} {m : Msg} (h : Arrived s k m 5)
include h

/-- R123, R153: a segment for a scratchpad writes or reads its allocation there. -/
theorem scratchpadSegments (spad : m.toSpad = true) (core : spmCore m.va.toNat = m.dst) {b : Nat} (there : s.spmByte m.pid m.va.toNat = some b) :
    (m.fn = 0 → m.data.length ≤ 256 → s.spmSound m.dst b m.data.length → (s.coreAt m.dst).waiters = [] → ∃ t, exec (.copySegment k) s = .next t ∧
      Answered s t k m 0 0 ∧ Stored s.spm t.spm (spmAt m.dst b) m.data ∧ t.mem = s.mem) ∧
    (m.fn = 1 → m.opa.toNat ≤ 256 → s.spmSound m.dst b m.opa.toNat → ∃ t, exec (.copySegment k) s = .next t ∧
      Answered s t k { m with data := s.spm.readBytes (spmAt m.dst b) m.opa.toNat } 0 0 ∧ t.mem = s.mem ∧ t.spm = s.spm) := by
  have mine : m.untagged.fromPeer = false := by
    have both := spad
    simp only [Msg.toSpad, Bool.and_eq_true, Bool.not_eq_true'] at both
    exact both.1.2
  have run (s : State) : exec (.copySegment k) s = .next (s.doSegment k) := (exec_copySegment : _ = execCopySegment k s)
  refine ⟨fun fn small sound quiet => ?_, fun fn small sound => ?_⟩
  · refine exec_served h (bs := m.data) (P := fun mem spm _ => Stored s.spm spm (spmAt m.dst b) m.data ∧ mem = s.mem) run (arrived_code h rfl) fun z received => ?_
    have there' : z.spmByte m.pid m.va.toNat = some b := (received.spmByte ..).trans there
    have sound' : z.spmSound (spmCore m.va.toNat) b m.data.length := by rw [core]; exact (received.spmSound ..).2 sound
    have put := spmPut_quiet (s := z) (c := spmCore m.va.toNat) (by rw [core, received.waiters]; exact quiet) b m.data
    have write := windowWrite_sound there' small sound' m.untagged.who
    refine ⟨z.spmPut (spmCore m.va.toNat) b m.data, ?_, ?_, ?_, ?_⟩
    · have answer : z.spadSegment m.untagged m.data.length = (z.spmPut (spmCore m.va.toNat) b m.data, m.untagged.answer 0 0) := by
        rw [State.spadSegment, if_neg (show m.untagged.fn ≠ 1 by rw [show m.untagged.fn = 0 from fn]; decide),
          show z.windowWrite m.untagged.who m.untagged.pid m.untagged.va.toNat m.untagged.data = _ from write]
      have length : (if m.untagged.fn = 1 then m.untagged.opa.toNat else m.untagged.data.length) = m.data.length :=
        if_neg (show m.fn ≠ 1 by rw [fn]; decide)
      dsimp only
      rw [length, mine, show m.untagged.toSpad = true from spad, if_neg Bool.false_ne_true, if_pos rfl, answer]
      rfl
    · rw [put]; exact received.mesh
    · rw [put, core, ← received.spm]
      exact stored_write ..
    · rw [put]; exact received.mem
  · refine exec_served h (P := fun mem spm _ => mem = s.mem ∧ spm = s.spm) run (arrived_code h rfl) fun z received => ⟨z, ?_, received.mesh, received.mem, received.spm⟩
    have there' : z.spmByte m.pid m.va.toNat = some b := (received.spmByte ..).trans there
    have sound' : z.spmSound (spmCore m.va.toNat) b m.opa.toNat := by rw [core]; exact (received.spmSound ..).2 sound
    have read := windowRead_sound there' small sound' m.untagged.who
    rw [core, received.spm] at read
    have answer : z.spadSegment m.untagged m.opa.toNat = (z, { m.untagged.answer 0 0 with data := s.spm.readBytes (spmAt m.dst b) m.opa.toNat }) := by
      rw [State.spadSegment, if_pos (show m.untagged.fn = 1 from fn),
        show z.windowRead m.untagged.who m.untagged.pid m.untagged.va.toNat m.opa.toNat = _ from read]
    have length : (if m.untagged.fn = 1 then m.untagged.opa.toNat else m.untagged.data.length) = m.opa.toNat := if_pos fn
    dsimp only
    rw [length, mine, show m.untagged.toSpad = true from spad, if_neg Bool.false_ne_true, if_pos rfl, answer]
/-- R145, R153: a segment for a vault writes its bytes and sets their words full, or brings the bytes it reads back. -/
theorem vaultSegments (spad : m.toSpad = false) (vault : m.paddr < 2 ^ 38) :
    (m.fn = 0 → AtVault s m m.data.length → (s.coreAt m.dst).waiters = [] → 0 < m.data.length → m.paddr % 2 ^ 28 + m.data.length ≤ 2 ^ 28 →
      ∃ t, exec (.copySegment k) s = .next t ∧ Answered s t k m 0 0 ∧ Stored s.mem t.mem m.paddr m.data ∧ t.spm = s.spm ∧
        ∀ w, w ∈ t.empties ↔ w ∈ s.empties ∧ ¬ (m.paddr / 8 ≤ w ∧ w < (m.paddr + m.data.length + 7) / 8)) ∧
    (m.fn = 1 → AtVault s m m.opa.toNat → ∃ t, exec (.copySegment k) s = .next t ∧
      Answered s t k { m with data := s.mem.readBytes m.paddr m.opa.toNat } 0 0 ∧ t.mem = s.mem ∧ t.spm = s.spm ∧ t.empties = s.empties) := by
  have run (s : State) : exec (.copySegment k) s = .next (s.doSegment k) := (exec_copySegment : _ = execCopySegment k s)
  have space : spaceOf m.untagged.paddr = .vault := spaceOf_vault vault
  have charged {z : State} (received : Received s z) (n : Nat) :
      Received s (if m.untagged.fromPeer then z.chargeGranules m.untagged.dst m.untagged.acct n else z) := by
    split
    · exact received.trans (.charge ..)
    · exact received
  refine ⟨fun fn there quiet _ fits => ?_, fun fn there => ?_⟩
  · refine exec_served h (bs := m.data) (P := fun mem spm empties => Stored s.mem mem m.paddr m.data ∧ spm = s.spm ∧
      ∀ w, w ∈ empties ↔ w ∈ s.empties ∧ ¬ (m.paddr / 8 ≤ w ∧ w < (m.paddr + m.data.length + 7) / 8)) run (arrived_code h rfl) fun z received => ?_
    have length : (if m.untagged.fn = 1 then m.untagged.opa.toNat else m.untagged.data.length) = m.data.length :=
      if_neg (show m.fn ≠ 1 by rw [fn]; decide)
    have received := charged received m.data.length
    dsimp only
    rw [length, space, show m.untagged.toSpad = false from spad]
    generalize (if m.untagged.fromPeer then _ else z) = y at received
    obtain ⟨t, write, acc, stored⟩ := engineWrite_sound (atVault_sound there received) (by rw [there.2.1, received.waiters]; exact quiet) fits m.untagged.who
    rw [received.mem] at stored
    refine ⟨{ t with empties := fillWords y.empties m.paddr m.data.length }, ?_, acc.mesh.trans received.mesh, stored, acc.spm.trans received.spm, fun w => ?_⟩
    · rw [if_neg Bool.false_ne_true, if_neg (by simp), if_neg (show m.untagged.fn ≠ 1 by rw [show m.untagged.fn = 0 from fn]; decide),
        show y.engineWrite m.untagged.who m.untagged.paddr m.untagged.data = _ from write]
      rfl
    · rw [← received.empties]
      exact mem_fillWords
  · refine exec_served h (P := fun mem spm empties => mem = s.mem ∧ spm = s.spm ∧ empties = s.empties) run (arrived_code h rfl) fun z received => ?_
    have length : (if m.untagged.fn = 1 then m.untagged.opa.toNat else m.untagged.data.length) = m.opa.toNat := if_pos fn
    have received := charged received m.opa.toNat
    dsimp only
    rw [length, space, show m.untagged.toSpad = false from spad]
    generalize (if m.untagged.fromPeer then _ else z) = y at received
    obtain ⟨t, read, acc, mem⟩ := (atVault_sound there received).vaultRead m.untagged.who
    rw [received.mem] at read mem
    refine ⟨t, ?_, acc.mesh.trans received.mesh, mem, acc.spm.trans received.spm, acc.empties.trans received.empties⟩
    rw [if_neg Bool.false_ne_true, if_neg (by simp), if_pos (show m.untagged.fn = 1 from fn),
      show y.vaultRead m.untagged.who m.untagged.paddr m.opa.toNat = _ from read]
end

/-! ## The obligation -/

/-- Settles O49: the scratchpad's procedures are reads and writes of sound words at the core (`scratchpadLoads`, `barrierTests`,
`scratchpadStores`, `barrierUpdates`), a remote wait is released or enlisted (`remoteWaits`), and a segment is a write or a read of its place
(`scratchpadSegments`, `vaultSegments`). -/
theorem scratchpadMessages : Obligations.ScratchpadMessages := by
  unfold Obligations.ScratchpadMessages
  refine ⟨fun k m s h hd hm core => ⟨fun fn => scratchpadLoads h hd hm core fn, barrierTests h⟩, fun k m s h core =>
    ⟨fun fn hd => scratchpadStores h core fn hd, fun low _ y x op => spmOperations h low y x op,
      fun low high x operand => barrierUpdates h low high x operand, fun fn w cont chip => remoteWaits h fn cont chip⟩,
    fun k b m s h spad core there => scratchpadSegments h spad core there, fun k m s h spad vault => vaultSegments h spad vault⟩

end Sys2Proof.Machine
end

section
/-! # Chunks of copies and gathers and their completion (O51)

A chunk within the own window is read and written in pieces that 256-byte boundaries cut, each an error-free access (`piecesRead_own`,
`piecesWrite_own`); work that ends changes scoreboards and error logs alone (`Noted`). -/

namespace Sys2Proof.Machine
open Sys2Proof.Statements

/-! ## Scoreboards and error logs (R385 to R387, R408) -/

/-- Slots and error logs may have changed, but for the cycle of a slot's last trap entry; nothing else has. -/
structure Noted (s t : State) : Prop where
  device : t = { s with cores := t.cores, quince := t.quince }
  core   : ∀ c, t.coreAt c = { s.coreAt c with slots := (t.coreAt c).slots, logs := (t.coreAt c).logs }
  trap   : ∀ c j, (t.slotAt c j).trapAt = (s.slotAt c j).trapAt

namespace Noted

theorem refl (s : State) : Noted s s := ⟨rfl, fun _ => rfl, fun _ _ => rfl⟩

theorem putSlot (s : State) (c j : Nat) {v : Slot} (h : v.trapAt = (s.slotAt c j).trapAt) : Noted s (s.putSlot c j v) where
  device := rfl
  core d := by
    by_cases hd : d = c
    · subst hd; rw [State.coreAt_putSlot_self]
    · rw [State.coreAt_putSlot_other s hd]
  trap d i := by
    by_cases hd : d = c ∧ i = j
    · obtain ⟨rfl, rfl⟩ := hd
      rw [State.slotAt_putSlot_self, h]
    · rw [State.slotAt_putSlot_other s (by omega)]

theorem logError (s : State) (c array sev cause addr syn : Nat) (w : Who) (inj : Bool) : Noted s (s.logError c array sev cause addr syn w inj) := by
  have cores (d : Nat) : ∃ logs, (s.logError c array sev cause addr syn w inj).coreAt d = { s.coreAt d with logs := logs } := by
    have put (k : Core) : ∃ logs, ((s.putCore c { s.coreAt c with logs := k.logs }).coreAt d) = { s.coreAt d with logs := logs } := by
      by_cases hd : d = c
      · subst hd; exact ⟨_, State.coreAt_putCore_self ..⟩
      · exact ⟨_, State.coreAt_putCore_other s hd _⟩
    unfold State.logError
    dsimp only
    split
    · exact put { s.coreAt c with logs := _ }
    · exact put { s.coreAt c with logs := _ }
  refine ⟨?_, fun d => ?_, fun d j => ?_⟩
  · unfold State.logError
    dsimp only
    split
    · rfl
    · rfl
  · obtain ⟨logs, core⟩ := cores d
    rw [core]
  · obtain ⟨logs, core⟩ := cores d
    rw [State.slotAt, core]
    rfl

variable {s t u : State} (h : Noted s t)
include h

theorem trans (k : Noted t u) : Noted s u :=
  ⟨by rw [k.device, h.device], fun c => by rw [k.core c, h.core c], fun c j => (k.trap c j).trans (h.trap c j)⟩

theorem mem : t.mem = s.mem := by rw [h.device]
theorem spm : t.spm = s.spm := by rw [h.device]
theorem empties : t.empties = s.empties := by rw [h.device]
theorem now : t.now = s.now := by rw [h.device]
theorem copies (c : Nat) : (t.coreAt c).copies = (s.coreAt c).copies := by rw [h.core c]
theorem gathers (c : Nat) : (t.coreAt c).gathers = (s.coreAt c).gathers := by rw [h.core c]
theorem unframed {c j : Nat} (k : Unframed s c j) : Unframed t c j := by
  rw [Unframed, h.trap, h.now]
  exact k

end Noted

/-- Work under way is noted at its entry. -/
theorem noteWork_noted (s : State) (c j : Nat) (id : StrandId) (entry : Option Nat) (f : SbEntry → SbEntry) : Noted s (s.noteWork c j id entry f) := by
  unfold State.noteWork
  split
  · exact .refl s
  · refine .putSlot s c j ?_
    dsimp only
    split
    · rfl
    · rfl

/-- Work that ends is noted at its entry, or in an error log. -/
theorem endWork_noted {s : State} {c j : Nat} (h : Unframed s c j) (id : StrandId) (entry : Option Nat) (fail : Option (Cause × Word)) (told : Told)
    (array aux : Nat) (part : Bool) : Noted s (s.endWork c j id entry fail told array aux part) := by
  have put (n : Nat) {v : Slot} (same : v.trapAt = (s.slotAt c j).trapAt) : Noted s (s.putEntry c j n v) := by
    rw [State.putEntry, if_neg (by rw [same]; exact h)]
    exact .putSlot s c j same
  unfold State.endWork
  dsimp only
  split
  · refine put _ ?_
    unfold Slot.entryDone
    split
    · rfl
    · rfl
  · exact .refl s
  · refine put _ ?_
    unfold Slot.entryFailed
    dsimp only
    split
    · rfl
    · rfl
  · split
    · exact .refl s
    · exact .logError ..

/-! ## Engine accesses to the own window (R118, R120, R145) -/

/-- Sound accesses of an engine: memory, the full/empty bits, and the vaults' open rows and row requests. -/
structure Copied (s t : State) : Prop where
  device : t = { s with cores := t.cores, mem := t.mem, empties := t.empties }
  core   : ∀ c, t.coreAt c = { s.coreAt c with banks := (t.coreAt c).banks, ctl := (t.coreAt c).ctl }

theorem Accessed.copied {l : List Nat} {s t : State} (h : Accessed l s t) : Copied s t := ⟨by rw [h.device], h.core⟩

namespace Copied
variable {s t u : State} (h : Copied s t)
include h

theorem trans (k : Copied t u) : Copied s u := ⟨by rw [k.device, h.device], fun c => by rw [k.core c, h.core c]⟩

theorem fill (l : List Nat) : Copied s { t with empties := l } := ⟨by rw [h.device], h.core⟩

theorem spm : t.spm = s.spm := by rw [h.device]
theorem quince : t.quince = s.quince := by rw [h.device]
theorem copies (c : Nat) : (t.coreAt c).copies = (s.coreAt c).copies := by rw [h.core c]
theorem waiters (c : Nat) : (t.coreAt c).waiters = (s.coreAt c).waiters := by rw [h.core c]
theorem sound {a n : Nat} (k : s.sound a n) : t.sound a n := by
  intro g hg
  have := k g hg
  rw [h.device]
  exact this

end Copied

/-- A range of a context's own window below the reserved region, in pages of its process whose owner-map entries can be read. -/
structure OwnRange (s : State) (y : Ctx) (va n : Nat) : Prop where
  core  : y.core < 1024
  base  : s.reservedBase y.core = 0x0FF00000
  below : va + n ≤ 0x0FF00000
  owned : ∀ i, i < n → s.owns y.pid (y.core * 2 ^ 28 + va + i) = true
  map   : ∀ i, i < n → OwnerReadable s (y.core * 2 ^ 28 + va + i)

theorem ownerAt_window {s : State} {c a : Nat} (hc : c < 1024) (ha : a < 2 ^ 28) :
    s.ownerAt (c * 2 ^ 28 + a) = s.reservedAt c (0x0FF50000 + 2 * (a / 65536)) := by
  have inside : (c * 2 ^ 28 + a) % 2 ^ 28 = a := by omega
  simp only [State.ownerAt, vaultOf_own hc ha, inside]

theorem ownerAt_congr {s t : State} (h : t.quince = s.quince) (a : Nat) : t.ownerAt a = s.ownerAt a := by
  have base (c : Nat) : t.reservedBase c = s.reservedBase c := by rw [State.reservedBase, h]; rfl
  have place (c o : Nat) : t.reservedAt c o = s.reservedAt c o := congrArg (fun b => c * 2 ^ 28 + b + (o - 0x0FF00000)) (base c)
  exact place ..

theorem reservedAt_ownerMap (s : State) (c x : Nat) : s.reservedAt c (0x0FF50000 + x) = c * 2 ^ 28 + s.reservedBase c + (0x50000 + x) := by
  have offset : 0x0FF50000 + x - 0x0FF00000 = 0x50000 + x := by omega
  exact congrArg (c * 2 ^ 28 + s.reservedBase c + ·) offset

/-- An owner-map entry lies in the reserved region's MiB (R120). -/
theorem ownerMap_inside {b p a : Nat} (hp : p < 4096) (above : b + (0x50000 + 2 * p) ≤ a) (under : a < b + (0x50000 + 2 * p) + 2) :
    b ≤ a ∧ a < b + 2 ^ 20 := by omega

theorem State.ctxRead_local {s t : State} {x : Ctx} {va n : Nat} {bs : List Byte} (pass : s.regionFor x va = (s, none)) (region : regionOf va = .local_)
    (read : s.vaultRead x.who (x.core * 2 ^ 28 + va) n = (t, 0, bs)) : s.ctxRead x va n = (t, .ok bs) := by
  have done_ : statusCause 0 = none := rfl
  unfold State.ctxRead
  rw [pass]
  dsimp only
  rw [read]
  dsimp only
  rw [done_]
  dsimp only
  rw [region]

theorem State.ctxWrite_local {s t : State} {x : Ctx} {va : Nat} {bs : List Byte} (pass : s.regionFor x va = (s, none)) (region : regionOf va = .local_)
    (write : s.vaultWrite x.who (x.core * 2 ^ 28 + va) bs = (t, 0)) : s.ctxWrite x va bs = (t, none) := by
  simp only [State.ctxWrite, pass, region, write, statusCause]

namespace OwnRange
variable {s : State} {y : Ctx} {va n : Nat} (h : OwnRange s y va n)
include h

theorem sub {a m : Nat} (low : va ≤ a) (high : a + m ≤ va + n) : OwnRange s y a m := by
  obtain ⟨core, base, below, owned, map⟩ := h
  refine ⟨core, base, by omega, fun i hi => ?_, fun i hi => ?_⟩
  · have := owned (a - va + i) (by omega)
    rwa [show y.core * 2 ^ 28 + va + (a - va + i) = y.core * 2 ^ 28 + a + i by omega] at this
  · have := map (a - va + i) (by omega)
    rwa [show y.core * 2 ^ 28 + va + (a - va + i) = y.core * 2 ^ 28 + a + i by omega] at this

/-- Accesses below the reserved region leave the rights to it. -/
theorem after {t : State} (acc : Copied s t)
    (kept : ∀ a, y.core * 2 ^ 28 + s.reservedBase y.core ≤ a → a < y.core * 2 ^ 28 + s.reservedBase y.core + 2 ^ 20 → t.mem.read a = s.mem.read a) : OwnRange t y va n := by
  obtain ⟨core, base, below, owned, map⟩ := h
  have base' : t.reservedBase y.core = 0x0FF00000 := by rw [State.reservedBase, acc.quince]; exact base
  have window {i : Nat} (hi : i < n) : va + i < 2 ^ 28 := by omega
  have entry := ownerAt_congr acc.quince
  refine ⟨core, base', below, fun i hi => ?_, fun i hi => ?_⟩
  · have owner : t.ownerOf (y.core * 2 ^ 28 + va + i) = s.ownerOf (y.core * 2 ^ 28 + va + i) := by
      have page : (va + i) / 65536 < 4096 := by have := window hi; omega
      rw [State.ownerOf, State.ownerOf, entry, Memory.readNat, Memory.readNat, Nat.add_assoc, ownerAt_window core (window hi), reservedAt_ownerMap]
      refine congrArg leNat (Memory.readBytes_congr fun a above under => ?_)
      obtain ⟨first, last⟩ := ownerMap_inside page above under
      exact kept a first last
    have := owned i hi
    rwa [State.owns, ← owner] at this
  · have := map i hi
    rw [OwnerReadable, entry]
    rw [acc.device]
    exact this

/-- The region check of a byte of the range passes. -/
theorem regionFor (hn : 0 < n) : s.regionFor y va = (s, none) := by
  obtain ⟨core, base, below, owned, map⟩ := h
  have window : va < 2 ^ 28 := by omega
  obtain ⟨-, page⟩ := regionFor_local window s y
  have check := ownerCheck_readable (map 0 hn) y.who y.pid
  rw [owned 0 hn, Nat.add_zero, if_pos rfl] at check
  have outside : ¬ (0x0FF00000 ≤ va ∨ s.reservedBase y.core ≤ va ∧ va < s.reservedBase y.core + 2 ^ 20) := by omega
  exact (page outside).trans check

theorem region : regionOf va = .local_ := by
  have below := h.below
  have window : va < 2 ^ 28 := by omega
  exact regionOf_local window

/-- A sound read of the range. -/
theorem ctxRead (hn : 0 < n) (sound : s.sound (y.core * 2 ^ 28 + va) n) : ∃ t, s.ctxRead y va n = (t, .ok (s.mem.readBytes (y.core * 2 ^ 28 + va) n)) ∧
    Accessed (granules (y.core * 2 ^ 28 + va) n) s t ∧ t.mem = s.mem := by
  obtain ⟨t, read, acc, mem⟩ := sound.vaultRead y.who
  refine ⟨t, ?_, acc, mem⟩
  exact State.ctxRead_local (h.regionFor hn) h.region read

end OwnRange

/-- A sound write of the range by an engine, at a vault where nobody waits. -/
theorem OwnRange.engineStore {s : State} {y : Ctx} {va : Nat} {bs : List Byte} (h : OwnRange s y va bs.length) (hn : 0 < bs.length)
    (sound : s.sound (y.core * 2 ^ 28 + va) bs.length) (quiet : (s.coreAt y.core).waiters = []) :
    ∃ t, s.engineStore y va bs = (t, none) ∧ Copied s t ∧ Stored s.mem t.mem (y.core * 2 ^ 28 + va) bs ∧
      t.empties = fillWords s.empties (y.core * 2 ^ 28 + va) bs.length := by
  obtain ⟨t, write, acc, stored⟩ := sound.vaultWrite y.who
  have below := h.below
  have window : va < 2 ^ 28 := by omega
  have vault : vaultOf (y.core * 2 ^ 28 + va) = y.core := vaultOf_own h.core window
  refine ⟨{ t with empties := fillWords s.empties (y.core * 2 ^ 28 + va) bs.length }, ?_, acc.copied.fill _, stored, rfl⟩
  have wrote : s.ctxWrite y va bs = (t, none) := State.ctxWrite_local (h.regionFor hn) h.region write
  rw [State.engineStore, wrote]
  dsimp only
  rw [State.vaultByte, h.region]
  dsimp only
  rw [setFull_quiet (by rw [vault, acc.waiters]; exact quiet) (by omega), acc.empties]

/-! ## The pieces of a chunk (R134) -/

/-- A chunk lies in one 256-byte block, or in two. -/
theorem pieces_cases (va : Word) (n : Nat) : pieces va n = [(va, n)] ∨
    ∃ m, 0 < m ∧ m < n ∧ (va.toNat + m) % 256 = 0 ∧ pieces va n = [(va, m), (va + BitVec.ofNat 48 m, n - m)] := by
  by_cases one : n ≤ 256 - va.toNat % 256
  · exact .inl (by simp only [pieces, if_pos one])
  · exact .inr ⟨256 - va.toNat % 256, by omega, by omega, by omega, by simp only [pieces, if_neg one]⟩

theorem toNat_add_small {va : Word} {n : Nat} (h : va.toNat + n < 2 ^ 48) : (va + BitVec.ofNat 48 n).toNat = va.toNat + n := by
  rw [BitVec.toNat_add, BitVec.toNat_ofNat]
  omega

@[simp] theorem CopyCmd.ctx_core (x : CopyCmd) (c : Nat) : (x.ctx c).core = c := rfl

section
variable {s t u : State} {c off k : Nat} {x : CopyCmd} {p : Word × Nat} {r : List (Word × Nat)} {bs : List Byte}

theorem piecesRead_cons (here : s.pieceRead c x off p.1 p.2 = (t, .ok (some bs))) {l : List (Nat × Word × List Byte)}
    (rest : State.piecesRead c x off r k t = (u, .ok (l, k))) : State.piecesRead c x off (p :: r) k s = (u, .ok ((off, p.1, bs) :: l, k)) := by
  have now : k + bit (some bs).isNone = k := rfl
  rw [State.piecesRead, here]
  dsimp only
  rw [now, rest]

theorem piecesWrite_cons (here : s.pieceWrite c x off p.1 (bs.take p.2) = (t, .ok false))
    (rest : State.piecesWrite c x off r (bs.drop p.2) k t = (u, .ok k)) : State.piecesWrite c x off (p :: r) bs k s = (u, .ok k) := by
  have now : k + bit false = k := rfl
  rw [State.piecesWrite, here]
  dsimp only
  rw [now, rest]

variable {va : Word} {n : Nat}

theorem pieceRead_own (h : OwnRange s (x.ctx c) va.toNat n) (pos : 0 < n) (sound : s.sound (c * 2 ^ 28 + va.toNat) n) :
    ∃ t, s.pieceRead c x off va n = (t, .ok (some (s.mem.readBytes (c * 2 ^ 28 + va.toNat) n))) ∧ Copied s t ∧ t.mem = s.mem ∧
      t.empties = s.empties := by
  obtain ⟨t, read, acc, mem⟩ := h.ctxRead pos sound
  refine ⟨t, ?_, acc.copied, mem, acc.empties⟩
  have here : s.reach c x va .read = (s, .ok .here) := by simp only [State.reach, h.region]
  rw [State.pieceRead, here]
  dsimp only
  rw [read]
  rfl

theorem pieceWrite_own (h : OwnRange s (x.ctx c) va.toNat bs.length) (pos : 0 < bs.length) (sound : s.sound (c * 2 ^ 28 + va.toNat) bs.length)
    (quiet : (s.coreAt c).waiters = []) : ∃ t, s.pieceWrite c x off va bs = (t, .ok false) ∧ Copied s t ∧
      Stored s.mem t.mem (c * 2 ^ 28 + va.toNat) bs ∧ t.empties = fillWords s.empties (c * 2 ^ 28 + va.toNat) bs.length := by
  obtain ⟨t, write, acc, stored, full⟩ := h.engineStore pos sound quiet
  refine ⟨t, ?_, acc, stored, full⟩
  have here : s.reach c x va .write = (s, .ok .here) := by simp only [State.reach, h.region]
  rw [State.pieceWrite, here]
  dsimp only
  rw [write]

end

theorem Memory.readBytes_append (m : Memory) (a i j : Nat) : m.readBytes a i ++ m.readBytes (a + i) j = m.readBytes a (i + j) := by
  simp only [Memory.readBytes, List.range_add, List.map_append, List.map_map]
  refine congrArg _ (List.map_congr_left fun k _ => ?_)
  rw [Function.comp, Nat.add_assoc]

section
variable {s : State} {c off : Nat} {x : CopyCmd} {va : Word} {n : Nat} (h : OwnRange s (x.ctx c) va.toNat n) (pos : 0 < n)
include h pos

/-- A sound chunk of the own window is read whole. -/
theorem piecesRead_own (sound : s.sound (c * 2 ^ 28 + va.toNat) n) : ∃ t l, State.piecesRead c x off (pieces va n) 0 s = (t, .ok (l, 0)) ∧
    ((pieces va n).flatMap fun p => match l.find? fun (g : Nat × Word × List Byte) => g.1 == off && g.2.1 == p.1 with
      | some g => g.2.2
      | none => []) = s.mem.readBytes (c * 2 ^ 28 + va.toNat) n ∧ Copied s t ∧
    t.mem = s.mem ∧ t.empties = s.empties := by
  have below := h.below
  obtain one | ⟨m, low, high, -, two⟩ := pieces_cases va n
  · obtain ⟨t, here, acc, mem, full⟩ := pieceRead_own (off := off) h pos sound
    refine ⟨t, _, by rw [one]; exact piecesRead_cons here rfl, ?_, acc, mem, full⟩
    simp [one]
  · have next : (va + BitVec.ofNat 48 m).toNat = va.toNat + m := toNat_add_small (by omega)
    have apart : va ≠ va + BitVec.ofNat 48 m := fun e => by have := congrArg BitVec.toNat e; omega
    obtain ⟨t, first, acc, mem, full⟩ := pieceRead_own (off := off) (h.sub (m := m) (Nat.le_refl _) (by omega)) low (sound.sub (Nat.le_refl _) (by omega))
    have h' : OwnRange t (x.ctx c) (va + BitVec.ofNat 48 m).toNat (n - m) := by
      rw [next]
      exact (h.sub (by omega) (by omega)).after acc fun a _ _ => by rw [mem]
    have sound' : t.sound (c * 2 ^ 28 + (va + BitVec.ofNat 48 m).toNat) (n - m) := acc.sound (by rw [next]; exact sound.sub (by omega) (by omega))
    obtain ⟨u, second, acc', mem', full'⟩ := pieceRead_own (off := off) h' (by omega) sound'
    refine ⟨u, _, by rw [two]; exact piecesRead_cons first (piecesRead_cons second rfl), ?_, acc.trans acc', mem'.trans mem, full'.trans full⟩
    have whole : m + (n - m) = n := by omega
    have parts := s.mem.readBytes_append (c * 2 ^ 28 + va.toNat) m (n - m)
    rw [whole, Nat.add_assoc] at parts
    simpa [two, apart, mem, next] using parts

end

/-- A sound chunk of the own window is written whole, and its words become full. -/
theorem piecesWrite_own {s : State} {c off : Nat} {x : CopyCmd} {va : Word} {bs : List Byte} (h : OwnRange s (x.ctx c) va.toNat bs.length)
    (pos : 0 < bs.length) (sound : s.sound (c * 2 ^ 28 + va.toNat) bs.length) (quiet : (s.coreAt c).waiters = []) :
    ∃ t, State.piecesWrite c x off (pieces va bs.length) bs 0 s = (t, .ok 0) ∧ Copied s t ∧ Stored s.mem t.mem (c * 2 ^ 28 + va.toNat) bs ∧
      ∀ w, w ∈ t.empties ↔ w ∈ s.empties ∧ ¬ ((c * 2 ^ 28 + va.toNat) / 8 ≤ w ∧ w < (c * 2 ^ 28 + va.toNat + bs.length + 7) / 8) := by
  have below := h.below
  obtain one | ⟨m, low, high, edge, two⟩ := pieces_cases va bs.length
  · obtain ⟨t, here, acc, stored, full⟩ := pieceWrite_own (off := off) h pos sound quiet
    refine ⟨t, ?_, acc, stored, fun w => by rw [full, mem_fillWords]⟩
    rw [one]
    refine piecesWrite_cons (p := (va, bs.length)) (t := t) ?_ rfl
    rw [List.take_length]
    exact here
  · have next : (va + BitVec.ofNat 48 m).toNat = va.toNat + m := toNat_add_small (by omega)
    have upper : (bs.take m).length = m := by rw [List.length_take]; omega
    have rest : (bs.drop m).length = bs.length - m := List.length_drop
    obtain ⟨t, first, acc, stored, full⟩ := pieceWrite_own (off := off) (bs := bs.take m) (h.sub (by omega) (by omega)) (by omega)
      (sound.sub (Nat.le_refl _) (by omega)) quiet
    rw [upper] at full
    have within : va.toNat + m ≤ s.reservedBase c := le_of_le_of_eq (by omega) h.base.symm
    have kept (a : Nat) (ha : c * 2 ^ 28 + s.reservedBase c ≤ a) : t.mem.read a = s.mem.read a := by
      refine stored.2 a (.inr ?_)
      rw [upper, Nat.add_assoc]
      exact (Nat.add_le_add_left within _).trans ha
    have h' : OwnRange t (x.ctx c) (va + BitVec.ofNat 48 m).toNat (bs.drop m).length := by
      rw [next, rest]
      exact (h.sub (by omega) (by omega)).after acc fun a ha _ => kept a ha
    have sound' : t.sound (c * 2 ^ 28 + (va + BitVec.ofNat 48 m).toNat) (bs.drop m).length :=
      acc.sound (by rw [next, rest]; exact sound.sub (by omega) (by omega))
    obtain ⟨u, second, acc', stored', full'⟩ := pieceWrite_own (off := off) h' (by omega) sound' (by rw [acc.waiters]; exact quiet)
    refine ⟨u, ?_, acc.trans acc', ?_, fun w => ?_⟩
    · rw [two]
      refine piecesWrite_cons (p := (va, m)) (t := t) first (piecesWrite_cons (p := (_, bs.length - m)) (t := u) ?_ rfl)
      rw [List.take_of_length_le (Nat.le_of_eq rest)]
      exact second
    · have joined := stored_append stored (ys := bs.drop m) (by rw [upper, Nat.add_assoc, ← next]; exact stored')
      rwa [List.take_append_drop] at joined
    · rw [full', mem_fillWords, full, mem_fillWords, next, rest, and_assoc]
      refine and_congr_right fun _ => ?_
      omega

/-! ## A chunk of a copy (R153, R287) -/

/-- A chunk that has landed is recorded at its command, at its entry and among the dues. -/
theorem State.chunkLanded_plain {s : State} {c : Nat} {x : CopyCmd} (mode : x.desc.cmode ≠ 1) (off : Nat) :
    (s.chunkLanded c x off).mem = s.mem ∧ (s.chunkLanded c x off).spm = s.spm ∧ (s.chunkLanded c x off).empties = s.empties ∧
      ((s.chunkLanded c x off).coreAt c).copies = (s.coreAt c).copies.map fun y =>
        if y.num = x.num then { x with landed := off :: x.landed, sent := x.sent.filter (· != off) } else y := by
  let y := { x with landed := off :: x.landed, sent := x.sent.filter (· != off) }
  have noted := noteWork_noted (s.onCore c fun k => k.putCopy y) c y.slot y.id y.entry fun e => { e with aux := y.prefixLen, part := true }
  have landed : s.chunkLanded c x off =
      ((s.onCore c fun k => k.putCopy y).noteWork c y.slot y.id y.entry fun e => { e with aux := y.prefixLen, part := true }).chargeGranules c
        y.acct (y.size off) := by
    rw [State.chunkLanded, State.copyBar, if_neg mode]
  rw [landed]
  refine ⟨noted.mem, noted.spm, noted.empties, (noted.copies c).trans ?_⟩
  rw [State.coreAt_onCore_self]
  rfl

theorem State.copyShape_plain {s : State} {c : Nat} {x : CopyCmd} (scales : x.desc.sbf = false) (len : x.desc.len ≠ 4096) :
    s.copyShape c x = (s, if x.desc.overlaps then .refused else .plain) := by
  rw [State.copyShape]
  by_cases lap : x.desc.overlaps = true
  · rw [if_pos lap, if_pos lap]
  · rw [if_neg lap, if_neg lap, if_neg (by rw [scales]; exact Bool.false_ne_true), if_pos (by simpa using len)]

/-- A chunk whose source and destination lie in the own window is moved at once. -/
theorem State.moveChunk_own {s : State} {c off : Nat} {x : CopyCmd} {src dst : Nat} (hsrc : (x.desc.src + BitVec.ofNat 48 off).toNat = src)
    (hdst : (x.desc.dst + BitVec.ofNat 48 off).toNat = dst) (pos : 0 < x.size off) (from_ : OwnRange s (x.ctx c) src (x.size off))
    (dest : OwnRange s (x.ctx c) dst (x.size off)) (readable : s.sound (c * 2 ^ 28 + src) (x.size off)) (writable : s.sound (c * 2 ^ 28 + dst) (x.size off))
    (quiet : (s.coreAt c).waiters = []) : ∃ t, s.moveChunk c x .plain off = t.chunkLanded c x off ∧ Copied s t ∧
      Stored s.mem t.mem (c * 2 ^ 28 + dst) (s.mem.readBytes (c * 2 ^ 28 + src) (x.size off)) ∧
      ∀ w, w ∈ t.empties ↔ w ∈ s.empties ∧ ¬ ((c * 2 ^ 28 + dst) / 8 ≤ w ∧ w < (c * 2 ^ 28 + dst + x.size off + 7) / 8) := by
  subst hsrc hdst
  obtain ⟨t, l, read, bytes, acc, mem, unfilled⟩ := piecesRead_own (off := off) from_ pos readable
  have whole : ({ x with got := l } : CopyCmd).bytesOf off = s.mem.readBytes (c * 2 ^ 28 + (x.desc.src + BitVec.ofNat 48 off).toNat) (x.size off) := bytes
  have length := Memory.readBytes_length s.mem (c * 2 ^ 28 + (x.desc.src + BitVec.ofNat 48 off).toNat) (x.size off)
  have dest' := dest.after acc fun a _ _ => by rw [mem]
  have writable' := acc.sound writable
  generalize s.mem.readBytes (c * 2 ^ 28 + (x.desc.src + BitVec.ofNat 48 off).toNat) (x.size off) = bs at whole length ⊢
  rw [← length] at dest' writable' pos
  obtain ⟨u, write, acc', stored, full⟩ := piecesWrite_own (off := off) dest' pos writable' (by rw [acc.waiters]; exact quiet)
  rw [mem] at stored
  rw [length, unfilled] at full
  refine ⟨u, ?_, acc.trans acc', stored, full⟩
  have gathered : s.moveChunk c x .plain off = t.writeChunk c x .plain off (({ x with got := l } : CopyCmd).bytesOf off) := by
    unfold State.moveChunk
    dsimp only
    rw [read]
    rfl
  rw [gathered, whole]
  unfold State.writeChunk
  dsimp only
  rw [write]
  rfl

theorem copyChunk_behind {s : State} {c n off : Nat} {x : CopyCmd} (there : (s.coreAt c).copies.find? (fun y => y.num == n) = some x)
    (behind : s.chunkBehind c x off = true) : s.copyChunk c n off = s := by
  unfold State.copyChunk
  rw [there]
  dsimp only
  rw [behind, Bool.or_true, if_pos rfl]

section
variable {s : State} {c n off : Nat} {x : CopyCmd} (there : (s.coreAt c).copies.find? (fun y => y.num == n) = some x)
  (runs : x.stopped = false) (well : x.failed = none) (edge : off % 64 = 0) (low : x.base ≤ off) (high : off < x.desc.len) (fresh : off ∉ x.landed)
  (unsent : x.sent = []) (free : s.chunkBehind c x off = false)

include runs well edge low high fresh unsent free in
theorem chunk_due : (x.stopped || x.failed.isSome || off % 64 != 0 || decide (off < x.base) || decide (x.desc.len ≤ off) || x.landed.contains off ||
    x.sent.contains off || s.chunkBehind c x off) = false := by
  simp [runs, well, edge, low, high, fresh, unsent, free]

include there runs well edge low high fresh unsent free

omit there runs well edge low high fresh unsent free in
theorem chunk_tagged (tag : s.chunkHere x off c = true → s.tagFree c x.tag = true) : (s.chunkHere x off c && !s.tagFree c x.tag) = false := by
  cases here : s.chunkHere x off c
  case false => rfl
  case true => rw [tag here]; rfl

/-- A due chunk waits for a tag of the own vault's agent. -/
theorem copyChunk_waits (here : s.chunkHere x off c = true) (busy : s.tagFree c x.tag = false) : s.copyChunk c n off =
    if x.tag.isSome then s else { s.onCore c fun k => k.putCopy { x with tag := some s.orders } with orders := s.orders + 1 } := by
  unfold State.copyChunk
  rw [there]
  dsimp only
  rw [chunk_due runs well edge low high fresh unsent free, if_neg Bool.false_ne_true, here, busy]
  exact if_pos rfl

variable (tag : s.chunkHere x off c = true → s.tagFree c x.tag = true)
include tag

theorem copyChunk_refused (shape : s.copyShape c { x with tag := none } = (s, .refused)) :
    s.copyChunk c n off = s.chunkFailed c { x with tag := none } off .illegal x.desc.src := by
  have go := chunk_tagged tag
  unfold State.copyChunk
  rw [there]
  dsimp only
  rw [chunk_due runs well edge low high fresh unsent free, if_neg Bool.false_ne_true, go, if_neg Bool.false_ne_true, shape]

theorem copyChunk_moves (shape : s.copyShape c { x with tag := none } = (s, .plain)) :
    s.copyChunk c n off = s.moveChunk c { x with tag := none } .plain off := by
  have go := chunk_tagged tag
  unfold State.copyChunk
  rw [there]
  dsimp only
  rw [chunk_due runs well edge low high fresh unsent free, if_neg Bool.false_ne_true, go, if_neg Bool.false_ne_true, shape]

end

theorem num_of_find {l : List CopyCmd} {n : Nat} {x : CopyCmd} (h : l.find? (fun y => y.num == n) = some x) : x.num = n := by
  simpa using List.find?_some h

section
variable {s : State} {c n off : Nat} {x : CopyCmd} (h : PlainCopy s c n x) (high : off < x.desc.len)
include h high

theorem plainCopy_places : (x.desc.src + BitVec.ofNat 48 off).toNat = x.desc.src.toNat + off ∧
    (x.desc.dst + BitVec.ofNat 48 off).toNat = x.desc.dst.toNat + off := by
  have src := h.src
  have dst := h.dst
  exact ⟨toNat_add_small (by omega), toNat_add_small (by omega)⟩

theorem plainCopy_ranges : OwnRange s (x.ctx c) (x.desc.src.toNat + off) (x.size off) ∧ OwnRange s (x.ctx c) (x.desc.dst.toNat + off) (x.size off) := by
  have size : off + x.size off ≤ x.desc.len := by rw [CopyCmd.size]; omega
  have src : OwnRange s (x.ctx c) x.desc.src.toNat x.desc.len := ⟨h.core, h.base, h.src, fun i hi => (h.owned i hi).1, fun i hi => (h.map i hi).1⟩
  have dst : OwnRange s (x.ctx c) x.desc.dst.toNat x.desc.len := ⟨h.core, h.base, h.dst, fun i hi => (h.owned i hi).2, fun i hi => (h.map i hi).2⟩
  exact ⟨src.sub (by omega) (by omega), dst.sub (by omega) (by omega)⟩

theorem plainCopy_here : s.chunkHere x off c = true := by
  have below := h.src
  have window : x.desc.src.toNat + off < 2 ^ 28 := by omega
  have core := h.core
  have vault : c * 2 ^ 28 + (x.desc.src.toNat + off) < 2 ^ 38 := by omega
  have place : s.wherePut (x.ctx c) (x.desc.src + BitVec.ofNat 48 off).toNat .read = some (c * 2 ^ 28 + (x.desc.src.toNat + off)) := by
    rw [(plainCopy_places h high).1, State.wherePut, regionOf_local window]
    rfl
  unfold State.chunkHere
  dsimp only
  rw [place, Option.any_some, spaceOf_vault vault, vaultOf_own core window]
  simp

/-- Chunks within the own window (R153). -/
theorem plainChunks (runs : x.stopped = false) (well : x.failed = none) (edge : off % 64 = 0) (low : x.base ≤ off) (fresh : off ∉ x.landed)
    (unsent : x.sent = []) (quiet : (s.coreAt c).waiters = []) (free : s.chunkBehind c x off = false) :
    let k := min 64 (x.desc.len - off)
    let a := c * 2 ^ 28 + x.desc.src.toNat + off
    let b := c * 2 ^ 28 + x.desc.dst.toNat + off
    (s.tagFree c x.tag = false → (x.tag ≠ none → exec (.copyChunk c n off) s = .next s) ∧
      (x.tag = none → ∃ t, exec (.copyChunk c n off) s = .next t ∧ t.mem = s.mem ∧ t.spm = s.spm ∧ t.orders = s.orders + 1 ∧
        (t.coreAt c).copies = (s.coreAt c).copies.map fun y => if y.num = n then { x with tag := some s.orders } else y)) ∧
    (s.tagFree c x.tag = true → s.sound a k → s.sound b k → ∃ t, exec (.copyChunk c n off) s = .next t ∧ Stored s.mem t.mem b (s.mem.readBytes a k) ∧ t.spm = s.spm ∧
      (t.coreAt c).copies = (s.coreAt c).copies.map (fun y => if y.num = n then { x with landed := off :: x.landed, tag := none } else y) ∧
      ∀ w, w ∈ t.empties ↔ w ∈ s.empties ∧ ¬ (b / 8 ≤ w ∧ w < (b + k + 7) / 8)) := by
  intro k a b
  have here := plainCopy_here h high
  have num := num_of_find h.there
  refine ⟨fun busy => ?_, fun tag readable writable => ?_⟩
  · have waits := copyChunk_waits h.there runs well edge low high fresh unsent free here busy
    refine ⟨fun some_ => ?_, fun none_ => ?_⟩
    · rw [if_pos (Option.isSome_iff_ne_none.2 some_)] at waits
      exact congrArg Host.Outcome.next waits
    · rw [if_neg (by simp [none_])] at waits
      refine ⟨_, congrArg Host.Outcome.next waits, rfl, rfl, rfl, ?_⟩
      show ((s.onCore c fun k => k.putCopy { x with tag := some s.orders }).coreAt c).copies = _
      rw [State.coreAt_onCore_self, ← num]
      rfl
  · obtain ⟨len, scales⟩ := h.len
    have apart := h.apart
    have lap : x.desc.overlaps = false := by
      rw [CopyDesc.overlaps]
      simp only [Bool.and_eq_false_iff, decide_eq_false_iff_not]
      omega
    have shape := State.copyShape_plain (s := s) (c := c) (x := { x with tag := none }) scales len
    rw [if_neg (by rw [lap]; exact Bool.false_ne_true)] at shape
    have moves := copyChunk_moves h.there runs well edge low high fresh unsent free (fun _ => tag) shape
    obtain ⟨hsrc, hdst⟩ := plainCopy_places h high
    obtain ⟨from_, dest⟩ := plainCopy_ranges h high
    have pos : 0 < x.size off := by rw [CopyCmd.size]; omega
    have joined (p : Nat) : c * 2 ^ 28 + p + off = c * 2 ^ 28 + (p + off) := Nat.add_assoc ..
    obtain ⟨t, moved, acc, stored, full⟩ := State.moveChunk_own (x := { x with tag := none }) hsrc hdst pos from_ dest
      (by rw [← joined]; exact readable) (by rw [← joined]; exact writable) quiet
    obtain ⟨mem, spm, empties, copies⟩ := State.chunkLanded_plain (s := t) (c := c) (x := { x with tag := none }) h.mode off
    refine ⟨_, congrArg Host.Outcome.next (moves.trans moved), ?_, spm.trans acc.spm, ?_, fun w => ?_⟩
    · rw [mem]
      rw [← joined, ← joined] at stored
      exact stored
    · rw [copies, acc.copies, ← num, unsent]
      rfl
    · rw [empties, full w, ← joined]
      rfl

end

/-- A command whose ranges overlap (R153). -/
theorem overlappingChunks {s : State} {c n off : Nat} {x : CopyCmd} (there : (s.coreAt c).copies.find? (fun y => y.num == n) = some x)
    (runs : x.stopped = false) (well : x.failed = none) (edge : off % 64 = 0) (low : x.base ≤ off) (high : off < x.desc.len) (fresh : off ∉ x.landed)
    (unsent : x.sent = []) (mode : x.desc.cmode ≠ 1) (free : s.chunkBehind c x off = false) (tag : s.chunkHere x off c = true → s.tagFree c x.tag = true)
    (left : x.desc.src.toNat < x.desc.dst.toNat + x.desc.len) (right : x.desc.dst.toNat < x.desc.src.toNat + x.desc.len) :
    ∃ t, exec (.copyChunk c n off) s = .next t ∧ t.mem = s.mem ∧ t.spm = s.spm ∧
      (t.coreAt c).copies = (s.coreAt c).copies.map fun y => if y.num = n then { x with failed := some (.illegal, x.desc.src), tag := none } else y := by
  have lap : x.desc.overlaps = true := by simp [CopyDesc.overlaps, left, right]
  have shape : s.copyShape c { x with tag := none } = (s, .refused) := by
    rw [State.copyShape]
    exact if_pos lap
  have fails := copyChunk_refused there runs well edge low high fresh unsent free tag shape
  rw [State.chunkFailed, State.copyBar, if_neg mode] at fails
  refine ⟨_, congrArg Host.Outcome.next fails, rfl, rfl, ?_⟩
  rw [State.coreAt_onCore_self, unsent, well, ← num_of_find there]
  rfl

/-! ## The end of a copy (R154, R287) -/

theorem State.slotAt_onCore (s : State) (c : Nat) {f : Core → Core} (h : ∀ k, (f k).slots = k.slots) (d j : Nat) :
    (s.onCore c f).slotAt d j = s.slotAt d j := by
  by_cases hd : d = c
  · subst hd
    rw [State.slotAt, State.coreAt_onCore_self, h]
    rfl
  · rw [State.slotAt, State.coreAt_onCore_other s hd]
    rfl

/-- A command leaves the engine. -/
def State.dropCopy (s : State) (c n : Nat) : State := s.onCore c fun k => { k with copies := k.copies.filter fun y => y.num != n }

theorem State.dropCopy_copies (s : State) (c n : Nat) : ((s.dropCopy c n).coreAt c).copies = (s.coreAt c).copies.filter fun y => y.num != n := by
  rw [State.dropCopy, State.coreAt_onCore_self]

theorem State.dropCopy_slotAt (s : State) (c n j : Nat) : (s.dropCopy c n).slotAt c j = s.slotAt c j :=
  s.slotAt_onCore c (f := fun k => { k with copies := k.copies.filter fun y => y.num != n }) (fun _ => rfl) c j

theorem unframed_onCore {s : State} {c d j : Nat} {f : Core → Core} (slots : ∀ k, (f k).slots = k.slots) (h : Unframed s d j) :
    Unframed (s.onCore c f) d j := by
  rw [Unframed, s.slotAt_onCore c slots]
  exact h

section
variable {s : State} {c n : Nat} {x : CopyCmd} (there : (s.coreAt c).copies.find? (fun y => y.num == n) = some x)
include there

/-- A command that runs, or that has something to wait for, stays. -/
theorem copyComplete_stays (h : (!x.sent.isEmpty || (x.left != 0 && x.failed.isNone && !x.stopped) || s.copyEndBehind c x) = true) :
    s.copyComplete c n = s := by
  unfold State.copyComplete
  rw [there]
  exact if_pos h

/-- What a whole command does to memory and the scratchpads: under CMODE 2 it writes its completion value. -/
def State.copyTold (s : State) (c : Nat) (x : CopyCmd) : State :=
  if x.desc.cmode = 2 then (s.engineStore (x.ctx c) x.desc.caddr.toNat (leBytes 8 x.desc.cval.toNat)).1 else s

/-- A whole command is told of and leaves the engine. -/
theorem copyComplete_whole (scales : x.desc.sbf = false) (len : x.desc.len ≠ 4096) (whole : x.left = 0) (unsent : x.sent = [])
    (free : s.copyEndBehind c x = false) : s.copyComplete c n =
      ((s.copyTold c x).dropCopy c n).endWork c x.slot x.id x.entry none
        (if x.desc.cmode = 0 then .alone else .both) 8 x.prefixLen (!x.landed.isEmpty || x.base != 0) := by
  have go : (!x.sent.isEmpty || (x.left != 0 && x.failed.isNone && !x.stopped) || s.copyEndBehind c x) = false := by simp [unsent, whole, free]
  have well : x.outcome = none := if_pos whole
  have carried (shape : CopyShape) (h : shape = .refused ∨ shape = .plain) : s.carryRegion shape = s := by
    obtain rfl | rfl := h
    · rfl
    · rfl
  have shape := State.copyShape_plain (s := s) (c := c) scales len
  have kept : s.carryRegion (if x.desc.overlaps then CopyShape.refused else .plain) = s := carried _ (by split; exacts [.inl rfl, .inr rfl])
  have uncut : (x.stopped && x.failed.isNone && x.left != 0) = false := by simp [whole]
  unfold State.copyComplete State.copyTold State.dropCopy
  rw [there]
  dsimp only
  rw [if_neg (by rw [go]; exact Bool.false_ne_true), well, uncut, shape]
  dsimp only
  simp only [Option.isNone_none, Option.isSome_none, Bool.false_eq_true, if_true, if_false, kept]

end

/-- A completion value in the own scratchpad, where nobody waits (R154, R287). -/
theorem State.copyTold_spad {s : State} {c b : Nat} {x : CopyCmd} (mode : x.desc.cmode = 2) (low : 2 ^ 28 ≤ x.desc.caddr.toNat)
    (high : x.desc.caddr.toNat < 2 ^ 32) (own : spmCore x.desc.caddr.toNat = c) (window : 2 ≤ idxOf x.desc.caddr.toNat) (last : idxOf x.desc.caddr.toNat ≠ 31)
    (alive : (s.coreAt c).killed = false) (place : s.spmByte x.pid x.desc.caddr.toNat = some b) (sound : s.spmSound c b 8) :
    s.copyTold c x = s.spmPut c b (leBytes 8 x.desc.cval.toNat) := by
  have pad := regionOf_spad low high
  have pass : s.regionFor (x.ctx c) x.desc.caddr.toNat = (s, none) := by
    rw [State.regionFor, pad]
    exact congrArg (s, ·) (if_neg (by omega))
  have length := leBytes_length 8 x.desc.cval.toNat
  have write := windowWrite_sound place (bs := leBytes 8 x.desc.cval.toNat) (by omega) (by rw [own, length]; exact sound) (x.ctx c).who
  rw [own] at write
  have wrote : s.ctxWrite (x.ctx c) x.desc.caddr.toNat (leBytes 8 x.desc.cval.toNat) = (s.spmPut c b (leBytes 8 x.desc.cval.toNat), none) := by
    unfold State.ctxWrite
    rw [pass]
    dsimp only
    rw [pad]
    dsimp only
    rw [own, if_pos (show c = (x.ctx c).core from rfl), alive, if_neg Bool.false_ne_true, show (x.ctx c).pid = x.pid from rfl, write]
    rfl
  rw [State.copyTold, if_pos mode, State.engineStore, wrote]
  dsimp only
  rw [State.vaultByte, pad]

/-- Where nobody waits, a write of scratchpad bytes leaves memory, the cycle, the copies and the slots. -/
theorem spmPut_kept {s : State} {c : Nat} (h : (s.coreAt c).waiters = []) (b : Nat) (bs : List Byte) : (s.spmPut c b bs).mem = s.mem ∧
    (s.spmPut c b bs).spm = s.spm.write (spmAt c b) bs ∧ (s.spmPut c b bs).now = s.now ∧
    ((s.spmPut c b bs).coreAt c).copies = (s.coreAt c).copies ∧ ∀ j, (s.spmPut c b bs).slotAt c j = s.slotAt c j := by
  rw [spmPut_quiet h]
  refine ⟨rfl, rfl, rfl, ?_, s.slotAt_onCore c (f := fun k => k.staleRegions b bs.length s.now) (fun _ => rfl) c⟩
  show ((s.onCore c fun k => k.staleRegions b bs.length s.now).coreAt c).copies = _
  rw [State.coreAt_onCore_self]
  rfl

section
variable {s : State} {c n : Nat} {x : CopyCmd} (there : (s.coreAt c).copies.find? (fun y => y.num == n) = some x)
  (scales : x.desc.sbf = false) (len : x.desc.len ≠ 4096) (unframed : Unframed s c x.slot) (whole : x.left = 0) (unsent : x.sent = [])
  (free : s.copyEndBehind c x = false)
include there scales len unframed whole unsent free

theorem copyCompletions_plain (mode : x.desc.cmode ≠ 2) : ∃ t, exec (.copyCompletion c n) s = .next t ∧
    (t.coreAt c).copies = (s.coreAt c).copies.filter (fun y => y.num != n) ∧ t.mem = s.mem ∧ t.spm = s.spm ∧
    ∀ e, x.entry = some e → (s.slotAt c x.slot).strand.map (fun b => b.id) = some x.id → (s.slotAt c x.slot).handler = false →
      (∃ q ∈ (s.slotAt c x.slot).board, q.num = e) →
      t.slotAt c x.slot = { s.slotAt c x.slot with board := (s.slotAt c x.slot).board.filter fun q => q.num != e, freed := (t.slotAt c x.slot).freed } := by
  have ends := copyComplete_whole there scales len whole unsent free
  rw [State.copyTold, if_neg mode] at ends
  have slots := s.dropCopy_slotAt c n x.slot
  have kept : Unframed (s.dropCopy c n) c x.slot := unframed_onCore (fun _ => rfl) unframed
  have noted := endWork_noted kept x.id x.entry none (if x.desc.cmode = 0 then .alone else .both) 8 x.prefixLen (!x.landed.isEmpty || x.base != 0)
  refine ⟨_, congrArg Host.Outcome.next ends, ?_, noted.mem, noted.spm, fun e entry strand handler held => ?_⟩
  · rw [noted.copies, State.dropCopy_copies]
  · rw [entry, State.endWork_entry kept (by rw [slots]; exact strand) (by rw [slots]; exact held), State.slotAt_putSlot_self, slots]
    exact Slot.entryDone_of_not_handler handler ..

theorem copyCompletions_told (mode : x.desc.cmode = 2) {b : Nat} (low : 2 ^ 28 ≤ x.desc.caddr.toNat) (high : x.desc.caddr.toNat < 2 ^ 32)
    (own : spmCore x.desc.caddr.toNat = c) (window : 2 ≤ idxOf x.desc.caddr.toNat) (last : idxOf x.desc.caddr.toNat ≠ 31) (alive : (s.coreAt c).killed = false)
    (quiet : (s.coreAt c).waiters = []) (place : s.spmByte x.pid x.desc.caddr.toNat = some b) (sound : s.spmSound c b 8) :
    ∃ t, exec (.copyCompletion c n) s = .next t ∧ (t.coreAt c).copies = (s.coreAt c).copies.filter (fun y => y.num != n) ∧ t.mem = s.mem ∧
      Stored s.spm t.spm (spmAt c b) (leBytes 8 x.desc.cval.toNat) := by
  have ends := copyComplete_whole there scales len whole unsent free
  rw [State.copyTold_spad mode low high own window last alive place sound] at ends
  obtain ⟨mem, spm, now, copies, slots⟩ := spmPut_kept quiet b (leBytes 8 x.desc.cval.toNat)
  generalize s.spmPut c b (leBytes 8 x.desc.cval.toNat) = y at ends mem spm now copies slots
  have kept : Unframed y c x.slot := by
    rw [Unframed, slots, now]
    exact unframed
  have noted := endWork_noted (s := y.dropCopy c n) (unframed_onCore (fun _ => rfl) kept) x.id x.entry none (if x.desc.cmode = 0 then .alone else .both) 8 x.prefixLen (!x.landed.isEmpty || x.base != 0)
  refine ⟨_, congrArg Host.Outcome.next ends, ?_, noted.mem.trans mem, ?_⟩
  · rw [noted.copies, State.dropCopy_copies, copies]
  · rw [noted.spm, show (y.dropCopy c n).spm = y.spm from rfl, spm]
    exact stored_write ..

end

/-! ## The chunks of a gather (R370) -/

theorem gatherChunk_behind {s : State} {c n off : Nat} {g : GatherCmd} (there : (s.coreAt c).gathers.find? (fun y => y.num == n) = some g)
    (behind : s.gatherBehind c g off = true) : s.gatherChunk c n off = s := by
  unfold State.gatherChunk
  rw [there]
  dsimp only
  rw [behind, Bool.or_true, if_pos rfl]

/-- A gather without a barrier that ends leaves its agent, and is told of at its entry or in an error log. -/
theorem endGather_gone {s : State} {c : Nat} {g : GatherCmd} (bar : g.cb = 0) (unframed : Unframed s g.from_ g.slot) (fail : Option (Cause × Word)) :
    (s.endGather c g fail).mem = s.mem ∧ (s.endGather c g fail).spm = s.spm ∧ ∀ q ∈ ((s.endGather c g fail).coreAt c).gathers, q.num ≠ g.num := by
  have dropped {y : State} (h : Noted s y) (told : Told) (part : Bool) :
      let t := (y.dropGather c g.num).endWork g.from_ g.slot g.id g.entry fail told 8 0 part
      t.mem = s.mem ∧ t.spm = s.spm ∧ ∀ q ∈ (t.coreAt c).gathers, q.num ≠ g.num := by
    have kept : Unframed (y.dropGather c g.num) g.from_ g.slot := unframed_onCore (fun _ => rfl) (h.unframed unframed)
    have noted := endWork_noted kept g.id g.entry fail told 8 0 part
    refine ⟨noted.mem.trans h.mem, noted.spm.trans h.spm, fun q hq => ?_⟩
    rw [noted.gathers, State.dropGather, State.coreAt_onCore_self] at hq
    simpa using (List.mem_filter.1 hq).2
  cases fail with
  | none => exact dropped (.refl s) _ _
  | some f =>
    unfold State.endGather
    dsimp only
    rw [if_pos bar, if_pos bar]
    exact dropped (.logError ..) _ _

section
variable {s y : State} {c n off : Nat} {g : GatherCmd} {r : Except Nat (List Byte)}
  (there : (s.coreAt c).gathers.find? (fun y => y.num == n) = some g) (edge : off % 64 = 0) (high : off < g.total) (fresh : off ∉ g.landed)
  (free : s.gatherBehind c g off = false)

include edge high fresh free in
theorem gather_due : (off % 64 != 0 || decide (g.total ≤ off) || g.landed.contains off || s.gatherBehind c g off) = false := by
  simp [edge, high, fresh, free]

variable (bar : g.cb = 0)
include there edge high fresh free bar

/-- A chunk whose records cannot be read ends its gather. -/
theorem gatherChunks_unread {e : Nat} (job : runJob (gatherBytes g (g.agent c) off) s = (y, .error e)) (unframed : Unframed y g.from_ g.slot) :
    ∃ t, exec (.gatherChunk c n off) s = .next t ∧ t.mem = y.mem ∧ ∀ q ∈ (t.coreAt c).gathers, q.num ≠ n := by
  have num : g.num = n := by simpa using List.find?_some there
  obtain ⟨mem, -, gone⟩ := endGather_gone (c := c) bar unframed ((statusCause (if e = 6 then 5 else e)).map fun k => (k, g.address off))
  have ends : s.gatherChunk c n off = y.endGather c g ((statusCause (if e = 6 then 5 else e)).map fun k => (k, g.address off)) := by
    unfold State.gatherChunk
    rw [there]
    dsimp only
    rw [gather_due edge high fresh free, if_neg Bool.false_ne_true, job]
  exact ⟨_, congrArg Host.Outcome.next ends, mem, by rw [← num]; exact gone⟩

variable {z : State} {bs : List Byte} (job : runJob (gatherBytes g (g.agent c) off) s = (y, .ok bs)) (unframed : Unframed z g.from_ g.slot)
include job unframed

/-- A chunk that cannot be written ends its gather. -/
theorem gatherChunks_unwritten {cause : Cause} (write : y.gatherWrite c g off bs = (z, some cause)) :
    ∃ t, exec (.gatherChunk c n off) s = .next t ∧ t.mem = z.mem ∧ ∀ q ∈ (t.coreAt c).gathers, q.num ≠ n := by
  have num : g.num = n := by simpa using List.find?_some there
  obtain ⟨mem, -, gone⟩ := endGather_gone (c := c) bar unframed (some (cause, g.address off))
  have ends : s.gatherChunk c n off = z.endGather c g (some (cause, g.address off)) := by
    unfold State.gatherChunk
    rw [there]
    dsimp only
    rw [gather_due edge high fresh free, if_neg Bool.false_ne_true, job]
    dsimp only
    rw [write]
  exact ⟨_, congrArg Host.Outcome.next ends, mem, by rw [← num]; exact gone⟩

/-- A chunk that has been written is recorded, and the last ends its gather. -/
theorem gatherChunks_written (write : y.gatherWrite c g off bs = (z, none)) :
    ∃ t, exec (.gatherChunk c n off) s = .next t ∧ t.mem = z.mem ∧ t.spm = z.spm ∧
      (64 * (g.landed.length + 1) < g.total →
        (t.coreAt c).gathers = (z.coreAt c).gathers.map fun q => if q.num = n then { g with landed := off :: g.landed } else q) ∧
      (64 * (g.landed.length + 1) = g.total → ∀ q ∈ (t.coreAt c).gathers, q.num ≠ n) := by
  have num : g.num = n := by simpa using List.find?_some there
  let h : GatherCmd := { g with landed := off :: g.landed }
  let v := z.onCore c fun k => { k with gathers := k.gathers.map fun q => if q.num = n then h else q }
  let w := (v.noteWork g.from_ g.slot g.id g.entry fun e => { e with part := true }).chargeGranules c g.acct 64
  have noted := noteWork_noted v g.from_ g.slot g.id g.entry fun e => { e with part := true }
  have lands : s.gatherChunk c n off = if h.left = 0 then w.endGather c h none else w := by
    unfold State.gatherChunk
    rw [there]
    dsimp only
    rw [gather_due edge high fresh free, if_neg Bool.false_ne_true, job]
    dsimp only
    rw [write]
    dsimp only
    rw [State.gatherBar, if_pos bar]
  have left : h.left = g.total - 64 * (g.landed.length + 1) := rfl
  by_cases last : h.left = 0
  · have kept : Unframed w g.from_ g.slot := noted.unframed (unframed_onCore (fun _ => rfl) unframed)
    obtain ⟨mem, spm, gone⟩ := endGather_gone (g := h) (c := c) bar kept none
    rw [if_pos last] at lands
    refine ⟨_, congrArg Host.Outcome.next lands, mem.trans noted.mem, spm.trans noted.spm, fun more => ?_, fun _ => ?_⟩
    · omega
    · rw [← num]
      exact gone
  · rw [if_neg last] at lands
    refine ⟨_, congrArg Host.Outcome.next lands, noted.mem, noted.spm, fun _ => ?_, fun all => ?_⟩
    · refine (noted.gathers c).trans ?_
      rw [State.coreAt_onCore_self]
    · omega

end

/-! ## The obligation -/

/-- Settles O51, chunk by chunk: one within the own window is read and written in its pieces, and an end drops the command and is noted. -/
theorem copyAndGatherChunks : Obligations.CopyAndGatherChunks := by
  refine ⟨?_, ?_, ?_, ?_, ?_, ?_⟩
  · intro c n off x s h runs well edge low high fresh unsent quiet free
    exact plainChunks h high runs well edge low fresh unsent quiet free
  · intro c n off x s there behind
    exact congrArg Host.Outcome.next (copyChunk_behind there behind)
  · intro c n off x s there runs well edge low high fresh unsent mode free tag left right
    exact overlappingChunks there runs well edge low high fresh unsent mode free tag left right
  · intro c n x s there scales len unframed
    refine ⟨fun more well runs => ?_, fun waits => ?_, fun whole unsent free => ⟨fun mode => ?_, fun mode b low high own window last alive quiet place sound => ?_⟩⟩
    · exact congrArg Host.Outcome.next (copyComplete_stays there (by simp [more, well, runs]))
    · refine congrArg Host.Outcome.next (copyComplete_stays there ?_)
      obtain sent | behind := waits
      · simp [sent]
      · simp [behind]
    · exact copyCompletions_plain there scales len unframed whole unsent free mode
    · exact copyCompletions_told there scales len unframed whole unsent free mode low high own window last alive quiet place sound
  · intro c n off g s y r there edge high fresh bar free job
    refine ⟨fun bs z ok write unframed => ?_, fun bs z cause ok write unframed => ?_, fun e failed unframed => ?_⟩
    · subst ok
      exact gatherChunks_written there edge high fresh free bar job unframed write
    · subst ok
      exact gatherChunks_unwritten there edge high fresh free bar job unframed write
    · subst failed
      exact gatherChunks_unread there edge high fresh free bar job unframed
  · intro c n off g s there behind
    exact congrArg Host.Outcome.next (gatherChunk_behind there behind)

end Sys2Proof.Machine
end

section
/-! # Interval boundaries, gating, wake and throttles (O57)

A rail switch of a cluster that does not switch leaves every cluster as it was, but it lists the cluster: the state after it is not the
state before, where the cluster was unlisted and at its reset value. -/

namespace Sys2Proof.Machine
open Sys2Proof.Statements

theorem put_ne_nil {α : Type} (k : Nat) (v : α) (m : List (Nat × α)) : put k v m ≠ [] := fun none => by
  have listed := look_put_self k v m
  rw [none] at listed
  cases listed

/-- A rail switch lists its cluster. -/
theorem railSwitch_lists {g : Nat} {s t : State} (h : exec (.railSwitch g) s = .next t) : t.clusters ≠ [] := by
  obtain rfl : s.onCluster g Cluster.switchRail = t := Host.Outcome.next.inj h
  exact put_ne_nil g _ s.clusters

/-- Refutes O57: after reset no cluster is listed and none switches, but RAIL_SWITCH of cluster 0 lists it, at its reset value. The statement asks for the
same state, where the model's answer reads the same and is another list. -/
theorem not_clusterPower : ¬ Obligations.ClusterPower := by
  unfold Obligations.ClusterPower Statements.WakeAndThrottles
  rintro ⟨-, wake⟩
  obtain ⟨-, -, -, -, -, idle, -⟩ := wake 0 State.reset
  have same : exec (.railSwitch 0) State.reset = .next State.reset := idle rfl
  exact railSwitch_lists same rfl

end Sys2Proof.Machine
end

section
/-! # Admission, the end of tasks and the audit (O56)

Admission takes a record that has come (`takeRecord`), then the item that the scheduler's order puts first among those that have room
(`chosen_cases`). A task on an engine ends in one way, whatever its form: it leaves the engine and signals (`endTask_ended`), so each clause of its
completion names the state that it ends from. An audit reads and writes one slot of a vault, and touches no cluster (`Audited`). -/

namespace Sys2Proof.Machine
open Sys2Proof.Statements

/-! ## The order of the scheduler (R210, R211) -/

theorem leastBy_eq_none {α : Type} {f : α → Nat} {l : List α} (h : leastBy f l = none) : l = [] := by
  cases l with
  | nil => rfl
  | cons v r =>
    unfold leastBy at h
    split at h
    · cases h
    · split at h
      · cases h
      · cases h

theorem leastBy_least {α : Type} {f : α → Nat} {l : List α} {a : α} (h : leastBy f l = some a) : a ∈ l ∧ ∀ b ∈ l, f a ≤ f b := by
  induction l generalizing a with
  | nil => cases h
  | cons v r ih =>
    unfold leastBy at h
    split at h
    next none =>
      obtain rfl := leastBy_eq_none none
      obtain rfl := Option.some.inj h
      simp
    next w some =>
      obtain ⟨mem, least⟩ := ih some
      split at h
      next less =>
        obtain rfl := Option.some.inj h
        refine ⟨List.mem_cons_of_mem _ mem, List.forall_mem_cons.2 ⟨?_, least⟩⟩
        omega
      next more =>
        obtain rfl := Option.some.inj h
        refine ⟨List.mem_cons_self, List.forall_mem_cons.2 ⟨Nat.le_refl _, fun b hb => ?_⟩⟩
        have := least b hb
        omega

theorem fits_iff {s : State} {g : Nat} {i : Item} {energy current : Nat} : s.fits g i energy current = true ↔ HasRoom s g i energy current := by
  cases i with
  | task x => simp [State.fits, HasRoom, Option.isSome_iff_exists, and_assoc]
  | leave r => simp [State.fits, HasRoom]

theorem hasRoom_alone {s : State} {g : Nat} {i : Item} {energy current : Nat} (h : HasRoom s g i energy current) : HasRoom s g i 0 0 := by
  obtain ⟨charge, load, engine⟩ := h
  exact ⟨by omega, by omega, engine⟩

theorem reserved_mem {s : State} {g : Nat} {r : Item} (h : s.reserved g = some r) : r ∈ s.items g := by
  unfold State.reserved at h
  dsimp only at h
  split at h
  next named =>
    obtain rfl := Option.some.inj h
    obtain ⟨n, -, found⟩ := Option.bind_eq_some_iff.1 named
    exact List.mem_of_find?_eq_some found
  · exact (List.mem_filter.1 (leastBy_least h).1).1

/-- The item that comes first among those with room beside the amounts kept free. -/
def State.firstFitting (s : State) (g energy current : Nat) : Option Item :=
  leastBy (fun i => (31 - i.prio) * 2 ^ 64 + i.order) ((s.items g).filter fun i => s.fits g i energy current)

theorem firstFitting_first {s : State} {g energy current : Nat} {i : Item} (h : s.firstFitting g energy current = some i)
    (small : ∀ j ∈ s.items g, j.prio ≤ 31 ∧ j.order < 2 ^ 64) :
    i ∈ s.items g ∧ HasRoom s g i energy current ∧ ∀ j ∈ s.items g, HasRoom s g j energy current → ¬ Sooner j i := by
  obtain ⟨mem, least⟩ := leastBy_least h
  obtain ⟨mem, room⟩ := List.mem_filter.1 mem
  refine ⟨mem, fits_iff.1 room, fun j hj roomy sooner => ?_⟩
  have first := least j (List.mem_filter.2 ⟨hj, fits_iff.2 roomy⟩)
  obtain ⟨high, old⟩ := small i mem
  obtain ⟨high', old'⟩ := small j hj
  simp only [Sooner] at sooner
  omega

/-- What admission chooses: the reservation's item once it has room, else the first item that has room beside it (R210, R211). -/
theorem chosen_cases {s : State} {g : Nat} {i : Item} (h : s.chosen g = some i) :
    ((s.clusterAt g).noAdmit = false ∧ (s.clusterAt g).switching = false ∧ (s.clusterAt g).power = .up) ∧
    ((s.reserved g = none ∧ s.firstFitting g 0 0 = some i) ∨ (s.reserved g = some i ∧ HasRoom s g i 0 0) ∨
      ∃ r, s.reserved g = some r ∧ ¬ HasRoom s g r 0 0 ∧ s.firstFitting g r.energy r.current = some i) := by
  unfold State.chosen at h
  dsimp only at h
  split at h
  · cases h
  next open_ =>
    refine ⟨by simpa [and_assoc] using open_, ?_⟩
    cases reserved : s.reserved g with
    | none =>
      rw [reserved] at h
      exact .inl ⟨rfl, h⟩
    | some r =>
      rw [reserved] at h
      by_cases room : HasRoom s g r 0 0
      · rw [Option.filter_some_pos (p := fun i => s.fits g i 0 0) (fits_iff.2 room)] at h
        obtain rfl := Option.some.inj h
        exact .inr (.inl ⟨rfl, room⟩)
      · rw [Option.filter_some_neg (p := fun i => s.fits g i 0 0) (Bool.eq_false_iff.2 fun fits => room (fits_iff.1 fits))] at h
        exact .inr (.inr ⟨r, rfl, room, h⟩)

/-- The item admitted is ready or pending, has room beside the reservation, and comes before every other that has, unless it holds the reservation. -/
theorem chosen_first {s : State} {g : Nat} {i : Item} (h : s.chosen g = some i) (small : ∀ j ∈ s.items g, j.prio ≤ 31 ∧ j.order < 2 ^ 64) :
    i ∈ s.items g ∧ HasRoom s g i 0 0 ∧ (s.clusterAt g).noAdmit = false ∧ (s.clusterAt g).switching = false ∧ (s.clusterAt g).power = .up ∧
      (s.reserved g = none → ∀ j ∈ s.items g, HasRoom s g j 0 0 → ¬ Sooner j i) ∧
      (∀ r, s.reserved g = some r → HasRoom s g r 0 0 → i = r) ∧
      (∀ r, s.reserved g = some r → ¬ HasRoom s g r 0 0 → HasRoom s g i r.energy r.current ∧
        ∀ j ∈ s.items g, HasRoom s g j r.energy r.current → ¬ Sooner j i) := by
  obtain ⟨⟨admits, rail, power⟩, ⟨unreserved, first⟩ | ⟨reserved, room⟩ | ⟨r, reserved, full, first⟩⟩ := chosen_cases h
  · obtain ⟨mem, room, sooner⟩ := firstFitting_first first small
    refine ⟨mem, room, admits, rail, power, fun _ => sooner, ?_, ?_⟩
    · simp [unreserved]
    · simp [unreserved]
  · refine ⟨reserved_mem reserved, room, admits, rail, power, by simp [reserved], fun r hr _ => ?_, fun r hr full => ?_⟩
    · exact Option.some.inj (reserved.symm.trans hr)
    · obtain rfl := Option.some.inj (reserved.symm.trans hr)
      exact absurd room full
  · obtain ⟨mem, room, sooner⟩ := firstFitting_first first small
    refine ⟨mem, hasRoom_alone room, admits, rail, power, by simp [reserved], fun q hq roomy => ?_, fun q hq _ => ?_⟩
    · obtain rfl := Option.some.inj (reserved.symm.trans hq)
      exact absurd roomy full
    · obtain rfl := Option.some.inj (reserved.symm.trans hq)
      exact ⟨room, sooner⟩

/-! ## Records on their way (R347) -/

/-- The record that a message carries to a cluster. -/
def Msg.carries (m : Msg) (g : Nat) : Option Task := if m.stage == .toOwner then m.rec_.filter fun t => recClu t.rec_ == g else none

/-- The oldest message with a record for a cluster, at its place in the mesh. -/
theorem takeRecord_eq (s : State) (g : Nat) : s.takeRecord g =
    match s.mesh.zipIdx.findSome? fun p => (p.1.carries g).map fun t => (p.2, p.1, t) with
    | none => s
    | some (k, m, t) => ((s.countRecv m.dst m.lid).enqueue t).1.putMsg k (m.answer 0 (BitVec.ofNat 64 ((s.countRecv m.dst m.lid).enqueue t).2)) := by
  have same : (fun p : Msg × Nat => if p.1.stage == .toOwner then (p.1.rec_.filter fun t => recClu t.rec_ == g).map fun t => (p.2, p.1, t) else none) =
      fun p => (p.1.carries g).map fun t => (p.2, p.1, t) := by
    funext p
    unfold Msg.carries
    split
    · rfl
    · rfl
  unfold State.takeRecord
  rw [same]
  rfl

theorem Msg.carries_none {m : Msg} (h : m.rec_ = none) (g : Nat) : m.carries g = none := by simp [Msg.carries, h]

theorem takeRecord_none {s : State} {g : Nat} (h : ∀ m ∈ s.mesh, m.carries g = none) : s.takeRecord g = s := by
  rw [takeRecord_eq, List.findSome?_eq_none_iff.2 fun p hp => ?_]
  rw [h p.1 (List.fst_mem_of_mem_zipIdx hp)]
  rfl

/-- The one record on its way is taken. -/
theorem takeRecord_only {s : State} {g n : Nat} {m : Msg} {x : Task} (there : s.mesh[n]? = some m) (record : m.carries g = some x)
    (only : ∀ (i : Nat) (q : Msg), s.mesh[i]? = some q → i ≠ n → q.rec_ = none) : s.takeRecord g =
      ((s.countRecv m.dst m.lid).enqueue x).1.putMsg n (m.answer 0 (BitVec.ofNat 64 ((s.countRecv m.dst m.lid).enqueue x).2)) := by
  have found : (s.mesh.zipIdx.findSome? fun p => (p.1.carries g).map fun t => (p.2, p.1, t)) = some (n, m, x) := by
    have any : (s.mesh.zipIdx.findSome? fun p => (p.1.carries g).map fun t => (p.2, p.1, t)).isSome :=
      List.findSome?_isSome_iff.2 ⟨(m, n), List.mem_zipIdx_iff_getElem?.2 there, by simp [record]⟩
    obtain ⟨v, hv⟩ := Option.isSome_iff_exists.1 any
    obtain ⟨⟨q, i⟩, mem, carried⟩ := List.exists_of_findSome?_eq_some hv
    have at_ : s.mesh[i]? = some q := List.mem_zipIdx_iff_getElem?.1 mem
    by_cases e : i = n
    · subst e
      obtain rfl : m = q := Option.some.inj (there.symm.trans at_)
      rw [hv, ← carried, record]
      rfl
    · rw [Msg.carries_none (only i q at_ e)] at carried
      cases carried
  rw [takeRecord_eq, found]

/-! ### The enqueue of a record leaves the mesh (R208, R209) -/

theorem Reading.spmRead (s : State) (w : Who) (c b n : Nat) : Reading s (s.spmRead w c b n).1 := by
  have word {t : State} (ht : Reading s t) (x : Nat) : Reading s (t.readSpmWord w c x).1 := by
    have fired := ht.ite (c := (t.injected.filter fun e => e.2.1 == spmKey c x).isEmpty) (ht.fire (spmKey c x))
    exact (fired.logError ..).fstIte ((fired.logError ..).fstIte fired)
  exact List.foldlRecOn (motive := fun r : State × Bool => Reading s r.1) (spmWords b n) _ (Reading.refl s) fun r hr x _ => word hr x

theorem noteNow_mesh (s : State) (t : Task) (w : Nat) : (s.noteNow t w).1.mesh = s.mesh := by
  have read (who : Who) (c b : Nat) : (s.barLook who c b).1.mesh = s.mesh := (Reading.spmRead s who c (barByte b) 16).mesh
  unfold State.noteNow
  split
  · rfl
  · dsimp only
    split
    next e => exact (congrArg (fun r => r.1.mesh) e).symm.trans (read ..)
    next e => exact (congrArg (fun r => r.1.mesh) e).symm.trans (read ..)

theorem enqueue_mesh (s : State) (t : Task) : (s.enqueue t).1.mesh = s.mesh := by
  unfold State.enqueue
  dsimp only
  split
  · rfl
  · refine ((Aside.refl _).orderTasks _).1.trans ?_
    exact (noteNow_mesh ..).trans (noteNow_mesh ..)

/-- A record that has come is taken before the scheduler's step of the same event. -/
theorem admission_record {s y : State} {g n st : Nat} {m : Msg} {x : Task} (there : s.mesh[n]? = some m) (arrived : m.stage = .toOwner)
    (record : m.rec_ = some x) (here : recClu x.rec_ = g) (only : ∀ (i : Nat) (q : Msg), s.mesh[i]? = some q → i ≠ n → q.rec_ = none)
    (taken : (s.countRecv m.dst m.lid).enqueue x = (y, st)) :
    exec (.admission g) s = exec (.admission g) { y with
      mesh := y.mesh.set n { m with stage := .replied, status := 0, cause := none, result := BitVec.ofNat 64 st } } := by
  have mesh : y.mesh = s.mesh := by
    have kept := enqueue_mesh (s.countRecv m.dst m.lid) x
    rw [taken] at kept
    exact kept
  have carries : m.carries g = some x := by simp [Msg.carries, arrived, record, here]
  have first := takeRecord_only (g := g) there carries only
  rw [taken] at first
  have second : State.takeRecord { y with
      mesh := y.mesh.set n { m with stage := .replied, status := 0, cause := none, result := BitVec.ofNat 64 st } } g = { y with
        mesh := y.mesh.set n { m with stage := .replied, status := 0, cause := none, result := BitVec.ofNat 64 st } } := by
    refine takeRecord_none fun q hq => ?_
    obtain ⟨i, hi⟩ := List.mem_iff_getElem?.1 hq
    dsimp only at hi
    rw [List.getElem?_set, mesh] at hi
    split at hi
    · split at hi
      · obtain rfl := Option.some.inj hi
        rfl
      · cases hi
    next other => exact Msg.carries_none (only i q hi (Ne.symm other)) g
  rw [exec_admission, exec_admission, execAdmission, execAdmission, State.admitNext, State.admitNext, first, second]
  rfl

/-! ## A step of the scheduler (R210, R211, R213, R417) -/

theorem State.clusterAt_onCluster (s : State) (g h : Nat) (f : Cluster → Cluster) :
    (s.onCluster g f).clusterAt h = if h = g then f (s.clusterAt g) else s.clusterAt h := by
  by_cases e : h = g
  · subst e; simp
  · rw [if_neg e, s.clusterAt_onCluster_other e]

section
variable {s : State} {g : Nat} (still : ∀ m ∈ s.mesh, m.rec_ = none)
include still

theorem takeRecord_still : s.takeRecord g = s := takeRecord_none fun m hm => Msg.carries_none (still m hm) g

theorem admission_doomed (doomed : (s.clusterAt g).queue.any (s.doomedTask g) = true) : exec (.admission g) s = .next (s.failDoomed g) := by
  rw [exec_admission, execAdmission, State.admitNext, takeRecord_still still]
  exact congrArg Host.Outcome.next (if_pos doomed)

variable (alive : ∀ x ∈ (s.clusterAt g).queue, s.doomedTask g x = false)
include alive

theorem admission_none (none : s.chosen g = none) :
    exec (.admission g) s = .next (s.onCluster g fun k => { k with reserve := (s.reserved g).map Item.name }) := by
  have undoomed : ¬ (s.clusterAt g).queue.any (s.doomedTask g) = true := by simpa using alive
  rw [exec_admission, execAdmission, State.admitNext, takeRecord_still still]
  dsimp only
  rw [if_neg undoomed, none]

/-- An item that is chosen may hold the reservation, and is given what it asks for. -/
theorem admission_some {i : Item} (chosen : s.chosen g = some i) : ∃ hold, exec (.admission g) s = .next (match i with
    | .task t => (s.onCluster g fun k => { k with reserve := hold }).startTask g t
    | .leave r => (s.onCluster g fun k => { k with reserve := hold }).grantLeave g r) := by
  have undoomed : ¬ (s.clusterAt g).queue.any (s.doomedTask g) = true := by simpa using alive
  rw [exec_admission, execAdmission, State.admitNext, takeRecord_still still]
  dsimp only
  rw [if_neg undoomed, chosen]
  cases i with
  | task t => exact ⟨_, rfl⟩
  | leave r => exact ⟨_, rfl⟩

end

@[simp] theorem State.clusterAt_onCore (s : State) (c g : Nat) (f : Core → Core) : (s.onCore c f).clusterAt g = s.clusterAt g := rfl

/-- A leave is granted: it enters the charge and leaves the requests. -/
theorem clusterAt_grantLeave (s : State) (g : Nat) (r : LeaveReq) : (s.grantLeave g r).clusterAt g = { s.clusterAt g with
    charge := (s.clusterAt g).charge + r.energy, leaves := (s.clusterAt g).leaves.filter fun q => q.order != r.order
    dues := ((s.grantLeave g r).clusterAt g).dues } := by
  simp [State.grantLeave, State.due]

/-- A leave is granted: it replaces its strand's. -/
theorem leaves_grantLeave (s : State) (g : Nat) (r : LeaveReq) : ((s.grantLeave g r).coreAt r.core).leaves =
    ((s.coreAt r.core).leaves.filter fun l => l.owner != r.owner) ++ [Leave.mk r.owner r.energy r.current] := by
  simp [State.grantLeave, State.due, Core.endLeave]

theorem admission_leave {s : State} {g : Nat} {r : LeaveReq} (still : ∀ m ∈ s.mesh, m.rec_ = none)
    (alive : ∀ x ∈ (s.clusterAt g).queue, s.doomedTask g x = false) (chosen : s.chosen g = some (.leave r)) :
    ∃ t, exec (.admission g) s = .next t ∧ t.mem = s.mem ∧ t.spm = s.spm ∧ (t.clusterAt g).charge = (s.clusterAt g).charge + r.energy ∧
      (t.clusterAt g).leaves = (s.clusterAt g).leaves.filter (fun q => q.order != r.order) ∧ (t.clusterAt g).queue = (s.clusterAt g).queue ∧
      (t.clusterAt g).running = (s.clusterAt g).running ∧
      (t.coreAt r.core).leaves = ((s.coreAt r.core).leaves.filter fun l => l.owner != r.owner) ++ [Leave.mk r.owner r.energy r.current] := by
  obtain ⟨hold, grants⟩ := admission_some still alive chosen
  refine ⟨_, grants, rfl, rfl, ?_, ?_, ?_, ?_, leaves_grantLeave ..⟩
  all_goals rw [clusterAt_grantLeave, State.clusterAt_onCluster_self]

/-- The scheduler gives a task to its engine: it leaves the queue and enters the charge. -/
structure Started (s y : State) (g c : Nat) (x : Task) : Prop where
  device  : y = { s with clusters := y.clusters }
  others  : ∀ h, h ≠ g → y.clusterAt h = s.clusterAt h
  charge  : (y.clusterAt g).charge = (s.clusterAt g).charge + recEnj x.rec_
  queue   : (y.clusterAt g).queue = (s.clusterAt g).queue.filter fun q => q.num != x.num
  leaves  : (y.clusterAt g).leaves = (s.clusterAt g).leaves
  running : (y.clusterAt g).running = (s.clusterAt g).running ++ [Running.mk x c (recIpk x.rec_) false [] none none]

theorem startTask_started {s : State} {g c : Nat} {x : Task} (engine : s.engineFor g x = some c) :
    ∃ y, Started s y g c x ∧ s.startTask g x = if x.audit.isSome then y else y.beginTask g c x := by
  rw [State.startTask, engine]
  refine ⟨_, ⟨rfl, fun h e => ?_, ?_, ?_, ?_, ?_⟩, rfl⟩
  · simp [State.due, State.clusterAt_onCluster_other _ e]
  all_goals simp [State.due]

/-- The engine a task is given does not depend on the reservation. -/
theorem engineFor_reserve (s : State) (g h : Nat) (hold : Option (Bool × Nat)) (x : Task) :
    (s.onCluster g fun k => { k with reserve := hold }).engineFor h x = s.engineFor h x := by
  have running (i : Nat) : ((s.onCluster g fun k => { k with reserve := hold }).clusterAt i).running = (s.clusterAt i).running := by
    rw [State.clusterAt_onCluster]
    split
    next e => rw [e]
    · rfl
  have free : (s.onCluster g fun k => { k with reserve := hold }).engineFree = s.engineFree := by
    funext c
    simp only [State.engineFree, running, State.coreAt_onCluster]
  simp only [State.engineFor, free, State.coreAt_onCluster]

theorem Started.of_reserve {s y : State} {g c : Nat} {x : Task} {hold : Option (Bool × Nat)}
    (h : Started (s.onCluster g fun k => { k with reserve := hold }) y g c x) : Started s y g c x where
  device := h.device
  others i e := (h.others i e).trans (s.clusterAt_onCluster_other e _)
  charge := by rw [h.charge, State.clusterAt_onCluster_self]
  queue := by rw [h.queue, State.clusterAt_onCluster_self]
  leaves := by rw [h.leaves, State.clusterAt_onCluster_self]
  running := by rw [h.running, State.clusterAt_onCluster_self]

/-! ## The beginning of a task (R99, R163, R209, R213, R214) -/

/-- How a task issues to its engine, by its form. -/
theorem issueTask_issues (y : State) (g c : Nat) (x : Task) : TaskIssues y g c x (y.issueTask g c x) where
  failed bad := by
    rw [State.issueTask]
    exact if_pos (Option.isSome_iff_ne_none.2 bad)
  mma sound z m w f form started := by
    rw [State.issueTask, sound]
    dsimp only [Option.isSome]
    rw [if_neg Bool.false_ne_true, form]
    dsimp only
    rw [started]
    cases f with
    | none => exact ⟨fun _ => rfl, fun h => absurd rfl h⟩
    | some f => exact ⟨fun h => (by cases h), fun _ => rfl⟩
  bld sound form := by
    rw [State.issueTask, sound]
    dsimp only [Option.isSome]
    rw [if_neg Bool.false_ne_true, form]
    dsimp only
    exact ⟨fun f failed => by rw [failed], fun l captured => by rw [captured]⟩
  other sound f form plain bld := by
    rw [State.issueTask, sound]
    dsimp only [Option.isSome]
    rw [if_neg Bool.false_ne_true, form]
    cases f with
    | mma z m => cases plain
    | bld => exact absurd rfl bld
    | _ => rfl

theorem beginTask_behind {s : State} {c : Nat} {x : Task} (behind : s.taskBehind c x = true) (g : Nat) : s.beginTask g c x = s := by
  rw [State.beginTask, if_pos behind]

theorem beginTask_issues {s : State} {c : Nat} {x : Task} (clear : s.taskBehind c x = false) (g : Nat) :
    TaskIssues (s.onRunning g x.num fun r => { r with begun := true }) g c x (s.beginTask g c x) := by
  rw [State.beginTask, if_neg (by simp [clear])]
  exact issueTask_issues ..

theorem admission_task {s : State} {g c : Nat} {x : Task} (still : ∀ m ∈ s.mesh, m.rec_ = none)
    (alive : ∀ x ∈ (s.clusterAt g).queue, s.doomedTask g x = false) (chosen : s.chosen g = some (.task x)) (engine : s.engineFor g x = some c) :
    ∃ y, Started s y g c x ∧ (x.audit ≠ none ∨ y.taskBehind c x = true → exec (.admission g) s = .next y) ∧
      (x.audit = none → y.taskBehind c x = false → ∃ t, exec (.admission g) s = .next t ∧
        TaskIssues (y.onRunning g x.num fun r => { r with begun := true }) g c x t) := by
  obtain ⟨hold, starts⟩ := admission_some still alive chosen
  obtain ⟨y, started, run⟩ := startTask_started ((engineFor_reserve s g g hold x).trans engine)
  dsimp only at starts
  rw [run] at starts
  refine ⟨y, started.of_reserve, fun waits => ?_, fun own clear => ⟨y.beginTask g c x, ?_, beginTask_issues clear g⟩⟩
  · by_cases own : x.audit = none
    · rw [starts, beginTask_behind (waits.resolve_left fun h => h own), ite_self]
    · rw [starts, if_pos (Option.isSome_iff_ne_none.2 own)]
  · rw [starts, own]
    rfl

/-! ## The end of a task (R152, R213) -/

theorem bitAt_eq_testBit (n i : Nat) : bitAt n i = n.testBit i := by
  rw [Nat.testBit_eq_decide_div_mod_eq]
  rfl

/-- A task that leaves its engine leaves its cluster's list. -/
theorem running_dropTask (s : State) (g c : Nat) (x : Task) : ((s.dropTask g c x).clusterAt g).running = othersRunning s g x := by
  simp [State.dropTask, othersRunning]

theorem clusterAt_dropTask (s : State) (g c h : Nat) (x : Task) :
    (s.dropTask g c x).clusterAt h = if h = g then { s.clusterAt g with running := othersRunning s g x } else s.clusterAt h := by
  simp only [State.dropTask, State.clusterAt_onCore, State.clusterAt_onCluster]
  rfl

theorem tileAt_dropTask (s : State) (g c d n : Nat) (x : Task) : (s.dropTask g c x).tileAt d n = s.tileAt d n := by
  by_cases e : d = c
  · subst e; simp [State.dropTask, State.tileAt]
  · simp [State.dropTask, State.tileAt, State.coreAt_onCore_other _ e]

theorem logError_logged (s : State) {sev : Nat} (h : sev ≠ 0) (c array cause addr syn : Nat) (w : Who) (inj : Bool) :
    Logged s (s.logError c array sev cause addr syn w inj) := by
  unfold State.logError
  dsimp only
  rw [if_neg h]
  rfl

theorem Noted.tileAt {s t : State} (h : Noted s t) (c n : Nat) : t.tileAt c n = s.tileAt c n := by
  rw [State.tileAt, h.core c]
  rfl

theorem Noted.clusterAt {s t : State} (h : Noted s t) (g : Nat) : t.clusterAt g = s.clusterAt g := by
  rw [h.device]
  rfl

section
variable {x : Task} (sound : x.bad = none) (s : State) (c : Nat)
include sound

/-- SIG has its arrival, after the failure if there is one. -/
theorem signalTask_arrives (h : (recWord x.rec_ 0x30).testBit 31 = true) : s.signalTask c x none =
    s.barSend c x.id.lid (recWord x.rec_ 0x30 / 2 ^ 6 % 2 ^ 10) (recWord x.rec_ 0x30 % 2 ^ 6) .arrive := by
  rw [← bitAt_eq_testBit] at h
  simp [State.signalTask, sound, h, bitsOf]

theorem signalTask_fails (h : (recWord x.rec_ 0x30).testBit 31 = true) (cause : Cause) (a : Word) : s.signalTask c x (some (cause, a)) =
    (s.barSend c x.id.lid (recWord x.rec_ 0x30 / 2 ^ 6 % 2 ^ 10) (recWord x.rec_ 0x30 % 2 ^ 6) (.fail cause.code c a.toNat 0)).barSend c x.id.lid
      (recWord x.rec_ 0x30 / 2 ^ 6 % 2 ^ 10) (recWord x.rec_ 0x30 % 2 ^ 6) .arrive := by
  rw [← bitAt_eq_testBit] at h
  simp [State.signalTask, sound, h, bitsOf]

/-- Without SIG a success is silent, and a failure is only logged. -/
theorem signalTask_silent (h : (recWord x.rec_ 0x30).testBit 31 = false) : s.signalTask c x none = s := by
  rw [← bitAt_eq_testBit] at h
  simp [State.signalTask, sound, h]

theorem signalTask_logs (h : (recWord x.rec_ 0x30).testBit 31 = false) (f : Cause × Word) :
    s.signalTask c x (some f) = s.logError c 4 1 f.1.code f.2.toNat 0 (x.ctx c).who false := by
  rw [← bitAt_eq_testBit] at h
  simp [State.signalTask, sound, h]

theorem signalTask_unsignalled (h : (recWord x.rec_ 0x30).testBit 31 = false) (f : Option (Cause × Word)) :
    Noted s (s.signalTask c x f) ∧ (f = none → (s.signalTask c x f).quince = s.quince) ∧ (f ≠ none → Logged s (s.signalTask c x f)) := by
  cases f with
  | none =>
    rw [signalTask_silent sound s c h]
    exact ⟨.refl s, fun _ => rfl, fun h => absurd rfl h⟩
  | some f =>
    rw [signalTask_logs sound s c h]
    exact ⟨.logError .., fun h => (by cases h), fun _ => logError_logged s (by decide) ..⟩

end

/-- An outcome in which a task has ended, in success or with a failure, from a state: it has left its engine, and arrives on SIG, or applies its
failure first, or logs it without SIG. -/
def TaskEnded (o : Out) (y : State) (g c : Nat) (x : Task) (f : Option (Cause × Word)) : Prop :=
  let sig := recWord x.rec_ 0x30
  let h := sig / 2 ^ 6 % 2 ^ 10
  let b := sig % 2 ^ 6
  (sig.testBit 31 = true → f = none → o = .next ((y.dropTask g c x).barSend c x.id.lid h b .arrive)) ∧
  (sig.testBit 31 = true → ∀ cause a, f = some (cause, a) →
    o = .next (((y.dropTask g c x).barSend c x.id.lid h b (.fail cause.code c a.toNat 0)).barSend c x.id.lid h b .arrive)) ∧
  (sig.testBit 31 = false → ∃ t, o = .next t ∧ t.mem = y.mem ∧ t.spm = y.spm ∧ (t.clusterAt g).running = othersRunning y g x ∧
    (∀ n, t.tileAt c n = y.tileAt c n) ∧ (f = none → t.quince = y.quince) ∧ (f ≠ none → Logged y t))

theorem endTask_ended {x : Task} (sound : x.bad = none) {o : Out} {y : State} {g c : Nat} {f : Option (Cause × Word)} (h : o = .next (y.endTask g c x f)) :
    TaskEnded o y g c x f := by
  subst h
  refine ⟨fun sig none => ?_, fun sig cause a some => ?_, fun unsignalled => ?_⟩
  · rw [none, State.endTask, signalTask_arrives sound _ _ sig]
  · rw [some, State.endTask, signalTask_fails sound _ _ sig]
  · obtain ⟨noted, silent, logged⟩ := signalTask_unsignalled sound (y.dropTask g c x) c unsignalled f
    refine ⟨_, rfl, noted.mem, noted.spm, ?_, fun n => (noted.tileAt c n).trans (tileAt_dropTask ..), silent, logged⟩
    rw [State.endTask, noted.clusterAt, running_dropTask]

/-- A queued task of which every allowed core is killed fails with REFUSED (R417). -/
theorem failDoomed_first {s : State} {g : Nat} {x : Task} {l : List Task} (queue : (s.clusterAt g).queue = x :: l) (doomed : s.doomedTask g x = true)
    (own : x.audit = none) : s.failDoomed g =
      (s.onCluster g fun k => { k with queue := k.queue.filter fun q => q.num != x.num }).signalTask ((x.engines g).headD 0) x (some (.refused, 0)) := by
  have first : (s.clusterAt g).queue.find? (fun t => s.doomedTask g t) = some x := by rw [queue, List.find?_cons_of_pos doomed]
  simp only [State.failDoomed, first, own, Option.bind_none]

theorem admission_fails {s : State} {g : Nat} {x : Task} {l : List Task} (still : ∀ m ∈ s.mesh, m.rec_ = none) (queue : (s.clusterAt g).queue = x :: l)
    (doomed : s.doomedTask g x = true) (own : x.audit = none) (sound : x.bad = none) (unsignalled : recWord x.rec_ 0x30 < 2 ^ 31) :
    ∃ t, exec (.admission g) s = .next t ∧ (t.clusterAt g).queue = l.filter (fun q => q.num != x.num) ∧
      (t.clusterAt g).running = (s.clusterAt g).running ∧ t.mem = s.mem ∧ t.spm = s.spm ∧ Logged s t := by
  obtain ⟨noted, -, logged⟩ := signalTask_unsignalled sound (s.onCluster g fun k => { k with queue := k.queue.filter fun q => q.num != x.num })
    ((x.engines g).headD 0) (Nat.testBit_lt_two_pow unsignalled) (some (.refused, 0))
  refine ⟨_, admission_doomed still (by simp [queue, doomed]), ?_⟩
  rw [failDoomed_first queue doomed own]
  refine ⟨?_, ?_, noted.mem, noted.spm, logged (by simp)⟩
  · rw [noted.clusterAt, State.clusterAt_onCluster_self, queue]
    simp
  · rw [noted.clusterAt, State.clusterAt_onCluster_self]

/-! ## The task on an engine (R142, R201, R213, R348) -/

theorem completeTask_nobody {s : State} {c : Nat} (h : ∀ r ∈ (s.clusterAt (clusterOf c)).running, r.core = c → r.task.audit ≠ none) :
    exec (.tileTaskCompletion c) s = .next s := by
  have nobody : (s.clusterAt (clusterOf c)).running.find? (fun r => r.core == c && r.task.audit.isNone) = none :=
    List.find?_eq_none.2 fun r hr => by simpa using h r hr
  simp only [exec_tileTaskCompletion, execTileTaskCompletion, State.completeTask, nobody]

section
variable {s : State} {c : Nat} {r : Running} (runs : RunsTask s c r)
include runs

theorem completeTask_killed (killed : (s.coreAt c).killed = true) :
    exec (.tileTaskCompletion c) s = .next (s.endTask (clusterOf c) c r.task (some (.refused, 0))) := by
  have found : (s.clusterAt (clusterOf c)).running.find? _ = some r := runs
  simp only [exec_tileTaskCompletion, execTileTaskCompletion, State.completeTask, found, killed, if_true]

variable (alive : (s.coreAt c).killed = false)
include alive

theorem completeTask_begins (waits : r.begun = false) : exec (.tileTaskCompletion c) s = .next (s.beginTask (clusterOf c) c r.task) := by
  have found : (s.clusterAt (clusterOf c)).running.find? _ = some r := runs
  simp [exec_tileTaskCompletion, execTileTaskCompletion, State.completeTask, found, alive, waits]

variable (begun : r.begun = true)
include begun

theorem completeTask_form {f : TaskForm} (form : (recCmd r.task.rec_).form = some f) (plain : f.isMma = false) (beats : f ≠ .tld) :
    exec (.tileTaskCompletion c) s = .next ((s.taskForm c r.task (recCmd r.task.rec_) f r.lut).1.endTask (clusterOf c) c r.task
      (s.taskForm c r.task (recCmd r.task.rec_) f r.lut).2) := by
  have found : (s.clusterAt (clusterOf c)).running.find? _ = some r := runs
  cases f with
  | mma z m => cases plain
  | tld => exact absurd rfl beats
  | _ => simp only [exec_tileTaskCompletion, execTileTaskCompletion, State.completeTask, found, alive, begun, form, Bool.not_true, Bool.false_eq_true, if_false]

theorem completeTask_tld_ends (form : (recCmd r.task.rec_).form = some .tld) {y : State} {f : Option (Cause × Word)}
    (step : s.stepTld r (recCmd r.task.rec_) = (y, some f)) : exec (.tileTaskCompletion c) s = .next (y.endTask (clusterOf c) c r.task f) := by
  have found : (s.clusterAt (clusterOf c)).running.find? _ = some r := runs
  simp only [exec_tileTaskCompletion, execTileTaskCompletion, State.completeTask, found, alive, begun, form, step, Bool.not_true, Bool.false_eq_true,
    if_false]

theorem completeTask_tld_goesOn (form : (recCmd r.task.rec_).form = some .tld) {y : State} (step : s.stepTld r (recCmd r.task.rec_) = (y, none)) :
    exec (.tileTaskCompletion c) s = .next y := by
  have found : (s.clusterAt (clusterOf c)).running.find? _ = some r := runs
  simp only [exec_tileTaskCompletion, execTileTaskCompletion, State.completeTask, found, alive, begun, form, step, Bool.not_true, Bool.false_eq_true,
    if_false]

variable {zero fromTile : Bool} (form : (recCmd r.task.rec_).form = some (.mma zero fromTile))
include form

theorem completeTask_mma_idle (idle : (s.coreAt c).runningOp = none) : exec (.tileTaskCompletion c) s = .next s := by
  have found : (s.clusterAt (clusterOf c)).running.find? _ = some r := runs
  simp only [exec_tileTaskCompletion, execTileTaskCompletion, State.completeTask, found, alive, begun, form, idle, Bool.not_true, Bool.false_eq_true,
    if_false]

theorem completeTask_mma_runs {o : MmaOp} (op : (s.coreAt c).runningOp = some o) : exec (.tileTaskCompletion c) s =
    .next (if s.now < o.started + o.cycles then s else s.finishMma (clusterOf c) c r.task o) := by
  have found : (s.clusterAt (clusterOf c)).running.find? _ = some r := runs
  simp only [exec_tileTaskCompletion, execTileTaskCompletion, State.completeTask, found, alive, begun, form, op, Bool.not_true, Bool.false_eq_true,
    if_false]

end

theorem runsTask_core {s : State} {c : Nat} {r : Running} (runs : RunsTask s c r) : r.core = c := by
  have accepted := List.find?_some runs
  simp only [Bool.and_eq_true, beq_iff_eq] at accepted
  exact accepted.1

theorem runningOp_of_head {k : Core} {o : MmaOp} {l : List MmaOp} (queue : k.engine.queue = o :: l) (thawed : k.engine.frozen = false) :
    k.runningOp = some o := by
  simp [Core.runningOp, queue, thawed]

theorem runningOp_idle {k : Core} (h : k.engine.frozen = true ∨ k.engine.queue = []) : k.runningOp = none := by
  obtain h | h := h
  · simp [Core.runningOp, h]
  · simp [Core.runningOp, h]

/-! ### `tld` as a task (R139, R142) -/

section
variable {s : State} {r : Running} {m : Cmd} {q : TldRun}

theorem stepTld_stopped (run : r.tld = some q) (stopped : q.stopped = true) : s.stepTld r m =
    (s.onCore r.core fun k => { k with vevt := bump k.vevt 16 8 1 }, some (some (.tldtherm, r.task.opd m.ra))) := by
  simp [State.stepTld, run, stopped]

theorem stepTld_early (run : r.tld = some q) (goes : q.stopped = false) (early : s.now < q.from_) : s.stepTld r m = (s, none) := by
  simp [State.stepTld, run, goes, early]

theorem stepTld_refused {y : State} {f : Cause × Word} (fresh : r.tld = none) (refused : s.tldRefused r.core r.task m = (y, some f)) :
    s.stepTld r m = (y, some (some f)) := by
  simp [State.stepTld, fresh, refused]

end

/-! ### The end of an MMA task (R201, R213) -/

section
variable {s y : State} {g c : Nat} {x : Task} {o p : MmaOp} (undue : s.auditDue g = false)

theorem finishMma_failed {f : Cause × Word} (product : s.product c o true = (y, p, some f)) : s.finishMma g c x o = y.endTask g c x (some f) := by
  simp [State.finishMma, product, andThen]

include undue

theorem finishMma_unwritten (product : s.product c o true = (y, p, none)) (nowhere : x.opd 2 = 0) :
    s.finishMma g c x o = (y.onCluster g fun k => { k with finished := k.finished + 1 }).endTask g c x none := by
  simp [State.finishMma, product, andThen, undue, nowhere]

theorem finishMma_written {w : State} (product : s.product c o true = (y, p, none)) (somewhere : x.opd 2 ≠ 0)
    (written : (y.chargeGranules c x.acct 4608).writeSpan (x.ctx c) (x.opd 2) (y.tileAt c o.td).image = (w, none)) :
    s.finishMma g c x o = (w.onCluster g fun k => { k with finished := k.finished + 1 }).endTask g c x none := by
  simp only [State.finishMma, product, andThen, undue, if_neg somewhere, written, Bool.not_false, if_true]

end

theorem opd_eq_zero (x : Task) (n : Nat) : x.opd n = 0 ↔ recOpd x.rec_ n % 2 ^ 48 = 0 := by
  rw [Task.opd, ← BitVec.toNat_inj, BitVec.toNat_ofNat]
  rfl

/-! ## The replay auditor (R412 to R414) -/

/-- Writes of vault space may change what its reads may, memory, and which granules are bad; nothing else. -/
def Writing (s t : State) : Prop :=
  t = { s with cores := t.cores, quince := t.quince, injected := t.injected, mem := t.mem, badGran := t.badGran }

namespace Writing

theorem refl (s : State) : Writing s s := rfl

theorem of_reading {s t : State} (h : Reading s t) : Writing s t := by
  rw [Reading] at h
  rw [Writing, h]

variable {s t u : State} (h : Writing s t)
include h

theorem trans (k : Writing t u) : Writing s u := by
  rw [Writing] at h k ⊢
  rw [k, h]

theorem withMem (m : Memory) (l : List Nat) : Writing s { t with mem := m, badGran := l } := h.trans rfl

theorem read (k : Reading t u) : Writing s u := h.trans (of_reading k)

theorem clusterAt (g : Nat) : t.clusterAt g = s.clusterAt g := by
  rw [Writing] at h
  rw [h]
  rfl

theorem audc : t.audc = s.audc := by
  rw [Writing] at h
  rw [h]

theorem audb : t.audb = s.audb := by
  rw [Writing] at h
  rw [h]

theorem writeGranule (w : Who) (a : Nat) (bs : List Byte) : Writing s (t.writeGranule w a bs).1 := by
  have read := h.read ((Reading.refl t).readGranule w (a / 32))
  unfold State.writeGranule
  dsimp only
  split
  · exact h
  · split
    · exact (h.read ((Reading.refl t).openRow a)).withMem ..
    · split
      · exact read.withMem _ _
      · exact read

theorem vaultWrite (w : Who) (a : Nat) (bs : List Byte) : Writing s (t.vaultWrite w a bs).1 := by
  have written : Writing s ((splitGranules (bs.length / 32 + 2) a bs).foldl (fun (acc : State × Nat) p =>
      let t := acc.1.writeGranule w p.1 p.2; (t.1, if acc.2 = 0 then t.2 else acc.2)) (t, 0)).1 :=
    List.foldlRecOn (motive := fun r : State × Nat => Writing s r.1) _ _ h fun _ hr p _ => hr.writeGranule w p.1 p.2
  exact written.read ((Reading.refl _).countLost _ _)

end Writing

/-! ### The count of mismatches, in AUDC (R412) -/

theorem toNat_bump_mismatches (v : BitVec 64) : (bump v 32 16 1).toNat =
    v.toNat - v.toNat / 2 ^ 32 % 2 ^ 16 * 2 ^ 32 + min 0xFFFF (v.toNat / 2 ^ 32 % 2 ^ 16 + 1) * 2 ^ 32 := by
  have := v.isLt
  simp only [bump, setField, BitVec.toNat_ofNat]
  omega

theorem mismatches_bump (v : BitVec 64) : (bump v 32 16 1).toNat / 2 ^ 32 % 2 ^ 16 = min 0xFFFF (v.toNat / 2 ^ 32 % 2 ^ 16 + 1) := by
  have := v.isLt
  rw [toNat_bump_mismatches]
  omega

theorem bitAt_bump_mismatches (v : BitVec 64) : bitAt (bump v 32 16 1).toNat 6 = bitAt v.toNat 6 := by
  have : (bump v 32 16 1).toNat / 2 ^ 6 % 2 = v.toNat / 2 ^ 6 % 2 := by
    have := v.isLt
    rw [toNat_bump_mismatches]
    omega
  simp only [bitAt, this]

theorem wrap_natCast (n : Nat) : wrap n = BitVec.ofNat 48 n := BitVec.ofInt_natCast 48 n

theorem clusterAt_congr {s t : State} (h : t.clusters = s.clusters) (g : Nat) : t.clusterAt g = s.clusterAt g := by
  simp only [State.clusterAt, h]

theorem auditSlot_congr {s t : State} (h : t.audb = s.audb) (g : Nat) : t.auditSlot g = s.auditSlot g := by
  simp only [State.auditSlot, h]

/-- A mismatch counts, is logged, and raises AUDIT for the cluster; without AUDC bit 6 it kills no core. -/
theorem auditMismatch_raises {s : State} (mild : s.audc.getLsbD 6 = false) (g c : Nat) : ∃ t, s.auditMismatch g c = t ∧
    t.mem = s.mem ∧ t.audc = bump s.audc 32 16 1 ∧ Logged s t ∧
      ∀ h, t.clusterAt h = if h = g then { s.clusterAt g with raised := some (wrap (s.auditSlot g)) } else s.clusterAt h := by
  unfold State.auditMismatch
  extract_lets counted logged raised
  have noted : Noted counted logged := .logError ..
  have log : Logged counted logged := logError_logged _ (by decide) ..
  have raises : raised = logged.onCluster g fun k => { k with raised := some (BitVec.ofNat 48 (logged.auditSlot g)) } := rfl
  clear_value raised logged
  have audc : raised.audc = bump s.audc 32 16 1 := by rw [raises]; exact congrArg State.audc noted.device
  have slot : logged.auditSlot g = s.auditSlot g := auditSlot_congr (congrArg State.audb noted.device) g
  have clusters (i : Nat) : logged.clusterAt i = s.clusterAt i := clusterAt_congr (congrArg State.clusters noted.device) i
  refine ⟨raised, if_neg ?_, ?_, audc, ?_, fun h => ?_⟩
  · rw [audc, bitAt_bump_mismatches, bitAt_toNat, mild]
    exact Bool.false_ne_true
  · rw [raises]; exact noted.mem
  · rw [raises]; exact log
  · rw [raises, State.clusterAt_onCluster, clusters, clusters, slot, wrap_natCast]

theorem auditReplay_none {s : State} {g : Nat} (idle : (s.clusterAt g).audit = none) : exec (.auditReplay g) s = .next s := by
  simp only [exec_auditReplay, execAuditReplay, State.finishReplay, idle]

section
variable {s : State} {g c h : Nat} (auditing : (s.clusterAt g).audit = some (c, h))
include auditing

theorem auditReplay_waits (none : ∀ r ∈ (s.clusterAt h).running, r.task.audit ≠ some g) : exec (.auditReplay g) s = .next s := by
  have nobody : (s.clusterAt h).running.find? (fun r => r.task.audit == some g) = Option.none :=
    List.find?_eq_none.2 fun r hr => by simpa using none r hr
  simp only [exec_auditReplay, execAuditReplay, State.finishReplay, auditing, nobody]

variable {r : Running} (replay : (s.clusterAt h).running.find? (fun r => r.task.audit == some g) = some r) {z : State} {n : Nat} {bs : List Byte}
  (read : s.vaultRead (r.task.ctx r.core).who (s.auditSlot g) 0x20000 = (z, n, bs))
  {y : State} (write : z.auditWrite g r.core 0x18000 (replayTile bs).image = y)
include replay read write

theorem auditReplay_matched (agrees : n = 0 ∧ (replayTile bs).signature = leNat ((bs.drop 0x1A400).take 4)) :
    exec (.auditReplay g) s = .next ((y.dropTask h r.core r.task).onCluster g fun k => { k with audit := none }) := by
  rw [← write]
  simp only [exec_auditReplay, execAuditReplay, State.finishReplay, auditing, replay, read, fieldAt, agrees, decide_true, Bool.and_self, if_true]

theorem auditReplay_mismatched (differs : ¬ (n = 0 ∧ (replayTile bs).signature = leNat ((bs.drop 0x1A400).take 4))) :
    exec (.auditReplay g) s = .next ((y.dropTask h r.core r.task).auditMismatch g c) := by
  rw [← write]
  simp only [exec_auditReplay, execAuditReplay, State.finishReplay, auditing, replay, read, fieldAt, Bool.and_eq_true, decide_eq_true_eq, if_neg differs]

omit auditing replay in
/-- The state in which the replay has left its engine: no cluster has changed but for that. -/
theorem replayed_dropped : Writing s y ∧ ∀ i, (y.dropTask h r.core r.task).clusterAt i =
    if i = h then { s.clusterAt h with running := othersRunning z h r.task } else s.clusterAt i := by
  have reading : Reading s z := by
    have kept := (Reading.refl s).vaultRead (r.task.ctx r.core).who (s.auditSlot g) 0x20000
    rwa [read] at kept
  have written : Writing z y := by
    rw [← write]
    exact (Writing.refl z).vaultWrite ..
  have writing := (Writing.of_reading reading).trans written
  refine ⟨writing, fun i => ?_⟩
  rw [clusterAt_dropTask, writing.clusterAt, writing.clusterAt, othersRunning, written.clusterAt, othersRunning]

/-- A replay whose signature agrees frees the audit slot. -/
theorem auditReplay_agrees (agrees : n = 0 ∧ (replayTile bs).signature = leNat ((bs.drop 0x1A400).take 4)) : ∃ t, exec (.auditReplay g) s = .next t ∧
    (t.clusterAt g).audit = none ∧ t.audc = s.audc ∧ t.mem = y.mem ∧ (t.clusterAt h).running = othersRunning z h r.task := by
  obtain ⟨writing, dropped⟩ := replayed_dropped (h := h) read write
  refine ⟨_, auditReplay_matched auditing replay read write agrees, by rw [State.clusterAt_onCluster_self], writing.audc, rfl, ?_⟩
  rw [State.clusterAt_onCluster]
  split
  next e => rw [dropped, ← e, if_pos rfl]
  · rw [dropped, if_pos rfl]

/-- One that does not agree, or whose slot cannot be read, is a mismatch. -/
theorem auditReplay_disagrees (differs : ¬ (n = 0 ∧ (replayTile bs).signature = leNat ((bs.drop 0x1A400).take 4))) (mild : s.audc.getLsbD 6 = false) :
    ∃ t, exec (.auditReplay g) s = .next t ∧ (t.clusterAt g).audit = some (c, h) ∧ t.mem = y.mem ∧
      t.audc.toNat / 2 ^ 32 % 2 ^ 16 = min 0xFFFF (s.audc.toNat / 2 ^ 32 % 2 ^ 16 + 1) ∧ (t.clusterAt g).raised = some (wrap (s.auditSlot g)) ∧
      Logged y t ∧ (t.clusterAt h).running = othersRunning z h r.task := by
  obtain ⟨writing, dropped⟩ := replayed_dropped (h := h) read write
  have ends := auditReplay_mismatched auditing replay read write differs
  have audc : (y.dropTask h r.core r.task).audc = s.audc := writing.audc
  have place : (y.dropTask h r.core r.task).auditSlot g = s.auditSlot g := auditSlot_congr writing.audb g
  obtain ⟨t, eq, mem, count, logged, clusters⟩ := auditMismatch_raises (s := y.dropTask h r.core r.task) (by rw [audc]; exact mild) g c
  rw [eq] at ends
  refine ⟨t, ends, ?_, mem, ?_, ?_, logged, ?_⟩
  · rw [clusters, if_pos rfl, dropped]
    split
    next e => subst e; exact auditing
    · exact auditing
  · rw [count, mismatches_bump, audc]
  · rw [clusters, if_pos rfl, place]
  · rw [clusters]
    split
    next e => rw [dropped, ← e, if_pos rfl]
    · rw [dropped, if_pos rfl]

end

/-! ## The ends of the two kinds of task that take time (R139, R142, R213) -/

section
variable {s : State} {c : Nat} {r : Running} (runs : RunsTask s c r) (sound : r.task.bad = none) (alive : (s.coreAt c).killed = false)
  (begun : r.begun = true)
include runs sound alive begun

/-- A `tld` task ends refused, at the DRAM throttle, or after its beats. -/
theorem tldTask_ends (form : (recCmd r.task.rec_).form = some .tld) :
    (∀ q, r.tld = some q → q.stopped = true → ∃ y : State, y.mem = s.mem ∧ y.spm = s.spm ∧
      TaskEnded (exec (.tileTaskCompletion c) s) y (clusterOf c) c r.task (some (.tldtherm, r.task.opd (recCmd r.task.rec_).ra))) ∧
    (∀ q, r.tld = some q → q.stopped = false → s.now < q.from_ → exec (.tileTaskCompletion c) s = .next s) ∧
    (∀ y f, r.tld = none → s.tldRefused c r.task (recCmd r.task.rec_) = (y, some f) →
      TaskEnded (exec (.tileTaskCompletion c) s) y (clusterOf c) c r.task (some f)) ∧
    (∀ y e, s.stepTld r (recCmd r.task.rec_) = (y, some e) → TaskEnded (exec (.tileTaskCompletion c) s) y (clusterOf c) c r.task e) ∧
    (∀ y, s.stepTld r (recCmd r.task.rec_) = (y, none) → exec (.tileTaskCompletion c) s = .next y) := by
  have ends {y : State} {e : Option (Cause × Word)} (step : s.stepTld r (recCmd r.task.rec_) = (y, some e)) :=
    endTask_ended sound (completeTask_tld_ends runs alive begun form step)
  refine ⟨fun q run stopped => ⟨s.onCore r.core _, rfl, rfl, ends (stepTld_stopped run stopped)⟩, fun q run goes early => ?_, fun y f fresh refused => ?_,
    fun y e step => ends step, fun y step => completeTask_tld_goesOn runs alive begun form step⟩
  · exact completeTask_tld_goesOn runs alive begun form (stepTld_early run goes early)
  · exact ends (stepTld_refused fresh (by rw [runsTask_core runs]; exact refused))

/-- An MMA task ends once its cycles have run, with its product and with C written back. -/
theorem mmaTask_ends {zero fromTile : Bool} (form : (recCmd r.task.rec_).form = some (.mma zero fromTile)) :
    let e := (s.coreAt c).engine
    let g := clusterOf c
    let x := r.task
    (e.frozen = true ∨ e.queue = [] → exec (.tileTaskCompletion c) s = .next s) ∧
    ∀ o l, e.queue = o :: l → e.frozen = false → (s.now < o.started + o.cycles → exec (.tileTaskCompletion c) s = .next s) ∧
      (o.started + o.cycles ≤ s.now → s.auditDue g = false → ∀ y p, s.product c o true = (y, p, none) →
        (recOpd x.rec_ 2 % 2 ^ 48 = 0 →
          TaskEnded (exec (.tileTaskCompletion c) s) (y.onCluster g fun k => { k with finished := k.finished + 1 }) g c x none) ∧
        (recOpd x.rec_ 2 % 2 ^ 48 ≠ 0 → ∀ w, (y.chargeGranules c x.acct 4608).writeSpan (x.ctx c) (x.opd 2) (y.tileAt c o.td).image = (w, none) →
          TaskEnded (exec (.tileTaskCompletion c) s) (w.onCluster g fun k => { k with finished := k.finished + 1 }) g c x none)) ∧
      (o.started + o.cycles ≤ s.now → s.auditDue g = false → ∀ y p f, s.product c o true = (y, p, some f) →
        TaskEnded (exec (.tileTaskCompletion c) s) y g c x (some f)) := by
  refine ⟨fun idle => completeTask_mma_idle runs alive begun form (runningOp_idle idle), fun o l queue thawed => ?_⟩
  have runs := completeTask_mma_runs runs alive begun form (runningOp_of_head queue thawed)
  refine ⟨fun early => by rw [runs, if_pos early], fun due undue y p product => ⟨fun nowhere => ?_, fun somewhere w written => ?_⟩,
    fun due undue y p f product => ?_⟩
  all_goals
    rw [if_neg (Nat.not_lt.2 due)] at runs
    refine endTask_ended sound (runs.trans (congrArg Host.Outcome.next ?_))
  · exact finishMma_unwritten undue product ((opd_eq_zero ..).2 nowhere)
  · exact finishMma_written undue product (fun zero => somewhere ((opd_eq_zero ..).1 zero)) written
  · exact finishMma_failed product

end

/-! ## The obligation -/

/-- Settles O56: the item admitted is the first with room (`chosen_first`), a task begins as its form says (`issueTask_issues`) and ends in one way from
the state its form leaves (`endTask_ended`), and a replay ends in a match or a mismatch. -/
theorem clusterTasks : Obligations.ClusterTasks := by
  unfold Obligations.ClusterTasks
  refine ⟨fun g s => ⟨fun i chosen small => chosen_first chosen small, fun still alive => ⟨fun none => ?_, fun r chosen => ?_, fun x c chosen engine => ?_⟩,
      fun x l still queue doomed own sound unsignalled => ?_, fun n m x y st there arrived record here only taken => ?_⟩,
    fun c s => ⟨completeTask_nobody, fun r runs waits alive => ⟨fun behind => ?_, fun clear => ?_⟩, fun r runs sound => ?_⟩,
    fun g s => ⟨auditReplay_none, fun c h auditing none => auditReplay_waits auditing none, fun c h r auditing replay z n bs read => ?_⟩⟩
  · exact ⟨_, admission_none still alive none, rfl, s.clusterAt_onCluster_self g _, fun h e => s.clusterAt_onCluster_other e _⟩
  · exact admission_leave still alive chosen
  · obtain ⟨y, started, waits, begins⟩ := admission_task still alive chosen engine
    exact ⟨y, started.device, started.others, started.charge, started.queue, started.leaves, started.running, waits, begins⟩
  · exact admission_fails still queue doomed own sound unsignalled
  · exact admission_record there arrived record here only taken
  · rw [completeTask_begins runs alive waits, beginTask_behind behind]
  · exact ⟨_, completeTask_begins runs alive waits, beginTask_issues clear _⟩
  · exact ⟨fun killed => endTask_ended sound (completeTask_killed runs killed), fun alive begun f form plain beats y e performed =>
      endTask_ended sound (by rw [completeTask_form runs alive begun form plain beats, performed]), fun alive begun form => tldTask_ends runs sound alive begun form,
      fun alive begun z m form => mmaTask_ends runs sound alive begun form⟩
  · exact ⟨auditReplay_agrees auditing replay read rfl, fun differs mild => auditReplay_disagrees auditing replay read rfl differs mild⟩

end Sys2Proof.Machine
end
